-- ==== Sys2Proof/Word.lean ====
section
/-! DEFINITION. The word types of the block and their plainest arithmetic (no repair can change this file:
everything a test could show wrong stands in Machine/). -/

namespace Sys2Proof

/-- A 32-bit register word (R13: bit 0 is the least significant). -/
abbrev Word := BitVec 32
/-- A 64-bit meridian value or acceptance stamp (R86, R218). -/
abbrev Stamp := BitVec 64
/-- The 23-bit stamp of a queued occurrence (R141). -/
abbrev Stamp23 := BitVec 23
/-- A 20-bit payload (R102). -/
abbrev Payload := BitVec 20
/-- A rank, 0 most urgent (R159). -/
abbrev Rank := BitVec 8

/-- A table: sparse data by number, in one canonical form (numbers strictly rising, no entry equal to what an
unlisted number reads as). The operations stand in Machine/Tab.lean. -/
abbrev Tab (α : Type) := List (Nat × α)

end Sys2Proof
end

