-- ==== Sys2Proof/Syntax.lean ====
section
/-! DEFINITION. The commands of the block: one constructor of `Instr` for each row of spec/opcode_table.json, in the
table's order, and the types of their operands. What stands outside the device (a pin's level, the data of a bus
access, what host memory returns, a physical measurement, the outcome of a self-test) is an operand; everything
else a step needs it finds in State. -/

namespace Sys2Proof

/-- The two groups of a station (R159): normal and secure. -/
inductive Grp where | normal | secure
  deriving DecidableEq, Repr

/-- The three tournaments of a station (R165). -/
inductive Tour where | normal | secure | virt
  deriving DecidableEq, Repr

/-- The two mailboxes (R316). -/
inductive Box where | normal | secure
  deriving DecidableEq, Repr

/-- The width of an access (R282). -/
inductive Size where | b8 | b16 | b32 | b64
  deriving DecidableEq, Repr

/-- What the fabric delivers with an access at the register target port (R26, R289, R391): its width, security attribute,
requester tag and requester ID; for a write at a doorbell offset also that every byte enable is set, and the poison mark (R103, R107). -/
structure Acc where
  size : Size := .b32
  sec  : Bool := false
  tag  : BitVec 16 := 0
  rid  : BitVec 16 := 0
  whole    : Bool := true
  poisoned : Bool := false
  deriving DecidableEq, Repr

/-- One posted write as a doorbell port receives it (R102, R103). `whole` says that it is one write of 32 bits, aligned
to 4 bytes, with all four byte enables set. -/
structure DbWrite where
  port     : Nat
  offset   : Nat
  data     : Word
  whole    : Bool := true
  poisoned : Bool := false
  rid      : BitVec 16 := 0
  sec      : Bool := false
  deriving DecidableEq, Repr

/-- A switchable power domain (R411). -/
inductive Dom where
  | hubl | hubm
  | outL (k : Nat) | outM (k : Nat) | trav (k : Nat)
  deriving DecidableEq, Repr

/-- The page a software event was sent from (R213, R377). -/
inductive Page where
  | stn (station : Nat) (g : Grp)
  | vst (ctx : Nat)
  deriving DecidableEq, Repr

/-- Where a re-offer points (R170). -/
inductive Dest where
  | station (s : Nat) | spread (n : Nat) | context (v : Nat) | gang (g : Nat)
  deriving DecidableEq, Repr

/-- A place that the age scan of R167 visits: a seat of a tournament, or a recorded candidate (R368). -/
inductive SeatPlace where
  | station (s : Nat) (t : Tour)
  | context (v : Nat)
  deriving DecidableEq, Repr

/-- A wake source with its detail (R433). -/
inductive WakeSrc where
  | watch (slot : Nat) | i3c | chord (k : Nat) | doorbell (port : Nat) | regPort | swdt | alarm (a : Nat)
  deriving DecidableEq, Repr

/-- What a power-up finds: the physical cells that fail the march, token pass or arbiter exercise of self-test, rod measurements in ps by
physical cell (R63), and at a power-up of HUBL the levels of STRAP_PRESENT where they have changed (R497). -/
structure Bist where
  fails   : List Nat := []
  rods    : List (Nat × BitVec 16) := []
  present : Option (BitVec 12) := none
  deriving DecidableEq, Repr

/-- The strap pins (R497). -/
structure Straps where
  present : BitVec 12 := 0
  i3cAddr : BitVec 3 := 0
  mfr     : BitVec 15 := 0
  vid     : BitVec 16 := 0
  deriving DecidableEq, Repr

/-- One plat image (R67, R68): the header's fields and the slot records, each a cell number and the 64 words of
the slot's plat region. -/
structure PlatImage where
  magic     : Word
  format    : BitVec 16
  helnakVer : BitVec 16
  platId    : Word
  unitMask  : BitVec 16
  decode    : BitVec 8
  count     : Word
  datumRef  : Word
  imageCrc  : Word
  records   : List (Nat × List Word)
  deriving DecidableEq, Repr

/-- One Wairo image as FW_STAGE finds it in host memory (R442): the header's fields, its bytes 0x14–0x3F and 0xA0–0xFF (a byte not given
is zero), and the body's bytes. -/
structure FwImage where
  magic      : Word
  format     : BitVec 16
  version    : BitVec 16
  secVersion : Word
  length     : Word
  entry      : Word
  sigR       : BitVec 384
  sigS       : BitVec 384
  body       : List (BitVec 8)
  rest       : List (BitVec 8) := []
  pad        : List (BitVec 8) := []
  deriving DecidableEq, Repr

/-- One entry of a host command list as the hub reads it (R338); `none` in a list of entries is a read that failed
(R339). The inline block, where the entry has one, is a plat image. `zeroOk` says that every byte that R338 gives as zero is zero.
The last five fields are what the rows of the same commands take from outside: the image in host memory, measured
coefficients, the user map, the outcome of memory writes and the cells that answer no fence marker. -/
structure ListEntry where
  opcode    : BitVec 16
  args      : List Word
  inlineLen : Nat := 0
  plat      : Option PlatImage := none
  zeroOk    : Bool := true
  image     : Option FwImage := none
  measured  : List (BitVec 16) := []
  userMap   : List Nat := []
  memOk     : Bool := true
  silent    : List Nat := []
  deriving DecidableEq, Repr

/-- One island sample of every sensor and monitor (R322): junction temperatures in 1/16 °C for sensors 0–19
(`none`: the sensor's unit is off) and voltages in mV. -/
structure Samples where
  temps : List (Option (BitVec 16))
  hubl  : BitVec 10
  hubm  : BitVec 10
  vaon  : BitVec 10
  auxin : Nat
  outs  : List (BitVec 10 × BitVec 10 × BitVec 10)
  deriving DecidableEq, Repr

/-- What an IEEE 1149.1 operation at the debug gate asks for (R406 to R408): among them access to Ronuo's memory and to its registers, and at
package test the verifying key for debug (`true`) or firmware. -/
inductive GateOp where
  | idcode
  | bypass
  | halt
  | resume
  | step
  | ronuo (addr : Word) (write : Option Word)
  | ronuoReg (n : Nat) (write : Option Word)
  | provKey (debug : Bool) (key : BitVec 768)
  | cellTest (cell word : Nat) (data : Word)
  | secureView (offset : Nat)
  deriving DecidableEq, Repr

/-- A common command code of the I3C bus, with the data the controller sends (R457). -/
inductive Ccc where
  | enec (b : BitVec 8) | disec (b : BitVec 8) | rstdaa | setaasa | setdasa (addr : BitVec 7)
  | setmwl (n : BitVec 16) | setmrl (n : BitVec 16)
  | getmwl | getmrl | getpid | getbcr | getdcr | getstatus
  | other (code : BitVec 8)
  deriving DecidableEq, Repr

/-- What a request on the sideband carries over MCTP beside its code (R459): the vendor identifier field and the arguments of a vendor request,
or the data of an MCTP control message. -/
inductive MctpReq where
  | vendor (vid : BitVec 16) (args : List Word)
  | control (data : List (BitVec 8))
  deriving DecidableEq, Repr

/-- A flit of one direction of a link (R30, R32): its place in its message, and which of the messages that are to cross there it belongs to,
the oldest first; `none` for a flit of a forwarded register access. -/
structure LinkFlit where
  up   : Bool
  flit : Nat
  msg  : Option Nat := some 0
  deriving DecidableEq, Repr

/-- The commands of the block, one for each row of spec/opcode_table.json in its order. -/
inductive Instr where
  | wiredInputChange (evid : Nat) (level : Bool) (heldTicks : Nat)
  | doorbellWrite (d : DbWrite)
  | ledgerTake (evid : Nat)
  | fieldBookRelease (evid : Nat)
  | candidateArrival (station evid : Nat)
  | spreadCandidateArrival (set evid : Nat)
  | contextCandidateArrival (ctx evid : Nat)
  | gangFanOut (gang evid : Nat)
  | releaseTargetReached (station evid : Nat)
  | stnClaim (station : Nat) (g : Grp) (a : Acc)
  | stnComplete (station : Nat) (g : Grp) (data : Word) (a : Acc)
  | stnRunningRank (station : Nat) (g : Grp) (data : Word) (a : Acc)
  | stnMaskRank (station : Nat) (g : Grp) (data : Word) (a : Acc)
  | stnPreBits (station : Nat) (g : Grp) (data : Word) (a : Acc)
  | stnSend (station : Nat) (g : Grp) (data : Word) (a : Acc)
  | stnSendGang (station : Nat) (g : Grp) (data : Word) (a : Acc)
  | stnSendStatus (station : Nat) (g : Grp) (a : Acc)
  | sendRejectionNotice (p : Page)
  | vctxEnter (station : Nat) (low : BitVec 31) (a : Acc)
  | vctxLeave (station : Nat) (low : BitVec 31) (a : Acc)
  | vstClaim (ctx : Nat) (a : Acc)
  | vstComplete (ctx : Nat) (data : Word) (a : Acc)
  | vstRunningRank (ctx : Nat) (data : Word) (a : Acc)
  | vstMaskRank (ctx : Nat) (data : Word) (a : Acc)
  | vstPreBits (ctx : Nat) (data : Word) (a : Acc)
  | vstSend (ctx : Nat) (data : Word) (a : Acc)
  | vstSendGang (ctx : Nat) (data : Word) (a : Acc)
  | vstSendStatus (ctx : Nat) (a : Acc)
  | vstCtxCapture (ctx : Nat) (a : Acc)
  | claimReport (evid : Nat)
  | completionMessage (evid : Nat)
  | gangMemberCompletion (evid station : Nat)
  | loadReport (station : Nat) (g : Grp)
  | lease (station : Nat)
  | leaseRevocation (station : Nat)
  | reservationSplit
  | reservationWindowStart
  | reOffer (d : Dest)
  | holderCheck (evid : Nat)
  | holderCheckAnswer (evid : Nat)
  | bookedCountReport (evid : Nat)
  | ageScanVisit (evid : Nat)
  | seatAgeVisit (p : SeatPlace) (evid : Nat)
  | replayRequest (k : Nat) (f : LinkFlit)
  | flitAckTimeout (k : Nat) (up : Bool)
  | retrainDone (k : Nat) (failedWire : Option Bool)
  | retrainAttemptTimeout (k : Nat)
  | returnToService (k : Nat) (bist : Bist) (trained : Bool)
  | alignSlot
  | align (k : Nat) (t2 t3 : BitVec 32)
  | echo (k : Nat) (t4 : BitVec 32)
  | init (k : Nat)
  | merCapture (a : Acc)
  | merSlew (a : Acc)
  | merStep (a : Acc)
  | merCancel (a : Acc)
  | merAlarmArm (alarm : Nat) (keepWake : Bool) (a : Acc)
  | merAlarmFire (alarm : Nat)
  | pllHoldover (unit : Nat)
  | pllRelock (unit : Nat)
  | degradedClear
  | trainArmPoint (train : Nat)
  | rodMeasurement (cell : Nat) (ps : BitVec 16)
  | speedReqRelease
  | voltageMonitorCrossing (d : Dom) (below : Bool)
  | sensorSample (x : Samples)
  | datumLocalRecompute (cell : Nat)
  | datumSweep
  | cellEnable (cell : Nat) (a : Acc)
  | cellDisable (cell : Nat) (a : Acc)
  | cellDrainDone (cell : Nat)
  | hubEnable (a : Acc)
  | hubDisable (a : Acc)
  | hubDbRejArm (a : Acc)
  | hubAccCapArm (a : Acc)
  | cellCtrCapture (cell : Nat) (a : Acc)
  | wrGo (cell : Nat) (data : Word) (a : Acc)
  | ovfClr (cell : Nat) (data : Word) (a : Acc)
  | swdtService (data : Word) (a : Acc)
  | rcRegisterRead (offset : Nat) (a : Acc)
  | registerWrite (offset : Nat) (data : BitVec 64) (a : Acc)
  | tuningRewrite (offset : Nat)
  | getInfo (b : Box)
  | statusPeek (b : Box)
  | platLoad (b : Box)
  | datumCommit (b : Box)
  | enable (b : Box)
  | disable (b : Box)
  | queueBind (b : Box)
  | queueUnbind (b : Box)
  | queueSet (b : Box)
  | routeSetQueue (b : Box)
  | routeSetDieFallback (b : Box)
  | routeSetReservation (b : Box)
  | spreadDefine (b : Box)
  | gangDefine (b : Box)
  | gangUndefine (b : Box)
  | gangReleaseAt (b : Box)
  | parcelCreate (b : Box)
  | parcelDestroy (b : Box)
  | parcelReset (b : Box)
  | parcelResize (b : Box)
  | vctxBind (b : Box)
  | vctxUnbind (b : Box)
  | stakeTake (b : Box)
  | stakeRelease (b : Box)
  | wakeConfig (b : Box)
  | benchmarkRead (b : Box)
  | benchmarkWrite (b : Box)
  | benchmarkCapture (b : Box) (measured : List (BitVec 16))
  | logRead (b : Box)
  | fwStage (b : Box) (image : Option FwImage)
  | fwCommit (b : Box)
  | fwActivate (b : Box)
  | activationStartTimeout
  | counterSweep (b : Box) (userMap : List Nat) (memOk : Bool)
  | counterSweepStop (b : Box)
  | debugUnlock (b : Box)
  | commandList (b : Box) (entries : List (Option ListEntry))
  | mailboxOfflineEnd
  | poolAuditDone
  | easementStatusWrite (parcel : Nat) (memOk : Bool)
  | fenceAckTimeout (b : Box) (cells : List Nat)
  | counterSweepDue (busy : Bool) (lateNs : Nat) (userMap : List Nat) (memOk : Bool)
  | pkgRstAssert (lowNs : Nat := 1000)
  | pkgRstDeassert (bist : Bist)
  | auxinApplied (straps : Straps)
  | auxinLost
  | auxinSurgeLimit (mv : Nat)
  | pdGood (unit : Nat) (bist : Bist)
  | powerStepTimeout (unit : Nat)
  | quiesceGrant (unit : Nat)
  | quiesceRetry (unit : Nat)
  | saveBookWritten (body : List (BitVec 8)) (memOk : Bool)
  | isoReq (k : Nat) (level : Bool)
  | wakeSource (w : WakeSrc)
  | wakeChord (k : Nat) (up : Bool)
  | wakeComplete (book : Option (List (BitVec 8)))
  | napWakeChordTimer (k : Nat)
  | coldStakeRelease
  | wakeStakeRelease
  | rcOscTimeout
  | securePowerCut (d : Dom) (reference : Bool)
  | hubSecurePowerCut (d : Dom) (reference : Bool)
  | swdtFirstExpiry
  | swdtSecondExpiry
  | chipResetReqRepeat
  | mgmtWatchdogExpiry (pc : Word)
  | logAggregateFlush (code key : Nat)
  | sidebandReport
  | i3cCcc (c : Ccc)
  | mctpVendorRequest (code : BitVec 16) (m : MctpReq)
  | recoveryWrite (args : List Word)
  | withdrawalArrival (evid : Nat)
  | withdrawnCandidateReturn (evid : Nat)
  | claimDataArrival (evid : Nat)
  | debugGateAccess (op : GateOp)
  | rcOscRetry (ready : Bool)
  | ronuoBoot
  | cutWithoutHandshake (k : Nat)
  | quiesceRefused (cell : Nat)
  | pdGoodStillAsserted (d : Dom)
  deriving DecidableEq, Repr

end Sys2Proof
end

