-- ==== Sys2Proof/Decode.lean ====
section
/-! DEFINITION. The commands of the block come from its ports, pins and links and have no encoding: no row of spec/opcode_table.json gives
bits (log entry 5). -/

namespace Sys2Proof

/-- The command that a word spells by the bits of the table: none, since no row has any. -/
def decodeTableWord (_nbits _w : Nat) : Option Instr := none

end Sys2Proof
end

