-- ==== Sys2Proof/Config.lean ====
section
/-! DEFINITION. What the spec leaves open and no rule fixes: opaque constants, which nothing in Lean can evaluate
(log entry 6). -/

namespace Sys2Proof.Config

open Sys2Proof

/-- The free pool slot that a take starts from, by the count of free values taken so far (R142 names no order of the
free list). -/
opaque freeSlot : Nat → Nat

/-- The seed delay in ns that INIT adds, by link and benchmark deskew words (R222 gives no formula). -/
opaque seedDelay : Nat → List Word → Nat

/-- a_k of R220 in 1/128 ns, by link and benchmark deskew words (R220 gives no layout of the seeds). -/
opaque wireSkew : Nat → List Word → Int

/-- MER_ALIGN_k.RESID_PS where θ, in 1/128 ns, is no whole number of ps or leaves the field's range (R224 states neither a rounding
nor a limit). -/
opaque residPs : Int → BitVec 16

/-- MER_ALIGN_k.DELAY_NS where the delay, in 1/128 ns, is no whole number of ns or leaves the field's range (R224). -/
opaque delayNs : Int → BitVec 8

/-- What RELEASE_PM stores for a value at or above an ASSERT_PM below 50, where ASSERT_PM − 50 is negative (R278). -/
opaque releaseLow : BitVec 10 → BitVec 10

/-- What a Ronuo SRAM word, or at 2³² + n its register n, reads through the debug gate where nothing has written it since Ronuo last ran: by
the count of free values taken when it ran, and place (R408, R438). -/
opaque ronuoWord : Nat → Nat → Word

/-- The free parcel number that PARCEL_CREATE with ANY starts from, by the count of free values taken so far (R353 says any free
one). -/
opaque freeParcel : Nat → Nat

/-- The codes that a log entry can carry, 0x01–0x15 and 0x80–0x8E (R456), by position. -/
def logCode (i : Fin 36) : Nat := if i.val < 21 then i.val + 1 else i.val + 107

/-- Code (its position among those of R456) and arguments of the log entry for a memory master error on an easement write, by parcel (R381 says
that it is logged, and R456 gives the happening no code). -/
opaque easementError : Nat → Fin 36 × Word × Word × Word

/-- What a reserved word with live test controls reads where nothing has written it (R299 states no reset value of a
test control outside the field tables). -/
opaque liveReserved : Nat → Word

/-- Which reserved bits of a register of a link or of a meridian unit are test controls, by offset (R299 says that some are, and not
which). -/
opaque testBits : Nat → Word

/-- The GRADE that a claim of the hypervisor doorbell entry shows (R206 states its payload, mode and stamp and no grade), by
the count of free values taken so far. -/
opaque doorbellGrade : Nat → Bool

/-- Words of the log that have no stated value: RESP0 of a LOG_READ that returns no entry (0), RESP2 while the log is empty (1), the
entry number of the extra entry that a report of dropped entries carries (2), ARG2 of the boot entry after a RECOVERY_WRITE (3), and VERSION and
SEC_VERSION in the entry of a FW_STAGE that read no image (4, 5). -/
opaque logOpen : Nat → Word

/-- The answer of GETSTATUS on the sideband (R457 names the code and no answer). -/
opaque i3cStatus : List (BitVec 8)

/-- A byte of a firmware slot that nothing the model shows has written, by slot and offset (R37, R486). -/
opaque slotByte : Bool → Nat → BitVec 8

/-- ARG1 of log code 0x88 (R456 names a cause and lists no codes): 0 memory master error, 1 body too large, 2 book lost. -/
opaque bookCause : Nat → Word

/-- The log entry for a memory master error on the field book's ring, by the records lost (R152 says that it is logged, and R456 lists no
code for it). -/
opaque ringError : Nat → Fin 36 × Word × Word × Word

/-- The log entry of R419 (R456 lists no code for it), by domain. -/
opaque lateGood : Dom → Fin 36 × Word × Word × Word

/-- The EVID field of a field-book record that the writing of the save book finds in error can still be read (R157). -/
opaque recordRead : Nat → Bool

/-- A PKG_RST_N pulse of 200 ns to 1 µs is taken (R497 says that it may or may not be), by the count of free values taken so far. -/
opaque pulseTaken : Nat → Bool

/-- The firmware verifying key that the package test wrote (R440 gives no value). -/
opaque fwKey : BitVec 768

/-- The debug verifying key that the package test wrote, or none (R407). -/
opaque dbgKey : Option (BitVec 768)

/-- The code that ARG0 of log code 0x89 gives for the device ID check of a DEBUG_UNLOCK, by its result (R409, R456 list none). -/
opaque idResult : Bool → Word

/-- What a trim word of the benchmark set makes of the reading of a sensor or monitor (R448, R450 give no layout of a trim): by the word's
index in the set, the word and the reading. -/
opaque trimmed : Nat → Word → Nat → Nat

/-- The answer to an MCTP control message, by its command code and data (R459 names DSP0233 and no answer). -/
opaque mctpControl : BitVec 16 → List (BitVec 8) → List (BitVec 8)

end Sys2Proof.Config
end

