-- ==== Sys2Proof/Machine/Crc.lean ====
section
/-! DEFINITION. CRC-32C (R73) and the byte order of the device (R13). -/

namespace Sys2Proof.Machine

open Sys2Proof

/-- One bit step of the reflected CRC-32C (polynomial 0x1EDC_6F41, reflected 0x82F6_3B78). -/
def crcBit (c : Word) : Word := if c.getLsbD 0 then (c >>> 1) ^^^ 0x82F63B78 else c >>> 1

/-- One byte of the CRC-32C. -/
def crcByte (c : Word) (b : BitVec 8) : Word :=
  crcBit (crcBit (crcBit (crcBit (crcBit (crcBit (crcBit (crcBit (c ^^^ b.zeroExtend 32))))))))

/-- CRC-32C of a byte stream (R73): initial value and final XOR 0xFFFF_FFFF. -/
def crc32c (bs : List (BitVec 8)) : Word := (bs.foldl crcByte 0xFFFFFFFF) ^^^ 0xFFFFFFFF

/-- The bytes of a word, little-endian (R13). -/
def wordBytes (w : Word) : List (BitVec 8) :=
  [w.extractLsb' 0 8, w.extractLsb' 8 8, w.extractLsb' 16 8, w.extractLsb' 24 8]

/-- The bytes of a 16-bit value, little-endian. -/
def halfBytes (w : BitVec 16) : List (BitVec 8) := [w.extractLsb' 0 8, w.extractLsb' 8 8]

/-- The low word of a 64-bit value. -/
def lo32 (x : BitVec 64) : Word := x.extractLsb' 0 32

/-- The high word of a 64-bit value. -/
def hi32 (x : BitVec 64) : Word := x.extractLsb' 32 32

/-- A 64-bit value from its words. -/
def mk64 (hi lo : Word) : BitVec 64 := hi ++ lo

/-- Bits [lo + n − 1 : lo] of a word as a number. -/
def bits (w : Word) (lo n : Nat) : Nat := (w.toNat >>> lo) % 2 ^ n

/-- A number placed at bit `lo` of a word. -/
def at_ (lo : Nat) (n : Nat) : Word := BitVec.ofNat 32 (n <<< lo)

/-- A flag placed at bit `lo` of a word. -/
def flag (lo : Nat) (b : Bool) : Word := if b then at_ lo 1 else 0

end Sys2Proof.Machine
end

