-- ==== Sys2Proof/Machine/State.lean ====
section
/-! DEFINITION. The state of the block as plain data: every piece of state the spec names, each at its reset value.
A field's closing comment gives its width, the rule that names it, and where the spec gives no reset value the log
entry that names the chosen one. Tables (`Tab`) list only the numbers that differ from the default entry. -/

namespace Sys2Proof.Machine

open Sys2Proof

/-! ## Stops -/

/-- The faults that end a run. -/
inductive Fault where
  /-- Raised by `execAuxinSurgeLimit` and by no other command: AUXIN above 60 V, where R488 says that no behaviour is
  stated. Safe: the model stops where the spec says nothing. -/
  | absoluteMaximum
  deriving DecidableEq, Repr

/-- The refusals that end a run. -/
inductive Refusal where
  /-- Raised by an arm of exec whose command has no meaning yet. Safe. -/
  | notModelled (mnemonic : String)
  deriving DecidableEq, Repr

/-! ## Small types -/

/-- Input mode (R90). -/
inductive InMode where | off | levelHigh | levelLow | rise | fall | both | tally
  deriving DecidableEq, Repr

/-- Queue mode (R127). -/
inductive QMode where | level | count | payload | latest
  deriving DecidableEq, Repr

/-- Queue state (R136). -/
inductive QState where | idle | pending | presented | active | activePresented
  deriving DecidableEq, Repr

/-- A route (R127 ROUTE_KIND and ROUTE_INDEX). -/
inductive Route where
  | station (s : Nat) | context (v : Nat) | gang (g : Nat) | spread (n : Nat)
  deriving DecidableEq, Repr

/-- Who holds an active entry of a queue (R139). -/
inductive Holder where
  | station (s : Nat) (g : Grp) | context (v : Nat) | gang (g : Nat)
  deriving DecidableEq, Repr

/-- Alignment state of an outpost's meridian copy (R222); ABSENT is `populated = 0`. -/
inductive Align where | absent | training | aligned | unaligned
  deriving DecidableEq, Repr

/-- State of a traverse link (R312). -/
inductive LinkSt where | reset | training | up | error | lost
  deriving DecidableEq, Repr

/-- Domain state (R322). -/
inductive DomSt where | off | ramping | on | retained | failed
  deriving DecidableEq, Repr

/-- Device state (R416); the last two are the wakes in progress (R425, R430). -/
inductive Mode where | run | keep | sleep | off | wakeKeep | wakeSleep
  deriving DecidableEq, Repr

/-- Parcel state (R361). -/
inductive ParSt where | free | live | fenced
  deriving DecidableEq, Repr

/-- Firmware state (R312). -/
inductive FwSt where | running | restarting | activating | halted
  deriving DecidableEq, Repr

/-- State of a firmware slot (R440). -/
inductive SlotSt where | empty | staged | committed | startFailed
  deriving DecidableEq, Repr

/-- Where an event token comes from: what R116, R213, R216 and R113 ask about it. -/
inductive Source where
  | wired
  | doorbell (port : Nat) (addressed : Bool) (data : Word)
  | send (p : Page)
  | alarm (a : Nat)
  | notify
  | train
  | gangDone
  | device
  deriving DecidableEq, Repr

/-- Which lock checks of R111 a token meets. -/
inductive Lock where
  | none                    -- wired, alarm, gang-done, internal
  | secureOnly              -- mailbox notify, release train (R319, R243)
  | full                    -- doorbell, SEND (R111, R213)
  | virt                    -- VST send: a queue without a lock refuses it too (R377)
  deriving DecidableEq, Repr

/-- What a wired token says (R91): an occurrence, an assertion or a deassertion. -/
inductive Edge where | occurrence | assert | deassert
  deriving DecidableEq, Repr

/-- An event token on its way to its owning ledger (R119). -/
structure Token where
  evid    : Nat
  payload : Payload := 0
  stamp   : Stamp := 0
  pre     : Nat := 0        -- intake part of the grade (R119, R277): 0 grants go on, else the cause
  edge    : Edge := .occurrence
  src     : Source := .device
  lock    : Lock := .none
  rid     : BitVec 16 := 0
  sec     : Bool := false
  cell    : Nat := 0        -- the cell that stamped it (R263)
  gang    : Option Nat := none -- a SEND_GANG whose send EVID its gang/timing cell has still to resolve (R214)
  serial  : Nat := 0        -- the model's own name of a send, by which the reads of STN_SEND_STATUS know it (R216)
  deriving DecidableEq, Repr

/-- A candidate (R159), with what its event message carries (R30). -/
structure Cand where
  evid   : Nat
  rank   : Rank := 0
  secure : Bool := false
  grade  : Bool := false
  stamp  : Stamp23 := 0
  aged   : Bool := false
  mode   : QMode := .count
  gather : Option Nat := none       -- a member candidate: its gather record (R179)
  payload : Payload := 0
  target : Option Stamp := none     -- an armed member: its release target (R239)
  rep    : Bool := false            -- made the candidate while STAMP_SET = 0 (R135)
  deriving DecidableEq, Repr

/-- A message inside the device (R30), from its sending to its serving. -/
inductive Msg where
  | event (t : Token)
  | candStation (s : Nat) (t : Tour) (c : Cand)
  | candSpread (n : Nat) (c : Cand)
  | candContext (v : Nat) (c : Cand)
  | candGang (g : Nat) (c : Cand)
  | claimed (evid : Nat) (h : Holder) (want : Bool) (stamp : Stamp23) (ovf lost : Bool)
  | completed (evid : Nat) (h : Holder)
  | memberDone (gather evid : Nat) (stations : List Nat) (lateRisk : Bool)
  | withdrawal (evid : Nat) (r : Route)
  | returned (c : Cand) (parked : Bool) (station : Nat)
  | loadReport (s : Nat) (g : Grp) (n : Nat) (cells : List Nat)
  | lease (s : Nat) (units : Nat) (window : Stamp)
  | leaseRevoke (s : Nat)
  | reOffer (d : Dest) (unit : Nat) (left : Option (List Nat))
  | holderAsk (evid : Nat)
  | holderAnswer (evid : Nat) (holdsCand holdsEntry : Bool)
  | bookedReport (evid cause : Nat)
  | claimData (evid : Nat) (p : Page) (payload : Payload) (stamp : Stamp23) (aged ovf rep lost grade : Bool)
  | sendReject (p : Page) (reason : BitVec 4)
  | doorbell (v s : Nat) (c : Cand)
  | dbReport (v : Nat) (done : Bool)
  | align (k : Nat) (t1 : BitVec 32) (corr : Int)
  | echo (k : Nat) (t2 t3 : BitVec 32)
  | init (k : Nat) (value : Stamp)
  deriving DecidableEq, Repr

/-- A message with the traverse links it crosses and its marks (R31, R262). -/
structure Packet where
  msg    : Msg
  cell   : Option Nat := none       -- the cell that sends it over its ports (R35, R54)
  up     : Option Nat := none       -- crosses this link upward
  down   : Option Nat := none       -- crosses this link downward
  upDone : Bool := false            -- it has crossed its upward link and waits at its cell (R32, R35)
  downDone : Bool := false          -- it has crossed its downward link and waits at its cell (R32, R35)
  replay : Bool := false            -- replay mark (R262)
  failed : Option Nat := none       -- the flit of it that failed its CRC last and was resent (R33)
  long   : Bool := false            -- long form (R31)
  deriving DecidableEq, Repr

/-! ## Stations and contexts -/

/-- One seat of a tournament, or one recorded candidate (R165, R368). -/
structure Seat where
  cand : Cand
  deriving DecidableEq, Repr

/-- One entry of an active stack (R198). -/
structure Entry where
  evid    : Nat
  kind    : Bool := false           -- 1: hypervisor doorbell
  rank    : Rank := 0
  running : Rank := 0
  mode    : QMode := .count
  gather  : Option Nat := none      -- gang flag with its gather record
  orphan  : Bool := false           -- R132
  ctx     : Nat := 0                -- announced context of a doorbell entry
  deriving DecidableEq, Repr

/-- The claim window (R196, R204). -/
structure Win where
  valid   : Bool := false           -- 1 | R196 | WVALID
  seq     : BitVec 8 := 0           -- 8 | R196 | SEQ of the claim that filled the window
  grade   : Bool := false           -- 1 | R196 | GRADE
  ovf     : Bool := false           -- 1 | R196 | OVF
  rep     : Bool := false           -- 1 | R196 | STAMP_REPEAT
  aged    : Bool := false           -- 1 | R196 | STAMP_AGED
  lost    : Bool := false           -- 1 | R196 | PAYLOAD_LOST
  gang    : Bool := false           -- 1 | R196 | GANG
  mode    : BitVec 2 := 0           -- 2 | R196 | MODE
  rank    : Rank := 0               -- 8 | R196 | RANK
  payload : Payload := 0            -- 20 | R196 | STN_WIN_PAYLOAD
  stamp   : Stamp := 0              -- 64 | R196 | STN_WIN_STAMP_LO and STN_WIN_STAMP_HI
  evid    : Nat := 0                -- 20 | R196 | STN_WIN_EVID.EVID
  kind    : Bool := false           -- 1 | R196 | STN_WIN_EVID.KIND
  await   : Bool := false           -- 1 | R203, R204 | the latest CLAIM is a held one, whose data the window waits for
  deriving DecidableEq, Repr

/-- One group of a station, or the virtual group of a context: its tournament, stack, window and page registers. -/
structure Group where
  seats    : List Seat := []        -- 64, 16 or 32 seats | R165 | seats of the tournament
  park     : Bool := false          -- 1 | R169 | park flag (STN_STATUS.PARKED)
  stack    : List Entry := []       -- 32, 8 or 16 entries | R198 | active stack, top first; running values inside
  seq      : BitVec 8 := 0          -- 8 | R196 | STN_CLAIM.SEQ
  win      : Win := {}              -- window | R196 | STN_WIN_STATE to STN_WIN_EVID
  maskRank : Rank := 0              -- 8 | R196 | STN_MASK_RANK.RANK
  maskOpen : Bool := false          -- 1 | R196 | STN_MASK_RANK.OPEN
  preBits  : BitVec 4 := 8          -- 4 | R196 | STN_PRE_BITS.BITS
  sendData : Payload := 0           -- 20 | R196 | STN_SEND_DATA.PAYLOAD
  reason   : BitVec 4 := 0          -- 4 | R196 | STN_SEND_STATUS.LAST_REASON
  rejected : Bool := false          -- 1 | R196 | STN_SEND_STATUS.REJECTED
  booked   : Word := 0              -- 32 | R196 | STN_BOOKED_CNT
  denied   : Word := 0              -- 32 | R196 | STN_S_DENIED (secure page)
  deriving DecidableEq, Repr

/-- An armed release seat (R240). -/
structure Armed where
  tour   : Tour
  cand   : Cand
  target : Stamp
  deriving DecidableEq, Repr

/-- A write to a station page held while the delivery cell is disabled or draining (R211), or an access at the register
target port held while the hub logic is off (R424). -/
structure HeldAcc where
  offset : Nat
  write  : Bool
  data   : BitVec 64
  acc    : Acc
  deriving DecidableEq, Repr

/-- A station (R190). -/
structure Station where
  norm     : Group := {}            -- group | R195 | the normal page and its tournament
  sec      : Group := {}            -- group | R195 | the secure page and its tournament
  virtPark : Bool := false          -- 1 | R170 | park flag of the virtual tournament
  resident : Option Nat := none     -- 14+1 | R197 | STN_VCTX_CUR
  armed    : List Armed := []       -- 4 seats | R240 | release seats
  heldW    : List HeldAcc := []     -- list | R211 | writes held while the delivery cell is off, those of both its stations at the lower one
  wasOn    : Bool := false          -- 1 | R190 | the delivery cell has been enabled since the domain's power-up
  deriving DecidableEq, Repr

/-- The live header words of a vCPU and its stack as the record holds them (R368). -/
structure VRec where
  maskRank : Rank := 0              -- 8 | R368 | MASK_RANK
  maskOpen : Bool := false          -- 1 | R368 | MASK_OPEN
  preBits  : BitVec 4 := 8          -- 4 | R368 | PRE_BITS
  seq      : BitVec 8 := 0          -- 8 | R368 | SEQ
  stack    : List Entry := []       -- 16 entries | R368 | stack section, top first; DEPTH is its length
  sendData : Payload := 0           -- 20 | R368 | SEND_DATA
  booked   : Word := 0              -- 32 | R368 | BOOKED_CNT
  reason   : BitVec 4 := 0          -- 4 | R368 | SEND_STATUS [3:0]
  rejected : Bool := false          -- 1 | R368 | SEND_STATUS [4]
  deriving DecidableEq, Repr

/-- A vCPU context (R366 to R370) and its virtual station page (R326, R327). -/
structure Ctx where
  bound     : Bool := false         -- 1 | R368 | BOUND
  station   : Option Nat := none    -- 10 | R368 | RESIDENT and STATION
  home      : Nat := 0              -- 10 | R368 | HOME
  parcel    : Nat := 0              -- 10 | R368 | PARCEL
  dbRank    : Rank := 0             -- 8 | R368 | DB_RANK
  saved     : VRec := {}            -- record | R368 | live words and stack as the record shows them
  g         : Group := {}           -- group | R327 | the live virtual group and page registers
  cands     : List Seat := []       -- 16 entries | R368 | recorded candidates; CANDS is its length
  spill     : Bool := false         -- 1 | R368 | SPILL
  announced : Bool := false         -- 1 | R368 | ANNOUNCED
  counted   : Bool := false         -- 1 | R369 | counts in STN_HV_DB.PENDING of the home station
  dbAt      : Option Nat := none    -- 10+1 | R187, R189 | station to which its doorbell event goes: its home's, or its fallback's
  dbIn      : Bool := false         -- 1 | R257 | its doorbell event has reached that station
  poisoned  : Bool := false         -- 1 | R479 | uncorrectable error in the record (kind 5)
  voided    : List Nat := []        -- list | R385 | EVIDs of the stack entries that a fence emptied, whose COMPLETE is ignored
  ctxSel    : BitVec 3 := 0         -- 3 | R327 | VST_CTX_SEL.SECTION
  capSeq    : BitVec 8 := 0         -- 8 | R327 | VST_CTX_CAPTURE.SEQ
  changed   : Bool := false         -- 1 | R327 | VST_CTX_CAPTURE.CHANGED
  winValid  : Bool := false         -- 1 | R327 | VST_CTX_WIN_STATE.WVALID
  winSeq    : BitVec 8 := 0         -- 8 | R327 | VST_CTX_WIN_STATE.SEQ
  winSect   : BitVec 3 := 0         -- 3 | R327 | VST_CTX_WIN_STATE.SECTION
  win       : List Word := []       -- 8 x 32 | R327 | VST_CTX_WIN0 to VST_CTX_WIN7 (an empty list reads zero)
  deriving DecidableEq, Repr

/-! ## Cells -/

/-- One cell slot: its configuration block (R52 to R57), its counters (R463) and its place in the guard. -/
structure Cell where
  plat      : Tab Word := []        -- 64 x 32 | R52 | plat region, word index 0-63: CELL_ROLE, CELL_PORT0-3, CELL_PLAT_ID, role parameters
  coef      : BitVec 16 := 0        -- 16 | R57 | CELL_ROD_COEF.COEF
  margin    : BitVec 10 := 0x0C8    -- 10 | R57 | CELL_ROD_MARGIN.MARGIN
  tune      : Tab Word := []        -- 29 x 32 | R52 | CELL_TUNE, word index 0x43-0x5F: RANK_RESV, GANG_RESV
  en        : Bool := false         -- 1 | R55 | CELL_CTRL.CELL_EN
  quiet     : Bool := true          -- 1 | R55 | CELL_STATUS.QUIET
  enRefused : Bool := false         -- 1 | R55 | CELL_STATUS.EN_REFUSED
  cfgEn     : Bool := false         -- 1 | R55 | CELL_STATUS.CFG_WHILE_EN
  datum     : BitVec 2 := 3         -- 2 | R55 | CELL_STATUS.DATUM_STATE
  fenced    : Bool := false         -- 1 | R55 | CELL_STATUS.FENCED
  bist      : BitVec 2 := 0         -- 2 | R55 | CELL_STATUS.BIST
  subst     : Bool := false         -- 1 | R55 | CELL_STATUS.SUBST
  parity    : Bool := false         -- 1 | R55 | CELL_STATUS.PARITY
  unserved  : Bool := false         -- 1 | R55 | CELL_STATUS.UNSERVED
  phys      : Option Nat := none    -- 11 | R56 | CELL_PHYS (none: own number)
  localCrc  : Word := 0             -- 32 | R56 | CELL_DATUM_LOCAL
  rodPs     : BitVec 16 := 0        -- 16 | R56 | CELL_ROD.ROD_PS
  tripped   : Bool := false         -- 1 | R269 | the cell is tripped
  clearRun  : Nat := 0              -- 5 | R269 | consecutive measurements at or below 63/64 of the threshold
  test      : Tab Word := []        -- 16 x 32 | R52, R299 | reserved words 0x1C0-0x1FF: live test controls (word index 0x70-0x7F)
  refVal    : Option Word := none   -- 32+1 | R77, R81 | slot reference of the Datum unit
  refBad    : Bool := false         -- 1 | R82 | the slot reference failed its parity check: taken as MISMATCH until DATUM_COMMIT
  enKept    : Bool := false         -- 1 | R422, R482 | CELL_EN as kept while the unit is off or lost
  shadow    : Tab Word := []        -- 64 x 32 | R422 | slot shadow of the plat region
  hot       : Bool := false         -- 1 | R449 | HOT_ADD is included in MARGIN
  ctrSel    : Word := 0x04030201    -- 32 | R463 | CELL_CTR_SEL
  pair      : Bool := false         -- 1 | R463 | CELL_CTR_CTRL.PAIR
  wrIdx     : BitVec 2 := 0         -- 2 | R463 | CELL_CTR_CTRL.WR_IDX
  wrHi      : BitVec 16 := 0        -- 16 | R463 | CELL_CTR_CTRL.WR_HI
  wrLo      : Word := 0             -- 32 | R463 | CELL_CTR_WR_LO
  ctrs      : Tab (BitVec 48) := [] -- 4 x 48 | R462 | event counters
  ovf       : BitVec 4 := 0         -- 4 | R306 | OVF of the counters
  ctrSeq    : BitVec 8 := 0         -- 8 | R463 | CELL_CTR_CAPTURE.SEQ
  ctrWin    : Option (Bool × Bool × Bool × BitVec 48 × BitVec 48) := none -- window | R463 | pair, OVF_A, OVF_B and both counters (none: WVALID = 0)
  ctrLatch  : List (BitVec 48) := [] -- 4 x 48 | R470 | sweep latch
  ovfLatch  : BitVec 4 := 0         -- 4 | R470 | OVF bits of the sweep latch
  ledgerHold : Option Token := none -- token | R152 | occurrence held in the input port while the field book is full
  holdRep   : Bool := false         -- 1 | R152, R262 | the held occurrence carries the replay mark
  safeCoef  : Bool := false         -- 1 | R273 | COEF is at its safe value: no timed grade until it is rewritten
  safeMargin : Bool := false        -- 1 | R273 | MARGIN is at its safe value: no timed grade until it is rewritten
  deriving DecidableEq, Repr

/-- A wired input: its entry in the input table (R90) and what its endpoint holds (R93, R95, R98). -/
structure Input where
  mode    : InMode := .off          -- 3 | R90 | MODE
  filterW : BitVec 10 := 0          -- 10 | R90 | FILTER_W
  tallyN  : BitVec 12 := 0          -- 12 | R90 | TALLY_N
  tally   : Payload := 0            -- 20 | R90 | TALLY_CUM
  heldSat : Bool := false           -- 1 | R90 | HELD_SAT
  level   : Bool := false           -- 1 | R90 | LEVEL_NOW
  raw     : Bool := false           -- 1 | R93, R94 | the sampled level, before the filter
  rises   : Nat := 0                -- 13 | R95 | rises since the last post
  held    : Word := 0               -- 32 | R98 | held occurrences or due posts
  heldAt  : Stamp := 0              -- 64 | R98 | stamp of the first held one
  heldUp  : Bool := false           -- 1 | R98 | kind of the first held change
  deriving DecidableEq, Repr

/-! ## The ledger -/

/-- A queue: the fields of its descriptor (R127, R128) and what the ledger keeps beside them. -/
structure Queue where
  bound    : Bool := false          -- 1 | R127 | BOUND
  mode     : QMode := .level        -- 2 | R127 | MODE
  secure   : Bool := false          -- 1 | R127 | SECURE
  rank     : Rank := 0              -- 8 | R127 | RANK
  route    : Route := .station 0    -- 2+14 | R127 | ROUTE_KIND and ROUTE_INDEX
  parcel   : Nat := 0               -- 10 | R127 | PARCEL
  lockEn   : Bool := false          -- 1 | R127 | LOCK_EN
  lockId   : BitVec 16 := 0         -- 16 | R127 | LOCK_ID
  lockMask : BitVec 16 := 0         -- 16 | R127 | LOCK_MASK
  bookOnly : Bool := false          -- 1 | R127 | BOOK_ONLY
  early    : Bool := false          -- 1 | R127 | EARLY_REPRESENT
  state    : QState := .idle        -- 3 | R127, R136 | STATE
  count    : BitVec 12 := 0         -- 12 | R127 | COUNT
  quota    : BitVec 12 := 0         -- 12 | R128 | QUOTA
  tail     : Nat := 0               -- 21 | R128 | TAIL or SLOT
  stamp    : Stamp23 := 0           -- 23 | R128 | FIRST_STAMP or ASSERT_STAMP
  activeN  : BitVec 10 := 0         -- 10 | R128 | ACTIVE_N
  ovf      : Bool := false          -- 1 | R127 | OVF
  poisoned : Bool := false          -- 1 | R127 | POISONED
  fbw      : Bool := false          -- 1 | R127 | FBW
  overQ    : Bool := false          -- 1 | R127 | OVER_QUOTA
  aged     : Bool := false          -- 1 | R127 | AGED
  stampSet : Bool := false          -- 1 | R127 | STAMP_SET
  grade    : Bool := false          -- 1 | R127 | HEAD_GRADE
  holders  : List Holder := []      -- list | R139 | holders of its active entries
  recalled   : Bool := false          -- 1 | R138 | a withdrawal is on its way and unanswered
  heldFor  : Option Nat := none     -- 4+1 | R186 | the die whose loss holds the queue
  parked   : Bool := false          -- 1 | R169, R170 | its candidate was parked: not offered again before a re-offer, an enable, the age scan or the end of a hold
  cached   : List Nat := []         -- list | R154 | local ledger cells that hold a head-cache entry of it
  sentTo   : Option Nat := none     -- 4+1 | R154 | the die of the station to which its candidate went last
  slotTaken : Bool := false         -- 1 | R140 | LATEST: the occurrence in SLOT has been claimed, and none has come since
  again    : Bool := false          -- 1 | R176 | its candidate has come back: the member is chosen anew when it is next offered
  due      : List Nat := []         -- list | R42, R150 | places, from the oldest, of the waiting deferred occurrences, counted against the parcel at their claim
  deriving DecidableEq, Repr

/-- A pool slot that is not free (R141). -/
structure Slot where
  payload : Payload := 0            -- 20 | R141 | PAYLOAD
  link    : Nat := 0                -- 21 | R141 | LINK
  stamp   : Stamp23 := 0            -- 23 | R141 | STAMP
  grade   : Bool := false           -- 1 | R141 | GRADE sideband
  parcel  : Nat := 0                -- 10 | R143 | the parcel it is charged to
  used    : Bool := false           -- 1 | R143 | not on the free list
  deriving DecidableEq, Repr

/-- A field-book record (R149) with where its event came from (R116, R216). -/
structure FbRec where
  evid     : Nat                    -- 20 | R149 | EVID
  payload  : Payload                -- 20 | R149 | PAYLOAD
  rid      : BitVec 16              -- 16 | R149 | RID
  sec      : Bool                   -- 1 | R149 | SEC
  deferred : Bool                   -- 1 | R149 | DEFERRED
  cause    : BitVec 3               -- 3 | R149 | CAUSE
  stamp    : Stamp                  -- 64 | R149 | STAMP64
  src      : Source                 -- source | R116, R150 | doorbell, send or other
  lock     : Lock                   -- checks | R111 | the lock checks still to be made
  dead     : BitVec 4 := 0          -- 4 | R132, R156, R385 | reason for which it is discarded at its release (0: none)
  place    : Nat := 0               -- 24 | R151 | its place in the spill ring, while it waits there
  deriving DecidableEq, Repr

/-- The field book (R148 to R153). -/
structure FieldBook where
  recs     : List FbRec := []       -- 8,192 records | R151 | on-chip buffer, oldest first
  ring     : List FbRec := []       -- 2^n records | R151 | spill ring, oldest first
  base     : BitVec 64 := 0         -- 64 | R151, R293 | LEDGER_FB_BASE as taken at the enable of hub ledger cell index 0
  place    : Nat := 0               -- 24 | R151 | place in the ring at which the next record is written
  ringBad  : Bool := false          -- 1 | R152 | the ring is treated as full
  fullSeen : Bool := false          -- 1 | R153 | HUB_FB_STATUS.FULL_SEEN
  ringErr  : Bool := false          -- 1 | R153 | HUB_FB_STATUS.RING_ERR
  wasFull  : Bool := false          -- 1 | R152 | FULL at the last change (POOL_EXHAUSTED is raised once per rise)
  peak     : BitVec 26 := 0         -- 26 | R153 | HUB_FB_PEAK
  deriving DecidableEq, Repr

/-- The counts of one reservation (R275, R276), for the window in progress and the next one. -/
structure Resv where
  home   : Nat := 0                 -- 8 | R276 | units of the home's own unit, this window
  lease  : Nat := 0                 -- 8 | R276 | units leased to the hub, this window
  usedH  : Nat := 0                 -- 8 | R276 | units the home's unit has taken
  usedL  : Nat := 0                 -- 8 | R276 | units the lease holder has taken
  homeN  : Nat := 0                 -- 8 | R276 | home's units, next window
  leaseN : Nat := 0                 -- 8 | R276 | leased units, next window
  deriving DecidableEq, Repr

/-! ## Spread sets, gangs, parcels -/

/-- A spread set (R173) and its placement state (R175 to R177). -/
structure Spread where
  members : List Nat := []          -- 576 | R173 | member stations
  parcel  : Nat := 0                -- 10 | R173 | owning parcel
  park    : Bool := false           -- 1 | R177 | the set's park flag
  parkedD : List Nat := []          -- list | R177 | parked destinations
  deriving DecidableEq, Repr

/-- A placement entry of a hub rank cell (R176). -/
structure Place where
  cell    : Nat                     -- 11 | R176 | hub rank cell
  evid    : Nat                     -- 20 | R176 | EVID
  station : Nat                     -- 10 | R176 | chosen station
  set     : Nat                     -- 8 | R176 | spread set
  reserved : Bool := false          -- 1 | R176 | chosen at grading; the timed candidate has not come yet
  deriving DecidableEq, Repr

/-- A gang record (R234). -/
structure Gang where
  defined  : Bool := false          -- 1 | R234 | DEFINED
  parcel   : Nat := 0               -- 10 | R234 | PARCEL
  send     : Nat := 0               -- 20 | R234 | SEND_EVID
  done     : Nat := 0               -- 20 | R234 | DONE_EVID
  offset   : Bool := false          -- 1 | R234 | OFFSET_MODE
  offsetNs : BitVec 20 := 0         -- 20 | R234 | OFFSET_NS
  post     : Bool := false          -- 1 | R234 | POST_DONE
  members  : List Nat := []         -- 576 | R234 | MEMBERS; MEMBER_COUNT is its length
  releases : Word := 0              -- 32 | R234 | RELEASES
  late     : Word := 0              -- 32 | R234 | LATE
  skipped  : Word := 0              -- 32 | R234 | SKIPPED
  missed   : Word := 0              -- 32 | R234 | TRAIN_MISSED
  stray    : Word := 0              -- 32 | R234 | STRAY
  deriving DecidableEq, Repr

/-- A gather record (R237). -/
structure Gather where
  id       : Nat                    -- number | R237 | the model's own name for the record
  cell     : Nat                    -- 11 | R237 | gang/timing cell
  gang     : Nat                    -- 10 | R236 | gang
  evid     : Nat                    -- 20 | R237 | the queue's EVID
  done     : Nat                    -- 20 | R237 | DONE_EVID at fan-out
  post     : Bool                   -- 1 | R237 | POST_DONE at fan-out
  opened   : Bool                   -- 1 | R265 | 0: reserved at grading, not yet fanned out
  pending  : List Nat               -- 576 | R237 | pending bits: the stations
  members  : List Nat := []         -- 576 | R236 | the gang's members at the fan-out
  offset   : Bool := false          -- 1 | R236 | the gang's OFFSET_MODE at the fan-out
  sent     : List Nat := []         -- 576 | R236, R238 | stations to which a member candidate has gone
  parked   : List (Nat × Cand)      -- list | R237 | member candidates kept as parked, with their station
  claimed  : Bool                   -- 1 | R138 | the first member has claimed
  risky    : Bool                   -- 1 | R261, R262 | a completion carried the late-risk or replay mark
  late     : Bool                   -- 1 | R241 | LATE has been counted for this occurrence
  timed    : Bool := false          -- 1 | R259 | the gathered occurrence was accepted as timed
  payload  : Payload := 0           -- 20 | R133, R138 | payload of the first member's claim
  stamp    : Stamp23 := 0           -- 23 | R135, R205 | stamp of the first member's claim
  aged     : Bool := false          -- 1 | R205 | its STAMP_AGED
  ovf      : Bool := false          -- 1 | R134 | its OVF
  rep      : Bool := false          -- 1 | R135 | its STAMP_REPEAT
  lost     : Bool := false          -- 1 | R205 | its PAYLOAD_LOST
  grade    : Bool := false          -- 1 | R205, R236 | its GRADE; before that claim: no skip has booked the occurrence
  deriving DecidableEq, Repr

/-- A release train (R243). -/
structure Train where
  id      : Nat                     -- 4 | R352 | train number of its cell
  cell    : Nat                     -- 11 | R243 | gang/timing cell
  gang    : Nat                     -- 10 | R243 | gang
  target  : Stamp                   -- 64 | R243 | next target
  period  : Stamp                   -- 64 | R243 | P
  left    : Nat                     -- 32 | R243 | targets left
  payload : Payload                 -- 20 | R243 | payload
  secure  : Bool                    -- 1 | R243 | issued through the secure mailbox
  deriving DecidableEq, Repr

/-- A parcel (R361 to R364) with its status block (R380) and performance counts (R382). -/
structure Parcel where
  st       : ParSt := .free         -- 2 | R361 | state
  tag      : BitVec 16 := 0         -- 16 | R362 | deed tag
  base     : Nat := 0               -- 20 | R363 | EVID range base
  count    : Nat := 0               -- 20 | R363 | EVID range count
  slots    : Nat := 0               -- 22 | R363 | pool share
  ctxs     : Nat := 0               -- 15 | R363 | context share
  resv     : Nat := 0               -- 8 | R363 | reservation
  perf     : Bool := false          -- 1 | R363 | PERF_USER
  gangs    : Nat := 0               -- 11 | R363 | gang allowance
  spreads  : Nat := 0               -- 9 | R363 | spread set allowance
  page     : BitVec 64 := 0         -- 64 | R363 | easement page address
  stations : List Nat := []         -- 576 | R363 | station set
  overQ    : Bool := false          -- 1 | R390 | OVER_QUOTA
  owed     : Nat := 0               -- 22 | R390 | slots still to return to parcel 0 as they are freed
  used     : Nat := 0               -- 22 | R143 | slots in use
  timeout  : Bool := false          -- 1 | R386 | FENCE_TIMEOUT
  destroyed : Bool := false         -- 1 | R387 | DESTROYED
  retry    : Bool := false          -- 1 | R381 | WRITE_RETRY
  seq      : Word := 0              -- 32 | R380 | SEQ of the status block
  resets   : Word := 0              -- 32 | R380 | RESET_COUNT
  booked   : BitVec 64 := 0         -- 64 | R380 | BOOKED
  fTokens  : Word := 0              -- 32 | R380 | FENCE_TOKENS
  fDoors   : Word := 0              -- 32 | R380 | FENCE_DOORBELLS
  faults   : Word := 0              -- 32 | R380 | FAULT_COUNT
  lastFault : BitVec 8 := 0         -- 8 | R380 | LAST_FAULT code
  lastEvid : Nat := 0               -- 20 | R380 | LAST_FAULT EVID
  perfCnt  : Tab Word := []         -- 13 x 32 | R382 | performance counts, by word index from 0x080
  deriving DecidableEq, Repr

/-! ## Units -/

/-- An outpost, its traverse link, its meridian copy and its die's power lines. -/
structure Outpost where
  lost      : Bool := false         -- 1 | R187 | lost mark
  closing   : Bool := false         -- 1 | R420 | die is closing
  secCut    : Bool := false         -- 1 | R321 | PWR_DOM_k.SEC_CUT
  iso       : Bool := true          -- 1 | R321 | PWR_DOM_k.ISO
  logic     : DomSt := .off         -- 3 | R321 | PWR_DOM_k.LOGIC
  mem       : DomSt := .off         -- 3 | R321 | PWR_DOM_k.MEM
  trav      : DomSt := .off         -- 3 | R321 | PWR_DOM_k.TRAV
  link      : LinkSt := .reset      -- 3 | R312 | HUB_LNK_INFO_k.STATE
  spareUp   : Bool := false         -- 1 | R312 | HUB_LNK_INFO_k.SPARE_UP
  spareDown : Bool := false         -- 1 | R312 | HUB_LNK_INFO_k.SPARE_DOWN
  retrains  : BitVec 8 := 0         -- 8 | R312 | HUB_LNK_INFO_k.RETRAINS
  replays   : Word := 0             -- 32 | R312 | HUB_LNK_REPLAY_k
  replayAt  : List Stamp := []      -- list | R33 | instants of the replays of the last 1 us
  errorAt   : List Stamp := []      -- list | R482 | instants of the errors of the last 1 s
  fails     : Nat := 0              -- 2 | R482 | consecutive failed retraining attempts
  returns   : Nat := 0              -- 4 | R484 | failed returns since the declaration
  copy      : Stamp := 0            -- 64 | R218 | meridian copy
  align     : Align := .absent      -- 2 | R224 | MER_ALIGN_k.STATE
  holdover  : Bool := false         -- 1 | R224 | MER_ALIGN_k.HOLDOVER
  resid     : BitVec 16 := 0        -- 16 | R224 | MER_ALIGN_k.RESID_PS
  delay     : BitVec 8 := 0         -- 8 | R224 | MER_ALIGN_k.DELAY_NS
  lostSeen  : Bool := false         -- 1 | R224 | MER_ALIGNED.LOST_SEEN bit k
  corr      : Int := 0              -- 1/128 ns | R220 | correction for the next ALIGN
  t1        : BitVec 32 := 0        -- 32 | R220 | departure of the exchange in progress
  good      : Nat := 0              -- 5 | R222 | consecutive exchanges within 0.35 ns
  bad       : Nat := 0              -- 2 | R222 | consecutive exchanges outside 0.35 ns
  missed    : Nat := 0              -- 2 | R222 | consecutive exchanges without ECHO
  phase     : Int := 0              -- 1/128 ns | R219, R221 | phase of the copy against its tick, as corrections have moved it
  hold      : Nat := 0              -- count | R221 | ticks for which the copy still holds its count
  gain      : Nat := 0              -- count | R221 | ns by which a phase slew still takes the copy forward, one a tick
  secUp     : Option Stamp := none  -- 64+1 | R261 | start of the latest secure message upward
  secDown   : Option Stamp := none  -- 64+1 | R261 | start of the latest secure message downward
  accFail   : Option (Bool × Nat) := none -- 1+2+1 | R33 | direction and number of the flit of a forwarded access that failed its CRC last
  fallN     : Option Nat := none    -- 10+1 | R186 | FALLBACK_NORMAL (none: HOLD)
  fallS     : Option Nat := none    -- 10+1 | R186 | FALLBACK_SECURE (none: HOLD)
  noSupply  : Bool := false         -- 1 | R399 | the supply was cut and has not returned
  isoReq    : Bool := false         -- 1 | R412 | ISO_REQ_k pin
  isoGnt    : Bool := false         -- 1 | R412 | ISO_GNT_k pin
  vlogic    : BitVec 10 := 0        -- 10 | R321 | PWR_VDD_k.LOGIC_MV
  vmem      : BitVec 10 := 0        -- 10 | R321 | PWR_VDD_k.MEM_MV
  vtrav     : BitVec 10 := 0        -- 10 | R321 | PWR_VDD_k.TRAV_MV
  lowLogic  : Bool := false         -- 1 | R271 | monitor of OUTk_L below 0.70 V
  lowMem    : Bool := false         -- 1 | R271 | monitor of OUTk_M below 0.70 V
  lowTrav   : Bool := false         -- 1 | R271 | monitor of TRAVk below 0.70 V
  bring     : Nat := 0              -- 3 | R417 | bring-up step in progress (0: none)
  tries     : Nat := 0              -- 2 | R434 | retries of the bring-up
  fresh     : Bool := true          -- 1 | R418 | the memory domain comes up from OFF
  chords    : Nat := 0              -- count | R422 | downward wake chords sent on link k
  stays     : Bool := false         -- 1 | R420 | a cell refused the latest quiesce request
  cold      : Bool := true          -- 1 | R84 | its cold start has not yet loaded the boot plat
  deriving DecidableEq, Repr

/-- A meridian alarm (R224). -/
structure Alarm where
  lo     : Word := 0                -- 32 | R224 | MER_ALRM_LO_a
  hi     : Word := 0                -- 32 | R224 | MER_ALRM_HI_a
  evid   : BitVec 20 := 0           -- 20 | R224 | MER_ALRM_EVID_a
  arm    : Bool := false            -- 1 | R224 | MER_ALRM_CTRL_a.ARM
  keep   : Bool := false            -- 1 | R224 | MER_ALRM_CTRL_a.KEEP_WAKE
  target : Stamp := 0               -- 64 | R228 | target taken at arming
  deriving DecidableEq, Repr

/-- A slew order waiting for its exchange boundary (R226). -/
inductive Slew where | none | start (offset : Int) | cancel
  deriving DecidableEq, Repr

/-- The meridian master (R218 to R231). -/
structure Mer where
  now      : Stamp := 0             -- 64 | R218 | the master meridian
  capSeq   : BitVec 8 := 0          -- 8 | R224 | MER_CAPTURE.SEQ
  winValid : Bool := false          -- 1 | R224 | MER_WIN_STATE.WVALID
  winSeq   : BitVec 8 := 0          -- 8 | R224 | MER_WIN_STATE.SEQ
  winDeg   : Bool := false          -- 1 | R224 | MER_WIN_STATE.STATE, DEGRADED at the capture
  winEst   : Bool := false          -- 1 | R224 | MER_WIN_STATE.STATE, ESTIMATED at the capture
  win      : Stamp := 0             -- 64 | R224 | MER_WIN_LO and MER_WIN_HI
  degraded : Bool := false          -- 1 | R224 | MER_STATUS.DEGRADED
  locked   : Bool := true           -- 1 | R230 | the master PLL is locked
  lockedAt : Stamp := 0             -- 64 | R230 | instant of the latest relock
  estim    : Bool := false          -- 1 | R224 | MER_STATUS.ESTIMATED
  degSeen  : Bool := false          -- 1 | R224 | MER_STATUS.DEGRADED_SEEN
  stepped  : Bool := false          -- 1 | R224 | MER_STATUS.STEPPED
  adjRej   : Bool := false          -- 1 | R224 | MER_STATUS.ADJ_REJ
  fired    : BitVec 4 := 0          -- 4 | R224 | MER_STATUS.ALRM_FIRED
  alrmRej  : BitVec 4 := 0          -- 4 | R224 | MER_STATUS.ALRM_REJ
  uncert   : Word := 0              -- 32 | R224 | MER_UNCERT.US
  adjLo    : Word := 0              -- 32 | R224 | MER_ADJ_LO
  adjHi    : Word := 0              -- 32 | R224 | MER_ADJ_HI
  order    : Slew := .none          -- order | R226 | SLEW or CANCEL waiting for the boundary
  slew     : Int := 0               -- 64 | R226 | remainder of the slew in progress
  sched    : Int := 0               -- 3 | R226 | ticks to add or drop in the exchange period in progress
  step     : Option Stamp := none   -- 64+1 | R227 | STEP waiting for the boundary
  refNs    : Nat := 0               -- 10 | R226 | REFCLK ns counted toward the next 1,000
  alarms   : Tab Alarm := []        -- 4 alarms | R224 | alarms 0-3
  slotAt   : Option Nat := none     -- count | R220 | number (master / 4,096) of the latest alignment slot served
  splitFor : Option Stamp := none   -- 64+1 | R276 | start of the window that the latest split divides
  window   : Stamp := 0             -- 64 | R120 | start of the reservation window in progress
  deriving DecidableEq, Repr

/-! ## The hub global control block -/

/-- The doorbell rejection capture (R115, R116). -/
structure DbCap where
  valid  : Bool := false            -- 1 | R115 | HUB_DB_REJ0.VALID; armed while 0 (R116)
  reason : BitVec 4 := 0            -- 4 | R115 | REASON
  port   : BitVec 3 := 0            -- 3 | R115 | PORT
  sec    : Bool := false            -- 1 | R115 | SEC
  addr   : Bool := false            -- 1 | R115 | WINDOW
  rid    : BitVec 16 := 0           -- 16 | R115 | HUB_DB_REJ1.RID
  dataHi : BitVec 12 := 0           -- 12 | R115 | HUB_DB_REJ1.DATA_HI
  evid   : BitVec 20 := 0           -- 20 | R115 | HUB_DB_REJ2.EVID
  data   : Word := 0                -- 32 | R115 | HUB_DB_REJ3.DATA
  deriving DecidableEq, Repr

/-- The access fault capture (R289, R290). -/
structure AccCap where
  valid  : Bool := false            -- 1 | R289 | HUB_ACC_CAP0.VALID; armed while 0 (R290)
  reason : BitVec 3 := 0            -- 3 | R289 | REASON
  size   : BitVec 2 := 0            -- 2 | R289 | SIZE
  write  : Bool := false            -- 1 | R289 | WRITE
  sec    : Bool := false            -- 1 | R289 | SEC
  offset : BitVec 27 := 0           -- 27 | R289 | HUB_ACC_CAP1.OFFSET
  tag    : BitVec 16 := 0           -- 16 | R289 | HUB_ACC_CAP2.TAG
  dataLo : BitVec 16 := 0           -- 16 | R289 | HUB_ACC_CAP2.DATA_LO
  deriving DecidableEq, Repr

/-- The Datum unit (R73 to R80, R312). -/
structure Datum where
  ref       : Word := 0             -- 32 | R312 | HUB_DATUM_REF
  last      : Word := 0             -- 32 | R312 | HUB_DATUM_LAST
  sweeps    : BitVec 16 := 0        -- 16 | R312 | HUB_DATUM_STATUS.SWEEP_SEQ
  committed : Bool := false         -- 1 | R312 | COMMITTED
  global    : Bool := false         -- 1 | R312 | GLOBAL_FENCE
  seen      : Bool := false         -- 1 | R312 | MISMATCH_SEEN
  deriving DecidableEq, Repr

/-- The hub's control, status and counters (R311 to R315). -/
structure Hub where
  populated : BitVec 12 := 0        -- 12 | R312 | HUB_UNITS.POPULATED
  en        : Bool := false         -- 1 | R312 | HUB_CTRL.HUB_EN
  enKept    : Bool := false         -- 1 | R425 | HUB_EN as kept across Keep and Sleep
  enRefused : Bool := false         -- 1 | R312 | HUB_STATUS.EN_REFUSED
  cfgEn     : Bool := false         -- 1 | R312 | HUB_STATUS.CFG_WHILE_EN
  paritySeen : Bool := false        -- 1 | R312 | HUB_STATUS.PARITY_SEEN
  platId    : Word := 0             -- 32 | R312 | HUB_PLAT_ID
  compact   : Bool := false         -- 1 | R312 | HUB_PLAT_CFG.DECODE_MODE
  staged    : Bool := false         -- 1 | R312 | HUB_PLAT_CFG.STAGED
  memSnoop  : Bool := true          -- 1 | R312 | HUB_MEM_CFG.SNOOP
  memRelax  : Bool := false         -- 1 | R312 | HUB_MEM_CFG.RELAXED
  memQos    : BitVec 4 := 0         -- 4 | R312 | HUB_MEM_CFG.QOS
  datum     : Datum := {}           -- unit | R312 | HUB_DATUM_*
  seen      : BitVec 22 := 0        -- 22 | R312 | HUB_FAULT_SEEN
  faultCnt  : Tab Word := []        -- 21 x 32 | R312 | HUB_FAULT_CNT_n
  dbDiscard : Word := 0             -- 32 | R114 | HUB_DB_DISCARD
  dbFormat  : Word := 0             -- 32 | R114 | HUB_DB_FORMAT_CNT
  dbLock    : Word := 0             -- 32 | R114 | HUB_DB_LOCK_CNT
  dbRange   : Word := 0             -- 32 | R114 | HUB_DB_RANGE_CNT
  dbState   : Word := 0             -- 32 | R114 | HUB_DB_STATE_CNT
  dbCap     : DbCap := {}           -- capture | R115 | HUB_DB_REJ0 to HUB_DB_REJ3
  ports     : Tab (List DbWrite) := [] -- 8 x 64 writes | R104, R106 | writes a port holds
  eccCorr   : Word := 0             -- 32 | R153 | HUB_ECC_CORR_CNT
  tripSeen  : Bool := false         -- 1 | R278 | HUB_GUARD_STATUS.TRIP_SEEN
  mutexSeen : Bool := false         -- 1 | R278 | HUB_GUARD_STATUS.MUTEX_SEEN
  speedReq  : Bool := false         -- 1 | R278 | HUB_GUARD_STATUS.SPEED_REQ and the SPEED_REQ pin
  speedAt   : Stamp := 0            -- 64 | R274 | instant from which every release condition has held
  tripCnt   : Word := 0             -- 32 | R278 | HUB_GUARD_TRIP_CNT
  mutexCnt  : Word := 0             -- 32 | R278 | HUB_MUTEX_WATCH_CNT
  assertPm  : BitVec 10 := 0x3B6    -- 10 | R278 | HUB_SPEED_CFG.ASSERT_PM
  holdUs    : BitVec 6 := 0x0A      -- 6 | R278 | HUB_SPEED_CFG.HOLD_US
  releasePm : BitVec 10 := 0x384    -- 10 | R278 | HUB_SPEED_CFG.RELEASE_PM
  bookCnt   : Tab Word := []        -- 7 x 32 | R278 | HUB_BOOK_CNT_c
  forced    : Nat := 0              -- count | R480 | completions that the holder check forced
  accSeen   : BitVec 4 := 0         -- 4 | R289 | WIDTH_SEEN, ALIGN_SEEN, UNIMPL_SEEN, DENIED_SEEN
  touched   : Bool := false         -- 1 | R289 | TEST_TOUCHED
  accWidth  : Word := 0             -- 32 | R289 | HUB_ACC_WIDTH_CNT
  accAlign  : Word := 0             -- 32 | R289 | HUB_ACC_ALIGN_CNT
  accUnimpl : Word := 0             -- 32 | R289 | HUB_ACC_UNIMPL_CNT
  accDenied : Word := 0             -- 32 | R289 | HUB_ACC_DENIED_CNT
  accCap    : AccCap := {}          -- capture | R289 | HUB_ACC_CAP0 to HUB_ACC_CAP2
  bistPhys  : Tab (BitVec 2) := []  -- 1,536 x 2 | R64 | self-test result of each physical cell
  deriving DecidableEq, Repr

/-- One mailbox (R316 to R318). -/
structure Mbx where
  op      : BitVec 16 := 0          -- 16 | R317 | MBX_CMD.OPCODE
  seqIn   : BitVec 8 := 0           -- 8 | R317 | MBX_CMD.SEQ
  list    : Bool := false           -- 1 | R317 | MBX_CMD.LIST
  code    : BitVec 8 := 0           -- 8 | R317 | MBX_STATUS.CODE
  seq     : BitVec 8 := 0           -- 8 | R317 | MBX_STATUS.SEQ
  busy    : Bool := false           -- 1 | R317 | MBX_STATUS.BUSY
  done    : Bool := false           -- 1 | R317 | MBX_STATUS.DONE
  wrBusy  : Bool := false           -- 1 | R317 | MBX_STATUS.WR_BUSY
  notify  : BitVec 20 := 0          -- 20 | R317 | MBX_NOTIFY.EVID
  args    : Tab Word := []          -- 32 x 32 | R317 | MBX_ARG0 to MBX_ARG31
  resp    : Tab Word := []          -- 28 x 32 | R317 | MBX_RESP0 to MBX_RESP27
  cut     : Bool := false           -- 1 | R341 | its command was running when the offline period began
  deriving DecidableEq, Repr

/-! ## Power, wake and the management island -/

/-- A watch input slot (R99, R100, R101). -/
structure Watch where
  input  : Option Nat := none       -- 10+1 | R354 | hub input of the slot
  width  : BitVec 10 := 0           -- 10 | R354 | AON filter width in us
  held   : BitVec 16 := 0           -- 16 | R100 | occurrences held in the AON
  heldC  : Nat := 0                 -- 64 | R436 | slow count of the first held one
  up     : Bool := false            -- 1 | R101 | kind of the first held change
  wake   : Bool := false            -- 1 | R100 | an event that its mode defines has qualified since the hub went off: it wakes the device
  deriving DecidableEq, Repr

/-- One temperature sensor register (R321). -/
structure Temp where
  temp    : BitVec 16 := 0          -- 16 | R321 | TEMP
  seq     : BitVec 8 := 0           -- 8 | R321 | SEQ
  out     : Bool := false           -- 1 | R321 | OUT_RANGE
  invalid : Bool := false           -- 1 | R321 | INVALID
  deriving DecidableEq, Repr

/-- Power, wake and the secure watchdog (R320 to R323, R411 to R437). -/
structure Pwr where
  mode     : Mode := .run           -- 3 | R416 | device state
  hubl     : DomSt := .on           -- 3 | R321 | PWR_DOM_HUB.HUBL
  hubm     : DomSt := .on           -- 3 | R321 | PWR_DOM_HUB.HUBM
  backup   : Bool := false          -- 1 | R321 | PWR_DOM_HUB.AON_BACKUP
  cause    : BitVec 4 := 1          -- 4 | R321 | PWR_RESET_CAUSE
  wakeSrc  : BitVec 4 := 0          -- 4 | R321 | PWR_LAST_WAKE.SOURCE
  wakeFrom : BitVec 3 := 0          -- 3 | R321 | PWR_LAST_WAKE.FROM
  wakeDet  : BitVec 6 := 0          -- 6 | R321 | PWR_LAST_WAKE.DETAIL
  wakeNew  : Bool := false          -- 1 | R321 | PWR_LAST_WAKE.NEW
  wakeMer  : Stamp := 0             -- 64 | R347 | meridian at the latest wake
  stakes   : List (Nat × Dom) := [] -- set | R354 | stakes held, by client and domain
  wakeEn   : BitVec 3 := 0          -- 3 | R354 | wake sources enabled by WAKE_CONFIG OP 2
  watch    : Tab Watch := []        -- 64 slots | R354 | watch input slots
  temps    : Tab Temp := []         -- 20 x 26 | R321 | PWR_TEMP_n
  vhubl    : BitVec 10 := 0         -- 10 | R321 | PWR_VDD_HUB.HUBL_MV
  vhubm    : BitVec 10 := 0         -- 10 | R321 | PWR_VDD_HUB.HUBM_MV
  vaon     : BitVec 10 := 0         -- 10 | R321 | PWR_VDD_HUB.VAON_MV
  auxin    : BitVec 16 := 0         -- 16 | R321 | PWR_AUXIN.MV
  auxLow   : Bool := false          -- 1 | R321 | PWR_AUXIN.LOW
  auxHigh  : Bool := false          -- 1 | R321 | PWR_AUXIN.HIGH
  lowHubl  : Bool := false          -- 1 | R271 | monitor of HUBL below 0.70 V
  lowHubm  : Bool := false          -- 1 | R271 | monitor of HUBM below 0.70 V
  rst      : Bool := false          -- 1 | R503 | PKG_RST_N is asserted
  chipRst  : Bool := false          -- 1 | R404 | CHIP_RESET_REQ pin
  chipRep  : Nat := 0               -- count | R404 | log entries of the unanswered request
  swPeriod : BitVec 14 := 0x3E80    -- 14 | R321 | PWR_SWDT_PERIOD.PERIOD_MS
  swStage  : Bool := false          -- 1 | R321 | PWR_SWDT_STATUS.STAGE
  swLeft   : BitVec 14 := 0x3E80    -- 14 | R321 | PWR_SWDT_STATUS.LEFT_MS
  swDone   : Bool := false          -- 1 | R404 | the second expiry has come, and no service or reset since
  swNs     : Nat := 0               -- 20 | R403 | ns counted of the present ms of the secure watchdog's stage
  entryE   : Stamp := 0             -- 64 | R423 | E
  slowNs   : Nat := 0               -- 64 | R231, R423 | ns of slow oscillator time since E was latched; C is its thousandth
  bring    : Nat := 0               -- 3 | R417 | bring-up step of the hub pair (0: none)
  tries    : Nat := 0               -- 2 | R434 | retries of the bring-up
  fresh    : Bool := true           -- 1 | R418 | HUBM comes up from OFF
  closing  : Bool := false          -- 1 | R420, R423 | the hub is closing
  cold     : Bool := true           -- 1 | R84 | the cold start has not yet loaded the boot plat
  heldAcc  : List HeldAcc := []     -- list | R424 | accesses held at the register target port
  heldDb   : List DbWrite := []     -- 8 x 64 writes | R424 | posted writes held by the doorbell front ends
  knock    : BitVec 8 := 0          -- 8 | R106, R433 | ports at which a write has come that the hub does not take now
  saveSeq  : Word := 0              -- 32 | R427 | SAVE_SEQ
  bodyCrc  : Word := 0              -- 32 | R427 | BODY_CRC
  toSleep  : Bool := false          -- 1 | R428 | the hub writes the save book to enter Sleep
  faults   : List (Nat × Word × Word × Word) := [] -- list | R476 | raisings held in the AON while HUBL is off
  coldStake : Bool := false         -- 1 | R415 | Wairo holds its cold-start stakes
  coldDue  : Bool := false          -- 1 | R415 | a STAKE_TAKE that names HUBL was served for another client since
  wakeStake : Bool := false         -- 1 | R415 | Wairo holds its wake stake
  deriving DecidableEq, Repr

/-- A firmware slot (R440, R442). -/
structure FwSlot where
  st      : SlotSt := .empty        -- 2 | R440 | STATE
  version : BitVec 16 := 0          -- 16 | R440 | VERSION
  secVer  : Word := 0               -- 32 | R440 | SEC_VERSION
  seq     : Word := 0               -- 32 | R440 | COMMIT_SEQ
  image   : Option FwImage := none  -- 1 MiB | R37, R442 | the image in the slot
  chunks  : Tab (BitVec 8) := []    -- 1 MiB | R486 | bytes written by RECOVERY_WRITE, by offset
  deriving DecidableEq, Repr

/-- A Monument log entry (R454). -/
structure LogEntry where
  no     : Word                     -- 32 | R454 | ENTRY_NO
  mer    : Stamp                    -- 64 | R454 | MER_LO and MER_HI
  code   : BitVec 8                 -- 8 | R454 | CODE [7:0]
  unit   : BitVec 8                 -- 8 | R454 | CODE [15:8]
  secure : Bool                     -- 1 | R454 | SECURE
  est    : Bool                     -- 1 | R454 | meridian estimated
  deg    : Bool                     -- 1 | R454 | meridian degraded
  agg    : Bool                     -- 1 | R454 | AGGREGATED
  arg0   : Word                     -- 32 | R454 | ARG0
  arg1   : Word                     -- 32 | R454 | ARG1
  arg2   : Word                     -- 32 | R454 | ARG2
  deriving DecidableEq, Repr

/-- An aggregation interval of R477. -/
structure Agg where
  code  : Nat                       -- 8 | R477 | fault code
  key   : Nat                       -- 32 | R477 | cell, parcel, unit or 0
  start : Stamp                     -- 64 | R477 | start of the interval
  more  : Option (LogEntry × Nat)   -- entry | R477 | first further raising and how many there were
  deriving DecidableEq, Repr

/-- A sweep between its command and the end of its writes (R470). -/
structure SweepRun where
  seq     : Word                    -- 32 | R469 | its sequence number
  ts      : Stamp                   -- 64 | R470 | Ts
  flags   : Word := 0               -- 2 | R469 | FLAGS [2:1] as at Ts
  units   : List Nat                -- 13 | R470 | units whose cells have not latched yet
  last    : Stamp                   -- 64 | R469 | instant of the latest latch
  late    : Nat                     -- 11 | R470 | ns from Ts on a unit's copy to the service points at which its cells latch (an operand)
  grants  : List Nat                -- 576 | R472 | stations whose counts are granted, as step 1 finds them
  memOk   : Bool                    -- 1 | R471 | the memory master's accesses succeed (an operand)
  box     : Option Box              -- 1+1 | R358 | the mailbox whose command it is
  deriving DecidableEq, Repr

/-- The counter sweep (R468 to R471). -/
structure Sweep where
  addr    : BitVec 64 := 0          -- 64 | R468 | buffer address
  bytes   : Nat := 0                -- 32 | R468 | buffer size
  period  : Nat := 0                -- 24 | R358 | period in us
  active  : Bool := false           -- 1 | R471 | a periodic sweep runs
  due     : Stamp := 0              -- 64 | R471 | instant at which the next sweep falls due
  seq     : Word := 0               -- 32 | R471 | sweep sequence
  first   : Word := 0               -- 32 | R358 | sequence number of the first sweep of the latest COUNTER_SWEEP
  owner   : Option Box := none      -- 1+1 | R358, R342 | the mailbox whose waiting COUNTER_SWEEP has begun its sweep
  skipped : Word := 0               -- 32 | R471 | SKIPPED
  run     : Option SweepRun := none -- sweep | R470 | the sweep in progress
  deriving DecidableEq, Repr

/-- The benchmark set as shipped, by word index (R450): MAGIC, FORMAT with ORIGIN 0, INTEGRITY, the factory POLICY and a coefficient for each
physical cell. The spec gives no shipped coefficient; each is taken as 0x0384, the built-in default (DESIGN CHOICE, log entry 3). -/
def factoryBench : Tab Word :=
  [(0, 0x4B524D42), (1, 0x00000001), (2, 0xE2A97FC6), (8, 0x000050C8)] ++ (List.range 768).map fun i => (0x400 + i, 0x03840384)

/-- The management island: Ronuo, MRAM, log, benchmark set, sideband, debug gate. -/
structure Isl where
  fw       : FwSt := .running       -- 2 | R312 | HUB_FW_STATE.STATE
  slotB    : Bool := false          -- 1 | R312 | HUB_FW_STATE.SLOT
  fwVer    : BitVec 16 := 0x0304    -- 16 | R312 | HUB_FW_STATE.FW_MAJOR and FW_MINOR
  a        : FwSlot := { st := .committed, version := 0x0304, seq := 1 } -- slot | R443 | slot A
  b        : FwSlot := {}           -- slot | R443 | slot B
  rollback : Word := 0              -- 32 | R440 | anti-rollback counter
  act      : Option (Option Box × Bool) := none -- box, slot | R446 | FW_ACTIVATE in progress: the mailbox whose command it is, unless a halt has ended that, and its target slot
  booting  : Option (BitVec 2) := none -- 2+1 | R439 | Ronuo is in its boot ROM: 0 AUXIN, 1 watchdog
  expiries : List Stamp := []       -- list | R447 | watchdog expiries of the last 10 s
  turn     : Option Box := none     -- 1+1 | R332 | mailbox whose waiting command runs next
  listRun  : Option (Nat × Nat × ListEntry) := none -- count+24+entry | R339, R340 | a command list whose entry waits: its index, the bytes left to read, and the entry as it was read
  store0   : Option PlatImage := none -- 512 KiB | R69 | plat store entry 0
  store1   : Option PlatImage := none -- 512 KiB | R69 | plat store entry 1
  bootMark : Option Bool := none    -- 1+1 | R69 | entry that carries the boot mark
  bench    : Tab Word := factoryBench -- 16,384 x 32 | R450 | benchmark set, by word index
  benchPend : Bool := false         -- 1 | R451 | a benchmark write is pending
  defaults : Bool := false          -- 1 | R312, R453 | the set is invalid, built-in defaults are in use
  deviceId : BitVec 64 := 0         -- 64 | R440 | device ID of the provisioning record
  fwKey    : Option (BitVec 768) := some Config.fwKey -- key | R440 | firmware verifying key
  dbgKey   : Option (BitVec 768) := Config.dbgKey -- key | R407, R440 | debug verifying key
  provLock : Bool := true           -- 1 | R441 | provisioning lock
  dbgCount : Word := 0              -- 32 | R407 | monotonic debug counter
  scope    : BitVec 5 := 0          -- 5 | R408 | debug scope in force
  ronuoHalt : Bool := false         -- 1 | R408 | Ronuo is halted through the gate
  ronuoMem : Tab Word := []         -- words | R408, R438 | Ronuo registers and SRAM as written through the gate
  ronuoRan : Nat := 0               -- number | the model's own | count of free values taken when Ronuo last ran
  createCnt : BitVec 16 := 1        -- 16 | R362 | create counter
  journal  : Tab Word := []         -- 256 KiB | R83, R440 | Wairo's copy of tuning values, by register offset
  policy   : Tab Nat := []          -- settings | R72 | reservation settings of stations, spread sets and gangs
  log      : List LogEntry := []    -- 8,192 entries | R454 | Monument log, oldest first
  logNext  : Word := 0              -- 32 | R356 | number of the next entry
  logQ     : List LogEntry := []    -- 64 entries | R455 | entries that wait for the log writer, oldest first
  logDrop  : Word := 0              -- 32 | R455 | entries dropped at the full writer queue and not yet counted in the log
  aggs     : List Agg := []         -- list | R477 | aggregation intervals in progress
  reports  : List LogEntry := []    -- 32 entries | R460 | sideband report queue
  repDrop  : Word := 0              -- 32 | R460 | reports dropped
  sent     : List LogEntry := []    -- entries | R460 | the latest report message on the sideband
  straps   : Straps := {}           -- 46 | R497 | strap values
  dynAddr  : Bool := false          -- 1 | R457 | a dynamic address is assigned
  i3cEvents : BitVec 8 := 0         -- 8 | R457 | events enabled by ENEC
  mwl      : BitVec 16 := 64        -- 16 | R457 | maximum write length
  mrl      : BitVec 16 := 64        -- 16 | R457 | maximum read length
  sweep    : Sweep := {}            -- sweep | R468 | counter sweep
  auditFor : List Nat := []         -- list | R158 | pool audits waiting, by parcel
  easement : List Nat := []         -- list | R381 | parcels whose status block is to be written
  deriving DecidableEq, Repr

/-- What outside chance has struck: a store word with an error, the tag word of a seat or entry among them (R155 to R157, R479), an arbiter whose next resolution overruns its
allowance (R279), the next access to the spill ring, which fails (R152). -/
inductive Store where
  | desc (evid : Nat) | slot (n : Nat) | record (evid : Nat) | seat (s : Nat) (t : Tour) (evid : Nat)
  | stack (s : Nat) (g : Grp) (evid : Nat) | ctx (v : Nat) | gather (id : Nat) | place (evid : Nat)
  | gang (g : Nat) | input (evid : Nat) | mutex (cell : Nat) | ring | page (parcel : Nat)
  | vstack (v : Nat) (evid : Nat) | tag (kind evid : Nat)
  deriving DecidableEq, Repr

/-- A read that is held: of STN_SEND_STATUS until the page's sends are settled (R216), or of a claim until its data arrive
(R29, R375), with what the claim itself fixed (R203, R205). -/
structure HeldRead where
  page   : Page
  status : Bool := false            -- 1 | R216 | a read of STN_SEND_STATUS
  wide   : Bool := false            -- 1 | R285 | one half of a 64-bit read
  tag    : BitVec 16 := 0           -- 16 | R26 | requester tag
  evid   : Nat := 0                 -- 20 | R203 | EVID of the claim
  seq    : BitVec 8 := 0            -- 8 | R196 | SEQ of the claim
  rank   : Rank := 0                -- 8 | R196 | RANK of the claim
  mode   : BitVec 2 := 0            -- 2 | R196 | MODE of the claim
  aged   : Bool := false            -- 1 | R205 | the seat was marked aged
  copy   : Stamp := 0               -- 64 | R205 | the outpost's meridian copy at the claim
  upTo   : Nat := 0                 -- number | R216 | the read of STN_SEND_STATUS waits for the sends whose serial numbers lie below this
  deriving DecidableEq, Repr

/-- What leaves the device: the response of the latest access at the register target port, and of the debug gate, the
sideband and the boot ROM. -/
structure Out where
  data   : BitVec 64 := 0           -- 64 | R286 | data of the latest read response
  err    : Bool := false            -- 1 | R286 | error status of the latest response
  held   : List HeldRead := []      -- list | R216, R375 | held reads of STN_SEND_STATUS and of claims, oldest first
  gate   : Word := 0                -- 32 | R406 | what the latest debug gate operation shifted out
  i3c    : List (BitVec 8) := []    -- bytes | R457 | bytes of the latest CCC answer
  nack   : Bool := false            -- 1 | R457 | the latest CCC was NACKed
  mctp   : List Word := []          -- words | R459 | code and response words of the latest sideband answer
  vid    : BitVec 16 := 0           -- 16 | R459, R497 | vendor identifier field of the latest message sent
  ctrl   : List (BitVec 8) := []    -- bytes | R459 | answer to the latest MCTP control message
  ibi    : Bool := false            -- 1 | R460 | an IBI with the pending read notification announces the report message
  deriving DecidableEq, Repr

/-- The whole state of the block. -/
structure State where
  pending : List Instr := []        -- queue | the model's own | commands waiting, first in, first out
  net     : List Packet := []       -- messages | R30, R35 | messages and tokens inside the device, oldest first
  mer     : Mer := {}               -- unit | R218 | meridian master
  hub     : Hub := {}               -- block | R311 | hub global control and status
  outs    : Tab Outpost := []       -- 12 | R23 | outposts, links and copies
  cells   : Tab Cell := []          -- 1,536 | R52 | cell slots
  inputs  : Tab Input := []         -- 4,096 | R90 | wired inputs, by EVID
  queues  : Tab Queue := []         -- 1,048,576 x 128 | R127 | queues, by EVID
  tally   : Tab Word := []          -- 1,048,576 x 32 | R130 | booked tally, by EVID
  pool    : Tab Slot := []          -- 2,097,152 x 65 | R141 | payload pool
  fb      : FieldBook := {}         -- book | R148 | field book
  gates   : List (Nat × Bool × Nat) := [] -- list | R260 | gates taken: link, upward, EVID of the grant
  resv    : Tab Resv := []          -- table | R275 | reservations: station s, 1,024 + set, 2,048 + gang, 4,096 + parcel
  stns    : Tab Station := []       -- 576 | R190 | stations
  ctxs    : Tab Ctx := []           -- 16,384 | R366 | vCPU contexts
  spreads : Tab Spread := []        -- 256 | R173 | spread sets
  places  : List Place := []        -- 4,096 per cell | R176 | placement pools
  views   : Tab Nat := []           -- 2 x 576 a cell | R175 | each hub rank cell's view of the loads: 2,048 x cell + 2 x station + group
  gangs   : Tab Gang := []          -- 1,024 | R234 | gang records
  gathers : List Gather := []       -- 256 per cell | R237 | gather records
  trains  : List Train := []        -- 16 per cell | R243 | release trains
  nextId  : Nat := 0                -- number | the model's own | next name of a gather record or of a send
  parcels : Tab Parcel := []        -- 1,023 | R361 | parcels 1-1,023
  parcel0 : Parcel := {}            -- parcel | R9, R364 | the manager parcel
  mbxN    : Mbx := {}               -- mailbox | R316 | normal mailbox
  mbxS    : Mbx := {}               -- mailbox | R316 | secure mailbox
  pwr     : Pwr := {}               -- block | R320 | power, wake, secure watchdog
  isl     : Isl := {}               -- island | R438 | management island
  parity  : List Nat := []          -- set | R81 | RWP registers (by offset; 2^27 + slot for a slot reference) whose hidden parity bit disagrees
  ecc     : List (Store × Bool) := [] -- set | R152, R155, R279, R479 | what is struck and not yet found: store words (true: uncorrectable), arbiters, the ring
  waits   : List HeldAcc := []      -- list | R25, R26 | accesses that wait: for the traverse link of the die that serves them, or behind a held read of their tag
  testCtl : Tab Word := []          -- words | R299 | test controls of the links and of the meridian units, by register offset
  mem     : List Host.Cell := []    -- bytes | R24 | system memory as the memory master port has written it
  out     : Out := {}               -- outputs | R286 | responses
  free    : Nat := 0                -- counter | the model's own | free values taken so far
  deriving DecidableEq, Repr

/-- The 64 internal queues as reset binds them, all routed to one station (R125, R474, R475). -/
def internalQueues (n : Nat) : Tab Queue :=
  (List.range 64).map fun i => (0xFFFC0 + i, ({ bound := true, mode := .count, route := .station n } : Queue))

/-- The machine right after reset: AUXIN applied and PKG_RST_N deasserted, with the domains of the hub on and nothing
loaded (R310, R361, R475, R503); every field at the value that its declaration gives, and the internal queues bound. -/
def State.reset : State := { queues := internalQueues 0 }

end Sys2Proof.Machine
end

