-- ==== Sys2Proof/Machine/Tab.lean ====
section
/-! DEFINITION. Tables: sparse data by number, in one canonical form. `d` is what an unlisted number reads as. -/

namespace Sys2Proof.Machine

open Sys2Proof

/-- What the table holds at number `n`. -/
def tget {α : Type} (d : α) : Tab α → Nat → α
  | [], _ => d
  | (m, v) :: t, n => if m = n then v else tget d t n

/-- Put `v` at number `n` of a table whose numbers rise, whatever `v` is. -/
def tput {α : Type} (n : Nat) (v : α) : Tab α → Tab α
  | [] => [(n, v)]
  | (m, w) :: t => if n < m then (n, v) :: (m, w) :: t else if n = m then (n, v) :: t else (m, w) :: tput n v t

/-- Change what a table lists at number `n` in its place. -/
def tmod {α : Type} (n : Nat) (f : α → α) : Tab α → Tab α
  | [] => []
  | (m, v) :: t => if m = n then (m, f v) :: t else (m, v) :: tmod n f t

/-- Take number `n` out of a table. -/
def tdel {α : Type} (n : Nat) (t : Tab α) : Tab α := t.filter fun e => decide (e.1 ≠ n)

/-- Write `v` at number `n`, keeping the canonical form: writing the default removes the entry. -/
def tset {α : Type} [DecidableEq α] (d : α) (t : Tab α) (n : Nat) (v : α) : Tab α :=
  if v = d then tdel n t else tput n v t

/-- The numbers of a table rise strictly from above `lo`, and no entry equals the default. -/
def twf {α : Type} [DecidableEq α] (d : α) : Option Nat → Tab α → Bool
  | _, [] => true
  | lo, (m, v) :: t => (match lo with | none => true | some l => decide (l < m)) && decide (v ≠ d) && twf d (some m) t

/-- The numbers listed in a table. -/
def tkeys {α : Type} (t : Tab α) : List Nat := t.map (·.1)

/-- One saturating addition to a 32-bit counter (R305). -/
def satAdd (w : Word) (n : Nat) : Word := if w.toNat + n ≥ 2 ^ 32 then 0xFFFFFFFF else w + BitVec.ofNat 32 n

/-- One increment of a saturating 32-bit counter (R305). -/
def satInc (w : Word) : Word := satAdd w 1

end Sys2Proof.Machine
end

