-- ==== Sys2Proof/Machine/Ops.lean ====
section
/-! DEFINITION. The named operations over State: reading and writing each table, the numbering of units and cells
(R6 to R8, R50), event counters (R462), the Monument log and fault raising (R454, R474 to R477), messages (R30). -/

namespace Sys2Proof.Machine

open Sys2Proof

/-! ## Tables of State -/

def State.cell (s : State) (c : Nat) : Cell := tget {} s.cells c
def State.setCell (s : State) (c : Nat) (x : Cell) : State := { s with cells := tset {} s.cells c x }
def State.modCell (s : State) (c : Nat) (f : Cell → Cell) : State := s.setCell c (f (s.cell c))
def State.op (s : State) (k : Nat) : Outpost := tget {} s.outs k
def State.setOp (s : State) (k : Nat) (x : Outpost) : State := { s with outs := tset {} s.outs k x }
def State.modOp (s : State) (k : Nat) (f : Outpost → Outpost) : State := s.setOp k (f (s.op k))
def State.input (s : State) (e : Nat) : Input := tget {} s.inputs e
def State.modInput (s : State) (e : Nat) (f : Input → Input) : State :=
  { s with inputs := tset {} s.inputs e (f (s.input e)) }
def State.queue (s : State) (e : Nat) : Queue := tget {} s.queues e
def State.setQueue (s : State) (e : Nat) (q : Queue) : State := { s with queues := tset {} s.queues e q }
def State.modQueue (s : State) (e : Nat) (f : Queue → Queue) : State := s.setQueue e (f (s.queue e))
def State.slot (s : State) (n : Nat) : Slot := tget {} s.pool n
def State.setSlot (s : State) (n : Nat) (x : Slot) : State := { s with pool := tset {} s.pool n x }
def State.stn (s : State) (n : Nat) : Station := tget {} s.stns n
def State.setStn (s : State) (n : Nat) (x : Station) : State := { s with stns := tset {} s.stns n x }
def State.modStn (s : State) (n : Nat) (f : Station → Station) : State := s.setStn n (f (s.stn n))
def State.ctx (s : State) (v : Nat) : Ctx := tget {} s.ctxs v
def State.setCtx (s : State) (v : Nat) (x : Ctx) : State := { s with ctxs := tset {} s.ctxs v x }
def State.modCtx (s : State) (v : Nat) (f : Ctx → Ctx) : State := s.setCtx v (f (s.ctx v))
def State.spread (s : State) (n : Nat) : Spread := tget {} s.spreads n
def State.modSpread (s : State) (n : Nat) (f : Spread → Spread) : State :=
  { s with spreads := tset {} s.spreads n (f (s.spread n)) }
def State.gang (s : State) (g : Nat) : Gang := tget {} s.gangs g
def State.modGang (s : State) (g : Nat) (f : Gang → Gang) : State :=
  { s with gangs := tset {} s.gangs g (f (s.gang g)) }
def State.res (s : State) (r : Nat) : Resv := tget {} s.resv r
def State.setRes (s : State) (r : Nat) (x : Resv) : State := { s with resv := tset {} s.resv r x }
def State.alarm (s : State) (a : Nat) : Alarm := tget {} s.mer.alarms a
def State.modAlarm (s : State) (a : Nat) (f : Alarm → Alarm) : State :=
  { s with mer := { s.mer with alarms := tset {} s.mer.alarms a (f (s.alarm a)) } }
/-- Parcel `p`; parcel 0 is kept beside the table (R9). -/
def State.parcel (s : State) (p : Nat) : Parcel := if p = 0 then s.parcel0 else tget {} s.parcels p
def State.modParcel (s : State) (p : Nat) (f : Parcel → Parcel) : State :=
  if p = 0 then { s with parcel0 := f s.parcel0 }
  else { s with parcels := tset {} s.parcels p (f (s.parcel p)) }
def State.modHub (s : State) (f : Hub → Hub) : State := { s with hub := f s.hub }
def State.modMer (s : State) (f : Mer → Mer) : State := { s with mer := f s.mer }
def State.modPwr (s : State) (f : Pwr → Pwr) : State := { s with pwr := f s.pwr }
def State.modIsl (s : State) (f : Isl → Isl) : State := { s with isl := f s.isl }
/-- A mailbox (R316). -/
def State.mbx (s : State) : Box → Mbx
  | .normal => s.mbxN
  | .secure => s.mbxS
def State.modMbx (s : State) (b : Box) (f : Mbx → Mbx) : State :=
  match b with
  | .normal => { s with mbxN := f s.mbxN }
  | .secure => { s with mbxS := f s.mbxS }
/-- The group of a page of a station. -/
def Station.grp (x : Station) : Grp → Group
  | .normal => x.norm
  | .secure => x.sec
def State.grp (s : State) (n : Nat) (g : Grp) : Group := (s.stn n).grp g
def State.modGrp (s : State) (n : Nat) (g : Grp) (f : Group → Group) : State :=
  s.modStn n fun x => match g with
    | .normal => { x with norm := f x.norm }
    | .secure => { x with sec := f x.sec }

/-- Repeat a state change over a list. -/
def forAll {α : Type} (s : State) (xs : List α) (f : State → α → State) : State := xs.foldl f s

/-! ## Numbering -/

/-- Unit number of the hub in log entries and lists of units; outposts are 0–11. -/
def hubUnit : Nat := 12

/-- The unit of cell `c` (R7). -/
def unitOf (c : Nat) : Nat := if c < 768 then 12 else (c - 768) / 64

/-- The first cell of a unit and how many it has (R7). -/
def unitFirst (u : Nat) : Nat := if u = 12 then 0 else 768 + 64 * u
def unitSize (u : Nat) : Nat := if u = 12 then 768 else 64
def unitCells (u : Nat) : List Nat := (List.range (unitSize u)).map (unitFirst u + ·)

/-- Outpost `k` is populated (R23). -/
def populated (s : State) (k : Nat) : Bool := decide (k < 12) && s.hub.populated.getLsbD k

/-- Station `n` exists (R23). -/
def stnExists (s : State) (n : Nat) : Bool := decide (n < 576) && populated s (n / 48)

/-- The populated outposts. -/
def outpostsOf (s : State) : List Nat := (List.range 12).filter (populated s)

/-- Role code and role index of a cell (R53). -/
def Cell.role (x : Cell) : Nat := bits (tget 0 x.plat 0) 0 4
def Cell.index (x : Cell) : Nat := bits (tget 0 x.plat 0) 8 11

/-- Role codes of R47. -/
def roleSpare : Nat := 0
def roleIntake : Nat := 1
def roleLedger : Nat := 2
def roleRank : Nat := 3
def roleDelivery : Nat := 4
def roleContext : Nat := 5
def roleGang : Nat := 6
def roleLink : Nat := 7

/-- The cells of unit `u` that hold role `r` (not spare). -/
def roleCells (s : State) (u r : Nat) : List Nat :=
  (s.cells.filter fun e => decide (unitOf e.1 = u) && decide (e.2.role = r)).map (·.1)

/-- The cell of unit `u` with role `r` and role index `i` (R50). -/
def roleCell (s : State) (u r i : Nat) : Option Nat :=
  (s.cells.find? fun e => decide (unitOf e.1 = u) && decide (e.2.role = r) && decide (e.2.index = i)).map (·.1)

/-- The cell is enabled (R58); a slot that no cell serves is not. -/
def onCell (s : State) : Option Nat → Bool
  | none => false
  | some c => (s.cell c).en

/-- EVID classes (R10, R124). -/
def isWired (e : Nat) : Bool := decide (1 ≤ e) && decide (e ≤ 0x1000)
def isInternal (e : Nat) : Bool := decide (0xFFFC0 ≤ e) && decide (e ≤ 0xFFFFF)
/-- The wired EVIDs of outposts, whose local ledgers own their queues. -/
def isOutpostWired (e : Nat) : Bool := decide (1 ≤ e) && decide (e ≤ 0xC00)
def evidDie (e : Nat) : Nat := (e - 1) / 256
def evidInput (e : Nat) : Nat := if isOutpostWired e then (e - 1) % 256 else e - 0xC01

/-- The unit that owns a queue (R124). -/
def ownerUnit (e : Nat) : Nat := if isOutpostWired e then evidDie e else 12

/-- The owning ledger cell of an EVID (R50, R126). -/
def ledgerCell (s : State) (e : Nat) : Option Nat :=
  if isOutpostWired e then
    roleCell s (evidDie e) roleLedger (evidInput e % max 1 (roleCells s (evidDie e) roleLedger).length)
  else roleCell s 12 roleLedger (e / 2048)

/-- The intake cell of a wired EVID (R50). -/
def intakeCell (s : State) (e : Nat) : Option Nat :=
  if isOutpostWired e then roleCell s (evidDie e) roleIntake (evidInput e / 32)
  else roleCell s 12 roleIntake (evidInput e / 16)

/-- The rank cell of a station, and of a spread set (R162). -/
def rankCell (s : State) (n : Nat) : Option Nat :=
  roleCell s (n / 48) roleRank (n % 48 % max 1 (roleCells s (n / 48) roleRank).length)
def spreadCell (s : State) (n : Nat) : Option Nat :=
  roleCell s 12 roleRank (n % max 1 (roleCells s 12 roleRank).length)
/-- The delivery cell of a station (R50). -/
def deliveryCell (s : State) (n : Nat) : Option Nat := roleCell s (n / 48) roleDelivery (n % 48 / 2)
/-- The context cell of a vCPU, and the gang/timing cell of a gang (R50, R232). -/
def contextCell (s : State) (v : Nat) : Option Nat := roleCell s 12 roleContext (v / 128)
def gangCell (s : State) (g : Nat) : Option Nat :=
  roleCell s 12 roleGang (g % max 1 (roleCells s 12 roleGang).length)
/-- The link cell of traverse link `k`, at which its counters stand (log entry 31). -/
def linkCell (s : State) (k : Nat) : Option Nat := roleCell s k roleLink 0
/-- The stations of outpost `k`. -/
def dieStations (k : Nat) : List Nat := (List.range 48).map (48 * k + ·)

/-! ## Time -/

/-- The meridian as the island stamps with it: the master, or the estimate of R231 while the hub is off, until a wake has restored the master
(R436, R454). -/
def meridian (s : State) : Stamp :=
  match s.pwr.mode with
  | .keep | .sleep | .wakeKeep | .wakeSleep => s.pwr.entryE + BitVec.ofNat 64 (s.pwr.slowNs / 1000 * 1000)
  | _ => s.mer.now

/-- The meridian copy of a unit (R218). -/
def copyOf (s : State) (u : Nat) : Stamp := if u = 12 then s.mer.now else (s.op u).copy

/-- The 23-bit form of a stamp (R141). -/
def stamp23 (t : Stamp) : Stamp23 := t.extractLsb' 0 23

/-- The age of a 23-bit stamp at meridian `m` (R145). -/
def age23 (m : Stamp) (st : Stamp23) : Nat := (stamp23 m - st).toNat

/-- The age at which stamps are marked (R145, R166). -/
def ageMark : Nat := 4194304

/-- The 64-bit stamp of a 23-bit one at meridian `m` (R146). -/
def extendStamp (m : Stamp) (st : Stamp23) : Stamp := m - BitVec.ofNat 64 (age23 m st)

/-! ## Event counters (R306, R462) -/

/-- Add 1 to each counter of a cell that selects the event code. -/
def bumpCell (x : Cell) (code : Nat) : Cell :=
  (List.range 4).foldl (fun y n =>
    if bits y.ctrSel (8 * n) 8 = code ∧ code ≠ 0 then
      let v := tget 0 y.ctrs n
      { y with ctrs := tset 0 y.ctrs n (v + 1), ovf := if v = 0xFFFFFFFFFFFF then y.ovf ||| (1#4 <<< n) else y.ovf }
    else y) x

/-- One occurrence of event `code` served by a cell. Role events count only in a cell of the role (R462). -/
def bump (s : State) (c : Option Nat) (code : Nat) : State :=
  match c with
  | none => s
  | some n =>
    let need := match code / 16 with
      | 1 => roleIntake | 2 => roleLedger | 3 => roleRank | 4 => roleDelivery | 5 => roleContext
      | 6 => roleGang | 7 => roleLink | _ => 16
    if code / 16 = 0 ∨ (s.cell n).role = need then { s with cells := tmod n (bumpCell · code) s.cells } else s

/-- `n` occurrences of an event. -/
def bumpBy (s : State) (c : Option Nat) (code : Nat) : Nat → State
  | 0 => s
  | n + 1 => bump (bumpBy s c code n) c code

/-- One token taken by a cell, with its grade (codes 0x01, 0x03, 0x04). -/
def bumpIn (s : State) (c : Option Nat) (timed : Bool) : State :=
  bump (bump s c 0x01) c (if timed then 0x03 else 0x04)

/-! ## Messages (R30, R31, R35) -/

/-- An event message of the secure class (R34). -/
def Msg.isSecure : Msg → Bool
  | .candStation _ _ c | .candSpread _ c | .candContext _ c | .candGang _ c => c.secure
  | _ => false

/-- An event message of the timed class (R34): a send travels timed upward when its cell took the gate. -/
def Msg.isTimed : Msg → Bool
  | .event t => decide (t.pre = 0)
  | .candStation _ _ c | .candSpread _ c | .candContext _ c | .candGang _ c | .doorbell _ _ c => c.grade
  | _ => false

/-- A gang completion message (R260). -/
def Msg.isGangDone : Msg → Bool
  | .memberDone .. => true
  | _ => false

/-- The precedence of a message's traffic class on a link (R34); forwarded accesses, of class 4, are no messages of the model. The event of a
hypervisor doorbell goes in the class of the candidate that it announces (R257; log entry 89). -/
def Msg.precedence (m : Msg) : Nat :=
  match m with
  | .align .. | .echo .. | .init .. => 0
  | .event _ | .candStation .. | .candSpread .. | .candContext .. | .candGang .. | .doorbell .. =>
    if m.isSecure then 1 else if m.isTimed then 2 else 5
  | _ => 3

/-- An event token (R119). -/
def Msg.isToken : Msg → Bool
  | .event _ => true
  | _ => false

/-- Put a message on its way, over link `up` upward and link `down` downward where it crosses them. -/
def send (s : State) (m : Msg) (up down : Option Nat) (c : Option Nat := none) : State :=
  { s with net := s.net ++ [{ msg := m, cell := c, up := up, down := down }] }

/-- A cell sends a message: TOKENS_OUT (R462). -/
def sendFrom (s : State) (c : Option Nat) (m : Msg) (up down : Option Nat) : State := bump (send s m up down c) c 0x02

/-- A link carries messages. -/
def linkUp (s : State) (k : Nat) : Bool := decide ((s.op k).link = .up)

/-- A message that crosses the link meets an enabled link cell: while every link cell of the die is off, tokens wait (R61, log entry 31). -/
def linkOpen (s : State) (k : Nat) : Bool :=
  linkUp s k && (let cs := roleCells s k roleLink; cs.isEmpty || cs.any fun c => (s.cell c).en)

/-- A port of the cell is joined: tokens are never sent on a port whose VALID is 0 (R54; log entry 68). -/
def joined (s : State) (c : Nat) : Bool := (List.range 4).any fun i => (tget 0 (s.cell c).plat (1 + i)).getLsbD 15

/-- The cell that sends a packet has a joined port to send it on. -/
def leaves (s : State) (p : Packet) : Bool := match p.cell with | none => true | some c => joined s c

/-- 20 ns have passed since the previous secure event message started at this sending end (R261). -/
def pacerReady (s : State) : Option Stamp → Bool
  | none => true
  | some t => decide ((meridian s - t).toNat ≥ 20)

/-- The pacer lets this packet start in this direction of link `k`: only secure event messages wait for it (R261). -/
def paced (s : State) (k : Nat) (up : Bool) (p : Packet) : Bool :=
  !p.msg.isSecure || pacerReady s (if up then (s.op k).secUp else (s.op k).secDown)

/-- The cell that sends the packet can send it, and every link that it still has to cross carries it now. -/
def crossable (s : State) (p : Packet) : Bool :=
  leaves s p &&
  (match p.up with | none => true | some k => p.upDone || (linkOpen s k && paced s k true p)) &&
  (match p.down with | none => true | some k => p.downDone || (linkOpen s k && paced s k false p))

/-- The packet has crossed its links, and waits at the cell that serves it. -/
def Packet.here (p : Packet) : Bool := (p.up.isNone || p.upDone) && (p.down.isNone || p.downDone)

/-- The packet waits to cross this direction of link `k`. -/
def Packet.waitsAt (p : Packet) (k : Nat) (up : Bool) : Bool :=
  if up then decide (p.up = some k) && !p.upDone else decide (p.down = some k) && !p.downDone && (p.up.isNone || p.upDone)

/-- Where a message is served: a kind of place and its number. Messages with different goals have no order (R35, log entry 8). -/
def goal (s : State) : Msg → Nat × Nat
  | .event t => (match t.gang with | some g => (19, g) | none => (0, (ledgerCell s t.evid).getD (2048 + t.evid)))
  | .claimed e .. | .completed e _ => (0, (ledgerCell s e).getD (2048 + e))
  | .returned c _ _ => (0, (ledgerCell s c.evid).getD (2048 + c.evid))
  | .withdrawal e _ => (1, e)
  | .candStation n _ _ | .doorbell _ n _ => (2, n)
  | .dbReport v _ => (20, v)
  | .claimData _ p .. | .sendReject p _ => (match p with | .stn n _ => (3, n) | .vst v => (4, v))
  | .candSpread n _ => (5, n)
  | .candContext v _ => (6, v)
  | .candGang g _ => (7, g)
  | .memberDone id .. => (8, id)
  | .loadReport n .. => (9, n)
  | .lease n .. | .leaseRevoke n => (10, n)
  | .reOffer d _ _ => (match d with | .station n => (11, n) | .spread n => (12, n) | .context v => (13, v) | .gang g => (14, g))
  | .holderAsk e => (15, e)
  | .holderAnswer e .. => (16, e)
  | .bookedReport e _ => (17, e)
  | .align k .. | .echo k .. | .init k _ => (18, k)

/-- The unit whose cell serves a message that crosses no link (R7). -/
def msgUnit (s : State) : Msg → Nat
  | .event t => if t.gang.isSome then 12 else ownerUnit t.evid
  | .claimed e .. | .completed e _ | .withdrawal e _ | .holderAsk e | .holderAnswer e .. => ownerUnit e
  | .returned c _ _ => if c.gather.isSome then 12 else ownerUnit c.evid
  | .candStation n _ _ | .doorbell _ n _ => n / 48
  | .claimData _ p .. | .sendReject p _ => (match p with
    | .stn n _ => n / 48
    | .vst v => (match (s.ctx v).station with | some n => n / 48 | none => 12))
  | .reOffer _ u _ => u
  | .align k .. | .init k _ => k
  | .candSpread .. | .candContext .. | .candGang .. | .memberDone .. | .loadReport .. | .lease .. | .leaseRevoke _ | .bookedReport .. | .dbReport .. |
    .echo .. => 12

/-- The unit of the cell that holds the message now: before its upward link, between its links, or where it is served (R35). -/
def standsIn (s : State) (p : Packet) : Nat :=
  match p.up, p.upDone, p.down, p.downDone with
  | some k, false, _, _ => k
  | _, _, some k, true => k
  | _, _, some _, false => 12
  | some _, true, none, _ => 12
  | none, _, none, _ => msgUnit s p.msg

/-- The EVID of an event message; a SEND_GANG that is not resolved yet goes by its gang, beyond the EVIDs. -/
def Msg.eventOf : Msg → Option Nat
  | .event t => some (match t.gang with | some g => 2 ^ 20 + g | none => t.evid)
  | .candStation _ _ c | .candSpread _ c | .candContext _ c | .candGang _ c | .doorbell _ _ c => some c.evid
  | _ => none

/-- A timed event message goes ahead of a booked one at the cell that serves both, unless they are of one EVID (R263). -/
def overtakes (q p : Msg) : Bool := q.isTimed && p.eventOf.isSome && !p.isTimed && decide (q.eventOf ≠ p.eventOf)

/-- Both packets take the same link in the same direction, and `a` has not been left behind there. -/
def sameWay (a b : Packet) : Bool :=
  (a.up.isSome && decide (a.up = b.up) && (a.upDone || !b.upDone)) || (a.down.isSome && decide (a.down = b.down) && (a.downDone || !b.downDone))

/-- Message `a`, sent before `b`, is served before it: both cross one link in one direction toward one place, and `b`'s class does not
precede `a`'s (R32, R34). A token that its ledger cannot take yet holds no report of that ledger back (R61, R152). -/
def before (s : State) (a b : Packet) : Bool :=
  crossable s a && sameWay a b && decide (a.msg.precedence ≤ b.msg.precedence) && decide (goal s a.msg = goal s b.msg) &&
  (!a.msg.isToken || b.msg.isToken) && !overtakes b.msg a.msg

/-- The token of an EVID that goes first: the oldest stamp, then the lowest intake cell (R43). -/
def firstToken (e : Nat) : List Packet → Option Token
  | [] => none
  | p :: r => match p.msg, firstToken e r with
    | .event t, none => if t.evid = e ∧ t.gang = none then some t else none
    | .event t, some u => if (t.evid = e ∧ t.gang = none) ∧ (t.stamp < u.stamp ∨ (t.stamp = u.stamp ∧ t.cell ≤ u.cell)) then some t else some u
    | _, x => x

/-- The cell that serves an event message (R263); none for any other. -/
def servingCell (s : State) : Msg → Option Nat
  | .event t => (match t.gang with | some g => gangCell s g | none => ledgerCell s t.evid)
  | .candStation n _ _ | .doorbell _ n _ => rankCell s n
  | .candSpread n _ => spreadCell s n
  | .candContext v _ => contextCell s v
  | .candGang g _ => gangCell s g
  | _ => none

/-- The cell can serve the message: a token is the first of its EVID (R43), a station's delivery cell is enabled (R61). -/
def servable (s : State) : Msg → Bool
  | .event t => t.gang.isSome || decide (firstToken t.evid s.net = some t)
  | .candStation n _ _ | .doorbell _ n _ => onCell s (deliveryCell s n)
  | _ => true

/-- A timed token that the cell can serve waits beside this booked one, or crosses its link before it, and is served ahead of it; tokens of
one EVID keep their order (R263). -/
def timedAhead (s : State) (p : Packet) : Bool :=
  p.msg.eventOf.isSome && !p.msg.isTimed && s.net.any fun q =>
    overtakes q.msg p.msg && (q.here || (crossable s q && sameWay q p && decide (q.msg.precedence < p.msg.precedence))) &&
    (servingCell s p.msg).isSome && decide (servingCell s q.msg = servingCell s p.msg) && servable s q.msg

/-- The flits of a message over one crossing (R30). The long form is used for an event message whose stamp is 2,048 ns old on the
sender's copy `m` of the meridian, or that is resent after retraining (R31, R33). DESIGN CHOICE (log entry 70): a message that the table of
R30 does not list, a withdrawal, the return of a candidate and the data of a claim, takes 2 flits as every other message without a stamp. -/
def flits (m : Stamp) (p : Packet) : Nat :=
  match p.msg with
  | .event t => if p.long || decide ((m - t.stamp).toNat ≥ 2048) then 4 else 2
  | .candStation _ _ c | .candSpread _ c | .candContext _ c | .candGang _ c | .doorbell _ _ c =>
    if p.long || c.aged || decide (age23 m c.stamp ≥ 2048) then 4 else 2
  | .echo .. | .init .. => 3
  | _ => 2

/-- Take the first packet that `f` accepts out of a list. -/
def takeFirst (f : Packet → Bool) : List Packet → Option (Packet × List Packet)
  | [] => none
  | p :: t => if f p then some (p, t) else (takeFirst f t).map fun r => (r.1, p :: r.2)

/-- Take the first packet that `f` accepts and that no packet ahead of it, in the list or in `seen`, is to be served before: the packets ahead
of it, it, and those behind it. -/
def takeInTurn (s : State) (f : Packet → Bool) (seen : List Packet) : List Packet → Option (List Packet × Packet × List Packet)
  | [] => none
  | p :: t =>
    if f p && !(seen.any fun a => before s a p) then some (seen, p, t) else takeInTurn s f (seen ++ [p]) t

/-- Remove every message that `f` accepts. -/
def dropMsgs (s : State) (f : Msg → Bool) : State := { s with net := s.net.filter fun p => !f p.msg }

/-! ## Monument log (R454 to R456, R460) -/

/-- A log entry is reported on the sideband (R460). -/
def reportable (code : Nat) : Bool :=
  (decide (1 ≤ code) && decide (code ≤ 0x15)) || decide (code = 0x80) || decide (code = 0x83) ||
  decide (code = 0x88) || decide (code = 0x8D) || decide (code = 0x8E)

/-- Put an entry into the report queue of 32 (R460). -/
def queueReport (x : Isl) (e : LogEntry) : Isl :=
  if reportable e.code.toNat then
    if x.reports.length < 32 then { x with reports := x.reports ++ [e] } else { x with repDrop := satInc x.repDrop }
  else x

/-- The writer writes an entry whose meridian and flags are already given: it takes the next number; the ring holds 8,192. -/
def logPut (s : State) (e : LogEntry) : State :=
  let e1 : LogEntry := { e with no := s.isl.logNext }
  let l := s.isl.log ++ [e1]
  s.modIsl fun x => queueReport
    { x with log := if l.length > 8192 then l.drop (l.length - 8192) else l, logNext := x.logNext + 1 } e1

/-- An entry as it stands now. -/
def entryNow (s : State) (code unit : Nat) (sec : Bool) (a0 a1 a2 : Word) (agg : Bool) : LogEntry :=
  { no := 0, mer := meridian s, code := BitVec.ofNat 8 code, unit := BitVec.ofNat 8 unit, secure := sec,
    est := s.mer.estim || (match s.pwr.mode with | .keep | .sleep | .wakeKeep | .wakeSleep => true | _ => false),
    deg := s.mer.degraded, agg := agg, arg0 := a0, arg1 := a1, arg2 := a2 }

/-- An entry goes to the log writer, whose queue holds 64; one that finds it full is dropped and counted (R455). -/
def logTake (s : State) (e : LogEntry) : State :=
  s.modIsl fun x => if x.logQ.length < 64 then { x with logQ := x.logQ ++ [e] } else { x with logDrop := satInc x.logDrop }

/-- The writer writes one entry: that of the dropped ones first, else the oldest that waits (R455). One is written at each tick of an empty
command queue (DESIGN CHOICE within its 2 µs, log entry 54). -/
def logWrite (s : State) : State :=
  if s.pwr.mode = .off then s
  else if s.isl.logDrop ≠ 0 then
    logPut (s.modIsl fun x => { x with logDrop := 0 }) (entryNow s 0x8B 13 false s.isl.logDrop 0 0 false)
  else match s.isl.logQ with
    | [] => s
    | e :: t => logPut (s.modIsl fun x => { x with logQ := t }) e

/-- One entry for a happening of now. -/
def log (s : State) (code unit : Nat) (sec : Bool) (a0 a1 a2 : Word) : State :=
  logTake s (entryNow s code unit sec a0 a1 a2 false)

/-- One millisecond in ticks, the aggregation interval of R477. -/
def aggSpan : Nat := 1000000

/-- End the aggregation interval of a code and key: one entry for the further raisings, if any (R477). -/
def aggFlush (s : State) (code key : Nat) : State :=
  match s.isl.aggs.find? fun a => decide (a.code = code) && decide (a.key = key) with
  | none => s
  | some a =>
    if (meridian s - a.start).toNat < aggSpan then s
    else match a.more with
      | none => s.modIsl fun x => { x with aggs := x.aggs.filter fun b => !(decide (b.code = code) && decide (b.key = key)) }
      | some (e, n) =>
        let s1 := logTake s { e with arg2 := BitVec.ofNat 32 n }
        s1.modIsl fun x => { x with aggs := x.aggs.map fun b =>
          if b.code = code ∧ b.key = key then { b with start := b.start + BitVec.ofNat 64 aggSpan, more := none } else b }

/-- Write an entry of an aggregated code under R477. -/
def logAgg (s : State) (code unit : Nat) (sec : Bool) (a0 a1 : Word) (key : Nat) : State :=
  let s1 := aggFlush (aggFlush s code key) code key
  match s1.isl.aggs.find? fun a => decide (a.code = code) && decide (a.key = key) with
  | none =>
    let s2 := logTake s1 (entryNow s1 code unit sec a0 a1 1 true)
    s2.modIsl fun x => { x with aggs := x.aggs ++ [{ code := code, key := key, start := meridian s1, more := none }] }
  | some a =>
    let m := match a.more with
      | none => (entryNow s1 code unit sec a0 a1 0 true, 1)
      | some (e, n) => (e, n + 1)
    s1.modIsl fun x => { x with aggs := x.aggs.map fun b => if b.code = code ∧ b.key = key then { b with more := some m } else b }

/-! ## Parcels' status and fault raising -/

/-- Mark a parcel's easement status block as changed: the hub is to write it (R381). Parcel 0 has none (R379). -/
def touch (s : State) (p : Nat) : State :=
  if p = 0 ∨ (s.parcel p).st = .free ∨ p ∈ s.isl.easement then s
  else s.modIsl fun x => { x with easement := x.easement ++ [p] }

/-- Add to a performance count of a parcel, by its byte offset (R382). -/
def perfAdd (s : State) (p off n : Nat) : State :=
  if p = 0 ∨ (s.parcel p).perf = false then s
  else (s.modParcel p fun x => { x with perfCnt := tset 0 x.perfCnt (off / 4) (satAdd (tget 0 x.perfCnt (off / 4)) n) }).modIsl
    fun x => { x with easement := if p ∈ x.easement then x.easement else x.easement ++ [p] }

/-- Condition 1 of R118 at the master: neither MER_DEGRADED nor TEST_TOUCHED. -/
def cond1 (s : State) : Bool := !s.mer.degraded && !s.hub.touched

/-- The hub acts as intake for one occurrence without lock checks (R476): the token goes to its owning ledger. `pre` is
the cause for which the intake books it, 0 for none. -/
def intakeHub (s : State) (e : Nat) (pl : Payload) (st : Stamp) (pre : Nat) (src : Source) (lock : Lock) (sec : Bool) : State :=
  send s (.event { evid := e, payload := pl, stamp := st, pre := if cond1 s then pre else 1, src := src, lock := lock,
                   sec := sec, cell := 0x7FF }) none none

/-- The parcel whose EVID range holds `e`; parcel 0 where none does (R363). -/
def evidParcel (s : State) (e : Nat) : Nat :=
  ((s.parcels.find? fun x => decide (x.2.st ≠ .free) && decide (x.2.base ≤ e) && decide (e < x.2.base + x.2.count)).map (·.1)).getD 0

/-- The parcel of a queue: that of its descriptor, or for a poisoned queue, whose descriptor reads zero, that of its EVID
(R156, R361, R363). -/
def queueParcel (s : State) (e : Nat) : Nat := if (s.queue e).poisoned then evidParcel s e else (s.queue e).parcel

/-- The parcel, and the EVID, that a fault's arguments name (R380); for the field book the queue of its EVID names the parcel. -/
def faultParcel (s : State) (code : Nat) (a0 a1 : Word) : Nat × Nat :=
  match code with
  | 0x08 => (if a0.toNat < 1024 then a0.toNat else queueParcel s (a1.toNat % 2 ^ 20), a1.toNat % 2 ^ 20)
  | 0x09 | 0x10 | 0x11 | 0x12 => (queueParcel s (a0.toNat % 2 ^ 20), a0.toNat % 2 ^ 20)
  | 0x0E => (a0.toNat % 1024, 0)
  | _ => (0, 0)

/-- The hub's part of a raising (R315, R476): the seen bit, the counter and the internal occurrence. -/
def raiseHub (s : State) (code pre : Nat) : State :=
  let s1 := s.modHub fun h => { h with seen := h.seen ||| (1#22 <<< code), faultCnt := tset 0 h.faultCnt code (satInc (tget 0 h.faultCnt code)) }
  intakeHub s1 (0xFFFC0 + code) 0 (meridian s) pre .device .none false

/-- The raising of fault code `code` (R476). `key` is the aggregation key of R477 for a code marked Agg. While PKG_RST_N is asserted the hub is
held in reset, and its part does not take place (R310, R503; log entry 1). -/
def raise (s : State) (code unit : Nat) (sec : Bool) (a0 a1 a2 : Word) (key : Option Nat) : State :=
  let s1 := if s.pwr.hubl = .on then (if s.pwr.rst then s else raiseHub s code 0)
    else s.modPwr fun p => { p with faults := p.faults ++ [(code, a0, a1, a2)] }
  let pe := faultParcel s code a0 a1
  let s2 := if pe.1 = 0 ∨ (s1.parcel pe.1).st = .free then s1
    else touch (s1.modParcel pe.1 fun p => { p with faults := satInc p.faults, lastFault := BitVec.ofNat 8 code, lastEvid := pe.2 }) pe.1
  match key with
  | none => log s2 code unit sec a0 a1 a2
  | some k => logAgg s2 code unit sec a0 a1 k

/-- A number as a word. -/
def w32 (n : Nat) : Word := BitVec.ofNat 32 n

/-! ## Arrivals -/

/-- An arbitration of cell `c` overruns its allowance where the arbiter is struck: MUTEX_WATCH; the token keeps its grade (R279). -/
def overrun (s : State) (c : Option Nat) : State :=
  match c with
  | none => s
  | some n =>
    if s.ecc.any fun y => decide (y.1 = .mutex n) then
      let s1 : State := bump { s with ecc := s.ecc.filter fun y => decide (y.1 ≠ .mutex n) } c 0x07
      raise (s1.modHub fun h => { h with mutexSeen := true, mutexCnt := satInc h.mutexCnt }) 0x07 (unitOf n) false (w32 n) 0 1 (some n)
    else s

/-- The arbiters of all these cells. -/
def overrunAll (s : State) (cs : List Nat) : State := if s.ecc = [] then s else forAll s cs fun t c => overrun t (some c)

/-- A cell takes a token that carries no grade (R35, R279, R462). -/
def serveToken (s : State) (c : Option Nat) : State := bump (overrun s c) c 0x01

/-- The gate that a grant took for this message opens again as its first flit starts (R260). -/
def openGate (s : State) (k : Nat) (up : Bool) (p : Packet) : State :=
  match p.msg with
  | .candStation .. | .candSpread .. | .candContext .. | .candGang .. | .doorbell .. =>
    { s with gates := s.gates.filter fun g => !(decide (g.1 = k) && (g.2.1 == up) && decide (some g.2.2 = p.msg.eventOf)) }
  | _ => s

/-- The link cell of die `k` takes a token and sends it on (R462); an event message has a grade. -/
def linkToken (s : State) (k : Nat) (m : Msg) : State :=
  let c := linkCell s k
  bump (if m.eventOf.isSome then bumpIn s c m.isTimed else bump s c 0x01) c 0x02

/-- The link cells of die `k` count the flits of a message that crosses (R30, R462), and their arbiters serve it (R279). -/
def crossCount (s : State) (k : Nat) (up : Bool) (p : Packet) : State :=
  openGate (bumpBy (linkToken (overrunAll s (roleCells s k roleLink)) k p.msg) (linkCell s k) (if up then 0x70 else 0x71)
    (flits (if up then copyOf s k else s.mer.now) p)) k up p

/-- The packet has crossed this direction. -/
def Packet.pass (p : Packet) (up : Bool) : Packet := if up then { p with upDone := true } else { p with downDone := true }

/-- Two member candidates of one gathering that go down link `k` travel in one message (R258 step 7). -/
def rides (p q : Packet) (k : Nat) (up : Bool) : Bool :=
  !up && q.waitsAt k false && (match p.msg, q.msg with
    | .candStation _ _ c, .candStation _ _ d => c.gather.isSome && decide (c.gather = d.gather)
    | _, _ => false)

/-- The first flit of packet `i` starts in this direction of link `k`: its flits are counted, its gate opens again, the pacer counts from here
(R30, R260, R261), and it waits at its cell from then on. -/
def startAt (s : State) (k : Nat) (up : Bool) (i : Nat) : State :=
  match s.net[i]? with
  | none => s
  | some p =>
    if !p.waitsAt k up then s
    else
      let s1 := crossCount s k up p
      let s2 := if p.msg.isSecure then
          s1.modOp k fun o => if up then { o with secUp := some (meridian s) } else { o with secDown := some (meridian s) }
        else s1
      { s2 with net := (s2.net.modify i fun q => q.pass up).map fun q => if rides p q k up then q.pass up else q }

/-- Which of the packets, numbered from `i`, starts next in this direction of link `k`, with the precedence of its class: the oldest of the
best class among those that are ready (R34). -/
def nextOf (s : State) (k : Nat) (up : Bool) (i : Nat) : List Packet → Option (Nat × Nat)
  | [] => none
  | p :: t =>
    let r := nextOf s k up (i + 1) t
    if p.waitsAt k up && leaves s p && paced s k up p then
      match r with
      | some (q, j) => if q < p.msg.precedence then some (q, j) else some (p.msg.precedence, i)
      | none => some (p.msg.precedence, i)
    else r
def nextCross (s : State) (k : Nat) (up : Bool) : Option (Nat × Nat) := nextOf s k up 0 s.net

/-- The messages that go before packet `i` in this direction of link `k` start, then it does (R34). -/
def runLink (s : State) (k : Nat) (up : Bool) (i : Nat) : Nat → State
  | 0 => startAt s k up i
  | n + 1 => match nextCross s k up with
    | none => startAt s k up i
    | some (_, j) => if j = i then startAt s k up i else runLink (startAt s k up j) k up i n

/-- The messages of class `c` and of the classes before it that are ready in this direction of link `k` start (R34). -/
def runClass (s : State) (k : Nat) (up : Bool) (c : Nat) : Nat → State
  | 0 => s
  | n + 1 => match nextCross s k up with
    | none => s
    | some (q, j) => if q ≤ c then runClass (startAt s k up j) k up c n else s

/-- Packet `i`, which is `p`, crosses the links that it has not crossed yet. -/
def carry (s : State) (i : Nat) (p : Packet) : State :=
  let s1 := match p.up with
    | some k => if p.upDone then s else runLink s k true i s.net.length
    | none => s
  match p.down with
  | some k => if p.downDone then s1 else runLink s1 k false i s1.net.length
  | none => s1

/-- The arrival of a message: the first packet that `f` accepts, if the links it crosses carry it, nothing sent before it on them is to be served
first (R32, R34) and no timed token is served ahead of it (R263). -/
def arrive (s : State) (f : Msg → Bool) : Option (Packet × State) :=
  match takeInTurn s (fun p => f p.msg && crossable s p && !timedAhead s p) [] s.net with
  | none => none
  | some (ahead, p, _) =>
    let t := carry s ahead.length p
    some (p, { t with net := t.net.eraseIdx ahead.length })

/-- One direction of a link that carries messages lets the next one start. -/
def turnOf (s : State) (k : Nat) (up : Bool) : State :=
  if linkOpen s k then (match nextCross s k up with | some (_, j) => startAt s k up j | none => s) else s

/-- At each tick of an empty command queue every direction of every link lets the next message start (DESIGN CHOICE, log entry 2). -/
def linkTurn (s : State) : State := forAll s (outpostsOf s) fun t k => turnOf (turnOf t k true) k false

/-! ## Words -/


/-- Write one word of a table of words. -/
def putW (t : Tab Word) (n : Nat) (w : Word) : Tab Word := tset 0 t n w
def getW (t : Tab Word) (n : Nat) : Word := tget 0 t n

/-- Write bytes to system memory from an address on. A byte that nothing the model shows has written is not listed (log entry 4). -/
def memWrite (m : List Host.Cell) (a : Nat) (bs : List (BitVec 8)) : List Host.Cell :=
  (m.filter fun x => decide (x.1 < a)) ++ (List.zip (List.range' a bs.length) bs ++ m.filter fun x => decide (a + bs.length ≤ x.1))

/-- The byte of system memory at an address, where the block has written it. -/
def memByte (m : List Host.Cell) (a : Nat) : Option (BitVec 8) := (m.find? fun x => decide (x.1 = a)).map (·.2)

/-- The canonical form of system memory: addresses strictly rising. -/
abbrev Memory.wf (m : List Host.Cell) : Prop := m.Pairwise fun x y => x.1 < y.1

end Sys2Proof.Machine
end

