-- ==== Sys2Proof/Machine/Flags.lean ====
section
/-! DEFINITION. What the block computes from its state without storing it: the rod guard (R267, R274), the path regions
(R264, R265), the traverse gate (R260), the order of candidates (R166), presentation (R171, R172, R201, R374), request
wires (R190), residency counts (R369, R370), and the derived status bits of registers. -/

namespace Sys2Proof.Machine

open Sys2Proof

/-! ## Rod guard -/

/-- CELL_ROD_THRESH (R267). -/
def Cell.thresh (x : Cell) : Nat := x.coef.toNat * 1000 / (1000 + x.margin.toNat)

/-- The guard ratio in thousandths (R274); with no coefficient it saturates. -/
def Cell.ratio (x : Cell) : Nat :=
  if x.rodPs = 0 then 0 else if x.coef = 0 then 1023 else min 1023 (x.rodPs.toNat * (1000 + x.margin.toNat) / x.coef.toNat)

/-- The enabled non-spare cells, in ascending number (R274). -/
def guardCells (s : State) : List Nat := (s.cells.filter fun e => e.2.en && decide (e.2.role ≠ 0)).map (·.1)

/-- The highest guard ratio and its cell, the lowest-numbered one where several hold it (R278). -/
def worst (s : State) : Nat × Nat :=
  (guardCells s).foldl (fun b c => if (s.cell c).ratio > b.1 then ((s.cell c).ratio, c) else b) (0, 0)

/-! ## SPEED_REQ -/

/-- Voltage monitors: a domain that is ON reads below 0.70 V (R271, R278). -/
def outLow (o : Outpost) : Bool :=
  (o.lowLogic && decide (o.logic = .on)) || (o.lowMem && decide (o.mem = .on)) || (o.lowTrav && decide (o.trav = .on))
def vddLow (s : State) : Bool :=
  (s.pwr.lowHubl && decide (s.pwr.hubl = .on)) || (s.pwr.lowHubm && decide (s.pwr.hubm = .on)) || s.outs.any fun e => outLow e.2

/-- Every condition of the release of SPEED_REQ holds now (R274). -/
def speedCalm (s : State) : Bool := !vddLow s && (guardCells s).all fun c => decide ((s.cell c).ratio ≤ s.hub.releasePm.toNat)

/-- Note the instant from which every release condition holds: the latest change with which, or after which, one failed (R274). -/
def speedNote (s0 s : State) : State := if speedCalm s0 && speedCalm s then s else s.modHub fun h => { h with speedAt := s.mer.now }

/-! ## Units, regions and links -/

/-- The sensors of a unit (R320). -/
def unitSensors (u : Nat) : List Nat := if u = 12 then List.range 8 else [8 + u]

/-- The unit's part of R265: both domains ON with their monitors at or above 0.70 V, every sample in range. -/
def unitClear (s : State) (u : Nat) : Bool :=
  (if u = 12 then decide (s.pwr.hubl = .on) && decide (s.pwr.hubm = .on) && !s.pwr.lowHubl && !s.pwr.lowHubm
   else decide ((s.op u).logic = .on) && decide ((s.op u).mem = .on) && !(s.op u).lowLogic && !(s.op u).lowMem) &&
  (unitSensors u).all fun n => !(tget {} s.pwr.temps n).out

/-- The latest measurement passes the rod guard against the threshold in force (R267, R280). -/
def Cell.rodOk (x : Cell) : Bool := !x.tripped && decide (x.rodPs.toNat * (1000 + x.margin.toNat) ≤ x.coef.toNat * 1000)

/-- The cell's part of R265; a coefficient or a margin at its safe value refuses the grade (R273). -/
def cellClear (s : State) (c : Nat) : Bool :=
  let x := s.cell c
  x.en && !x.fenced && decide (x.bist = 1) && x.rodOk && !x.safeCoef && !x.safeMargin && unitClear s (unitOf c)

/-- A region of one cell. -/
def regionClear (s : State) : Option Nat → Bool
  | none => false
  | some c => cellClear s c

/-- The region of a station (R264): the rank cell and the delivery cell that serve it. -/
def stnClear (s : State) (n : Nat) : Bool := regionClear s (rankCell s n) && regionClear s (deliveryCell s n)

/-- An alignment message is due to start within the next 10 ns (R260): downward the ALIGN of the next slot; upward the ECHO that
answers an ALIGN on its way, until it has started (R220). -/
def alignDue (s : State) (k : Nat) (up : Bool) : Bool :=
  if up then s.net.any fun p => match p.msg with | .align j .. => decide (j = k) | .echo .. => p.waitsAt k true | _ => false
  else decide (4096 - s.mer.now.toNat % 4096 ≤ 10)

/-- A message closes the gate of the direction it waits to cross (R260). -/
def holdsGate (k : Nat) (up : Bool) (p : Packet) : Bool :=
  p.waitsAt k up && (p.msg.isSecure || p.msg.isTimed || p.msg.isGangDone)

/-- The timed gate of one direction of link `k` is open (R260). -/
def gateOpen (s : State) (k : Nat) (up : Bool) : Bool :=
  linkUp s k && !alignDue s k up && pacerReady s (if up then (s.op k).secUp else (s.op k).secDown) &&
  !(s.gates.any fun g => decide (g.1 = k) && (g.2.1 == up)) && !(s.net.any (holdsGate k up))

/-- The link region of one direction of link `k` is clear (R264, R265). -/
def linkClear (s : State) (k : Nat) (up : Bool) : Bool :=
  (roleCells s k roleLink).all (cellClear s) && decide ((roleCells s k roleLink).length > 0) &&
  decide ((s.op k).trav = .on) && !(s.op k).lowTrav && decide ((s.op k).align = .aligned) && gateOpen s k up

/-- Die `k` is marked in every route unit: lost, closing or off (R187, R420, R422). -/
def dieMarked (s : State) (k : Nat) : Bool := (s.op k).lost || (s.op k).closing || decide ((s.op k).logic ≠ .on)

/-- Candidates of a group do not go to die `k`: it is marked, or a secure power cut is in force (R187, R400, R420). -/
def awayFor (s : State) (k : Nat) (secure : Bool) : Bool := dieMarked s k || (secure && (s.op k).secCut)

/-- The hub answers the pages of die `k` (R212). -/
def dieAway (s : State) (k : Nat) : Bool := (s.op k).lost || decide ((s.op k).logic ≠ .on)

/-- Outpost `k` is in service (R312). -/
def inService (s : State) (k : Nat) : Bool :=
  populated s k && decide ((s.op k).logic = .on) && linkUp s k && !(s.op k).lost

/-! ## Order of candidates -/

/-- The age key of a candidate at meridian `m` (R166). -/
def ageKey (m : Stamp) (c : Cand) : Nat := if c.aged then ageMark else min (age23 m c.stamp) ageMark

/-- Candidate `a` is ahead of candidate `b` (R166). -/
def ahead (m : Stamp) (a b : Cand) : Bool :=
  if a.rank ≠ b.rank then decide (a.rank.toNat < b.rank.toNat)
  else if ageKey m a ≠ ageKey m b then decide (ageKey m a > ageKey m b)
  else decide (a.evid < b.evid)

/-- The seat ahead of every other seat. -/
def best (m : Stamp) : List Cand → Option Cand
  | [] => none
  | c :: t => match best m t with
    | none => some c
    | some d => if ahead m d c then some d else some c

/-- The seat behind every other seat (R169). -/
def hindmost (m : Stamp) : List Cand → Option Cand
  | [] => none
  | c :: t => match hindmost m t with
    | none => some c
    | some d => if ahead m c d then some d else some c

/-- Candidates in their order, for the leave of R373. -/
def insertCand (m : Stamp) (c : Cand) : List Cand → List Cand
  | [] => [c]
  | d :: t => if ahead m c d then c :: d :: t else d :: insertCand m c t
def sortCands (m : Stamp) (cs : List Cand) : List Cand := cs.foldl (fun acc c => insertCand m c acc) []

/-! ## Fallback -/

/-- The fallback entry of die `k` for a group (R186). -/
def fallback (s : State) (k : Nat) (secure : Bool) : Option Nat := if secure then (s.op k).fallS else (s.op k).fallN

/-- Where a candidate for station `n` goes (R186): the station, the fallback of a marked die, or none: held. A fallback is
not followed further. -/
def resolve (s : State) (n : Nat) (secure : Bool) : Option Nat :=
  if awayFor s (n / 48) secure then
    match fallback s (n / 48) secure with
    | none => none
    | some f => if dieMarked s (f / 48) then none else some f
  else some n

/-! ## The hypervisor doorbell (R206, R369, R370) -/

/-- The numbers of the contexts that count in STN_HV_DB.PENDING of station `n`: those whose doorbell event goes there (R187, R189, R257). -/
def pendingCtxs (s : State) (n : Nat) : List Nat :=
  (s.ctxs.filter fun e => e.2.counted && decide (e.2.dbAt = some n)).map (·.1)

/-- Those of them whose doorbell event has reached the station: the doorbell entry covers these (R206, R257). -/
def dbCtxs (s : State) (n : Nat) : List Nat :=
  (s.ctxs.filter fun e => e.2.counted && e.2.dbIn && decide (e.2.dbAt = some n)).map (·.1)

/-- The oldest recorded candidate of a context, by its age key. -/
def oldest (m : Stamp) : List Cand → Option Cand
  | [] => none
  | c :: t => match oldest m t with
    | none => some c
    | some d => if ageKey m d > ageKey m c then some d else some c
def ctxOldest (s : State) (m : Stamp) (v : Nat) : Option Cand := oldest m ((s.ctx v).cands.map (·.cand))

/-- Context `a` is announced before context `b` (R370). DESIGN CHOICE (log entry 90): R370 compares the oldest recorded candidates; a context
that counts for SPILL alone records none, and its age key is taken as 0, so that it comes last within its DB_RANK. -/
def announceFirst (s : State) (m : Stamp) (a b : Nat) : Bool :=
  let x := s.ctx a; let y := s.ctx b
  let ka := match ctxOldest s m a with | some c => ageKey m c | none => 0
  let kb := match ctxOldest s m b with | some c => ageKey m c | none => 0
  if x.dbRank ≠ y.dbRank then decide (x.dbRank.toNat < y.dbRank.toNat)
  else if ka ≠ kb then decide (ka > kb) else decide (a < b)

/-- The context that a claim of the doorbell entry announces (R370). -/
def announced (s : State) (n : Nat) : Option Nat :=
  let m := (s.op (n / 48)).copy
  (dbCtxs s n).foldl (fun b v => match b with
    | none => some v
    | some w => if announceFirst s m v w then some v else some w) none

/-- The doorbell entry is active at the station (R206). -/
def dbActive (s : State) (n : Nat) : Bool := (s.stn n).norm.stack.any (·.kind)

/-- The doorbell entry of station `n` as a candidate of its normal tournament, while it is seated (R206): the lowest
rank and the oldest stamp of the contexts it covers, and EVID 0 for the tie-break. DESIGN CHOICE (log entry 71): where none of them holds a
recorded candidate (only SPILL counts them), the stamp is the outpost's copy as it stands. -/
def dbSeat (s : State) (n : Nat) : Option Cand :=
  match dbCtxs s n with
  | [] => none
  | v :: vs =>
    if dbActive s n then none
    else
      let m := (s.op (n / 48)).copy
      let rank := vs.foldl (fun r w => if (s.ctx w).dbRank.toNat < r.toNat then (s.ctx w).dbRank else r) (s.ctx v).dbRank
      match oldest m ((v :: vs).filterMap (ctxOldest s m)) with
      | some c => some { evid := 0, rank := rank, stamp := c.stamp, aged := c.aged, mode := .level }
      | none => some { evid := 0, rank := rank, stamp := stamp23 m, mode := .level }

/-! ## Presentation -/

/-- How many entries a stack holds at most (R198, R327). -/
def stackLimit : Tour → Nat
  | .normal => 32
  | .secure => 8
  | .virt => 16

/-- How many seats a tournament has, and the count at which a park flag is answered (R165, R170). -/
def seatLimit : Tour → Nat
  | .normal => 64
  | .secure => 16
  | .virt => 32
def reofferLevel : Tour → Nat
  | .normal => 48
  | .secure => 12
  | .virt => 24

/-- The running value of a group; none while it is idle (R198). -/
def Group.running (g : Group) : Option Rank := g.stack.head?.map (·.running)

/-- The comparison of R171 and R172 on the top PRE_BITS bits. -/
def below (pre : BitVec 4) (a b : Rank) : Bool :=
  let sh := 8 - min 8 pre.toNat
  decide (a.toNat >>> sh < b.toNat >>> sh)

/-- The winner `c` passes the running value and the mask of its group (R171). -/
def passes (g : Group) (c : Cand) : Bool :=
  (match g.running with | none => true | some r => below g.preBits c.rank r) &&
  (g.maskOpen || below g.preBits c.rank g.maskRank)

def tourOf : Grp → Tour
  | .normal => .normal
  | .secure => .secure

/-- The candidates of a group's tournament, the doorbell entry of R206 included. -/
def groupCands (s : State) (n : Nat) (g : Grp) : List Cand :=
  (match g with
   | .normal => (match dbSeat s n with | some c => [c] | none => [])
   | .secure => []) ++ (s.grp n g).seats.map (·.cand)

/-- The winner of a group's tournament (R166, R168). -/
def winner (s : State) (n : Nat) (g : Grp) : Option Cand := best (s.op (n / 48)).copy (groupCands s n g)

/-- The station has an active secure entry (R160). -/
def secureActive (s : State) (n : Nat) : Bool := !(s.stn n).sec.stack.isEmpty

/-- The delivery cell of the station is enabled. -/
def stnOn (s : State) (n : Nat) : Bool := onCell s (deliveryCell s n)

/-- The rank cell of the station is enabled; draining it deasserts the wires (R61). -/
def rankOn (s : State) (n : Nat) : Bool := onCell s (rankCell s n)

/-- The presented winner of a group (R171, R201, R61). -/
def presented (s : State) (n : Nat) (g : Grp) : Option Cand :=
  if stnOn s n && rankOn s n && decide ((s.grp n g).stack.length < stackLimit (tourOf g)) &&
     !(decide (g = .normal) && secureActive s n) then
    match winner s n g with
    | none => none
    | some c => if passes (s.grp n g) c then some c else none
  else none

/-- The level of NREQ or SREQ (R190). -/
def reqLevel (s : State) (n : Nat) (g : Grp) : Bool := (presented s n g).isSome && !dieAway s (n / 48)

/-- The winner of the virtual tournament of the resident vCPU `v` on station `n`, if it is presented (R374). -/
def presentedVirt (s : State) (n v : Nat) : Option Cand :=
  let g := (s.ctx v).g
  if stnOn s n && rankOn s n && decide (g.stack.length < 16) && !secureActive s n then
    match best (s.op (n / 48)).copy (g.seats.map (·.cand)) with
    | none => none
    | some c => if passes g c then some c else none
  else none

/-- The virtual request level of station `n` (R374). -/
def virtLevel (s : State) (n : Nat) : Bool :=
  match (s.stn n).resident with
  | none => false
  | some v => (presentedVirt s n v).isSome && !dieAway s (n / 48)

/-- The load of a station in a group (R175): seats and active entries. -/
def load (s : State) (n : Nat) (g : Grp) : Nat := (groupCands s n g).length + (s.grp n g).stack.length

/-- Count the assertions of the three levels of a station between two states (R462, REQ_RISES). -/
def reqWatch (n : Nat) (s0 s1 : State) : State :=
  let rise (b0 b1 : Bool) (t : State) : State := if !b0 && b1 then bump t (deliveryCell t n) 0x47 else t
  rise (virtLevel s0 n) (virtLevel s1 n) (rise (reqLevel s0 n .secure) (reqLevel s1 n .secure)
    (rise (reqLevel s0 n .normal) (reqLevel s1 n .normal) s1))

/-! ## Queues -/

/-- The waiting condition of R133 for a queue that is not active. -/
def waiting (q : Queue) : Bool :=
  match q.mode with
  | .level => decide (q.count = 1) && decide (q.activeN = 0)
  | .count | .payload => decide (q.count ≠ 0)
  | .latest => decide (q.count = 1)

/-- A further candidate may be handed out while entries are active (R137). -/
def earlyOk (q : Queue) : Bool :=
  q.early && decide (q.mode = .count) && decide (q.count ≠ 0) && decide (1 ≤ q.activeN.toNat) && decide (q.activeN.toNat ≤ 1022)

/-- A queue has an active entry. -/
def Queue.busy (q : Queue) : Bool := match q.state with | .active | .activePresented => true | _ => false
/-- A queue has a candidate out. -/
def Queue.handed (q : Queue) : Bool := match q.state with | .presented | .activePresented => true | _ => false

/-- The code of a queue mode (R127). -/
def QMode.code : QMode → BitVec 2
  | .level => 0
  | .count => 1
  | .payload => 2
  | .latest => 3

/-- Free slots of the whole pool (R153): listed slots are those in use. -/
def poolUsed (s : State) : Nat := (s.pool.filter fun e => e.2.used).length
def poolFree (s : State) : Nat := 2097152 - poolUsed s

/-- The number names a parcel (R361). -/
def parcelHeld (s : State) (p : Nat) : Bool := decide (p = 0) || decide ((s.parcel p).st ≠ .free)

/-- The pool share of a parcel (R143, R364): parcel 0 has every slot that no other parcel has. -/
def share (s : State) (p : Nat) : Nat :=
  if p = 0 then
    2097152 - (s.parcels.foldl (fun n e => if e.2.st = .free then n else n + e.2.slots + e.2.owed) 0)
  else (s.parcel p).slots

/-- A parcel may take another slot (R143). -/
def parcelRoom (s : State) (p : Nat) : Bool := decide ((s.parcel p).used < share s p) && decide (poolUsed s < 2097152)

/-- A queue is in over-quota state, or its parcel is (R118 condition 3, R390). -/
def overQuota (s : State) (q : Queue) : Bool := q.overQ || (s.parcel q.parcel).overQ

end Sys2Proof.Machine
end

