-- ==== Sys2Proof/Machine/Reject.lean ====
section
/-! DEFINITION. Rejections and their counts (R113 to R117), store errors as they are found (R155 to R157, R479), the
payload pool (R141 to R143) and the field book's space (R151, R152). -/

namespace Sys2Proof.Machine

open Sys2Proof

/-! ## Rejections -/

/-- Codes of R113. -/
def rSize : BitVec 4 := 1
def rHighClassic : BitVec 4 := 2
def rHighAddressed : BitVec 4 := 3
def rPoisonedWrite : BitVec 4 := 4
def rEvidNone : BitVec 4 := 5
def rEvidWired : BitVec 4 := 6
def rEvidInternal : BitVec 4 := 7
def rUnbound : BitVec 4 := 8
def rLockId : BitVec 4 := 9
def rLockSecure : BitVec 4 := 0xA
def rFenced : BitVec 4 := 0xB
def rQueuePoisoned : BitVec 4 := 0xC
def rHubDisabled : BitVec 4 := 0xD

/-- The counter that a reason grows (R113, R114). -/
def countReason (h : Hub) (r : BitVec 4) : Hub :=
  match r.toNat with
  | 0xD => { h with dbDiscard := satInc h.dbDiscard }
  | 1 | 2 | 3 | 4 => { h with dbFormat := satInc h.dbFormat }
  | 9 | 0xA => { h with dbLock := satInc h.dbLock }
  | 5 | 6 | 7 | 8 => { h with dbRange := satInc h.dbRange }
  | 0xB | 0xC => { h with dbState := satInc h.dbState }
  | _ => h

/-- The rejection word of R477. -/
def rejWord (e : Nat) (r : BitVec 4) (port : Nat) (sec win : Bool) : Word :=
  at_ 0 (e % 2 ^ 20) ||| at_ 20 r.toNat ||| at_ 24 (port % 8) ||| flag 27 sec ||| flag 28 win

/-- Fill the doorbell capture if it is armed (R116). DATA_HI of a SIZE capture is 0 (log entry 17). -/
def captureDb (h : Hub) (r : BitVec 4) (port : Nat) (sec win : Bool) (rid : BitVec 16) (e : Nat) (data : Word) : Hub :=
  if h.dbCap.valid then h
  else { h with dbCap := { valid := true, reason := r, port := BitVec.ofNat 3 port, sec := sec, addr := win, rid := rid,
                           dataHi := if r = rSize then 0 else data.extractLsb' 20 12, evid := BitVec.ofNat 20 e,
                           data := if r = rSize then 0 else data } }

/-- The fault that a reason raises (R113, R117). -/
def faultReason (s : State) (r : BitVec 4) (word arg1 : Word) (sec : Bool) : State :=
  match r.toNat with
  | 1 | 2 | 3 | 4 => raise s 0x12 12 sec word arg1 1 (some 0)
  | 9 | 0xA => raise s 0x11 12 sec word arg1 1 (some 0)
  | _ => s

/-- Count, capture and report one rejection, or one HIGH_ADDRESSED, of a doorbell write. -/
def rejectDb (s : State) (r : BitVec 4) (port : Nat) (win : Bool) (data : Word) (rid : BitVec 16) (sec : Bool) (e : Nat) : State :=
  let s1 := s.modHub fun h => captureDb (countReason h r) r port sec win rid e data
  faultReason s1 r (rejWord e r port sec win) (at_ 0 rid.toNat ||| at_ 16 (if r = rSize then 0 else data.toNat >>> 20))
    (s.queue e).secure

/-- Set REJECTED and LAST_REASON of a page (R213, R216); the record of a vCPU that is not resident shows them (R327, R368). -/
def pageReject (s : State) (p : Page) (r : BitVec 4) : State :=
  match p with
  | .stn n g => if dieAway s (n / 48) then s else s.modGrp n g fun x => { x with rejected := true, reason := r }
  | .vst v => s.modCtx v fun x => { x with
      g := { x.g with rejected := true, reason := r }
      changed := x.changed || (x.station.isNone && (!x.g.rejected || decide (x.g.reason ≠ r))) }

/-- A send rejected before any ledger is reached (R213); `data` is the word written, whose bits [31:20] are DATA_HI of R477. -/
def rejectSend (s : State) (p : Page) (r : BitVec 4) (rid : BitVec 16) (sec : Bool) (e : Nat) (data : Word) : State :=
  pageReject (faultReason (s.modHub (countReason · r)) r (rejWord e r 0 sec false) (at_ 0 rid.toNat ||| at_ 16 (data.toNat >>> 20))
    (s.queue e).secure) p r

/-- What a rejection of a token adds to its queue's parcel (R113, R382, R384). -/
def rejectParcel (s : State) (e : Nat) (r : BitVec 4) (bySource : Bool) : State :=
  let p := queueParcel s e
  if bySource ∧ r.toNat ≥ 9 then
    let s1 := if r = rFenced then touch (s.modParcel p fun x => { x with fDoors := satInc x.fDoors }) p else s
    perfAdd s1 p 0x0AC 1
  else s

/-- Reject a token at its ledger, or a record at its release (`late`: a deferred one), where a send is told by a notice (R216). DESIGN CHOICE
(log entry 72): a send's record that was accepted when it was written (DEFERRED = 0) and is discarded at its release sets REJECTED of its page
at once, without a notice; R216 speaks of deferred records alone. -/
def rejectToken (s : State) (c : Option Nat) (t : Token) (r : BitVec 4) (late : Bool) : State :=
  let s0 := bump s c 0x22
  match t.src with
  | .doorbell port win data =>
    rejectParcel (rejectDb s0 r port win data t.rid t.sec t.evid) t.evid r true
  | .send p =>
    let s1 := faultReason (s0.modHub (countReason · r)) r (rejWord t.evid r 0 t.sec false) (at_ 0 t.rid.toNat) (s.queue t.evid).secure
    let s2 := rejectParcel s1 t.evid r true
    if late then
      match p with
      | .stn n _ => if dieAway s (n / 48) then s2 else sendFrom s2 c (.sendReject p r) none (some (n / 48))
      | .vst v => sendFrom s2 c (.sendReject p r) none (match (s.ctx v).station with | some n => if dieAway s (n / 48) then none else some (n / 48) | none => none)
    else pageReject s2 p r
  | .wired => if r = rQueuePoisoned then (if t.edge = .deassert then s0 else bump s0 c 0x29) else s0.modHub (countReason · r)
  | .alarm a => faultReason ((s0.modHub (countReason · r)).modMer fun m => { m with alrmRej := m.alrmRej ||| (1#4 <<< a) }) r
      (rejWord t.evid r 0 t.sec false) 0 (s.queue t.evid).secure
  | _ => faultReason (s0.modHub (countReason · r)) r (rejWord t.evid r 0 t.sec false) 0 (s.queue t.evid).secure

/-! ## Store errors -/

/-- Kind of a store (R479). -/
def Store.kind : Store → Nat
  | .desc _ => 0 | .slot _ => 1 | .record _ => 2 | .seat .. => 3 | .stack .. => 4 | .ctx _ => 5 | .gather _ => 6
  | .place _ => 7 | .gang _ => 8 | .input _ => 9
  | .vstack .. => 4
  | .tag k _ => k
  | .mutex _ | .ring | .page _ => 15   -- no store words: found by `overrun`, by the field book and by a block write

/-- The tag word of a seat or an entry, which holds its EVID, can be read (R479). -/
def tagOk (s : State) (x : Store) (e : Nat) : Bool := !(s.ecc.any fun y => decide (y.1 = .tag x.kind e) && y.2)

/-- A read of a store word: whether it meets an uncorrectable error, which is then taken out, raised and left to the
caller's action. A corrected error is written back and counted (R155, R479). `c` is the cell, `e` the EVID, for which 0 is reported where
the tag that holds it cannot be read. -/
def strike (s : State) (x : Store) (e : Nat) (c : Option Nat) : Bool × State :=
  match s.ecc.find? fun y => decide (y.1 = x) || decide (y.1 = .tag x.kind e) with
  | none => (false, s)
  | some y =>
    let s1 : State := { s with ecc := s.ecc.filter fun z => decide (z.1 ≠ x) && decide (z.1 ≠ .tag x.kind e) }
    if y.2 || !tagOk s x e || s.ecc.any fun z => decide (z.1 = x) && z.2 then
      let cellNo := if x.kind = 1 ∨ x.kind = 2 then 0x7FF else c.getD 0x7FF
      let ok := tagOk s x e
      (true, raise s1 0x10 12 (ok && (s.queue e).secure) (w32 (if ok then e else 0)) (w32 cellNo) (w32 x.kind) none)
    else
      -- the word and its tag are two words: each correction counts
      let n := (s.ecc.filter fun z => decide (z.1 = x) || decide (z.1 = .tag x.kind e)).length
      let s2 := bumpBy s1 c 0x05 n
      (false, if x.kind ≤ 2 then s2.modHub fun h => { h with eccCorr := satAdd h.eccCorr n } else s2)

/-- One token that the arbiter of a cell lets in (R35, R462). -/
def arbitrate (s : State) (c : Option Nat) (timed : Bool) : State := bumpIn (overrun s c) c timed

/-! ## Payload pool -/

/-- The first free slot at or above `n`, wrapping; `fuel` steps. -/
def findFree (s : State) : Nat → Nat → Nat
  | 0, n => n
  | f + 1, n => if (s.slot n).used then findFree s f ((n + 1) % 2097152) else n

/-- Take a free slot for parcel `p`, with LINK pointing to itself (R142, R143). Which one is free value `Config.freeSlot` (log entry 6). -/
def poolTake (s : State) (p : Nat) : Nat × State :=
  let n := findFree s (poolUsed s + 1) (Config.freeSlot s.free % 2097152)
  let s1 := s.setSlot n { used := true, parcel := p, link := n }
  let s2 : State := { s1 with free := s.free + 1, ecc := s1.ecc.filter fun z => decide (z.1 ≠ .slot n) }
  let s3 := s2.modParcel p fun x => { x with used := x.used + 1 }
  let hi := getW (s3.parcel p).perfCnt (0x0B0 / 4)
  (n, touch (if (s3.parcel p).used > hi.toNat then perfAdd s3 p 0x0B0 ((s3.parcel p).used - hi.toNat) else s3) p)

/-- The over-quota flags of a parcel and its queues after slots were freed (R147, R390). -/
def quotaCheck (s : State) (p : Nat) : State :=
  let s1 := if (s.parcel p).overQ ∧ (s.parcel p).used < share s p then touch (s.modParcel p fun x => { x with overQ := false }) p else s
  { s1 with queues := s1.queues.map fun e =>
      if e.2.overQ ∧ e.2.parcel = p ∧ e.2.count.toNat < e.2.quota.toNat ∧ (s1.parcel p).used < share s1 p
      then (e.1, { e.2 with overQ := false }) else e }

/-- Return a slot to the free list and its parcel's share (R142); what the parcel owes goes to parcel 0 (R390). -/
def poolFreeSlot (s : State) (n : Nat) : State :=
  let p := (s.slot n).parcel
  let s1 := s.setSlot n {}
  touch (quotaCheck (s1.modParcel p fun x => { x with used := x.used - 1, owed := x.owed - 1 }) p) p

/-- The head slot of a PAYLOAD queue (R142). -/
def headSlot (s : State) (q : Queue) : Nat := (s.slot q.tail).link

/-- Link a new entry after TAIL (R142). -/
def linkTail (s : State) (e : Nat) (pl : Payload) (st : Stamp23) (g : Bool) : State :=
  let q := s.queue e
  let r := poolTake s q.parcel
  let n := r.1
  let s1 := r.2
  let head := if q.count = 0 then n else (s1.slot q.tail).link
  let s2 := s1.setSlot n { (s1.slot n) with payload := pl, stamp := st, grade := g, link := head }
  let s3 := if q.count = 0 then s2 else s2.setSlot q.tail { (s2.slot q.tail) with link := n }
  s3.modQueue e fun x => { x with tail := n, count := x.count + 1 }

/-- Unlink and free the head of a PAYLOAD queue (R142). -/
def unlinkHead (s : State) (e : Nat) : State :=
  let q := s.queue e
  if q.count = 0 then s
  else
    let h := headSlot s q
    let s1 := if q.count = 1 then s.modQueue e fun x => { x with tail := 0 }
      else s.setSlot q.tail { (s.slot q.tail) with link := (s.slot h).link }
    poolFreeSlot (s1.modQueue e fun x => { x with count := x.count - 1 }) h

/-- Free every waiting entry of a PAYLOAD queue. -/
def unlinkAll (s : State) (e : Nat) : Nat → State
  | 0 => s
  | n + 1 => unlinkAll (unlinkHead s e) e n

/-! ## Field book -/

/-- Records in the spill ring at most (R151): the size word of hub ledger index 0. -/
def ringSize (s : State) : Nat :=
  match roleCell s 12 roleLedger 0 with
  | none => 0
  | some c => match bits (getW (s.cell c).plat 0x12) 0 5 with
    | 0 => 0
    | n => 2 ^ n

/-- The field book takes no new record (R152): the buffer is full, and the ring too, or the place in it that comes next still holds a waiting
record. -/
def fbFull (s : State) : Bool :=
  decide (s.fb.recs.length ≥ 8192) && (s.fb.ringBad || decide (s.fb.ring.length ≥ ringSize s) || s.fb.ring.any fun r => decide (r.place = s.fb.place))

/-- The live records of a queue, oldest first. -/
def fbOf (s : State) (e : Nat) : List FbRec := (s.fb.recs ++ s.fb.ring).filter fun r => decide (r.evid = e)

/-- A live record of the queue waits. -/
def fbWaits (s : State) (e : Nat) : Bool := (fbOf s e).any fun r => decide (r.dead = 0)

/-- Note FULL: FULL_SEEN, and POOL_EXHAUSTED with 0x400 once for each rise (R152, R153). -/
def fbNote (s : State) (e : Nat) : State :=
  let f := fbFull s
  let tot := s.fb.recs.length + s.fb.ring.length
  let pk := if tot > s.fb.peak.toNat then BitVec.ofNat 26 tot else s.fb.peak
  let s1 : State := { s with fb := { s.fb with fullSeen := s.fb.fullSeen || f, wasFull := f, peak := pk } }
  if f && !s.fb.wasFull then raise s1 0x08 12 (s.queue e).secure 0x400 (w32 e) 1 (some 0x400) else s1

/-- The 16 bytes of a record, lowest first (R149). -/
def FbRec.bytes (r : FbRec) : List (BitVec 8) :=
  let w : Nat := r.evid % 2 ^ 20 + r.payload.toNat * 2 ^ 20 + r.rid.toNat * 2 ^ 40 + (if r.sec then 2 ^ 56 else 0) +
    (if r.deferred then 2 ^ 57 else 0) + r.cause.toNat * 2 ^ 58 + r.stamp.toNat * 2 ^ 64
  (List.range 16).map fun i => BitVec.ofNat 8 (w >>> (8 * i))

/-- The address of the next record in the ring (R151). -/
def ringAddr (s : State) : Nat := (s.fb.base.toNat + 16 * (s.fb.place % max 1 (ringSize s))) % 2 ^ 64

/-- Put a record where there is room: the buffer first, then the ring in system memory (R24, R151). -/
def fbPut (s : State) (r : FbRec) : State :=
  fbNote (if s.fb.recs.length < 8192 ∧ s.fb.ring = [] then { s with fb := { s.fb with recs := s.fb.recs ++ [r] } }
    else { s with mem := memWrite s.mem (ringAddr s) r.bytes
                  fb := { s.fb with ring := s.fb.ring ++ [{ r with place := s.fb.place }], place := (s.fb.place + 1) % max 1 (ringSize s) } }) r.evid

/-- A memory master error on the ring: RING_ERR, and the ring counts as full; the log entry counts the records lost (R152). -/
def ringError (s : State) (lost : Nat) : State :=
  let e := Config.ringError lost
  log { s with ecc := s.ecc.filter (fun y => decide (y.1 ≠ .ring)), fb := { s.fb with ringErr := true, ringBad := true } } (Config.logCode e.1) 12 false
    e.2.1 e.2.2.1 e.2.2.2

/-- The next access to the ring fails. -/
def ringStruck (s : State) : Bool := s.ecc.any fun y => decide (y.1 = .ring)

/-- The write of a record that would go to the ring, where it fails (R152). -/
def ringProbe (s : State) : State :=
  if ringStruck s ∧ 8192 ≤ s.fb.recs.length ∧ fbFull s = false then ringError s 0 else s

/-- Take out the first record that `f` accepts. -/
def dropFirst (f : FbRec → Bool) : List FbRec → List FbRec
  | [] => []
  | r :: t => if f r then t else r :: dropFirst f t

/-- The ring's oldest record moves to the buffer as space frees (R151). One that cannot be read is lost, and the next one follows
(R152). -/
def fbRefill (s : State) : State :=
  match s.fb.ring with
  | [] => s
  | r :: t =>
    if s.fb.recs.length ≥ 8192 then s
    else if ringStruck s then
      let u := ringError { s with fb := { s.fb with ring := t } } 1
      let v := u.modQueue r.evid fun x => { x with fbw := x.fbw && fbWaits u r.evid }
      fbNote (match t with
        | [] => v
        | r2 :: t2 => { v with fb := { v.fb with recs := v.fb.recs ++ [{ r2 with place := 0 }], ring := t2 } }) r.evid
    else { s with fb := { s.fb with recs := s.fb.recs ++ [{ r with place := 0 }], ring := t } }

/-- The oldest record of a queue stands in the ring, not in the buffer. -/
def fbInRing (s : State) (e : Nat) : Bool := !(s.fb.recs.any fun r => decide (r.evid = e))

/-- The oldest record of a queue leaves the field book, from the ring where the buffer holds none of that queue. DESIGN CHOICE (log entry 88):
with the buffer full of other queues' records, R150 releases such a record from the ring itself, though R151 brings records back in order; the
place it leaves free in the ring is used again only when its turn comes, so that the ring counts as full while the next place is held. -/
def fbTake (s : State) (e : Nat) : State :=
  let isE : FbRec → Bool := fun r => decide (r.evid = e)
  let fb := s.fb
  let s1 := fbRefill { s with fb := if fbInRing s e then { fb with ring := dropFirst isE fb.ring } else { fb with recs := dropFirst isE fb.recs } }
  let full := fbFull s1
  { s1 with fb := { s1.fb with wasFull := s1.fb.wasFull && full, fullSeen := s1.fb.fullSeen || full } }

/-- The oldest record of a queue is read for its release: where it stands in the ring and cannot be read there it is lost (R152), and an
uncorrectable error in the buffer discards it (R157). The answer says whether it is gone. -/
def fbRead (s : State) (e : Nat) (c : Option Nat) : Bool × State :=
  if fbInRing s e then (if ringStruck s then (true, fbTake (ringError s 1) e) else (false, s))
  else
    let k := strike s (.record e) e c
    if k.1 then (true, fbTake k.2 e) else k

end Sys2Proof.Machine
end

