-- ==== Sys2Proof/Machine/Routing.lean ====
section
/-! DEFINITION. Routes, fallback, the least-loaded choice, offers and withdrawals of candidates (R138, R161, R170,
R174 to R177, R180, R186), reservations (R120, R121, R275, R276) and the grade (R118, R264). -/

namespace Sys2Proof.Machine

open Sys2Proof

/-! ## Candidates and caches -/

/-- Payload, stamp and grade of the oldest unclaimed occurrence (R133, R205). -/
def headOf (s : State) (e : Nat) : Payload × Stamp23 × Bool :=
  let q := s.queue e
  match q.mode with
  | .level => (0, q.stamp, q.grade)
  | .count => (BitVec.ofNat 20 q.count.toNat, q.stamp, q.grade)
  | .payload => let x := s.slot (headSlot s q); (x.payload, x.stamp, x.grade)
  | .latest => let x := s.slot q.tail; (x.payload, x.stamp, x.grade)

/-- The candidate that a queue hands out (R159, R135). -/
def candOf (s : State) (e : Nat) : Cand :=
  let q := s.queue e
  let h := headOf s e
  { evid := e, rank := q.rank, secure := q.secure, grade := h.2.2, stamp := h.2.1, aged := q.aged, mode := q.mode,
    payload := h.1, rep := decide (q.mode = .count) && !q.stampSet }

/-- The tournament of a candidate by its group. -/
def candTour (c : Cand) : Tour := if c.secure then .secure else .normal
def candGrp (c : Cand) : Grp := if c.secure then .secure else .normal

/-- Links from unit `u` to the hub. -/
def upFrom (u : Nat) : Option Nat := if u = 12 then none else some u

/-- The head-cache entries of a queue once its candidate goes to die `k`: an entry that the die already holds serves; else the die's local
ledger cell takes one where it has a free position. Only message queues are cached (R29, R126, R154). -/
def cacheAt (s : State) (e k : Nat) : List Nat :=
  let cs := (s.queue e).cached
  let l := (roleCells s k roleLedger).length
  if isWired e || isInternal e || cs.any fun c => decide (unitOf c = k) then cs
  else match roleCell s k roleLedger (e % max 1 l) with
    | none => cs
    | some c =>
      let used := (s.queues.filter fun x => x.2.cached.contains c).length
      if used < 2048 - (255 + l) / max 1 l then cs ++ [c] else cs

/-- The holder stands on die `k`. -/
def Holder.onDie (k : Nat) : Holder → Bool
  | .station n _ => decide (n / 48 = k)
  | _ => false

/-- The head-cache entries that stay: those of dies where the queue is active or its candidate is (R154). -/
def Queue.keptCache (q : Queue) : List Nat :=
  q.cached.filter fun c => q.holders.any (Holder.onDie (unitOf c)) || (q.handed && decide (q.sentTo = some (unitOf c)))

/-- Release the gates taken for an EVID but those of the links `ks`, which its messages have yet to cross (R260). -/
def keepGates (s : State) (e : Nat) (ks : List Nat) : State := { s with gates := s.gates.filter fun g => decide (g.2.2 ≠ e ∨ g.1 ∈ ks) }

/-- Release every gate taken for an EVID (R260). -/
def dropGates (s : State) (e : Nat) : State := { s with gates := s.gates.filter fun g => decide (g.2.2 ≠ e) }

/-! ## Spread sets -/

/-- Where hub rank cell `c` keeps its view of the load of station `n` in a group (R175). -/
def viewKey (c n : Nat) (g : Grp) : Nat := 2048 * c + (match g with | .normal => 2 * n | .secure => 2 * n + 1)

/-- A member is eligible (R174, R177). -/
def eligible (s : State) (set n : Nat) : Bool :=
  !dieMarked s (n / 48) && stnOn s n && !((s.spread set).parkedD.contains n)

/-- The least-loaded of some stations in the view of hub rank cell `c`, the lowest number on a tie (R174, R175). -/
def leastLoad (s : State) (c : Nat) (g : Grp) (ns : List Nat) : Option Nat :=
  ns.foldl (fun b n => match b with
    | none => some n
    | some m =>
      let vn := tget 0 s.views (viewKey c n g)
      let vm := tget 0 s.views (viewKey c m g)
      if vn < vm ∨ (vn = vm ∧ n < m) then some n else some m) none

/-- The choice of R174 among the members that pass `f`. -/
def chooseMember (s : State) (set : Nat) (g : Grp) (f : Nat → Bool) : Option Nat :=
  leastLoad s ((spreadCell s set).getD 0) g ((s.spread set).members.filter fun n => eligible s set n && !awayFor s (n / 48) (decide (g = .secure)) && f n)

/-- The choice adds 1 to the cell's own view (R175). -/
def viewAdd (s : State) (c n : Nat) (g : Grp) : State :=
  { s with views := tset 0 s.views (viewKey c n g) (tget 0 s.views (viewKey c n g) + 1) }

/-- A queue's candidates go to the destination: it is the queue's route, or the fallback of its station (R170, R186). -/
def routedTo (s : State) (d : Dest) (q : Queue) : Bool :=
  match d, q.route with
  | .station a, .station b => decide (a = b) || decide (resolve s b q.secure = some a)
  | .spread a, .spread b => decide (a = b)
  | .context a, .context b => decide (a = b)
  | .gang a, .gang b => decide (a = b)
  | _, _ => false

/-- The units to which a re-offer goes: the hub, and every outpost in service whose local ledgers own a queue on the route (R170). -/
def reOfferUnits (s : State) (d : Dest) : List Nat :=
  12 :: (outpostsOf s).filter fun k => !dieAway s k && s.queues.any fun x => x.2.bound && isOutpostWired x.1 && decide (evidDie x.1 = k) && routedTo s d x.2

/-- Cell `c` of unit `u` sends a re-offer to every unit that owns a queue on the route (R30, R170). -/
def sendReOffer (s : State) (u : Nat) (c : Option Nat) (d : Dest) : State :=
  bump (forAll s (reOfferUnits s d) fun t v =>
    sendFrom t c (.reOffer d v none) (if v = u then none else upFrom u) (if v = u ∨ v = 12 then none else some v)) c 0x32

/-- Placement entries in use in a hub rank cell (R176). -/
def placesIn (s : State) (c : Nat) : Nat := (s.places.filter fun p => decide (p.cell = c)).length

/-- The re-offers of a hub rank cell's sets whose park flag waits, once its pool has fallen to 3,072 (R177). -/
def placeOffers (s : State) (c : Nat) : State :=
  if placesIn s c ≤ 3072 then
    forAll s ((s.spreads.filter fun x => x.2.park && decide (spreadCell s x.1 = some c)).map (·.1))
      fun t n => sendReOffer (t.modSpread n fun x => { x with park := false }) 12 (some c) (.spread n)
  else s

/-- Free the placement entries of an EVID that `f` accepts (R176); an error in them is found with it, and asks for nothing more (R479). -/
def dropPlaces (s : State) (e : Nat) (f : Place → Bool) : State :=
  match (s.places.filter fun p => decide (p.evid = e) && f p).map (·.cell) with
  | [] => s
  | c :: cs =>
    let s0 := (strike s (.place e) e (some c)).2
    forAll { s0 with places := s0.places.filter fun x => !(decide (x.evid = e) && f x) } (c :: cs).eraseDups placeOffers

/-- Free the placement entries of an EVID that has nothing presented or active. While an occurrence waits, one that a grant has reserved for its
candidate to come stays (R176). -/
def freePlace (s : State) (e : Nat) : State :=
  if (s.queue e).handed || (s.queue e).busy then s else dropPlaces s e fun p => !(p.reserved && decide ((s.queue e).count ≠ 0))

/-- The candidate of an EVID comes back: the placement entry of its choice is freed once nothing of the queue is active, or, where it never
reached its hub rank cell, the one that its grant reserved, the first of its EVID; it is chosen again when it is next offered (R176). -/
def unplace (s : State) (e : Nat) (timed : Bool) : State :=
  let q := s.queue e
  if timed && q.sentTo.isNone then
    match s.places.find? fun p => decide (p.evid = e) && p.reserved with
    | some p => placeOffers { s with places := s.places.erase p } p.cell
    | none => s
  else if q.busy then s else dropPlaces s e fun p => !p.reserved

/-! ## Handing out and taking back -/

/-- The lowest-numbered member of a spread set, by whose die the set's candidates are held where no member is eligible (R174). -/
def lowMember (s : State) (n : Nat) : Option Nat :=
  (s.spread n).members.foldl (fun b m => match b with | none => some m | some k => some (min k m)) none

/-- The queue's spread route is held under R186 still: no member is eligible, and the fallback takes nothing. -/
def spreadHeld (s : State) (n : Nat) (q : Queue) : Bool :=
  q.heldFor.isSome && (chooseMember s n (if q.secure then .secure else .normal) fun _ => true).isNone &&
  (match lowMember s n with | some m => (resolve s m q.secure).isNone | none => false)

/-- Hand the candidate of queue `e` to its route (R138). `st` is the state that follows. A station of a marked die
sends it to the group's fallback, or holds the queue (R186). -/
def handOut (s : State) (e : Nat) (st : QState) : State :=
  let q := s.queue e
  let c := candOf s e
  let u := ownerUnit e
  let out (m : Msg) (up down die : Option Nat) (cache : List Nat) : State :=
    sendFrom (s.modQueue e fun x => { x with state := st, heldFor := none, parked := false, cached := cache, sentTo := die }) (ledgerCell s e) m up down
  match q.route with
  | .station n =>
    match resolve s n q.secure with
    | none => s.modQueue e fun x => { x with heldFor := some (n / 48) }
    | some t =>
      if u = t / 48 then out (.candStation t (candTour c) c) none none (some (t / 48)) q.cached
      else out (.candStation t (candTour c) c) (upFrom u) (some (t / 48)) (some (t / 48)) (if u = 12 then cacheAt s e (t / 48) else q.cached)
  | .spread n => if spreadHeld s n q then s else out (.candSpread n c) (upFrom u) none none q.cached
  | .context v => out (.candContext v c) (upFrom u) none none q.cached
  | .gang g => out (.candGang g c) (upFrom u) none none q.cached

/-- Withdraw the candidate of a queue (R138): the state changes at once, and the recalled goes to whatever holds it. -/
def withdraw (s : State) (e : Nat) : State :=
  let q := s.queue e
  if q.handed then
    let st := match q.state with
      | .activePresented => QState.active
      | _ => if waiting q then .pending else .idle
    let s1 := s.modQueue e fun x => { x with state := st, recalled := true, cached := ({ x with state := st } : Queue).keptCache }
    dropGates (sendFrom s1 (ledgerCell s e) (.withdrawal e q.route) none none) e
  else s

/-- Orphan every entry of an EVID on every stack (R132). -/
def orphanStack (e : Nat) (st : List Entry) : List Entry :=
  st.map fun x => if x.evid = e ∧ x.kind = false then { x with orphan := true } else x
def orphan (s : State) (e : Nat) : State :=
  { s with
    stns := s.stns.map fun x => (x.1, { x.2 with
      norm := { x.2.norm with stack := orphanStack e x.2.norm.stack }, sec := { x.2.sec with stack := orphanStack e x.2.sec.stack } })
    ctxs := s.ctxs.map fun x => (x.1, { x.2 with
      g := { x.2.g with stack := orphanStack e x.2.g.stack }, saved := { x.2.saved with stack := orphanStack e x.2.saved.stack } }) }

/-- Mark the queue's field-book records: they are discarded as they reach release (R132, R156, R385). -/
def killRecs (s : State) (e : Nat) (why : BitVec 4) : State :=
  let f : FbRec → FbRec := fun r => if r.evid = e ∧ r.dead = 0 then { r with dead := why } else r
  { s with fb := { s.fb with recs := s.fb.recs.map f, ring := s.fb.ring.map f } }

/-- Poison a queue (R156): its candidate is withdrawn, active entries are left to be ignored, its slots are lost. -/
def poison (s : State) (e : Nat) : State :=
  let s1 := orphan (killRecs (withdraw s e) e rQueuePoisoned) e
  let rc := (s1.queue e).recalled
  dropPlaces (dropGates (s1.setQueue e { bound := true, poisoned := true, recalled := rc }) e) e fun _ => true

/-- A read of a descriptor: an uncorrectable error in it poisons the queue (R155, R156). -/
def descRead (s : State) (e : Nat) : State :=
  let r := strike s (.desc e) e (ledgerCell s e)
  if r.1 then poison r.2 e else r.2

/-- Offer queue `e` to its route where R137 and R138 allow it and its ledger cell is enabled; a parked one waits (R169, R170). The ledger reads
the descriptor for it (R155). -/
def offer (s' : State) (e : Nat) : State :=
  let s := descRead s' e
  let q := s.queue e
  if q.bound = false ∨ q.poisoned ∨ q.recalled ∨ q.parked ∨ onCell s (ledgerCell s e) = false then s
  else match q.state with
    | .pending => if waiting q then handOut s e .presented else s
    | .active => if earlyOk q then handOut s e .activePresented else s
    | _ => s

/-- One of the four happenings of R170 offers the queue, a parked one too. -/
def offerAgain (s : State) (e : Nat) : State := offer (s.modQueue e fun x => { x with parked := false }) e

/-- AGED clears when nothing is held and nothing is active (R145); an IDLE queue is neither parked nor held for a die, and has no candidate to
choose again. -/
def settle (s : State) (e : Nat) : State :=
  let q := s.queue e
  let s1 := if q.aged ∧ q.count = 0 ∧ !q.busy then s.modQueue e fun x => { x with aged := false } else s
  if q.state = .idle ∧ (q.parked ∨ q.heldFor.isSome ∨ q.again) then s1.modQueue e fun x => { x with parked := false, heldFor := none, again := false } else s1

/-! ## Reservations -/

/-- Keys of the reservation table. -/
def keyStation (n : Nat) : Nat := n
def keySpread (n : Nat) : Nat := 1024 + n
def keyGang (g : Nat) : Nat := 2048 + g
def keyParcel (p : Nat) : Nat := 4096 + p

/-- The home unit of a reservation (R275). -/
def keyUnit (key : Nat) : Nat := if key < 1024 then key / 48 else 12

/-- The position of a station, set or gang among those its cell serves, in ascending number (R164, R233). -/
def rankPos (s : State) (n : Nat) : Nat := n % 48 / max 1 (roleCells s (n / 48) roleRank).length
def spreadPos (s : State) (n : Nat) : Nat := n / max 1 (roleCells s 12 roleRank).length
def gangPos (s : State) (g : Nat) : Nat := g / max 1 (roleCells s 12 roleGang).length

/-- Word 0x10C of the tuning region is index 0x43 of the block. -/
def tuneWord (x : Cell) (n : Nat) : Word := getW x.tune (0x43 + n)

/-- The setting of a reservation as its tuning word, or the parcel table, holds it (R120, R164, R233, R275). -/
def setting (s : State) (key : Nat) : Nat :=
  if key ≥ 4096 then (s.parcel (key - 4096)).resv
  else if key ≥ 2048 then
    match gangCell s (key - 2048) with
    | none => 0
    | some c => let p := gangPos s (key - 2048); 4 * bits (tuneWord (s.cell c) (p / 8)) (4 * (p % 8)) 4
  else if key ≥ 1024 then
    match spreadCell s (key - 1024) with
    | none => 0
    | some c => let p := spreadPos s (key - 1024); bits (tuneWord (s.cell c) (p / 4)) (8 * (p % 4)) 8
  else
    match rankCell s key with
    | none => 0
    | some c => let p := rankPos s key; bits (tuneWord (s.cell c) (p / 4)) (8 * (p % 4)) 8

/-- The cell that is a reservation's home, for its RESV_REFUSED count. -/
def keyCell (s : State) (key : Nat) : Option Nat :=
  if key ≥ 2048 then none else if key ≥ 1024 then spreadCell s (key - 1024) else rankCell s key

/-- The reservations that an event of queue `q` takes (R120), each once. -/
def resvKeys (s : State) (q : Queue) : List Nat :=
  let target := match q.route with
    | .station n => keyStation n
    | .gang g => keyGang g
    | .spread n => keySpread n
    | .context v => if (s.ctx v).parcel = 0 then keyStation (s.ctx v).home else keyParcel (s.ctx v).parcel
  if q.parcel = 0 ∨ target = keyParcel q.parcel then [target] else [target, keyParcel q.parcel]

/-- A reservation is open for a grantor of unit `u` and a stamp (R120, R275): only the window in progress has units. -/
def resvOpen (s : State) (u : Nat) (st : Stamp) (key : Nat) : Bool :=
  let r := s.res key
  decide (st.toNat / 1000 * 1000 = s.mer.window.toNat) &&
  (if keyUnit key = u then decide (r.usedH < r.home) else decide (r.usedL < r.lease))

/-- Take one unit. -/
def resvTake (s : State) (u key : Nat) : State :=
  let r := s.res key
  s.setRes key (if keyUnit key = u then { r with usedH := r.usedH + 1 } else { r with usedL := r.usedL + 1 })

/-! ## The grade -/

/-- The queue has room (R122), and for an OFFSET gang no earlier occurrence (R241). -/
def hasRoom (s : State) (e : Nat) : Bool :=
  let q := s.queue e
  !q.fbw && !fbWaits s e &&
  (match q.mode with
   | .level | .latest => true
   | .count => decide (q.count ≠ 0xFFF)
   | .payload => decide (q.count.toNat < q.quota.toNat) && parcelRoom s q.parcel) &&
  (match q.route with
   | .gang g => !(s.gang g).offset || (decide (q.state = .idle) && decide (q.count = 0))
   | _ => true)

/-- What a clear path needs taken: the downlinks whose gates are taken, and the spread member chosen (R176, R260). -/
def pathPlan (s : State) (e : Nat) : Option (List Nat × Option Nat) :=
  let q := s.queue e
  let u := ownerUnit e
  if !regionClear s (ledgerCell s e) then none
  else if u ≠ 12 then
    match q.route with
    | .station n => if n / 48 = u ∧ stnClear s n ∧ !awayFor s u q.secure then some ([], none) else none
    | _ => none
  else
    let reach (n : Nat) : Bool := stnClear s n && linkClear s (n / 48) false && !awayFor s (n / 48) q.secure
    match q.route with
    | .station n => if reach n then some ([n / 48], none) else none
    | .context v =>
      let x := s.ctx v
      let t := x.station.getD x.home
      if regionClear s (contextCell s v) ∧ x.bound ∧ reach t then some ([t / 48], none) else none
    | .spread n =>
      match spreadCell s n with
      | none => none
      | some c =>
        if cellClear s c ∧ placesIn s c < 4096 then
          match chooseMember s n (if q.secure then .secure else .normal) reach with
          | none => none
          | some m => some ([m / 48], some m)
        else none
    | .gang g =>
      match gangCell s g with
      | none => none
      | some c =>
        let x := s.gang g
        if cellClear s c ∧ x.defined ∧ x.members ≠ [] ∧ x.members.all reach ∧
           (s.gathers.filter fun r => decide (r.cell = c)).length < 256
        then some ((x.members.map (· / 48)).eraseDups, none) else none

/-- Reserve the placement entry or gather record of a timed candidate (R176, R265) and take the gates (R260). -/
def takePlan (s : State) (e : Nat) (plan : List Nat × Option Nat) : State :=
  let q := s.queue e
  let s1 : State := { s with gates := s.gates ++ plan.1.map fun k => (k, false, e) }
  match q.route, plan.2 with
  | .spread n, some m =>
    let c := (spreadCell s n).getD 0
    let s2 : State := { s1 with places := s1.places ++ [{ cell := c, evid := e, station := m, set := n, reserved := true }] }
    bump (viewAdd s2 c m (if q.secure then .secure else .normal)) (some c) 0x33
  | .gang g, _ =>
    { s1 with nextId := s1.nextId + 1, gathers := s1.gathers ++ [{ id := s1.nextId, cell := (gangCell s g).getD 0, gang := g, evid := e, done := 0, post := false, opened := false, pending := [], parked := [], claimed := false, risky := false, late := false }] }
  | _, _ => s1

/-- The grade of a token at its ledger: cause 0 grants, else the first condition that fails (R118, R119, R277). -/
def gradeCause (s : State) (t : Token) (replayed : Bool) : Nat :=
  let q := s.queue t.evid
  if t.pre = 1 ∨ t.pre = 7 then t.pre
  else if q.bookOnly then 2
  else if overQuota s q then 3
  else if t.pre ≠ 0 ∨ replayed then 4
  else match pathPlan s t.evid with
    | none => 4
    | some _ =>
      if !(resvKeys s q).all (resvOpen s (ownerUnit t.evid) t.stamp) then 5
      else if !hasRoom s t.evid then 6 else 0

/-- Take what a granted token needs (R120, R260, R265). -/
def grant (s : State) (t : Token) : State :=
  match pathPlan s t.evid with
  | none => s
  | some plan => takePlan (forAll s (resvKeys s (s.queue t.evid)) fun x k => resvTake x (ownerUnit t.evid) k) t.evid plan

/-- A booked event counts against its parcel (R42, R380). -/
def parcelBooked (s : State) (p : Nat) : State := touch (s.modParcel p fun x => { x with booked := x.booked + 1 }) p

/-- Count a booked event (R42, R130, R277, R382). A deferred one counts against its parcel when it is claimed (R150). -/
def countBooked (s : State) (e cause : Nat) (deferred : Bool) : State :=
  let p := (s.queue e).parcel
  let s1 := if ownerUnit e = 12 then
      { s with tally := tset 0 s.tally e (satInc (getW s.tally e)),
               hub := { s.hub with bookCnt := tset 0 s.hub.bookCnt (cause - 1) (satInc (getW s.hub.bookCnt (cause - 1))) } }
    else send s (.bookedReport e cause) (some (ownerUnit e)) none
  let s2 := if deferred then s1 else parcelBooked s1 p
  let s3 := perfAdd s2 p (0x084 + 4 * (cause - 1)) 1
  if cause = 5 then
    match (resvKeys s (s.queue e)).find? fun k => !resvOpen s (ownerUnit e) s.mer.now k with
    | some k => bump s3 (keyCell s k) 0x34
    | none => s3
  else s3

end Sys2Proof.Machine
end

