-- ==== Sys2Proof/Machine/Parity.lean ====
section
/-! DEFINITION. Parity of privileged registers (R81, R82): which registers hold a parity bit, their safe values, and what
a mismatch does. A register is named by its offset in FULL decode; entry `2^27 + c` of `State.parity` is the slot
reference of slot `c`. -/

namespace Sys2Proof.Machine

open Sys2Proof

/-! ## Offsets -/

def cellBase (c : Nat) : Nat := 0x100000 + 0x200 * c
def stnBase (n : Nat) : Nat := 0x1000000 + 0x4000 * n
def vstBase (v : Nat) : Nat := 0x4000000 + 0x1000 * v
def refOffset (c : Nat) : Nat := 2 ^ 27 + c

/-- The built-in default coefficient of R453. -/
def defaultCoef : BitVec 16 := 0x0384

/-! ## Reservations whose word takes its safe value -/

/-- The home cell of a reservation (R275). -/
def homeCell (s : State) (key : Nat) : Option Nat :=
  if key ≥ 4096 then none
  else if key ≥ 2048 then gangCell s (key - 2048)
  else if key ≥ 1024 then spreadCell s (key - 1024) else rankCell s key

/-- The word of the home cell's tuning region that holds a setting. -/
def homeWord (s : State) (key : Nat) : Nat :=
  if key ≥ 2048 then gangPos s (key - 2048) / 8
  else if key ≥ 1024 then spreadPos s (key - 1024) / 4 else rankPos s key / 4

/-- The home refuses its own grants from now on, and revokes every lease, one still on its way too (R276). -/
def revokeWord (s : State) (c w : Nat) : State :=
  forAll s ((s.resv.filter fun e => decide (homeCell s e.1 = some c) && decide (homeWord s e.1 = w)).map (·.1)) fun t key =>
    let r := t.res key
    let t1 := t.setRes key { r with home := r.usedH, homeN := 0, lease := if key < 1024 then r.lease else r.usedL, leaseN := if key < 1024 then r.leaseN else 0 }
    if key < 1024 ∧ (r.lease ≠ 0 ∨ r.leaseN ≠ 0 ∨ t.net.any fun p => match p.msg with | .lease n .. => decide (n = key) | _ => false) then sendFrom t1 (homeCell t1 key) (.leaseRevoke key) (some (key / 48)) none else t1

/-! ## Safe values -/

/-- The register at offset `off` takes its safe value (R57, R164, R196, R233, R278, R317, R321); the value is answered. -/
def takeSafe (s : State) (off : Nat) : Word × State :=
  if off ≥ 2 ^ 27 then (0, s.modCell (off - 2 ^ 27) fun x => { x with refBad := true })
  else if 0x100000 ≤ off ∧ off < 0x400000 then
    let c := (off - 0x100000) / 0x200
    let o := off % 0x200
    let s1 := s.modCell c fun x => { x with parity := true }
    if o = 0x100 then (defaultCoef.zeroExtend 32, s1.modCell c fun x => { x with coef := defaultCoef, safeCoef := true })
    else if o = 0x104 then (0x3FF, s1.modCell c fun x => { x with margin := 0x3FF, safeMargin := true })
    else (0, revokeWord (s1.modCell c fun x => { x with tune := putW x.tune (o / 4) 0 }) c ((o - 0x10C) / 4))
  else if off = 0x490 then
    (0x320 ||| at_ 10 0x3F ||| at_ 16 0x2EE, s.modHub fun h => { h with assertPm := 0x320, holdUs := 0x3F, releasePm := 0x2EE })
  else if off = 0x20200 then (0x3E80, s.modPwr fun p => { p with swPeriod := 0x3E80 })
  else if off = 0x18000 then (0, s.modMbx .secure fun m => { m with op := 0, seqIn := 0, list := false })
  else if off = 0x1800C then (0, s.modMbx .secure fun m => { m with notify := 0 })
  else if 0x18010 ≤ off ∧ off < 0x18090 then (0, s.modMbx .secure fun m => { m with args := putW m.args ((off - 0x18010) / 4) 0 })
  else if 0x1000000 ≤ off then
    let n := (off - 0x1000000) / 0x4000
    match off % 0x1000 with
    | 0x24 =>
      (match (s.grp n .secure).stack with
       | [] => (0x1FF, s)
       | x :: t => (at_ 0 x.rank.toNat, s.modGrp n .secure fun g => { g with stack := { x with running := x.rank } :: t }))
    | 0x28 => (0x100, s.modGrp n .secure fun g => { g with maskRank := 0, maskOpen := true })
    | 0x2C => (8, s.modGrp n .secure fun g => { g with preBits := 8 })
    | _ => (0, s)
  else (0, s)

/-- The unit that a log entry for an offset names. -/
def offUnit (off : Nat) : Nat :=
  if off ≥ 2 ^ 27 then unitOf (off - 2 ^ 27)
  else if 0x100000 ≤ off ∧ off < 0x400000 then unitOf ((off - 0x100000) / 0x200)
  else if 0x1000000 ≤ off ∧ off < 0x4000000 then (off - 0x1000000) / 0x4000 / 48 else 12

/-- A check of the register at `off`: on a mismatch it takes its safe value with correct parity, and PARITY is raised (R82,
R477). -/
def parityCheck (s : State) (off : Nat) : State :=
  if off ∈ s.parity then
    let s1 : State := { s with parity := s.parity.filter (· ≠ off) }
    let r := takeSafe s1 off
    let s2 := r.2.modHub fun h => { h with paritySeen := true }
    let cellBlock := decide (0x100000 ≤ off) && decide (off < 0x400000)
    let a0 := if off ≥ 2 ^ 27 then w32 (off - 2 ^ 27) else if cellBlock then w32 ((off - 0x100000) / 0x200) else 0x7FF
    let a1 := if off ≥ 2 ^ 27 then 0xFFFFFFFF else if cellBlock then w32 (off % 0x200) else w32 off
    speedNote s (raise s2 0x05 (offUnit off) false a0 a1 r.1 none)
  else s

/-- A write of an RWP register sets its parity bit with it (R81). -/
def parityClear (s : State) (off : Nat) : State := { s with parity := s.parity.filter (· ≠ off) }

/-- Every RWP register of the secure group of a station. -/
def secureCtl (n : Nat) : List Nat := [stnBase n + 0x2024, stnBase n + 0x2028, stnBase n + 0x202C]

/-- The rod registers of a cell. -/
def rodRegs (c : Nat) : List Nat := [cellBase c + 0x100, cellBase c + 0x104]

/-- Every register of the list is used, and so checked (R81, R82). -/
def parityAll (s : State) (offs : List Nat) : State := forAll s offs parityCheck

/-- The tuning word that holds a reservation's setting (R120): the home cell has RANK_RESV0 to RANK_RESV3 or GANG_RESV0 to GANG_RESV15
(R164, R233), and a setting that a plat with too few such cells puts beyond them has no word. -/
def settingReg (s : State) (key : Nat) : Option Nat :=
  if homeWord s key < (if key ≥ 2048 then 16 else 4) then (homeCell s key).map fun c => cellBase c + 0x10C + 4 * homeWord s key else none

/-- The tuning words that hold the settings of some reservations (R120). -/
def settingRegs (s : State) (keys : List Nat) : List Nat := keys.filterMap (settingReg s)

/-- The cells whose guards the grade of a token of queue `e` asks (R264). -/
def pathCells (s : State) (e : Nat) : List Nat :=
  let q := s.queue e
  let at_ (n : Nat) : List (Option Nat) := [rankCell s n, deliveryCell s n] ++ (roleCells s (n / 48) roleLink).map some
  ((ledgerCell s e :: (match q.route with
    | .station n => at_ n
    | .context v => contextCell s v :: at_ ((s.ctx v).station.getD (s.ctx v).home)
    | .spread n => spreadCell s n :: (s.spread n).members.flatMap at_
    | .gang g => gangCell s g :: (s.gang g).members.flatMap at_)).filterMap id).eraseDups

/-- The parity of everything that grading a token of queue `e` uses: guards and reservation settings (R81, R280). -/
def gradeParity (s : State) (e : Nat) : State :=
  if s.parity = [] then s else parityAll s ((pathCells s e).flatMap rodRegs ++ settingRegs s (resvKeys s (s.queue e)))

/-- The parity of the secure group controls of a station (R81, R82). -/
def secureParity (s : State) (n : Nat) : State := if s.parity = [] then s else parityAll s (secureCtl n)

/-- The parity of the rod registers of some cells (R81, R82). -/
def rodParityAll (s : State) (cs : List Nat) : State := if s.parity = [] then s else parityAll s (cs.flatMap rodRegs)

/-- The parity of a cell's rod registers (R81, R82). -/
def rodParity (s : State) (c : Nat) : State := if s.parity = [] then s else parityAll s (rodRegs c)

/-- The parity of the secure group controls of every station that holds anything. -/
def secureParityAll (s : State) : State := if s.parity = [] then s else parityAll s ((tkeys s.stns).flatMap secureCtl)

/-- The assertions of the request levels of every station that holds anything (R462); the levels of the secure groups use their controls (R81). -/
def reqWatchAll (s0 s1 : State) : State :=
  let a := secureParityAll s0
  forAll (secureParityAll s1) (tkeys s1.stns) fun t n => reqWatch n a t

/-- Note the instant from which every release condition of SPEED_REQ holds; that uses the coefficient and margin of every enabled cell (R81,
R274). -/
def speedJudge (s0 s : State) : State := speedNote (rodParityAll s0 (guardCells s0)) (rodParityAll s (guardCells s))

end Sys2Proof.Machine
end

