-- ==== Sys2Proof/Machine/Ledger.lean ====
section
/-! DEFINITION. The ledger: taking tokens, entering queues, the field book, claims and completions as the ledger applies
them, the age scan and the holder check (R111, R113, R118 to R158, R480). -/

namespace Sys2Proof.Machine

open Sys2Proof

/-- The answer of a meaning that always goes on. -/
abbrev Ans := Host.Outcome State Fault Refusal

/-- The first ledger check that a token fails, in the order of R113. -/
def checkToken (s : State) (t : Token) : Option (BitVec 4) :=
  let q := s.queue t.evid
  if q.bound = false then some rUnbound
  else if q.poisoned then some rQueuePoisoned
  else if (s.parcel q.parcel).st = .fenced then some rFenced
  else
    let secBad := q.secure && !t.sec
    let idBad := q.lockEn && decide ((t.rid ^^^ q.lockId) &&& q.lockMask ≠ 0)
    match t.lock with
    | .none => none
    | .secureOnly => if secBad then some rLockSecure else none
    | .full => if secBad then some rLockSecure else if idBad then some rLockId else none
    | .virt => if secBad then some rLockSecure else if q.lockEn = false ∨ idBad then some rLockId else none

/-- The present level of a LEVEL input, with its polarity: asserted (R90, R91). -/
def asserted (s : State) (e : Nat) : Bool :=
  let x := s.input e
  match x.mode with
  | .levelHigh => x.level
  | .levelLow => !x.level
  | _ => false

/-- The mode's action for one occurrence or level change that enters the queue (R133, R138 and the code of R139). A deferred one
is noted for its parcel's count (R150). -/
def enter (s : State) (e : Nat) (edge : Edge) (pl : Payload) (st : Stamp) (g deferred : Bool) : State :=
  let q := s.queue e
  let s1 := match q.mode with
    | .level =>
      (match edge with
       | .deassert =>
         let s0 := s.modQueue e fun x => { x with count := 0 }
         (match q.state with
          | .pending => dropGates (s0.modQueue e fun x => { x with state := .idle, heldFor := none }) e
          | .presented => withdraw s0 e
          | _ => s0)
       | _ => s.modQueue e fun x => { x with count := 1, stamp := stamp23 st, grade := g, due := if deferred then [0] else [] })
    | .count =>
      if q.count = 0xFFF then bump (s.modQueue e fun x => { x with ovf := true }) (ledgerCell s e) 0x26
      else s.modQueue e fun x => { x with
        count := x.count + 1, stamp := if x.stampSet then x.stamp else stamp23 st,
        grade := if x.stampSet then x.grade else g, stampSet := true, due := if deferred then x.due ++ [x.count.toNat] else x.due }
    | .payload =>
      let r := if q.count = 0 then (false, s) else strike s (.slot q.tail) e (ledgerCell s e)
      if r.1 then poison r.2 e
      else (linkTail r.2 e pl (stamp23 st) g).modQueue e fun x => { x with due := if deferred then x.due ++ [q.count.toNat] else x.due }
    | .latest =>
      (s.setSlot q.tail { (s.slot q.tail) with payload := pl, stamp := stamp23 st, grade := g }).modQueue e
        fun x => { x with count := 1, slotTaken := false, due := if deferred then [0] else [] }
  let q1 := s1.queue e
  let s2 := if q1.state = .idle ∧ waiting q1 then s1.modQueue e fun x => { x with state := .pending } else s1
  let s3 := if (meridian s - st).toNat ≥ ageMark ∧ (s2.queue e).count ≠ 0 then s2.modQueue e fun x => { x with aged := true } else s2
  offer (settle s3 e) e

/-- The cause for which an accepted occurrence goes to the field book (R148), if it does. -/
def bookCause (s : State) (e : Nat) : Option (BitVec 3) :=
  let q := s.queue e
  match q.mode with
  | .level => none
  | _ =>
    if q.fbw ∨ fbWaits s e then some 1
    else if q.overQ then some 2
    else if q.mode = .payload then
      if q.count.toNat ≥ q.quota.toNat then some 3 else if parcelRoom s q.parcel = false then some 4 else none
    else none

/-- The record of a token (R149). -/
def recOf (t : Token) (deferred : Bool) (cause : BitVec 3) : FbRec :=
  { evid := t.evid, payload := t.payload, rid := t.rid, sec := t.sec, deferred := deferred, cause := cause, stamp := t.stamp,
    src := t.src, lock := t.lock }

/-- Accept a token into its queue or the field book, with its grade (R87, R118, R119, R139). -/
def acceptToken (s : State) (t : Token) (replayed : Bool) : State :=
  let e := t.evid
  let lc := ledgerCell s e
  match t.edge with
  | .deassert => if (s.queue e).mode = .level then enter s e .deassert 0 t.stamp false false else s
  | _ =>
    let cause := gradeCause s t replayed
    let s1 := if cause = 0 then perfAdd (bump (grant s t) lc 0x20) (s.queue e).parcel 0x080 1
      else bump (countBooked s e cause false) lc 0x21
    match bookCause s e with
    | some c =>
      let s2 := if c = 4 then raise s1 0x08 12 (s.queue e).secure (w32 (s.queue e).parcel) (w32 e) 1 (some (s.queue e).parcel) else s1
      bump ((fbPut s2 (recOf t false (if replayed ∧ t.pre = 0 then 5 else c))).modQueue e fun x => { x with fbw := true }) lc 0x27
    | none => enter s1 e t.edge t.payload t.stamp (decide (cause = 0)) false

/-- The record of a gang cannot be read: it is undefined, and its counts are lost (R479, kind 8). -/
def gangLost (s : State) (g : Nat) : State :=
  s.modGang g fun x => { x with defined := false, releases := 0, late := 0, skipped := 0, missed := 0, stray := 0 }

/-- Hold an occurrence, with its replay mark, in the input port of its ledger cell while the field book is full (R152, R262). -/
def holdToken (s : State) (lc : Option Nat) (t : Token) (replayed : Bool) : State :=
  match lc with
  | none => s
  | some c => fbNote (s.modCell c fun x => { x with ledgerHold := some t, holdRep := replayed }) t.evid

/-- The owning ledger cell accepts or rejects a token that it has taken (R61, R87, R111, R113, R118). -/
def placeToken (s : State) (t : Token) (replayed : Bool) : State :=
  let e := t.evid
  let lc := ledgerCell s e
  if onCell s lc then
    let s0 := gradeParity (descRead s e) e
    match checkToken s0 t with
    | some why => rejectToken s0 lc t why false
    | none =>
      let s1 := if (bookCause s0 e).isSome then ringProbe s0 else s0
      if (bookCause s1 e).isSome ∧ fbFull s1 then holdToken s1 lc t replayed else acceptToken s1 t replayed
  else
    match t.edge with
    | .occurrence =>
      let s1 := ringProbe s
      if fbFull s1 then holdToken s1 lc t replayed else bump (fbPut s1 (recOf t true (if replayed ∧ t.pre = 0 then 5 else 0))) lc 0x27
    | _ => s

/-- The owning ledger cell takes a token: its arbiter lets it in, and its counters count it (R35, R462). -/
def takeToken (s : State) (t : Token) (replayed : Bool) : State :=
  let lc := ledgerCell s t.evid
  placeToken (if onCell s lc then arbitrate s lc (decide (t.pre = 0)) else s) t replayed

/-- The occurrences that ledger cells hold in their input ports are tried again once the field book has space (R152). -/
def retryHolds (s : State) : State :=
  forAll s ((s.cells.filter fun x => x.2.ledgerHold.isSome).map (·.1)) fun t c =>
    if fbFull t then t
    else match (t.cell c).ledgerHold with
      | none => t
      | some k => placeToken (t.modCell c fun x => { x with ledgerHold := none, holdRep := false }) k (t.cell c).holdRep

/-- A SEND_GANG that has reached its gang/timing cell, once that is enabled (R61), is resolved to the gang's send EVID and goes on to the ledger,
with its replay mark; a gang with none gives reason UNBOUND, a wired one EVID_WIRED (R214, R235, R258). `want` picks those of one EVID. -/
def gangPass (s : State) (want : Option Nat) : State :=
  match arrive s (fun m => match m with
      | .event t => (match t.gang with | some g => onCell s (gangCell s g) && (want.isNone || decide (want = some (s.gang g).send)) | none => false)
      | _ => false) with
  | none => s
  | some (p, s0) => match p.msg with
    | .event t =>
      let g := t.gang.getD 0
      let k := strike s0 (.gang g) (s0.gang g).send (gangCell s0 g)
      let s1 := arbitrate (if k.1 then gangLost k.2 g else k.2) (gangCell s0 g) (decide (t.pre = 0))
      let x := s1.gang g
      let refuse (r : BitVec 4) : State := match t.src with | .send pg => rejectSend s1 pg r t.rid t.sec (if r = rUnbound then 0 else x.send) 0 | _ => s1
      if !x.defined ∨ x.send = 0 then refuse rUnbound
      else if isWired x.send then refuse rEvidWired
      else if isInternal x.send then refuse rEvidInternal
      else
        let s2 := bump s1 (gangCell s1 g) 0x02
        { s2 with net := s2.net ++ [{ msg := .event { t with evid := x.send, gang := none }, cell := gangCell s1 g, replay := p.replay }] }
    | _ => s

/-- Every SEND_GANG that its gang/timing cell can resolve now, those of one EVID where `want` names it. -/
def gangTurn (s : State) (want : Option Nat) : State := forAll s s.net fun t _ => gangPass t want

/-- The oldest token of the EVID reaches the owning ledger, once it can cross its links (R43, R119); sends to gangs of that send EVID are resolved
first. A ledger that holds an occurrence takes no further token (R152). -/
def ledgerTake (s' : State) (evid : Nat) : State :=
  let s := gangTurn s' (some evid)
  let busy : Bool := match ledgerCell s evid with
    | none => false
    | some c => (s.cell c).ledgerHold.isSome
  if busy then s
  else match arrive s (fun m => match m with | .event t => decide (firstToken evid s.net = some t) | _ => false) with
    | some (p, s1) => (match p.msg with
      | .event t => takeToken s1 t p.replay
      | _ => s)
    | none => s

/-- The queue can take its oldest record (R148, R150). -/
def canTake (s : State) (q : Queue) : Bool :=
  !q.overQ && (match q.mode with
    | .payload => decide (q.count.toNat < q.quota.toNat) && parcelRoom s q.parcel
    | _ => true)

/-- A claim report or completion of the EVID waits at its ledger's input (R61). -/
def reportWaits (s : State) (e : Nat) : Bool :=
  s.net.any fun p => crossable s p && (match p.msg with
    | .claimed a .. => decide (a = e)
    | .completed a _ => decide (a = e)
    | _ => false)

/-- The oldest record of the EVID leaves the field book: its ledger cell is enabled, the reports that waited for it have gone first (R61), and
its queue can take it (R150). Records of a queue that was unbound, poisoned or fenced meanwhile are discarded at that point; a deferred one is
then checked. -/
def fieldBookRelease (s' : State) (evid : Nat) : State :=
  if onCell s' (ledgerCell s' evid) = false ∨ reportWaits s' evid then s'
  else
    let s := descRead s' evid
    let lc := ledgerCell s evid
    match (fbOf s evid).head? with
    | none => s
    | some r =>
      let tok : Token := { evid := evid, payload := r.payload, stamp := r.stamp, src := r.src, lock := r.lock, rid := r.rid, sec := r.sec }
      let fin (t : State) : State := retryHolds (t.modQueue evid fun x => { x with fbw := x.bound && !x.poisoned && fbWaits t evid })
      if r.dead = 0 ∧ canTake s (s.queue evid) = false then s
      else
        let k := fbRead s evid lc
        if k.1 then fin k.2
        else if r.dead ≠ 0 then
          fin (if r.dead = rFenced then fbTake k.2 evid else rejectToken (fbTake k.2 evid) lc tok r.dead r.deferred)
        else
          -- the first record released sets FBW before it is checked (R149); it clears as the last one leaves
          let s1 := if (k.2.queue evid).bound then k.2.modQueue evid fun x => { x with fbw := true } else k.2
          match (if r.deferred then checkToken s1 tok else none) with
          | some why => fin (rejectToken (fbTake s1 evid) lc tok why true)
          | none =>
            let s2 := bump (fbTake s1 evid) lc 0x28
            let s3 := if r.deferred then bump (countBooked s2 evid 4 true) lc 0x21 else s2
            fin (enter s3 evid .occurrence r.payload r.stamp false r.deferred)

/-- The waiting occurrence that a claim takes counts against its parcel now where it was a deferred one (R42, R150). -/
def dueCount (s : State) (e : Nat) : State :=
  let q := s.queue e
  let s1 := s.modQueue e fun x => { x with due := (x.due.filter (· ≠ 0)).map (· - 1) }
  if 0 ∈ q.due then parcelBooked s1 q.parcel else s1

/-! ## Claims and completions at the ledger -/

/-- The claim of a queue's candidate as the ledger applies it (R133, R134, R135, R138). The entry of a queue that has been
unbound or poisoned meanwhile is marked orphaned (R132). A withdrawal that is still on its way finds no candidate any more (R140). -/
def claimApply (s' : State) (e : Nat) (h : Holder) (ovf lost : Bool) : State :=
  let s := dropMsgs (descRead s' e) fun m => match m with | .withdrawal a _ => decide (a = e) | _ => false
  let q := s.queue e
  let lc := ledgerCell s e
  if q.bound = false ∨ q.poisoned then orphan (s.modQueue e fun x => { x with recalled := false }) e
  else if lost then poison s e
  else
    let s1 := s.modQueue e fun x => { x with state := .active, recalled := false, again := false, holders := x.holders ++ [h], heldFor := none, ovf := x.ovf && !ovf }
    let s2 := match q.mode with
      | .level => dueCount s1 e
      | .count => (dueCount s1 e).modQueue e fun x => { x with count := x.count - (if x.count = 0 then 0 else 1), activeN := x.activeN + 1, stampSet := false }
      | .payload => unlinkHead (dueCount s1 e) e
      | .latest => if q.slotTaken then (dueCount s1 e).modQueue e fun x => { x with count := 0, slotTaken := false } else s1
    offer (bump s2 lc 0x23) e

/-- Remove the first of equal holders. -/
def eraseHolder (h : Holder) : List Holder → List Holder
  | [] => []
  | x :: t => if x = h then t else x :: eraseHolder h t

/-- What an entry's completion does to its queue (R138, R208): the level is sampled again for LEVEL; the queue is offered
again. -/
def completeApply (s' : State) (e : Nat) (h : Holder) : State :=
  let s := descRead s' e
  let q := s.queue e
  let lc := ledgerCell s e
  if q.bound = false ∨ q.poisoned ∨ h ∉ q.holders then bump s lc 0x25
  else
    let hs := eraseHolder h q.holders
    let s1 := s.modQueue e fun x => { x with holders := hs, activeN := if x.mode = .count then x.activeN - 1 else x.activeN }
    let s2 :=
      if hs ≠ [] then s1
      else match q.state with
        | .activePresented => s1.modQueue e fun x => { x with state := .presented }
        | _ =>
          let s3 := if q.mode = .level then s1.modQueue e fun x => { x with count := if asserted s e then 1 else 0 } else s1
          let w := waiting (s3.queue e)
          freePlace (s3.modQueue e fun x => { x with state := if w then .pending else .idle }) e
    offer (settle ((bump s2 lc 0x24).modQueue e fun x => { x with cached := x.keptCache }) e) e

/-- The first claim report or completion of an EVID on its way. -/
def firstReport (s : State) (e : Nat) : Option Msg :=
  (s.net.find? fun p => match p.msg with
    | .claimed a .. => decide (a = e)
    | .completed a _ => decide (a = e)
    | _ => false).map (·.msg)

/-- The links of a claim report or completion from station `n` to the owning ledger of `e`, and those of the ledger's answer. -/
def toOwner (n e : Nat) : Option Nat × Option Nat :=
  if ownerUnit e = n / 48 then (none, none) else (some (n / 48), if ownerUnit e = 12 then none else some (ownerUnit e))
def fromOwner (n e : Nat) : Option Nat × Option Nat :=
  if ownerUnit e = n / 48 then (none, none) else (upFrom (ownerUnit e), some (n / 48))

/-- The occurrence in the slot of a LATEST queue is claimed (R140). -/
def takeSlot (s : State) (e : Nat) : State :=
  if (s.queue e).mode = .latest then s.modQueue e fun x => { x with slotTaken := true } else s

/-- The page that a holder names. -/
def holderPage : Holder → Page
  | .station n g => .stn n g
  | .context v => .vst v
  | .gang _ => .vst 0

/-- A claim whose data come from the ledger (R29, R375): the ledger sends payload, stamp and entry flags, then applies the
claim. An uncorrectable error in the head slot gives payload 0 with PAYLOAD_LOST (R157). -/
def ledgerClaim (s : State) (e : Nat) (h : Holder) : State :=
  let q := s.queue e
  let head := headOf s e
  let r := if q.mode = .payload then strike s (.slot (headSlot s q)) e (ledgerCell s e)
    else if q.mode = .latest then strike s (.slot q.tail) e (ledgerCell s e) else (false, s)
  let m : Msg := .claimData e (holderPage h) (if r.1 then 0 else head.1) head.2.1 q.aged (q.ovf && decide (q.mode = .count))
    (decide (q.mode = .count) && !q.stampSet) r.1 head.2.2
  let links := match h with
    | .station n _ => fromOwner n e
    | .context v => (match (r.2.ctx v).station with | some n => fromOwner n e | none => (upFrom (ownerUnit e), none))
    | .gang _ => (none, none)
  claimApply (takeSlot (sendFrom r.2 (ledgerCell s e) m links.1 links.2) e) e h (q.ovf && decide (q.mode = .count)) r.1

/-- The claim (`done = false`) or completion of a hypervisor doorbell entry reaches its enabled context cell, which has nothing more to do: the claim
set ANNOUNCED already (R203, R206, R370; log entry 89). -/
def serveDbReport (s : State) (done : Bool) : Option State :=
  match arrive s (fun m => match m with | .dbReport v d => (d == done) && onCell s (contextCell s v) | _ => false) with
  | some (p, s1) => (match p.msg with
    | .dbReport v _ => some (serveToken s1 (contextCell s1 v))
    | _ => none)
  | none => none

/-- CLAIM_REPORT: a claim reaches the enabled owning ledger (R61, R138); with EVID 0 that of a doorbell entry its context cell. -/
def execClaimReport (evid : Nat) (s : State) : Ans :=
  if let some t := if evid = 0 then serveDbReport s false else none then .next t
  else if onCell s (ledgerCell s evid) then
    match firstReport s evid with
    | some (.claimed ..) =>
      (match arrive s (fun m => match m with | .claimed a .. => decide (a = evid) | _ => false) with
       | some (p, s1) => (match p.msg with
         | .claimed _ h want _ ovf lost =>
           let s2 := serveToken s1 (ledgerCell s1 evid)
           if want then .next (ledgerClaim s2 evid h) else .next (claimApply s2 evid h ovf lost)
         | _ => .next s)
       | none => .next s)
    | _ => .next s
  else .next s

/-- COMPLETION_MESSAGE: a completion reaches the enabled owning ledger (R208); the claim report of its entry goes first. With EVID 0 that of a
doorbell entry reaches its context cell. -/
def execCompletionMessage (evid : Nat) (s : State) : Ans :=
  if let some t := if evid = 0 then serveDbReport s true else none then .next t
  else if onCell s (ledgerCell s evid) then
    match firstReport s evid with
    | some (.completed ..) =>
      (match arrive s (fun m => match m with | .completed a _ => decide (a = evid) | _ => false) with
       | some (p, s1) => (match p.msg with
         | .completed _ h => .next (completeApply (serveToken s1 (ledgerCell s1 evid)) evid h)
         | _ => .next s)
       | none => .next s)
    | _ => .next s
  else .next s

/-- BOOKED_COUNT_REPORT: an outpost's booked count reaches the hub (R130, R277). -/
def execBookedCountReport (evid : Nat) (s : State) : Ans :=
  match arrive s (fun m => match m with | .bookedReport a _ => decide (a = evid) | _ => false) with
  | some (p, s1) => (match p.msg with
    | .bookedReport _ cause => .next { s1 with
        tally := tset 0 s1.tally evid (satInc (getW s1.tally evid)),
        hub := { s1.hub with bookCnt := tset 0 s1.hub.bookCnt (cause - 1) (satInc (getW s1.hub.bookCnt (cause - 1))) } }
    | _ => .next s)
  | none => .next s

/-! ## Re-offers, holder check, age scan -/

/-- Offer every queue of these ledger cells on a route that owes a re-offer; a parked candidate still on its way back is offered again when it
arrives (R170). -/
def offerRoute (s : State) (d : Dest) (cs : List Nat) : State :=
  let mine (e : Nat) : Bool := match ledgerCell s e with | some c => cs.contains c | none => false
  let back : Packet → Packet := fun p => match p.msg with
    | .returned c true n => if c.gather.isNone && routedTo s d (s.queue c.evid) && mine c.evid then { p with msg := .returned c false n } else p
    | _ => p
  forAll { s with net := s.net.map back } ((s.queues.filter fun x => routedTo s d x.2 && x.2.bound && mine x.1).map (·.1)) offerAgain

/-- A station's re-offer at the hub (R170): it stops being a parked destination of the sets, whose hub rank cells send the sets' re-offers, and
members that are parked for it, or on their way back so, go there again. -/
def unpark (s : State) (n : Nat) : State :=
  let back : Packet → Packet := fun p => match p.msg with
    | .returned c true m => if c.gather.isSome && decide (m = n) then { p with msg := .returned c false m } else p
    | _ => p
  let s1 : State := { s with net := s.net.map back }
  let sets := (s1.spreads.filter fun x => x.2.parkedD.contains n).map (·.1)
  let s2 := forAll s1 sets fun t k =>
    sendReOffer (t.modSpread k fun x => { x with parkedD := x.parkedD.filter (· ≠ n) }) 12 (spreadCell t k) (.spread k)
  let ms := s2.gathers.flatMap fun r => (r.parked.filter fun y => decide (y.1 = n)).map fun y => (r.cell, y.2)
  let s3 : State := { s2 with gathers := s2.gathers.map fun r => { r with parked := r.parked.filter fun y => decide (y.1 ≠ n) } }
  forAll s3 ms fun t c => sendFrom t (some c.1) (.candStation n (candTour c.2) c.2) none (some (n / 48))

/-- RE_OFFER: a re-offer reaches a unit (R170, R177): the enabled ledger cells offer their queues on the route, and for the others it waits in
the sending port (R61). -/
def execReOffer (d : Dest) (s : State) : Ans :=
  match arrive s (fun m => match m with
      | .reOffer x _ left => decide (x = d) && (match left with | none => true | some cs => cs.any fun c => (s.cell c).en)
      | _ => false) with
  | none => .next s
  | some (p, s0) => (match p.msg with
    | .reOffer _ u left =>
      let cs := left.getD (roleCells s0 u roleLedger)
      let on := cs.filter fun c => (s0.cell c).en
      let off := cs.filter fun c => !(s0.cell c).en && decide ((s0.cell c).role = roleLedger)
      let s1 := if off = [] then s0 else send s0 (.reOffer d u (some off)) none none
      let s2 := offerRoute (overrunAll s1 on) d on
      (match d, left with
       | .station n, none => .next (if u = 12 then unpark s2 n else s2)
       | _, _ => .next s2)
    | _ => .next s)

/-- A candidate of the EVID is somewhere: on its way, seated, armed, recorded, placed with a gang. -/
def seatHas (e : Nat) (xs : List Seat) : Bool := xs.any fun x => decide (x.cand.evid = e) && x.cand.gather.isNone
def msgHas (e : Nat) : Msg → Bool
  | .candStation _ _ c | .candSpread _ c | .candContext _ c | .candGang _ c | .returned c _ _ => decide (c.evid = e)
  | .withdrawal a _ | .claimed a .. | .completed a _ => decide (a = e)
  | _ => false
def candOut (s : State) (e : Nat) : Bool :=
  s.net.any (fun p => msgHas e p.msg) ||
  s.stns.any (fun x => seatHas e x.2.norm.seats || seatHas e x.2.sec.seats) ||
  s.ctxs.any (fun x => seatHas e x.2.g.seats || seatHas e x.2.cands) ||
  s.gathers.any (fun r => decide (r.evid = e) && r.opened)
/-- The holder that the route names still holds the candidate: a hub rank cell knows it by its placement entry (R176, R480). -/
def holdsCand (s : State) (e : Nat) : Bool :=
  match (s.queue e).route with
  | .spread _ => s.net.any (fun p => msgHas e p.msg) || s.places.any fun p => decide (p.evid = e) && !p.reserved
  | _ => candOut s e
/-- An active entry of the EVID is held: by a station's stack, by a context's, or, for a gang, by its gather record (R480). -/
def stackHas (e : Nat) (xs : List Entry) : Bool := xs.any fun x => decide (x.evid = e) && !x.kind && !x.orphan && x.gather.isNone
def holdsEntry (s : State) (e : Nat) : Bool :=
  s.net.any (fun p => msgHas e p.msg) ||
  s.stns.any (fun x => stackHas e x.2.norm.stack || stackHas e x.2.sec.stack) ||
  s.ctxs.any (fun x => stackHas e x.2.g.stack) || s.gathers.any (fun r => decide (r.evid = e) && r.opened)

/-- The cell that the route names as the holder, with the links of the question to it and of its answer (R480). -/
def holderCell (s : State) (e : Nat) : Option Nat × (Option Nat × Option Nat) × (Option Nat × Option Nat) :=
  let q := s.queue e
  let u := ownerUnit e
  let hub : (Option Nat × Option Nat) × (Option Nat × Option Nat) := ((upFrom u, none), (none, if u = 12 then none else some u))
  match q.route with
  | .station n => let m := (resolve s n q.secure).getD n; (rankCell s m, fromOwner m e, toOwner m e)
  | .spread n => (spreadCell s n, hub)
  | .context v => (contextCell s v, hub)
  | .gang g => (gangCell s g, hub)

/-- HOLDER_CHECK: the question reaches the cell named by the route, which answers (R61, R480). A hub rank cell reads the queue's placement entry
for it; an uncorrectable error frees the entry (R479, kind 7). -/
def execHolderCheck (evid : Nat) (s : State) : Ans :=
  let h := holderCell s evid
  if onCell s h.1 = false then .next s
  else match arrive s (fun m => match m with | .holderAsk a => decide (a = evid) | _ => false) with
    | none => .next s
    | some (_, s1) =>
      let k := if s1.places.any fun p => decide (p.evid = evid) then strike s1 (.place evid) evid h.1 else (false, s1)
      let s2 := serveToken (if k.1 then dropPlaces k.2 evid fun _ => true else k.2) h.1
      .next (sendFrom s2 h.1 (.holderAnswer evid (holdsCand s2 evid) (holdsEntry s2 evid)) h.2.2.1 h.2.2.2)

/-- The ledger withdraws a candidate that its holder does not hold (R480). One that stands somewhere still, so that only its placement is lost,
comes back as any withdrawn one (R138). -/
def recallLost (s : State) (e : Nat) : State :=
  let s1 := withdraw s e
  if candOut s e then s1
  else
    let s2 := (dropMsgs s1 fun m => match m with | .withdrawal a _ => decide (a = e) | _ => false).modQueue e fun x => { x with recalled := false }
    offer (freePlace s2 e) e

/-- HOLDER_CHECK_ANSWER: the ledger withdraws a candidate that is not held and completes an entry that is held nowhere; such a completion is
counted as forced (R480). Happenings served since the question leave nothing to force (R487). -/
def holderAnswer (s : State) (evid : Nat) (hc he : Bool) : State :=
  let s1 := descRead s evid
  let s2 := if hc = false ∧ holdsCand s1 evid = false ∧ (s1.queue evid).handed then recallLost s1 evid else s1
  if he = false ∧ holdsEntry s2 evid = false ∧ (s2.queue evid).busy then
    forAll s2 (s2.queue evid).holders fun t h => completeApply (t.modHub fun x => { x with forced := x.forced + 1 }) evid h
  else s2

/-- AGE_SCAN_VISIT: the scan visits a bound descriptor (R145, R157, R170, R480). -/
def execAgeScanVisit (evid : Nat) (s : State) : Ans :=
  let lc := ledgerCell s evid
  if (s.queue evid).bound = false ∨ (s.queue evid).poisoned ∨ onCell s lc = false then .next s
  else
    let r := descRead s evid
    let q := r.queue evid
    if q.poisoned then .next r
    else
      let k := if q.mode = .payload ∧ q.count ≠ 0 then strike r (.slot (headSlot r q)) evid lc
        else if q.mode = .latest then strike r (.slot q.tail) evid lc else (false, r)
      if k.1 then .next (poison k.2 evid)
      else
        let s1 := k.2
        let s2 := if (q.count ≠ 0 ∨ (q.busy ∧ q.mode ≠ .payload)) ∧ age23 (copyOf s1 (ownerUnit evid)) (headOf s1 evid).2.1 ≥ ageMark
          then s1.modQueue evid fun x => { x with aged := true } else s1
        let s3 := offerAgain s2 evid
        let links := (holderCell s3 evid).2.1
        .next (if (s3.queue evid).handed ∨ (s3.queue evid).busy then sendFrom s3 lc (.holderAsk evid) links.1 links.2 else s3)

end Sys2Proof.Machine
end

