-- ==== Sys2Proof/Machine/Intake.lean ====
section
/-! DEFINITION. Intake: wired inputs and their filters (R86 to R101), doorbell writes (R102 to R107). -/

namespace Sys2Proof.Machine

open Sys2Proof

/-- Condition 1 of R118 for an event stamped in unit `u` (R230). -/
def cond1At (s : State) (u : Nat) : Bool := cond1 s && (decide (u = 12) || !(s.op u).holdover)

/-- The cell holds no ticket toward the event's ledger, or another token of the EVID waits in it (R263). A cell has four ports, each with one
ticket, so that a ledger at which four timed tokens wait has none to give. -/
def ticketBusy (s : State) (c e : Nat) : Bool :=
  let toLedger (t : Token) : Bool := decide (t.pre = 0) && t.gang.isNone && decide (ledgerCell s t.evid = ledgerCell s e)
  (s.net.any fun p => match p.msg with
    | .event t => decide (t.cell = c) && ((decide (t.evid = e) && t.gang.isNone) || toLedger t)
    | _ => false) ||
  decide ((s.net.filter fun p => match p.msg with | .event t => toLedger t | _ => false).length ≥ 4)

/-- The intake's part of the grade (R119, R277): 0 grants go on. `held` says that R98, R101 or R104 books it. -/
def intakePre (s : State) (c e : Nat) (held : Bool) : Nat :=
  if !cond1At s (unitOf c) then 1 else if held || ticketBusy s c e then 7 else if cellClear s c then 0 else 4

/-- An intake cell stamps an event and sends it to the owning ledger; its guard and its arbiter serve it (R35, R81, R279). -/
def stampSend (s' : State) (c : Nat) (t : Token) (held : Bool) : State :=
  let s := rodParity (overrun s' (some c)) c
  let u := unitOf c
  let pre := intakePre s c t.evid held
  let up := if ownerUnit t.evid = u then none else upFrom u
  let s1 := if ticketBusy s c t.evid then bump s (some c) 0x09 else s
  bump (bump (send s1 (.event { t with pre := pre, cell := c }) up none (some c)) (some c) 0x10) (some c) 0x02

/-! ## Wired inputs -/

/-- A wired input exists and is connected: its unit is on and its bit of INTAKE_PRESENT is 1 (R97). -/
def inputPresent (s : State) (e : Nat) : Bool :=
  match intakeCell s e with
  | none => false
  | some c => (getW (s.cell c).plat 0x10).getLsbD (if isOutpostWired e then evidInput e % 32 else evidInput e % 16)

/-- The intake cell holds a token that its ledger cell does not take while it waits for field-book space: it takes no further one (R152). -/
def cellHeld (s : State) (c : Nat) : Bool :=
  s.net.any fun p => match p.msg with
    | .event t => decide (t.cell = c) && (match ledgerCell s t.evid with | some l => (s.cell l).ledgerHold.isSome | none => false)
    | _ => false

/-- The intake cell takes what its endpoints and ports bring: it is enabled and holds no token for a ledger that waits (R61, R152). -/
def cellTakes (s : State) (c : Nat) : Bool := (s.cell c).en && !cellHeld s c

/-- The filter takes the present sampled level (R93). -/
def Input.sampled (x : Input) : Input := { x with level := x.raw }

/-- What one qualified change is in the input's mode (R91, R95): the input after it, and the event's edge and payload. -/
def qualify (x : Input) (rise : Bool) : Input × Option (Edge × Payload) :=
  let y := { x with level := rise }
  match x.mode with
  | .off => (y, none)
  | .levelHigh => (y, some (if rise then .assert else .deassert, 0))
  | .levelLow => (y, some (if rise then .deassert else .assert, 0))
  | .rise => (y, if rise then some (.occurrence, 1) else none)
  | .fall => (y, if rise then none else some (.occurrence, 0))
  | .both => (y, some (.occurrence, if rise then 1 else 0))
  | .tally =>
    if rise then
      let z := { y with tally := y.tally + 1, rises := y.rises + 1 }
      if z.rises ≥ x.tallyN.toNat + 1 then ({ z with rises := 0 }, some (.occurrence, z.tally)) else (z, none)
    else (y, none)

/-- Hold one occurrence at the endpoint of an intake cell that takes none (R98, R152). HELD_SAT: log entry 56. -/
def holdInput (x : Input) (st : Stamp) (rise : Bool) : Input :=
  if x.held = 0xFFFFFFFF then { x with heldSat := true }
  else if x.held = 0 then { x with held := 1, heldAt := st, heldUp := rise } else { x with held := x.held + 1 }

/-- The watch slot of a hub input, if it is a watch input (R99). -/
def watchSlot (s : State) (j : Nat) : Option Nat := (s.pwr.watch.find? fun w => decide (w.2.input = some j)).map (·.1)

/-- An assertion at a LEVEL watch input wakes the device (R100). -/
def watchWake (s : State) (w : Nat) : State :=
  s.modPwr fun p => { p with watch := tset {} p.watch w { (tget {} p.watch w) with wake := true } }

/-- The AON keeps a watch occurrence while the hub is off; it wakes the device (R100). -/
def watchHold (s : State) (w : Nat) (rise : Bool) : State :=
  s.modPwr fun p => { p with watch := tset {} p.watch w (
    let x := tget {} p.watch w
    if x.held = 0 then { x with held := 1, heldC := p.slowNs / 1000, up := rise, wake := true }
    else if x.held = 0xFFFF then x else { x with held := x.held + 1 }) }

/-- WIRED_INPUT_CHANGE: the input of an EVID has taken a level and held it `heldTicks` ns (R86, R94). The filter lets
the change pass when that is at least its width. An uncorrectable error in the input entry makes its mode OFF (R479). DESIGN CHOICE (log entry
20): in Keep and Sleep too, where R100 lets the samples of an AON filter miss a pulse not much longer than its width. -/
def execWiredInputChange (evid : Nat) (level : Bool) (heldTicks : Nat) (s' : State) : Ans :=
  let k := strike s' (.input evid) evid (intakeCell s' evid)
  let s := (if k.1 then k.2.modInput evid fun x => { x with mode := .off } else k.2).modInput evid fun x => { x with raw := level }
  if isWired evid = false ∨ inputPresent s evid = false then .next s'
  else if s'.pwr.rst then .next (s'.modInput evid fun x => { x with raw := level })
  else
    let x := s.input evid
    let u := ownerUnit evid
    let hubOff := decide (u = 12) && decide (s.pwr.hubl ≠ .on)
    if hubOff then
      match watchSlot s (evidInput evid) with
      | none => .next s
      | some w =>
        if level = x.level ∨ heldTicks < (tget {} s.pwr.watch w).width.toNat * 1000 then .next s
        else
          let r := qualify x level
          let s1 := s.modInput evid fun _ => r.1
          (match r.2 with
           | some (.occurrence, _) => .next (watchHold s1 w level)
           | some (.assert, _) => .next (watchWake s1 w)
           | _ => .next s1)
    else if u ≠ 12 ∧ (s.op u).logic ≠ .on then .next s
    else if level = x.level ∨ heldTicks < x.filterW.toNat then .next s
    else
      let r := qualify x level
      let s1 := s.modInput evid fun _ => r.1
      match r.2, intakeCell s evid with
      | some (edge, pl), some c =>
        if cellTakes s c then
          .next (stampSend s1 c { evid := evid, payload := pl, stamp := copyOf s u, edge := edge, src := .wired } false)
        else
          (match edge with
           | .occurrence => .next (bump (s1.modInput evid fun y => holdInput y (copyOf s u) level) (some c) 0x11)
           | _ => .next s1)
      | _, _ => .next s1

/-- One LEVEL input sends its present level (R93). -/
def sendLevel (s' : State) (e : Nat) : State :=
  let s := match (s'.input e).mode with
    | .levelHigh | .levelLow => s'.modInput e Input.sampled
    | _ => s'
  match intakeCell s e with
  | none => s
  | some c =>
    match (s.input e).mode with
    | .levelHigh | .levelLow =>
      if (s.cell c).en then
        stampSend s c { evid := e, stamp := copyOf s (ownerUnit e), edge := if asserted s e then .assert else .deassert, src := .wired } false
      else s
    | _ => s

/-- The held occurrences of one input are accepted as booked at the enable of its intake cell, all with the held stamp; those
of a BOTH input alternate, those of a TALLY input carry their own counts (R98). -/
def heldPayload (x : Input) (i : Nat) : Payload :=
  match x.mode with
  | .rise => 1
  | .both => if x.heldUp = decide (i % 2 = 0) then 1 else 0
  | .tally => x.tally - BitVec.ofNat 20 x.rises - BitVec.ofNat 20 ((x.tallyN.toNat + 1) * (x.held.toNat - 1 - i))
  | _ => 0
def releaseHeld (s : State) (c e : Nat) : State :=
  let x := s.input e
  if x.held = 0 then s
  else
    let s1 := forAll s (List.range x.held.toNat) fun t i =>
      stampSend t c { evid := e, payload := heldPayload x i, stamp := x.heldAt, src := .wired } true
    s1.modInput e fun y => { y with held := 0, heldAt := 0, heldUp := false }

/-- The wired EVIDs that an intake cell terminates, in input order (R50). -/
def cellInputs (s : State) (c : Nat) : List Nat :=
  if unitOf c = 12 then (List.range 16).map fun i => 0xC01 + 16 * (s.cell c).index + i
  else (List.range 32).map fun i => 1 + 256 * unitOf c + 32 * (s.cell c).index + i

/-! ## Doorbells -/

/-- The window of an offset: none, classic (false) or addressed (true) (R102, R303). -/
def dbWindow (s : State) (off : Nat) : Option Bool :=
  if 0x400000 ≤ off ∧ off ≤ 0x7FFFFF then some true
  else if 0x800000 ≤ off ∧ off ≤ (if s.hub.compact then 0xFFFFFF else 0x800FFF) then some false
  else none

/-- EVID of a doorbell write (R102). -/
def dbEvid (d : DbWrite) (addressed : Bool) : Nat := if addressed then (d.offset - 0x400000) / 4 else d.data.toNat % 2 ^ 20

/-- The hub intake cell that takes a write of port `p`: the index of R104, or the next enabled one of the port. While that cell waits for a
ledger the port holds the write (R152). -/
def portCell (s : State) (p e : Nat) : Option (Nat × Bool) :=
  let want := e % 8
  match ((List.range 8).map fun i => (want + i) % 8).findSome? fun i =>
    match roleCell s 12 roleIntake (8 * p + i) with
    | some c => if (s.cell c).en then some (c, decide (i ≠ want)) else none
    | none => none
  with
  | some r => if cellHeld s r.1 then none else some r
  | none => none

/-- An intake cell takes a write from its port (R102, R113, R119). -/
def takeDoorbell (s : State) (c : Nat) (d : DbWrite) (win handed : Bool) : State :=
  let e := dbEvid d win
  let s0 := bump (if handed then bump s (some c) 0x13 else s) (some c) 0x01
  let rej (r : BitVec 4) (t : State) : State := bump (rejectDb t r d.port win d.data d.rid d.sec e) (some c) 0x12
  let high := decide (d.data.toNat ≥ 2 ^ 20)
  if !win && high then rej rHighClassic s0
  else
    let s1 := if win && high then rejectDb s0 rHighAddressed d.port win d.data d.rid d.sec e else s0
    if e = 0 then rej rEvidNone s1
    else if isWired e then rej rEvidWired s1
    else if isInternal e then rej rEvidInternal s1
    else stampSend s1 c { evid := e, payload := if win then d.data.extractLsb' 0 20 else 0, stamp := s.mer.now,
                          src := .doorbell d.port win d.data, lock := .full, rid := d.rid, sec := d.sec } handed

/-- Writes that port `p` holds, its front end's among them: at most 64 (R106, R424). -/
def portLoad (s : State) (p : Nat) : Nat := (tget [] s.hub.ports p).length + (s.pwr.heldDb.filter fun d => decide (d.port = p)).length

/-- A port hands a write to an intake cell, or holds it (R104, R106): a write that finds 64 held stays with the fabric. -/
def portWrite (s : State) (d : DbWrite) (win : Bool) : State :=
  let held := tget [] s.hub.ports d.port
  match portCell s d.port (dbEvid d win) with
  | some (c, handed) =>
    if held = [] then takeDoorbell s c d win handed
    else if held.length < 64 then s.modHub fun h => { h with ports := tset [] h.ports d.port (held ++ [d]) } else s
  | none => if held.length < 64 then s.modHub fun h => { h with ports := tset [] h.ports d.port (held ++ [d]) } else s

/-- The port's checks of one write, with the hub on (R62, R103, R113). -/
def portTake (s : State) (d : DbWrite) (win : Bool) : State :=
  if !s.hub.en then rejectDb s rHubDisabled d.port win d.data d.rid d.sec (if d.whole then dbEvid d win else 0)
  else if !d.whole || decide (d.offset % 4 ≠ 0) then rejectDb s rSize d.port win d.data d.rid d.sec 0
  else if d.poisoned then rejectDb s rPoisonedWrite d.port win d.data d.rid d.sec (dbEvid d win)
  else portWrite s d win

/-- The writes that ports hold are handed on once a cell can take them (R104); those held when HUB_EN goes to 0 too (log entry 65). -/
def drainPorts (s : State) : State :=
  forAll s (List.range 8) fun t p =>
    let ds := tget [] t.hub.ports p
    if ds.any fun d => (portCell t p (dbEvid d ((dbWindow t d.offset).getD false))).isSome then
      forAll (t.modHub fun h => { h with ports := tset [] h.ports p [] }) ds fun u d => portWrite u d ((dbWindow u d.offset).getD false)
    else t

/-- One posted write at a doorbell port: its front end holds it in Keep and while the hub is closing, and takes none while the hub
logic is off otherwise: the fabric keeps that write (R106, R420, R424). Either asks for a wake at that port (R433). -/
def doorbell (s : State) (d : DbWrite) : State :=
  match dbWindow s d.offset with
  | none => s
  | some win =>
    if d.port ≥ 8 ∨ s.pwr.rst then s
    else if s.pwr.hubl ≠ .on ∨ s.pwr.closing then
      let keeps := decide (s.pwr.mode = .keep) || decide (s.pwr.mode = .wakeKeep) || decide (s.pwr.hubl = .on)
      s.modPwr fun p => { p with
        knock := p.knock ||| (1#8 <<< d.port)
        heldDb := if keeps && decide (portLoad s d.port < 64) then p.heldDb ++ [d] else p.heldDb }
    else portTake s d win

/-- Intake cells that a ledger no longer holds up take what their endpoints and ports hold, as at an enable (R98, R152). -/
def freeIntakes (s0 s : State) : State :=
  let cs := (s0.cells.filter fun x => decide (x.2.role = roleIntake) && x.2.en && cellHeld s0 x.1 && !cellHeld s x.1).map (·.1)
  if cs = [] then s
  else drainPorts (forAll s cs fun t c => forAll t (cellInputs t c) fun u e => sendLevel (releaseHeld u c e) e)

/-- DOORBELL_WRITE (R102). -/
def execDoorbellWrite (d : DbWrite) (s : State) : Ans := .next (doorbell s d)

end Sys2Proof.Machine
end

