-- ==== Sys2Proof/Machine/Rank.lean ====
section
/-! DEFINITION. Rank cells, hub rank cells, context cells and gang/timing cells: seating, parking, spread choice,
recording, fan-out, gathering, withdrawal (R165 to R182, R236 to R241, R366 to R370). -/

namespace Sys2Proof.Machine

open Sys2Proof

/-! ## Tournaments -/

/-- The seats of a tournament; the virtual one is that of the resident vCPU. -/
def seatsOf (s : State) (n : Nat) : Tour → List Seat
  | .normal => (s.stn n).norm.seats
  | .secure => (s.stn n).sec.seats
  | .virt => match (s.stn n).resident with
    | some v => (s.ctx v).g.seats
    | none => []
def putSeats (s : State) (n : Nat) (t : Tour) (xs : List Seat) : State :=
  match t with
  | .normal => s.modGrp n .normal fun g => { g with seats := xs }
  | .secure => s.modGrp n .secure fun g => { g with seats := xs }
  | .virt => match (s.stn n).resident with
    | some v => s.modCtx v fun x => { x with g := { x.g with seats := xs } }
    | none => s
def parkFlag (s : State) (n : Nat) : Tour → Bool
  | .normal => (s.stn n).norm.park
  | .secure => (s.stn n).sec.park
  | .virt => (s.stn n).virtPark
def setPark (s : State) (n : Nat) (t : Tour) (b : Bool) : State :=
  match t with
  | .normal => s.modGrp n .normal fun g => { g with park := b }
  | .secure => s.modGrp n .secure fun g => { g with park := b }
  | .virt => s.modStn n fun x => { x with virtPark := b }

/-- Seats in use of a tournament, the doorbell entry counted (R165). -/
def seatCount (s : State) (n : Nat) (t : Tour) : Nat :=
  (seatsOf s n t).length + (match t with | .normal => (match dbSeat s n with | some _ => 1 | none => 0) | _ => 0)

/-- The outpost reports a station's load (R175); a report not yet sent is replaced by the newer one. -/
def reportLoad (s : State) (n : Nat) (g : Grp) : State :=
  let s1 := dropMsgs s fun m => match m with | .loadReport a b _ _ => decide (a = n) && decide (b = g) | _ => false
  sendFrom s1 (rankCell s1 n) (.loadReport n g (load s1 n g) (roleCells s1 12 roleRank)) (some (n / 48)) none
def reportTour (s : State) (n : Nat) : Tour → State
  | .normal => reportLoad s n .normal
  | .secure => reportLoad s n .secure
  | .virt => s

/-- A tournament with its park flag set that has fallen far enough sends its re-offer (R170). -/
def checkPark (s : State) (n : Nat) (t : Tour) : State :=
  if parkFlag s n t ∧ seatCount s n t ≤ reofferLevel t then
    let d : Dest := match t, (s.stn n).resident with
      | .virt, some v => .context v
      | _, _ => .station n
    sendReOffer (setPark s n t false) (n / 48) (rankCell s n) d
  else s

/-- A candidate goes back from station `n`, parked or withdrawn: to its owner, or to the gather record of a member (R138, R169, R179). -/
def giveBack (s : State) (c : Cand) (parked : Bool) (n : Nat) : State :=
  let l := if c.gather.isSome then (some (n / 48), none) else toOwner n c.evid
  sendFrom s (rankCell s n) (.returned c parked n) l.1 l.2

/-- A candidate goes back to its owner from a cell of the hub, or as it is taken back on its way (`none`); it names no station. -/
def giveBackHub (s : State) (c : Cand) (parked : Bool) (cell : Option Nat) : State :=
  sendFrom s cell (.returned c parked 576) none (if ownerUnit c.evid = 12 then none else some (ownerUnit c.evid))

/-- Park a candidate at a station's tournament (R169, R177). -/
def parkAt (s : State) (n : Nat) (t : Tour) (c : Cand) : State :=
  let s1 := bump (setPark s n t true) (rankCell s n) 0x31
  let s2 := match (s.queue c.evid).route, c.gather with
    | .spread k, none => s1.modSpread k fun x => { x with parkedD := if n ∈ x.parkedD then x.parkedD else x.parkedD ++ [n] }
    | _, _ => s1
  giveBack s2 c true n

/-- What the change from `s0` asks of a station: the doorbell entry, which is seated while contexts count, takes the last of 64 seats
(R165, R169, R206; log entry 57); every change of load is reported (R175); a park flag is answered where the seats in use have fallen (R170). -/
def settleStation (s0 s : State) (n : Nat) : State :=
  let xs := (s.grp n .normal).seats
  let s1 := if (dbSeat s0 n).isNone && (dbSeat s n).isSome && decide (xs.length ≥ 64) then
      match hindmost (s.op (n / 48)).copy (xs.map (·.cand)) with
      | some last => parkAt (putSeats s n .normal (xs.filter fun x => decide (x.cand ≠ last))) n .normal last
      | none => s
    else s
  let s2 := if load s0 n .normal = load s1 n .normal then s1 else reportLoad s1 n .normal
  let s3 := if load s0 n .secure = load s2 n .secure then s2 else reportLoad s2 n .secure
  let fell (t : State) (r : Tour) : State := if seatCount t n r < seatCount s0 n r then checkPark t n r else t
  fell (fell (fell s3 .normal) .secure) .virt
def settleStations (s0 s : State) (ns : List Nat) : State := forAll s ns (settleStation s0)

/-- The station whose doorbell entry covers context `v`. -/
def dbHome (s : State) (v : Nat) : List Nat := (s.ctx v).dbAt.toList

/-- What the doorbell event of a context carries: its oldest recorded candidate; the present meridian where SPILL alone counts it (R206). -/
def dbEvent (s : State) (v : Nat) : Cand :=
  (ctxOldest s s.mer.now v).getD { evid := 0, stamp := stamp23 s.mer.now, mode := .level }

/-- The context counts in PENDING of its home station, or of that station's fallback, unless it is announced, and its context cell sends the
doorbell event there (R187, R257, R369, R370). -/
def countCtx (s : State) (v : Nat) (c : Cand) : State :=
  let x := s.ctx v
  if x.counted || x.announced then s
  else
    let d := resolve s x.home false
    let s1 := s.modCtx v fun y => { y with counted := true, dbAt := d, dbIn := false }
    match d with
    | some n => sendFrom s1 (contextCell s1 v) (.doorbell v n c) none (some (n / 48))
    | none => s1

/-- Count the context where it holds recorded candidates or SPILL. -/
def countHeld (s : State) (v : Nat) : State := if (s.ctx v).cands ≠ [] ∨ (s.ctx v).spill then countCtx s v (dbEvent s v) else s

/-- The doorbell events that stand at a station of a marked die, or go there, go to the fallback of their home stations, and those that no
station could take go where one can; any other stays until it is claimed (R187, R189). -/
def moveDoorbells (s : State) : State :=
  let lost (x : Ctx) : Bool := x.counted && (match x.dbAt with | some m => dieMarked s (m / 48) | none => true)
  forAll s ((s.ctxs.filter fun x => lost x.2).map (·.1)) fun t v =>
    let u := countCtx (t.modCtx v fun x => { x with counted := false }) v (dbEvent t v)
    settleStations t u ((dbHome t v).filter fun n => !dieAway t (n / 48))

/-- A doorbell event reaches its station's rank cell: the doorbell entry covers its context from then on (R206, R257). -/
def reachDoorbell (s : State) (v n : Nat) (c : Cand) : State :=
  let s1 := arbitrate s (rankCell s n) c.grade
  let x := s1.ctx v
  if x.counted && decide (x.dbAt = some n) && !x.dbIn then settleStation s1 (s1.modCtx v fun y => { y with dbIn := true }) n else s1

/-- Seat a candidate, or park it or the last seat (R165, R168, R169). -/
def seat (s : State) (n : Nat) (t : Tour) (c : Cand) : State :=
  let xs := seatsOf s n t
  let m := (s.op (n / 48)).copy
  let rc := rankCell s n
  if seatCount s n t < seatLimit t then
    reportTour (bump (putSeats s n t (xs ++ [{ cand := c }])) rc 0x30) n t
  else match hindmost m (xs.map (·.cand)) with
    | none => parkAt s n t c
    | some last =>
      if ahead m c last then
        parkAt (bump (putSeats s n t ((xs.filter fun x => decide (x.cand ≠ last)) ++ [{ cand := c }])) rc 0x30) n t last
      else parkAt s n t c

/-- A candidate sent to a station reaches its rank cell: a release target that lies ahead arms a release seat; a target
already passed is late (R240, R241). -/
def reachStation (s : State) (n : Nat) (t : Tour) (c : Cand) : State :=
  let s1 := secureParity (arbitrate (if c.gather.isSome then s else dropGates s c.evid) (rankCell s n) c.grade) n
  match c.target with
  | none => seat s1 n t c
  | some x =>
    if (s.op (n / 48)).copy.toNat < x.toNat then
      s1.modStn n fun y => { y with armed := y.armed ++ [{ tour := t, cand := c, target := x }] }
    else
      let gid := (s.gathers.find? fun r => decide (some r.id = c.gather))
      let s2 := match gid with
        | some r => if r.late then s1 else
            ({ s1 with gathers := s1.gathers.map fun y => if y.id = r.id then { y with late := true } else y } : State).modGang r.gang
              fun g => { g with late := satInc g.late }
        | none => s1
      seat s2 n t { c with target := none }

/-- CANDIDATE_ARRIVAL: a candidate reaches a station's rank cell (R168); EVID 0 is that of a hypervisor doorbell event (R206, R257). It waits
while the rank cell or the delivery cell is off (R61). A virtual candidate whose vCPU has left goes back to the context cell (R378). -/
def execCandidateArrival (station evid : Nat) (s : State) : Ans :=
  if !rankOn s station || !stnOn s station then .next s
  else match arrive s (fun m => match m with
      | .candStation n _ c => decide (n = station) && decide (c.evid = evid)
      | .doorbell _ n _ => decide (n = station) && decide (evid = 0)
      | _ => false) with
    | none => .next s
    | some (p, s1) => (match p.msg with
      | .doorbell v n c => .next (reqWatch n s (reachDoorbell s1 v n c))
      | .candStation n t c =>
        (match t, (s1.queue evid).route with
         | .virt, .context v =>
           if (s1.stn n).resident = some v then .next (reqWatch n s (reachStation s1 n t c))
           else .next (sendFrom s1 (rankCell s1 n) (.candContext v c) (some (n / 48)) none)
         | _, _ => .next (reqWatch n s (reachStation s1 n t c)))
      | _ => .next s)

/-- RELEASE_TARGET_REACHED: the station's copy reaches an armed seat's target, and the seat joins its tournament (R240); an uncorrectable
error in it empties it (R479). -/
def execReleaseTargetReached (station evid : Nat) (s : State) : Ans :=
  match (s.stn station).armed.find? fun a => decide (a.cand.evid = evid) with
  | none => .next s
  | some a =>
    if (s.op (station / 48)).copy.toNat < a.target.toNat then .next s
    else
      let ok := tagOk s (.seat station a.tour evid) evid
      let k := strike (secureParity (overrun s (rankCell s station)) station) (.seat station a.tour evid) evid (rankCell s station)
      let s1 := k.2.modStn station fun x => { x with armed := x.armed.filter fun b => decide (b.cand.evid ≠ evid) }
      if k.1 then .next (if ok then giveBack s1 a.cand false station else s1)
      else .next (reqWatch station s (seat s1 station a.tour { a.cand with target := none }))

/-- Put a queue back from a candidate that is held nowhere: PENDING, IDLE or ACTIVE (R138). -/
def unhand (s : State) (e : Nat) : State :=
  let q := s.queue e
  let st := match q.state with
    | .presented => if waiting q then QState.pending else .idle
    | .activePresented => .active
    | x => x
  dropGates (s.modQueue e fun x => { x with state := st, recalled := false, again := true, cached := ({ x with state := st } : Queue).keptCache }) e

/-- A candidate that no station may take now: its queue is held for die `k` (R186). -/
def holdBack (s : State) (e k : Nat) : State := settle ((freePlace (unhand (descRead s e) e) e).modQueue e fun x => { x with heldFor := some k }) e

/-- LOAD_REPORT: a load report reaches the enabled hub rank cells, and updates each one's view; what is bound for the others waits (R61,
R175). -/
def execLoadReport (station : Nat) (g : Grp) (s : State) : Ans :=
  match arrive s (fun m => match m with
      | .loadReport a b _ cs => decide (a = station) && decide (b = g) && (cs.isEmpty || cs.any fun c => (s.cell c).en)
      | _ => false) with
  | none => .next s
  | some (p, s1) => (match p.msg with
    | .loadReport n b k cs =>
      let off := cs.filter fun c => !(s1.cell c).en
      let s2 := forAll s1 (cs.filter fun c => (s1.cell c).en) fun t c =>
        let t1 := serveToken t (some c)
        { t1 with views := tset 0 t1.views (viewKey c n b) k }
      .next (if off = [] then s2 else send s2 (.loadReport n b k off) none none)
    | _ => .next s)

/-! ## Spread sets -/

/-- The candidate goes from its hub rank cell to its chosen station, with its placement entry and head-cache entry
(R154, R176). -/
def toMember (s : State) (c : Cand) (m : Nat) : State :=
  let s1 := s.modQueue c.evid fun x => { x with cached := if ownerUnit c.evid = 12 then cacheAt s c.evid (m / 48) else x.cached, sentTo := some (m / 48) }
  sendFrom s1 ((s.places.find? fun p => decide (p.evid = c.evid)).map (·.cell)) (.candStation m (candTour c) c) none (some (m / 48))

/-- A candidate goes back from its hub rank cell, parked (R177). -/
def spreadBack (s : State) (c : Cand) (rc : Option Nat) : State := giveBackHub (s.modQueue c.evid fun x => { x with sentTo := some 12 }) c true rc

/-- The choice that a grant made for this candidate is read (R176): an uncorrectable error frees it (R479), and a candidate that has come back
is chosen anew. The answer is the entry, where the candidate is to take it. -/
def keptPlace (s : State) (c : Cand) : Option Place × State :=
  match s.places.find? fun x => decide (x.evid = c.evid) && x.reserved && c.grade && !(s.queue c.evid).again with
  | none => (none, s)
  | some x =>
    let k := strike s (.place c.evid) c.evid (some x.cell)
    if k.1 then (none, placeOffers { k.2 with places := k.2.places.erase x } x.cell) else (some x, k.2)

/-- SPREAD_CANDIDATE_ARRIVAL: the hub rank cell chooses the least-loaded eligible member, or uses the choice made at grading unless the die of
that member is marked meanwhile (R187); a full placement pool parks the candidate; no eligible member sends it by the fallback of the
lowest-numbered one (R174, R176, R177). -/
def execSpreadCandidateArrival (set evid : Nat) (s : State) : Ans :=
  let rc := spreadCell s set
  if onCell s rc = false then .next s
  else match arrive s (fun m => match m with | .candSpread n c => decide (n = set) && decide (c.evid = evid) | _ => false) with
    | none => .next s
    | some (p, s0) => (match p.msg with
      | .candSpread _ c =>
        let kept := keptPlace (arbitrate s0 rc c.grade) c
        let s' := kept.2
        let good := kept.1.filter fun x => decide (x.set = set) && !awayFor s' (x.station / 48) c.secure
        let s1 : State := if good.isSome then s' else match kept.1 with
          | none => keepGates s' evid []
          | some x => placeOffers (keepGates { s' with places := s'.places.erase x } evid []) x.cell
        (match good with
         | some x => .next (toMember { s1 with places := s1.places.erase x ++ [{ x with reserved := false }] } c x.station)
         | none =>
           if placesIn s1 (rc.getD 0) ≥ 4096 then
             .next (bump (spreadBack (s1.modSpread set fun x => { x with park := true }) c rc) rc 0x31)
           else
             let place (t : State) (m : Nat) : State :=
               toMember { t with places := t.places ++ [{ cell := rc.getD 0, evid := evid, station := m, set := set }] } c m
             match chooseMember s1 set (candGrp c) (fun _ => true) with
             | some m => .next (bump (place (viewAdd s1 (rc.getD 0) m (candGrp c)) m) rc 0x33)
             | none =>
               match lowMember s1 set with
               | none => .next (spreadBack s1 c rc)
               | some low => match resolve s1 low c.secure with
                 | some f => .next (place s1 f)
                 | none => .next (holdBack s1 evid (low / 48)))
      | _ => .next s)

/-! ## Contexts -/

/-- The record's live words and stack as the group holds them (R368). -/
def recordOf (g : Group) : VRec :=
  { maskRank := g.maskRank, maskOpen := g.maskOpen, preBits := g.preBits, seq := g.seq, stack := g.stack, sendData := g.sendData,
    booked := g.booked, reason := g.reason, rejected := g.rejected }

/-- The live words as the record shows them: those of the last leave while the vCPU is resident. -/
def shownRec (x : Ctx) : VRec := if x.station.isSome then x.saved else recordOf x.g

/-- The resident vCPU leaves station `n` (R373): the first 16 seats in their order become recorded candidates, the others
go back to their queues with SPILL set. -/
def vctxLeave (s : State) (n : Nat) : State :=
  match (s.stn n).resident with
  | none => s
  | some v =>
    let g := (s.ctx v).g
    let cs := sortCands (s.op (n / 48)).copy (g.seats.map (·.cand))
    let keep := cs.take 16
    let rest := cs.drop 16
    let s1 := s.modStn n fun x => { x with resident := none, virtPark := false }
    let s2 := countHeld (s1.modCtx v fun x => { x with
      station := none, saved := recordOf x.g, g := { x.g with seats := [] }, cands := keep.map fun c => { cand := c },
      spill := x.spill || decide (rest ≠ []), counted := false, changed := true }) v
    touch (forAll s2 rest fun t c => giveBack t c true n) (s.ctx v).parcel

/-- Poison a context (R479, kind 5): it is treated as unbound; its vCPU leaves; its candidates are recalled by R480. -/
def poisonCtx (s : State) (v : Nat) : State :=
  let s1 := match (s.ctx v).station with
    | some n => vctxLeave s n
    | none => s
  let s2 := s1.modCtx v fun x => { x with poisoned := true, counted := false, cands := [], changed := true, g := { x.g with seats := [], stack := [] } }
  touch (settleStations s1 s2 (dbHome s1 v)) (s.ctx v).parcel

/-- Record a candidate in a non-resident context, or park it with SPILL (R369). -/
def recordCand (s : State) (v : Nat) (c : Cand) : State :=
  let cc := contextCell s v
  if (s.ctx v).cands.length < 16 then
    countCtx (bump (s.modCtx v fun x => { x with cands := x.cands ++ [{ cand := c }], changed := true }) cc 0x50) v c
  else bump (giveBackHub (s.modCtx v fun x => { x with spill := true, changed := x.changed || !x.spill }) c true cc) cc 0x51

/-- CONTEXT_CANDIDATE_ARRIVAL (R178, R366, R369). -/
def execContextCandidateArrival (ctx evid : Nat) (s : State) : Ans :=
  let cc := contextCell s ctx
  if onCell s cc = false then .next s
  else match arrive s (fun m => match m with | .candContext v c => decide (v = ctx) && decide (c.evid = evid) | _ => false) with
    | none => .next s
    | some (p, s0) => (match p.msg with
      | .candContext v c =>
        let r := strike s0 (.ctx v) evid cc
        let s1 := arbitrate (if r.1 then poisonCtx r.2 v else r.2) cc c.grade
        let x := s1.ctx v
        if !x.bound || x.poisoned then .next (giveBackHub s1 c true cc)
        else (match x.station with
          | some n => .next (sendFrom s1 cc (.candStation n .virt c) none (some (n / 48)))
          | none =>
            -- the gate taken stays for the doorbell event where one goes to the station (R260)
            let d := if x.counted || x.announced || decide (x.cands.length ≥ 16) then [] else (resolve s1 x.home false).toList.map (· / 48)
            .next (reqWatchAll s (recordCand (keepGates s1 evid d) v c)))
      | _ => .next s)

/-! ## Gangs -/

/-- The default gang-done EVID of a cell (R474). -/
def gangDefault (s : State) (c : Nat) : Nat := 0xFFFE0 + (s.cell c).index % 32

/-- The hub acts as intake at a gang/timing cell, without lock checks but those of `lock` (R238, R243). -/
def intakeGang (s' : State) (c e : Nat) (pl : Payload) (st : Stamp) (risky : Bool) (src : Source) (lock : Lock) (sec : Bool) : State :=
  let s := rodParity s' c
  let t : Token := { evid := e, payload := pl, stamp := st, src := src, lock := lock, sec := sec, cell := c }
  if e = 0 then rejectToken s none t rEvidNone false
  else if isWired e then rejectToken s none t rEvidWired false
  else
    let pre := if !cond1 s then 1 else if ticketBusy s c e then 7 else if risky || !cellClear s c then 4 else 0
    sendFrom s (some c) (.event { t with pre := pre }) none none

/-- Gather records in use in a gang/timing cell (R237). -/
def gathersIn (s : State) (c : Nat) : Nat := (s.gathers.filter fun r => decide (r.cell = c)).length

/-- The gang/timing cells whose records in use have fallen to 192 since `s0` offer the queues of their gangs again (R237). -/
def gatherOffers (s0 s : State) : State :=
  let cs := ((s0.gathers.map (·.cell)).eraseDups).filter fun c => decide (gathersIn s0 c > 192) && decide (gathersIn s c ≤ 192)
  if cs = [] then s
  else forAll s ((s.gangs.filter fun x => cs.any fun c => decide (gangCell s x.1 = some c)).map (·.1))
    fun t g => sendReOffer t 12 (gangCell t g) (.gang g)

/-- The record of a gathering that has ended is freed, and the gang-done occurrence is posted (R237, R238). -/
def gatherFree (s : State) (r : Gather) (risky post : Bool) : State :=
  let s1 : State := { s with gathers := s.gathers.filter fun x => decide (x.id ≠ r.id) }
  let s2 := bump s1 (some r.cell) 0x61
  let s3 := if post && r.post then intakeGang s2 r.cell r.done (BitVec.ofNat 20 r.evid) s.mer.now risky .gangDone .none false else s2
  gatherOffers s s3

/-- The queue's own claim and completion in one update, for an occurrence that no member claims (R236). -/
def claimWhole (s : State) (e g : Nat) : State :=
  completeApply (claimApply (takeSlot s e) e (.gang g) false false) e (.gang g)

/-- End of gathering: the queue's one completion goes to its ledger, the record is freed, and the gang-done occurrence is
posted, unless the last completion was forced (R237, R238, R480). Where every member was skipped before any claim, the candidate counts as
claimed too (R236). -/
def gatherEnd (s : State) (r : Gather) (risky post : Bool) : State :=
  gatherFree (if r.claimed then sendFrom s (some r.cell) (.completed r.evid (.gang r.gang)) none (if ownerUnit r.evid = 12 then none else some (ownerUnit r.evid))
    else claimWhole s r.evid r.gang) r risky post

/-- Clear a pending bit of a gather record, and end the gathering at the last one (R238). -/
def memberClear (s : State) (r : Gather) (n : Nat) (risky : Bool) (post : Bool := true) : State :=
  let left := r.pending.filter (· ≠ n)
  if left = [] then gatherEnd s r risky post
  else { s with gathers := s.gathers.map fun x => if x.id = r.id then { x with pending := left, risky := risky } else x }

/-- The gang/timing cell to which a member completion of this EVID goes: that of its gather record, else that of its route. -/
def memberCell (s : State) (id evid : Nat) : Option Nat :=
  match s.gathers.find? fun r => decide (r.id = id) with
  | some r => some r.cell
  | none => match (s.queue evid).route with
    | .gang g => gangCell s g
    | _ => none

/-- The first member completion of an EVID and a station on its way. -/
def firstMember (s : State) (evid station : Nat) : Option Nat :=
  s.net.findSome? fun p => match p.msg with
    | .memberDone id e ns _ => if e = evid ∧ station ∈ ns then some id else none
    | _ => none

/-- One member's completion at its gather record, or at none (R238). -/
def memberServe (s : State) (id evid : Nat) (risky : Bool) (n : Nat) : State :=
  let stray (g : Nat) : State := s.modGang g fun x => { x with stray := satInc x.stray }
  match s.gathers.find? fun r => decide (r.id = id) with
  | some r => if n ∈ r.pending then memberClear s r n risky else stray r.gang
  | none => match (s.queue evid).route with
    | .gang g => stray g
    | _ => s

/-- GANG_MEMBER_COMPLETION (R238, R261, R262): a message brings every completion that was merged into it; it waits while its gang/timing cell
is off (R61). An uncorrectable error in the record frees it (R479). -/
def execGangMemberCompletion (evid station : Nat) (s : State) : Ans :=
  if (match firstMember s evid station with
    | some id => (match memberCell s id evid with | some c => !(s.cell c).en | none => false)
    | none => true) then .next s
  else match arrive s (fun m => match m with | .memberDone _ e ns _ => decide (e = evid) && ns.contains station | _ => false) with
  | none => .next s
  | some (p, s0) => (match p.msg with
    | .memberDone id _ ns late =>
      let s1 := serveToken s0 (memberCell s0 id evid)
      let k := if s1.gathers.any fun r => decide (r.id = id) then strike s1 (.gather id) evid (memberCell s1 id evid) else (false, s1)
      if k.1 then .next (gatherOffers k.2 { k.2 with gathers := k.2.gathers.filter fun r => decide (r.id ≠ id) })
      else .next (forAll k.2 ns fun t n => memberServe t id evid (late || p.replay) n)
    | _ => .next s)

/-- Where a member of a fan-out is sent (R236): none is a skip. -/
def memberDest (s : State) (members : List Nat) (secure : Bool) (n : Nat) : Option Nat :=
  let o := s.op (n / 48)
  if o.lost ∨ o.closing ∨ (secure ∧ o.secCut) then
    match resolve s n secure with
    | some f => if f ∈ members then none else some f
    | none => none
  else if o.logic ≠ .on then none else some n

/-- The members reached, lowest number first, each destination once (R236). -/
def fanOut (s : State) (members : List Nat) (secure : Bool) : List Nat :=
  members.foldl (fun acc n => match memberDest s members secure n with
    | none => acc
    | some f => if f ∈ acc then acc else acc ++ [f]) []

/-- GANG_FAN_OUT (R236, R237, R239, R241). -/
def execGangFanOut (gang evid : Nat) (s : State) : Ans :=
  let gc := gangCell s gang
  if onCell s gc = false then .next s
  else match arrive s (fun m => match m with | .candGang g c => decide (g = gang) && decide (c.evid = evid) | _ => false) with
    | none => .next s
    | some (p, s0) => (match p.msg with
      | .candGang g c =>
        let cell := gc.getD 0
        let k := strike s0 (.gang g) evid gc
        let s1 := arbitrate (if k.1 then gangLost k.2 g else k.2) gc c.grade
        let x := s1.gang g
        let own := s1.gathers.find? fun r => decide (r.evid = evid) && !r.opened
        if !x.defined ∨ (own.isNone ∧ (s1.gathers.filter fun r => decide (r.cell = cell)).length ≥ 256) then .next (giveBackHub (dropGates s1 evid) c true gc)
        else
          let reached := fanOut s1 x.members c.secure
          let skips := x.members.length - reached.length
          let target := if x.offset && !c.aged then some (extendStamp s1.mer.now c.stamp + BitVec.ofNat 64 x.offsetNs.toNat) else none
          let booked := decide (skips ≠ 0) || (x.offset && c.aged)
          let id := match own with | some r => r.id | none => s1.nextId
          let late := x.offset && c.grade && booked || (x.offset && c.aged)
          let r : Gather := { id := id, cell := cell, gang := g, evid := evid, done := if x.done = 0 then gangDefault s1 cell else x.done, post := x.post, opened := true, members := x.members, offset := x.offset, sent := reached, pending := reached, parked := [], claimed := false, risky := false, late := late, timed := c.grade && !booked, grade := !booked }
          let s2 : State := { s1 with nextId := if own.isSome then s1.nextId else s1.nextId + 1, gathers := (s1.gathers.filter fun y => decide (y.id ≠ id)) ++ [r] }
          let s3 := s2.modGang g fun y => { y with releases := satInc y.releases, skipped := satAdd y.skipped skips, late := if late then satInc y.late else y.late }
          let s4 := bump (if target.isSome then bump s3 gc 0x62 else s3) gc 0x60
          -- with no member reached the occurrence is claimed and completed in one update (R236)
          if reached = [] then
            .next (gatherFree (claimWhole (keepGates s4 evid []) evid g) r false true)
          else
            .next (forAll (keepGates s4 evid (reached.map (· / 48))) reached fun t n =>
              let m : Cand := { c with gather := some id, target := target, grade := c.grade && !booked }
              -- one message to the port of each member die (R258 step 7)
              bump (send t (.candStation n (candTour m) m) none (some (n / 48))) (if reached.find? (fun k => decide (k / 48 = n / 48)) = some n then gc else none) 0x02)
      | _ => .next s)

/-! ## The answer of the holder check -/

/-- A pending member of a gathering is held: parked, on its way, seated, armed or active (R237). -/
def memberHeld (s : State) (r : Gather) (n : Nat) : Bool :=
  let mine (c : Cand) : Bool := decide (c.gather = some r.id)
  let x := s.stn n
  r.parked.any (fun y => decide (y.1 = n)) ||
  s.net.any (fun p => match p.msg with
    | .candStation m _ c | .returned c _ m => mine c && decide (m = n)
    | .memberDone i _ ns _ => decide (i = r.id) && ns.contains n
    | _ => false) ||
  (x.norm.seats ++ x.sec.seats).any (fun y => mine y.cand) || x.armed.any (fun y => mine y.cand) ||
  (x.norm.stack ++ x.sec.stack).any fun y => decide (y.gather = some r.id)

/-- The gathering's pending members that are held nowhere count as completed, and as forced; they end the gathering without posting (R480).
DESIGN CHOICE (log entry 91): R480 speaks of the queue alone; the gang/timing cell asks its members' stations with the check of its queue. -/
def forceMembers (s : State) (evid : Nat) : State :=
  forAll s ((s.gathers.filter fun r => decide (r.evid = evid) && r.opened).flatMap fun r =>
      (r.pending.filter fun n => !memberHeld s r n).map fun n => (r.id, n)) fun t y =>
    match t.gathers.find? fun r => decide (r.id = y.1) with
    | some r => memberClear (t.modHub fun h => { h with forced := h.forced + 1 }) r y.2 false false
    | none => t

/-- HOLDER_CHECK_ANSWER reaches the owning ledger (R61, R480). -/
def execHolderCheckAnswer (evid : Nat) (s : State) : Ans :=
  let lc := ledgerCell s evid
  if onCell s lc = false then .next s
  else match arrive s (fun m => match m with | .holderAnswer a _ _ => decide (a = evid) | _ => false) with
  | none => .next s
  | some (p, s0) => (match p.msg with
    | .holderAnswer _ hc he => .next (forceMembers (holderAnswer (serveToken s0 lc) evid hc he) evid)
    | _ => .next s)

/-! ## Withdrawal and return -/

/-- Empty every seat, armed seat and recorded entry of an EVID's own candidate. -/
def dropSeat (e : Nat) (xs : List Seat) : List Seat := xs.filter fun x => !(decide (x.cand.evid = e) && x.cand.gather.isNone)
def findSeat (e : Nat) (xs : List Seat) : Option Cand :=
  (xs.find? fun x => decide (x.cand.evid = e) && x.cand.gather.isNone).map (·.cand)
def findStation (s : State) (e : Nat) : Option (Nat × Tour × Cand) :=
  s.stns.findSome? fun x => match findSeat e x.2.norm.seats with
    | some c => some (x.1, .normal, c)
    | none => (findSeat e x.2.sec.seats).map fun c => (x.1, .secure, c)
def findCtx (s : State) (e : Nat) : Option (Nat × Cand) :=
  s.ctxs.findSome? fun x => match findSeat e x.2.g.seats with
    | some c => some (x.1, c)
    | none => (findSeat e x.2.cands).map fun c => (x.1, c)
def emptyCtx (s : State) (v e : Nat) : State :=
  s.modCtx v fun x =>
    let cs := dropSeat e x.cands
    { x with g := { x.g with seats := dropSeat e x.g.seats }, cands := cs, counted := x.counted && (cs ≠ [] || x.spill), changed := x.changed || decide (cs ≠ x.cands) }

/-- Take the members of a gather record off every station. -/
def dropMembers (s : State) (id : Nat) : State :=
  let f : List Seat → List Seat := fun xs => xs.filter fun x => decide (x.cand.gather ≠ some id)
  dropMsgs { s with stns := s.stns.map fun x => (x.1, { x.2 with
      norm := { x.2.norm with seats := f x.2.norm.seats }, sec := { x.2.sec with seats := f x.2.sec.seats }
      armed := x.2.armed.filter fun a => decide (a.cand.gather ≠ some id) }) }
    fun m => match m with | .candStation _ _ c => decide (c.gather = some id) | _ => false

/-- WITHDRAWAL_ARRIVAL: the unit that holds the candidate empties its seat and sends it back; one on its way is taken back
too. A candidate claimed meanwhile is not found (R138, R140). -/
def execWithdrawalArrival (evid : Nat) (s : State) : Ans :=
  match arrive s (fun m => match m with | .withdrawal e _ => decide (e = evid) | _ => false) with
  | none => .next s
  | some (_, s1) =>
    let back (t : State) (c : Cand) (cell : Option Nat) : Ans := .next (reqWatchAll s (giveBackHub t c false cell))
    match takeFirst (fun p => match p.msg with
        | .candStation _ _ c => decide (c.evid = evid) && c.gather.isNone
        | .candSpread _ c | .candContext _ c | .candGang _ c => decide (c.evid = evid)
        | _ => false) s1.net with
    | some (p, rest) =>
      let s2 : State := { s1 with net := rest }
      (match p.msg with
       | .candStation _ _ c | .candSpread _ c | .candContext _ c | .candGang _ c => back s2 c none
       | _ => .next s2)
    | none => match findStation s1 evid with
      | some (n, t, c) =>
        let s2 := secureParity (serveToken s1 (rankCell s1 n)) n
        .next (reqWatchAll s (giveBack (checkPark (reportTour (putSeats s2 n t (dropSeat evid (seatsOf s2 n t))) n t) n t) c false n))
      | none => match findCtx s1 evid with
        | some (v, c) =>
          let s2 := settleStations s1 (emptyCtx (serveToken s1 (contextCell s1 v)) v evid) (dbHome s1 v)
          (match (s1.ctx v).station with
           | some n => .next (reqWatchAll s (giveBack (checkPark s2 n .virt) c false n))
           | none => back s2 c (contextCell s1 v))
        | none => match s1.gathers.find? fun r => decide (r.evid = evid) with
          | some r =>
            if r.claimed then .next s1
            else
              let s2 := settleStations s1 (dropMembers s1 r.id) r.pending
              back (gatherOffers s1 { s2 with gathers := s2.gathers.filter fun x => decide (x.id ≠ r.id) }) (candOf s2 evid) (some r.cell)
          | none =>
            if s1.net.any fun p => (match p.msg with | .claimed e .. | .returned { evid := e, .. } _ _ => decide (e = evid) | _ => false) then .next s1
            else .next (offer (freePlace (s1.modQueue evid fun x => { x with recalled := false }) evid) evid)

/-- The cell to which a returned candidate goes: its owning ledger, or for a member the cell of its gather record (R61). -/
def returnCell (s : State) (c : Cand) : Option Nat :=
  match c.gather with
  | some id => memberCell s id c.evid
  | none => ledgerCell s c.evid

/-- WITHDRAWN_CANDIDATE_RETURN: the owner, once its cell is enabled (R61), takes its candidate back (R138, R169, R179): a parked one waits for
a re-offer, a withdrawn one is offered again, and so is a parked one that was withdrawn, or whose re-offer came, on its way back (R170, R180,
R181). A parked member stays with its gather record, and any other goes to its station again. -/
def execWithdrawnCandidateReturn (evid : Nat) (s : State) : Ans :=
  match arrive s (fun m => match m with | .returned c _ _ => decide (c.evid = evid) && onCell s (returnCell s c) | _ => false) with
  | none => .next s
  | some (p, s0) => (match p.msg with
    | .returned c parked n =>
      let s1 := serveToken s0 (returnCell s0 c)
      (match c.gather with
       | some id =>
         if s1.gathers.any fun r => decide (r.id = id) && decide (n ∈ r.pending) then
           .next (if parked then
               { s1 with gathers := s1.gathers.map fun r => if r.id = id then { r with parked := r.parked ++ [(n, c)] } else r }
             else sendFrom s1 (returnCell s1 c) (.candStation n (candTour c) c) none (some (n / 48)))
         else .next s1
       | none =>
         let called := (s1.queue evid).recalled
         let s2 := unplace (unhand (descRead s1 evid) evid) evid c.grade
         if parked && !called then .next (settle (s2.modQueue evid fun x => { x with parked := true }) evid)
         else .next (settle (offerAgain (dropMsgs s2 fun m => match m with | .withdrawal e _ => decide (e = evid) | _ => false) evid) evid))
    | _ => .next s)

/-- Mark the seats of an EVID aged once their age has reached the limit (R167). -/
def ageSeats (m : Stamp) (e : Nat) (xs : List Seat) : List Seat :=
  xs.map fun x => if x.cand.evid = e ∧ age23 m x.cand.stamp ≥ ageMark then { x with cand := { x.cand with aged := true } } else x

/-- SEAT_AGE_VISIT: a rank cell, or a context cell, visits an occupied seat (R167, R368); an uncorrectable error in it
empties it and, where its tag can be read, withdraws the candidate to its owner (R479). -/
def execSeatAgeVisit (p : SeatPlace) (evid : Nat) (s : State) : Ans :=
  match p with
  | .station n t =>
    if rankOn s n = false then .next s
    else
      let ok := tagOk s (.seat n t evid) evid
      let r := strike (secureParity s n) (.seat n t evid) evid (rankCell s n)
      let xs := seatsOf r.2 n t
      if r.1 then
        (match xs.find? fun x => decide (x.cand.evid = evid) with
         | some x =>
           let u := reportTour (putSeats r.2 n t (xs.filter fun y => decide (y.cand.evid ≠ evid))) n t
           .next (reqWatch n s (checkPark (if ok then giveBack u x.cand false n else u) n t))
         | none => .next r.2)
      else .next (reqWatch n s (putSeats r.2 n t (ageSeats (r.2.op (n / 48)).copy evid xs)))
  | .context v =>
    if onCell s (contextCell s v) = false then .next s
    else
      let r := strike s (.ctx v) evid (contextCell s v)
      if r.1 then .next (poisonCtx r.2 v)
      else
        let cs := ageSeats s.mer.now evid (r.2.ctx v).cands
        .next (r.2.modCtx v fun x => { x with cands := cs, changed := x.changed || decide (cs ≠ x.cands) })

end Sys2Proof.Machine
end

