-- ==== Sys2Proof/Machine/Station.lean ====
section
/-! DEFINITION. Stations and virtual station pages: claim, completion, group controls, sends, residency and the context
window (R190 to R217, R326 to R328, R366 to R378). -/

namespace Sys2Proof.Machine

open Sys2Proof

/-! ## Pages: a station's group, or a vCPU's virtual group -/

/-- The group behind a page. -/
def pageGroup (s : State) : Page → Group
  | .stn n g => s.grp n g
  | .vst v => (s.ctx v).g
/-- Change the group behind a page. CHANGED of a context is set where its record shows the change (R327, R367). -/
def modPage (s : State) (p : Page) (f : Group → Group) : State :=
  match p with
  | .stn n g => s.modGrp n g f
  | .vst v => s.modCtx v fun x =>
    let y : Ctx := { x with g := f x.g }
    { y with changed := x.changed || decide (shownRec y ≠ shownRec x) }

def pageSecure : Page → Bool
  | .stn _ .secure => true
  | _ => false
def pageLimit : Page → Nat
  | .stn _ g => stackLimit (tourOf g)
  | .vst _ => 16

/-- The station that serves a page now, if any. -/
def pageStation (s : State) : Page → Option Nat
  | .stn n _ => some n
  | .vst v => (s.ctx v).station

/-- The STN_CLAIM word (R196). -/
def packClaim (valid : Bool) (p : Page) (kind nestFull : Bool) (seq : BitVec 8) (e : Nat) : Word :=
  at_ 0 e ||| flag 20 (pageSecure p) ||| flag 21 kind ||| flag 22 nestFull ||| at_ 23 seq.toNat ||| flag 31 valid

/-- The STN_WIN_STATE word (R196, R327). -/
def packWinState (p : Page) (w : Win) : Word :=
  flag 0 w.grade ||| flag 1 w.ovf ||| flag 2 w.rep ||| flag 3 w.aged ||| flag 4 w.lost |||
  flag 5 (w.gang && (match p with | .vst _ => false | _ => true)) ||| at_ 6 w.mode.toNat ||| at_ 8 w.rank.toNat ||| at_ 16 w.seq.toNat ||| flag 31 w.valid

/-- What a claim latches into the window (R196, R205). -/
def latch (w : Win) (m : Stamp) (e : Nat) (kind : Bool) (pl : Payload) (st : Stamp23) (aged ovf rep lost grade : Bool) : Win :=
  { w with valid := true, grade := grade, ovf := ovf, rep := rep, aged := aged, lost := lost, payload := pl, evid := e, kind := kind
           stamp := if aged then st.zeroExtend 64 else extendStamp m st }

/-- Raise STAMP_AGED for a claim whose stamp is not extended (R146, R477). -/
def agedClaim (s : State) (aged : Bool) (e : Nat) (p : Page) : State :=
  if aged then
    let n := match p with | .stn n _ => n | .vst _ => 0x3FF
    let unit := match p with | .stn n _ => n / 48 | .vst v => ((s.ctx v).station.map (· / 48)).getD 12
    raise s 0x09 unit (s.queue e).secure (w32 e) (w32 n) 1 (some unit)
  else s

/-- A valid claim counts: CLAIMS_VALID of the delivery cell, the page's booked count, the parcel's claims (R196, R382). -/
def countClaim (s : State) (n : Nat) (parcel : Nat) : State :=
  perfAdd (bump s (deliveryCell s n) 0x40) parcel 0x0A0 1
def countGrade (s : State) (p : Page) (grade : Bool) : State :=
  if grade then s else modPage s p fun g => { g with booked := satInc g.booked }

/-- The claim's data are held on the die: the queue is the die's own or cached in a cell of that die (R29, R61, R154). -/
def dataHere (s : State) (n e : Nat) : Bool := decide (ownerUnit e = n / 48) || (s.queue e).cached.any fun c => decide (unitOf c = n / 48)

/-- Push the claimed entry and add 1 to SEQ (R198, R203). -/
def pushEntry (s : State) (p : Page) (c : Cand) (kind : Bool) (ctx : Nat) : State :=
  modPage s p fun g => { g with
    stack := { evid := if kind then 0 else c.evid, kind := kind, rank := c.rank, running := c.rank, mode := c.mode, gather := c.gather, ctx := ctx } :: g.stack
    seq := g.seq + 1 }

/-- What the window shows of the claim itself (R196). -/
def noteWin (w : Win) (seq : BitVec 8) (rank : Rank) (mode : BitVec 2) (gang : Bool) : Win :=
  { w with seq := seq, rank := rank, gang := gang, mode := mode, await := false }

/-- A claim whose data are at hand: the entry, SEQ, and rank and mode in the window (R198, R203). -/
def pushClaim (s : State) (p : Page) (c : Cand) (kind : Bool) (ctx : Nat) (gang : Bool) : State :=
  modPage (pushEntry s p c kind ctx) p fun g => { g with win := noteWin g.win g.seq c.rank (if kind then 0 else c.mode.code) gang }

/-- A claim whose data come from the ledger: the read is held with what the claim fixed, and the window waits for the data (R29, R61,
R203, R204). -/
def holdClaim (s : State) (p : Page) (c : Cand) (m : Stamp) : State :=
  let s1 := modPage s p fun g => { g with win := { g.win with valid := false, await := true } }
  { s1 with out := { s1.out with held := s1.out.held ++
      [{ page := p, evid := c.evid, seq := (pageGroup s p).seq, rank := c.rank, mode := c.mode.code, aged := c.aged, copy := m }] } }

/-- A claim that takes nothing (R203, R201). -/
def claimNone (s : State) (p : Page) (n : Option Nat) : Word × State :=
  let g := pageGroup s p
  let s1 := modPage s p fun g => { g with win := { g.win with valid := false, await := false } }
  (packClaim false p false (decide (g.stack.length ≥ pageLimit p)) g.seq 0,
    match n with | some k => bump s1 (deliveryCell s1 k) 0x41 | none => s1)

/-- The claim of the hypervisor doorbell entry: one context is announced (R206, R370). -/
def claimDoorbell (s : State) (n : Nat) (c : Cand) : Word × State :=
  let p : Page := .stn n .normal
  match announced s n with
  | none => claimNone s p (some n)
  | some v =>
    let m := (s.op (n / 48)).copy
    let old := ctxOldest s m v
    let st := match old with | some o => o.stamp | none => c.stamp
    let aged := match old with | some o => o.aged | none => c.aged
    let grade := Config.doorbellGrade s.free
    let s1 : State := { s with free := s.free + 1 }
    let s2 := bump (s1.modCtx v fun x => { x with announced := true, counted := false, changed := true }) (contextCell s1 v) 0x52
    -- the claim goes to the context cell (R203)
    let s3 := pushClaim (sendFrom s2 (deliveryCell s2 n) (.dbReport v false) (some (n / 48)) none) p c true v false
    let s4 := modPage s3 p fun g => { g with win := latch g.win m 0 true (BitVec.ofNat 20 v) st aged false false false grade }
    let s5 := countGrade (bump s4 (deliveryCell s4 n) 0x40) p grade
    (packClaim true p true false (pageGroup s5 p).seq 0, settleStation s (agedClaim s5 aged 0 p) n)

/-- The claim of winner `c` on the page of a station's group (R203). The answer is none where the data must come from the
ledger: the read is then held (R29, R61). For a gang the first member's claim is the queue's claim (R138): it takes the
queue's payload, stamp and entry state, and every later member claim of that gathering shows the same. -/
def claimSeat (s : State) (n : Nat) (g : Grp) (c : Cand) : Option Word × State :=
  let p : Page := .stn n g
  let t := tourOf g
  let e := c.evid
  let q := s.queue e
  let m := (s.op (n / 48)).copy
  let s1 := putSeats s n t ((seatsOf s n t).filter fun x => decide (x.cand ≠ c))
  let s2 := countClaim (pushClaim s1 p c false 0 c.gather.isSome) n q.parcel
  let sHeld := countClaim (pushEntry s1 p c false 0) n q.parcel
  let tell (x : State) (h : Holder) (want : Bool) (st : Stamp23) (ovf lost : Bool) : State :=
    sendFrom x (deliveryCell x n) (.claimed e h want st ovf lost) (toOwner n e).1 (toOwner n e).2
  let done (x : State) : State := reportLoad (checkPark x n t) n g
  let fill (x : State) (pl : Payload) (st : Stamp23) (aged ovf rep lost grade : Bool) : Option Word × State :=
    let y := modPage x p fun gr => { gr with win := latch gr.win m e false pl st aged ovf rep lost grade }
    let z := agedClaim (countGrade y p grade) aged e p
    (some (packClaim true p false false (pageGroup z p).seq e), done z)
  let head := headOf s e
  let ovf := q.ovf && decide (q.mode = .count)
  let rep := decide (q.mode = .count) && !q.stampSet
  let slots := if q.mode = .payload then strike s2 (.slot (headSlot s2 q)) e (ledgerCell s2 e)
    else if q.mode = .latest then strike s2 (.slot q.tail) e (ledgerCell s2 e) else (false, s2)
  match c.gather with
  | some id =>
    (match s2.gathers.find? fun r => decide (r.id = id) with
     | some r =>
       if r.claimed then fill s2 r.payload r.stamp (c.aged || r.aged) r.ovf r.rep r.lost (r.grade && (c.grade || !r.timed))
       else
         let pl := if slots.1 then 0 else head.1
         let gr := r.grade && head.2.2
         let s3 := { slots.2 with gathers := slots.2.gathers.map fun y => if y.id = id then
           { y with claimed := true, payload := pl, stamp := head.2.1, aged := q.aged, ovf := ovf, rep := rep, lost := slots.1, grade := gr } else y }
         fill (takeSlot (tell s3 (.gang r.gang) false head.2.1 ovf slots.1) e) pl head.2.1 (c.aged || q.aged) ovf rep slots.1 (gr && (c.grade || !r.timed))
     | none => fill s2 c.payload c.stamp c.aged ovf c.rep false c.grade)
  | none =>
    if dataHere s n e then
      fill (takeSlot (tell slots.2 (.station n g) false head.2.1 ovf slots.1) e) (if slots.1 then 0 else head.1) head.2.1 (c.aged || q.aged) ovf rep slots.1 head.2.2
    else
      (none, done (holdClaim (tell sHeld (.station n g) true c.stamp false false) p c m))

/-- No claim has taken the gather record `id` yet (R138). -/
def unclaimed (s : State) (id : Nat) : Bool := !(s.gathers.any fun r => decide (r.id = id) && r.claimed)

/-- The seat's candidate has been withdrawn by its ledger: a queue's own, or a member of a gathering that none has claimed (R138, R140). -/
def recalledSeat (s : State) (x : Seat) : Bool :=
  (s.queue x.cand.evid).recalled && (match x.cand.gather with | none => true | some id => unclaimed s id)

/-- Candidates of a tournament that their ledger has withdrawn leave it before a claim is served: a claim served after a withdrawal does not
find its candidate (R140). A queue's own candidate goes back now; the members of a gathering are taken back with the others of it, by the
withdrawal's arrival. -/
def sweepRecalled (s : State) (n : Nat) (t : Tour) : State :=
  forAll s ((seatsOf s n t).filter (recalledSeat s)) fun u x =>
    let e := x.cand.evid
    let u1 := putSeats u n t ((seatsOf u n t).filter fun y => decide (y.cand ≠ x.cand))
    if x.cand.gather.isSome then u1
    else giveBack (dropMsgs u1 fun m => match m with | .withdrawal a _ => decide (a = e) | _ => false) x.cand false n

/-- An uncorrectable error in the seat of a winner empties it; where its tag can be read the candidate goes back to its owner (R479). The
answer says whether it was struck. -/
def strikeSeat (s : State) (n : Nat) (t : Tour) (c : Cand) : Bool × State :=
  let ok := tagOk s (.seat n t c.evid) c.evid
  let k := strike s (.seat n t c.evid) c.evid (rankCell s n)
  if k.1 then
    let u := putSeats k.2 n t ((seatsOf k.2 n t).filter fun x => decide (x.cand ≠ c))
    (true, if ok then giveBack u c false n else u)
  else k

/-- A read of STN_CLAIM (R203): the answer, or none while the read is held. An uncorrectable error in the winner's seat
empties it, and the claim takes the next winner (R479, R487). -/
def claimStation (s' : State) (n : Nat) (g : Grp) : Option Word × State :=
  let s := sweepRecalled (secureParity (overrun s' (deliveryCell s' n)) n) n (tourOf g)
  let take (x : State) : Option Word × State :=
    match presented x n g with
    | none => let r := claimNone x (.stn n g) (some n); (some r.1, r.2)
    | some c =>
      if c.evid = 0 then let r := claimDoorbell x n c; (some r.1, r.2) else claimSeat x n g c
  let r := match presented s n g with
    | none => take s
    | some c => take (strikeSeat s n (tourOf g) c).2
  (r.1, reqWatch n s' (settleStation s' r.2 n))

/-- A read of VST_CLAIM (R375, R376): the data always come from the owning ledger. -/
def claimVirt (s' : State) (v : Nat) : Option Word × State :=
  let p : Page := .vst v
  match (s'.ctx v).station with
  | none => let r := claimNone s' p none; (some r.1, r.2)
  | some n =>
    let u := sweepRecalled (secureParity (overrun s' (deliveryCell s' n)) n) n .virt
    let s := match presentedVirt u n v with | some c => (strikeSeat u n .virt c).2 | none => u
    match presentedVirt s n v with
    | none => let r := claimNone s p (some n); (some r.1, r.2)
    | some c =>
      let s1 := putSeats s n .virt ((seatsOf s n .virt).filter fun x => decide (x.cand ≠ c))
      let s2 := countClaim (pushEntry s1 p c false 0) n (s.queue c.evid).parcel
      let links := toOwner n c.evid
      let s3 := sendFrom s2 (deliveryCell s2 n) (.claimed c.evid (.context v) true c.stamp false false) links.1 links.2
      (none, reqWatch n s' (checkPark (holdClaim s3 p c (s.op (n / 48)).copy) n .virt))

/-- The copy of the meridian with which a held claim's stamp is extended: that of the claim, or that of the arrival where the occurrence is
later than the claim (R146, R205, log entry 18). -/
def claimCopy (h : HeldRead) (now : Stamp) (st : Stamp23) : Stamp := if (now - h.copy).toNat > age23 now st then now else h.copy

/-- The data of a held claim reach its page: the read is answered with that claim's SEQ, and the window is latched where no later CLAIM
or COMPLETE has been served (R203, R204, R375). -/
def claimDataArrival (s : State) (evid : Nat) : State :=
  match arrive s (fun m => match m with | .claimData e .. => decide (e = evid) | _ => false) with
  | none => s
  | some (p, s1) => (match p.msg with
    | .claimData e pg pl st aged ovf rep lost grade =>
      (match s1.out.held.find? fun h => decide (h.page = pg) && decide (h.evid = e) && !h.status with
       | none => s1
       | some h =>
         let now := match pageStation s1 pg with | some n => (s1.op (n / 48)).copy | none => s1.mer.now
         let s2 := modPage s1 pg fun g =>
           if g.win.await ∧ g.seq = h.seq then
             { g with win := latch (noteWin g.win h.seq h.rank h.mode false) (claimCopy h now st) e false pl st (aged || h.aged) ovf rep lost grade }
           else g
         let s3 := agedClaim (countGrade s2 pg grade) (aged || h.aged) e pg
         let w := packClaim true pg false false h.seq e
         let full := if h.wide then mk64 (packWinState pg (pageGroup s3 pg).win) w else w.zeroExtend 64
         { s3 with out := { s3.out with data := full, err := false, held := s3.out.held.erase h } })
    | _ => s)

/-! ## Completion -/

/-- Completion-class messages that wait ahead of a gang completion at a link cell; the gang completions of one gather are one (R261). -/
def classAhead (s : State) (k id : Nat) : Nat :=
  let gatherOf (p : Packet) : Option Nat := match p.msg with | .memberDone i .. => some i | _ => none
  let up := s.net.filter fun p => p.waitsAt k true
  (up.filter fun p => decide (p.msg.precedence = 3) && (gatherOf p).isNone).length + ((up.filterMap gatherOf).eraseDups.filter (· ≠ id)).length

/-- The late-risk mark of a member completion: that of the queued message it is merged into, or its own where more than three others are
ahead (R261). -/
def lateRisk (s : State) (k id : Nat) : Bool :=
  match s.net.findSome? fun p => (match p.msg with | .memberDone i _ _ late => if i = id ∧ p.waitsAt k true then some late else none | _ => none) with
  | some late => late
  | none => decide (classAhead s k id > 3)

/-- A member completion of station `n` goes up its link: merged into the message of its gathering that the link cell still holds, or as a message
of its own (R261). -/
def sendMember (s : State) (id e n : Nat) : State :=
  let here (p : Packet) : Bool := match p.msg with | .memberDone i _ _ _ => decide (i = id) && p.waitsAt (n / 48) true | _ => false
  if s.net.any here then
    { s with net := s.net.map fun p => if here p then
        (match p.msg with | .memberDone i a ns late => { p with msg := .memberDone i a (ns ++ [n]) late } | _ => p) else p }
  else sendFrom s (deliveryCell s n) (.memberDone id e [n] (lateRisk s (n / 48) id)) (some (n / 48)) none

/-- The first entry from the top that matches, and the stack without it (R199). -/
def removeEntry (e : Nat) (kind : Bool) : List Entry → Option (Entry × List Entry)
  | [] => none
  | x :: t => if x.evid = e ∧ x.kind = kind then some (x, t) else (removeEntry e kind t).map fun r => (r.1, x :: r.2)

/-- A write to STN_COMPLETE or VST_COMPLETE (R199, R207, R327, R376). An uncorrectable error in the entry is raised and the entry is removed;
its completion goes to the owner where its tag can be read (R479). -/
def complete (s' : State) (p : Page) (data : Word) : State :=
  let n := pageStation s' p
  let dc := match n with | some k => deliveryCell s' k | none => none
  let s := match p with | .stn k _ => secureParity (overrun s' dc) k | .vst _ => overrun s' dc
  let s0 := bump (modPage s p fun g => { g with win := { g.win with valid := false, await := false } }) dc 0x42
  let virt : Bool := match p with | .vst _ => true | _ => false
  let e := bits data 0 20
  let kind := data.getLsbD 20
  if bits data 21 11 ≠ 0 ∨ (virt ∧ kind) then
    let s1 := bump s0 dc 0x43
    match p with | .vst v => perfAdd s1 (s1.ctx v).parcel 0x0A8 1 | _ => s1
  else
    let h : Holder := match p with | .stn k g => .station k g | .vst v => .context v
    let links := match n with | some k => toOwner k e | none => (none, if ownerUnit e = 12 then none else some (ownerUnit e))
    let r := match removeEntry e kind (pageGroup s0 p).stack with
      | none =>
        (match p with
         | .vst v =>
           if e ∈ (s0.ctx v).voided then s0.modCtx v fun x => { x with voided := x.voided.erase e }
           else perfAdd (sendFrom s0 dc (.completed e h) links.1 links.2) (s0.ctx v).parcel 0x0A8 1
         | _ => sendFrom s0 dc (.completed e h) links.1 links.2)
      | some (x, rest) =>
        let word : Store := match p with | .stn k g => .stack k g e | .vst v => .vstack v e
        let ok := tagOk s0 word e
        let s1 := modPage (strike s0 word e dc).2 p fun g => { g with stack := rest }
        if x.orphan || !ok then s1
        -- the completion of the doorbell entry goes to the context cell (R206, R207)
        else if x.kind then sendFrom s1 dc (.dbReport x.ctx true) (n.map (· / 48)) none
        else
          let s2 := perfAdd s1 (s1.queue e).parcel 0x0A4 1
          match x.gather, n with
          | some id, some k => sendMember s2 id e k
          | _, _ => sendFrom s2 dc (.completed e h) links.1 links.2
    match p, n with
    | .stn k _, _ => reqWatch k s' (settleStation s' r k)
    | .vst _, some k => reqWatch k s' r
    | .vst _, none => r

/-! ## Group controls (R200, R202, R374, R376) -/

/-- The controls of the secure group decide what the station presents: they are used with every write of a group control (R81, R171). -/
def pageParity (s : State) (p : Page) : State := match pageStation s p with | some n => secureParity s n | none => s

def watchPage (s0 s1 : State) (p : Page) : State :=
  match pageStation s0 p with
  | some n => reqWatch n s0 s1
  | none => s1

/-- STN_RUNNING_RANK: the running value of the top entry; ignored while the stack is empty. -/
def writeRunning (s' : State) (p : Page) (data : Word) : State :=
  let s := pageParity s' p
  match (pageGroup s p).stack with
  | [] => s
  | x :: t => watchPage s (modPage s p fun g => { g with stack := { x with running := data.extractLsb' 0 8 } :: t }) p
/-- STN_MASK_RANK. -/
def writeMask (s' : State) (p : Page) (data : Word) : State :=
  let s := pageParity s' p
  watchPage s (modPage s p fun g => { g with maskRank := data.extractLsb' 0 8, maskOpen := data.getLsbD 8 }) p
/-- STN_PRE_BITS: a value above 8 stores 8. -/
def writePreBits (s' : State) (p : Page) (data : Word) : State :=
  let s := pageParity s' p
  watchPage s (modPage s p fun g => { g with preBits := if bits data 0 4 > 8 then 8 else data.extractLsb' 0 4 }) p

/-! ## Sends (R213 to R216, R377) -/

/-- A token for this EVID, or for this gang (`2^20` beyond its number), waits in the cell, or a timed one holds its ticket (R263): a delivery cell's
token holds the ticket toward the link cell until it crosses. -/
def sendWaits (s : State) (c key : Nat) : Bool :=
  s.net.any fun p => match p.msg with
    | .event t => decide (t.cell = c) && !(p.up.isSome && p.upDone) && (decide (p.msg.eventOf = some key) || decide (t.pre = 0))
    | _ => false

/-- A send's own region and ticket, at a delivery cell, or, for a vCPU that is not resident, at its context cell (R263, R264). -/
def sendPre (s : State) (c key : Nat) (k : Option Nat) : Nat :=
  let u := unitOf c
  if !cond1At s u then 1 else if sendWaits s c key then 7
  else if cellClear s c && (match k with | some j => linkClear s j true | none => true) then 0 else 4

/-- The cell that serves a send of the page, and the link that it crosses upward (R213, R377). -/
def sendPlace (s : State) (p : Page) : Option (Nat × Option Nat) :=
  match pageStation s p with
  | some n => (deliveryCell s n).map fun c => (c, some (n / 48))
  | none => (match p with | .vst v => (contextCell s v).map fun c => (c, none) | _ => none)

/-- The cell serves a send: SENDS of a delivery cell, its arbiter and its guards (R81, R279, R462). -/
def sendServe (s : State) (c : Nat) (k : Option Nat) : State :=
  rodParityAll (overrun (if k.isSome then bump s (some c) 0x44 else s) (some c)) (c :: k.toList.flatMap fun j => roleCells s j roleLink)

/-- The cell stamps a send and sends it on (R213). -/
def sendToken (s : State) (p : Page) (c : Nat) (k : Option Nat) (key : Nat) (t : Token) : State :=
  let virt : Bool := match p with | .vst _ => true | _ => false
  let x : Token := { t with payload := (pageGroup s p).sendData, stamp := copyOf s (unitOf c), pre := sendPre s c key k, src := .send p
                            lock := if virt then .virt else .full, cell := c, serial := s.nextId }
  let s1 := if sendWaits s c key then bump s (some c) 0x09 else s
  sendFrom { s1 with nextId := s1.nextId + 1 } (some c) (.event x) k none

/-- The requester ID and security attribute that a send carries (R213, R377). -/
def sendRid (s : State) (p : Page) (a : Acc) : BitVec 16 :=
  match p with
  | .stn .. => a.rid
  | .vst v => 0xFC00 + BitVec.ofNat 16 (s.ctx v).parcel
def sendSec (p : Page) (a : Acc) : Bool := match p with | .stn .. => a.sec | .vst _ => false

/-- A write to STN_SEND or VST_SEND (R213): a software event of the page, to the EVID written. -/
def writeSend (s : State) (p : Page) (data : Word) (a : Acc) : State :=
  match sendPlace s p with
  | none => s
  | some (c, k) =>
    let s0 := sendServe s c k
    let e := data.toNat
    let rid := sendRid s p a
    let sec := sendSec p a
    if e ≥ 2 ^ 20 then rejectSend s0 p rHighClassic rid sec (e % 2 ^ 20) data
    else if e = 0 then rejectSend s0 p rEvidNone rid sec e 0
    else if isWired e then rejectSend s0 p rEvidWired rid sec e 0
    else if isInternal e then rejectSend s0 p rEvidInternal rid sec e 0
    else sendToken s0 p c k e { evid := e, rid := rid, sec := sec }

/-- A write to STN_SEND_GANG or VST_SEND_GANG (R214): an occurrence of the gang's send EVID, which the gang/timing cell resolves (R258). -/
def writeSendGang (s : State) (p : Page) (data : Word) (a : Acc) : State :=
  match sendPlace s p with
  | none => s
  | some (c, k) =>
    let s0 := sendServe s c k
    if data.toNat ≥ 1024 then rejectSend s0 p rHighClassic (sendRid s p a) (sendSec p a) 0 data
    else sendToken s0 p c k (2 ^ 20 + data.toNat) { evid := 0, gang := some data.toNat, rid := sendRid s p a, sec := sendSec p a }

/-- A send of the page that was served before the one named `upTo` is on its way to its ledger (R216). -/
def unsettled (s : State) (p : Page) (upTo : Nat) : Bool :=
  let mine (t : Token) : Bool := decide (t.src = .send p) && decide (t.serial < upTo)
  s.net.any (fun x => match x.msg with | .event t => mine t | _ => false) ||
  s.cells.any fun c => match c.2.ledgerHold with | some t => mine t | none => false

/-- The send status word, which a read clears (R196, R294). -/
def sendStatusWord (g : Group) : Word := at_ 0 g.reason.toNat ||| flag 4 g.rejected
def takeSendStatus (s : State) (p : Page) : Word × State :=
  (sendStatusWord (pageGroup s p), modPage s p fun g => { g with rejected := false })

/-- The held reads of send status whose sends are settled are answered (R216). -/
def answerHeld (s : State) : State :=
  forAll s (s.out.held.filter (·.status)) fun t h =>
    if unsettled t h.page h.upTo then t
    else
      let r := takeSendStatus t h.page
      let full := if h.wide then mk64 r.1 0 else r.1.zeroExtend 64
      { r.2 with out := { r.2.out with data := full, err := false, held := r.2.out.held.erase h } }

/-- SEND_REJECTION_NOTICE: the notice of a deferred send rejected at its release reaches its page (R216). -/
def execSendRejectionNotice (p : Page) (s : State) : Ans :=
  match arrive s (fun m => match m with | .sendReject x _ => decide (x = p) | _ => false) with
  | none => .next s
  | some (k, s1) => (match k.msg with
    | .sendReject _ r => .next (pageReject s1 p r)
    | _ => .next s)

/-! ## Residency (R371 to R373) -/

/-- A parcel names a station of its set (R365). -/
def inSet (s : State) (p n : Nat) : Bool := decide (p = 0) || (s.parcel p).stations.contains n

/-- The context cell reads a context's record (R479, kind 5). -/
def ctxRead (s : State) (v : Nat) : State :=
  let r := strike s (.ctx v) 0 (contextCell s v)
  if r.1 then poisonCtx r.2 v else r.2

/-- Make vCPU `v` resident on station `n` (R372), where R371 does not refuse it. The context cell reads the record, where an uncorrectable error
poisons the context (R479), and the station's request levels use its secure controls (R81). DESIGN CHOICE (log entry 92): an ENTER that names the
vCPU already resident on that same station is accepted and changes nothing. -/
def vctxEnter (s' : State) (n : Nat) (low : BitVec 31) : State :=
  let v := low.toNat % 16384
  let s := ctxRead (secureParity s' n) v
  let x := s.ctx v
  let dc := deliveryCell s n
  if low.toNat ≥ 16384 ∨ !x.bound ∨ x.poisoned ∨ !inSet s x.parcel n ∨ (s.parcel x.parcel).st = .fenced ∨ !stnOn s n then bump s dc 0x46
  else if (s.stn n).resident = some v then bump s dc 0x45
  else
    let s1 := bump (vctxLeave s n) dc 0x45
    let s2 := match (s1.ctx v).station with | some k => vctxLeave s1 k | none => s1
    let spill := (s2.ctx v).spill
    let s3 := (s2.modStn n fun y => { y with resident := some v }).modCtx v fun y => { y with
      station := some n, g := { y.g with seats := y.cands }, cands := [], announced := false, counted := false, spill := false, changed := true }
    let s4 := touch (settleStations s2 s3 (dbHome s v)) x.parcel
    reqWatch n s (if spill then sendReOffer s4 12 (contextCell s4 v) (.context v) else s4)

/-! ## The context window (R327, R328, R367, R368) -/

/-- A list of fields of equal width packed into words, the first lowest. -/
def packNat (w : Nat) : List Nat → Nat
  | [] => 0
  | x :: t => x % 2 ^ w + 2 ^ w * packNat w t

/-- Word `i` (0–63) of a context record. -/
def recordWord (x : Ctx) (i : Nat) : Word :=
  let r := shownRec x
  if !x.bound then 0
  else if i = 0 then flag 0 true ||| flag 1 x.station.isSome ||| at_ 2 x.home ||| at_ 12 (x.station.getD 0x3FF) ||| at_ 22 x.parcel
  else if i = 1 then at_ 0 x.dbRank.toNat ||| at_ 8 r.maskRank.toNat ||| flag 16 r.maskOpen ||| at_ 17 r.preBits.toNat ||| at_ 21 r.seq.toNat
  else if i = 2 then at_ 0 r.stack.length ||| at_ 8 x.cands.length ||| flag 16 x.spill ||| flag 17 x.announced
  else if i = 3 then at_ 0 r.sendData.toNat
  else if i = 4 then r.booked
  else if i = 5 then at_ 0 r.reason.toNat ||| flag 4 r.rejected
  else if i < 8 then 0
  else if i < 32 then
    let es := r.stack.reverse.map fun y => y.evid + y.rank.toNat * 2 ^ 20 + y.running.toNat * 2 ^ 28 + y.mode.code.toNat * 2 ^ 36
    w32 (packNat 48 es >>> (32 * (i - 8)))
  else
    let cs := x.cands.map fun y => y.cand.evid + y.cand.rank.toNat * 2 ^ 20 + y.cand.stamp.toNat * 2 ^ 28
      + (if y.cand.grade then 2 ^ 51 else 0) + (if y.cand.aged then 2 ^ 52 else 0)
    w32 (packNat 64 cs >>> (32 * (i - 32)))

/-- A read of VST_CTX_CAPTURE (R328); an uncorrectable error in the record poisons the context, whose page then reads zero (R329, R479). -/
def ctxCapture (s' : State) (v : Nat) : Word × State :=
  let s := ctxRead s' v
  let x := s.ctx v
  if x.poisoned then (0, s)
  else
  let seq := x.capSeq + 1
  let sect := x.ctxSel
  (at_ 0 seq.toNat ||| at_ 8 sect.toNat ||| flag 30 x.changed ||| flag 31 true,
   s.modCtx v fun y => { y with capSeq := seq, changed := false, winValid := true, winSeq := seq, winSect := sect
                                win := (List.range 8).map fun i => recordWord x (8 * sect.toNat + i) })

end Sys2Proof.Machine
end

