-- ==== Sys2Proof/Machine/StnRegs.lean ====
section
/-! DEFINITION. The station pages, hypervisor pages and virtual station pages as registers (R193 to R197, R211, R212, R326
to R329, R375, R376). Offsets are those of FULL decode. The security checks come before (R281). -/

namespace Sys2Proof.Machine

open Sys2Proof

/-- The answer of one 32-bit access: its data, its error status, and whether the read is held. -/
structure Rsp where
  data : Word := 0
  err  : Bool := false
  held : Bool := false
  deriving DecidableEq, Repr

/-! ## Which location an offset names -/

def offStation (off : Nat) : Nat := (off - 0x1000000) / 0x4000
def offPage (off : Nat) : Nat := (off - 0x1000000) / 0x1000 % 4
def offCtx (off : Nat) : Nat := (off - 0x4000000) / 0x1000

/-- Contexts within the plat's capacity (R51). -/
def ctxCapacity (s : State) : Nat := 128 * (roleCells s 12 roleContext).length

/-- A page location that a register map row names (R195, R197, R326). -/
def pageImpl (s : State) (off : Nat) : Bool :=
  let o := off % 0x1000
  if off ≥ 0x4000000 then decide (offCtx off < ctxCapacity s) && decide (o < 0x07C)
  else stnExists s (offStation off) &&
    (match offPage off with
     | 0 | 2 => decide (o < 0x04C)
     | 1 => decide (o < 0x00C)
     | _ => false)

/-- The page that an offset belongs to. -/
def offPg (off : Nat) : Page :=
  if off ≥ 0x4000000 then .vst (offCtx off)
  else .stn (offStation off) (if offPage off = 2 then .secure else .normal)

/-! ## Values -/

/-- STN_STATUS or VST_STATUS (R196, R327). -/
def pageStatus (s : State) : Page → Word
  | .stn n g =>
    let x := s.grp n g
    flag 0 (reqLevel s n g) ||| at_ 1 (min (seatLimit (tourOf g)) (seatCount s n (tourOf g))) ||| flag 8 x.park ||| at_ 9 x.stack.length |||
      flag 15 (decide (x.stack.length ≥ stackLimit (tourOf g))) ||| flag 16 (!stnOn s n)
  | .vst v =>
    let x := s.ctx v
    at_ 9 x.g.stack.length ||| flag 15 (decide (x.g.stack.length ≥ 16)) |||
    (match x.station with
     | some n => flag 0 (virtLevel s n) ||| at_ 1 x.g.seats.length ||| flag 8 (s.stn n).virtPark ||| flag 16 (!stnOn s n)
     | none => flag 17 true)

/-- The value of a group register without any read action (R196, R327). -/
def groupPeek (s : State) (p : Page) (o : Nat) : Word :=
  let g := pageGroup s p
  match o with
  | 0x000 => packClaim false p false (decide (g.stack.length ≥ pageLimit p)) g.seq 0
  | 0x004 => packWinState p g.win
  | 0x008 => at_ 0 g.win.payload.toNat
  | 0x00C => lo32 g.win.stamp
  | 0x010 => hi32 g.win.stamp
  | 0x014 => at_ 0 g.win.evid ||| flag 20 (pageSecure p) ||| flag 21 g.win.kind
  | 0x024 => (match g.running with
    | none => 0x1FF
    | some r => at_ 0 r.toNat)
  | 0x028 => at_ 0 g.maskRank.toNat ||| flag 8 g.maskOpen
  | 0x02C => at_ 0 g.preBits.toNat
  | 0x030 => at_ 0 g.sendData.toNat
  | 0x03C => sendStatusWord g
  | 0x040 => pageStatus s p
  | 0x044 => g.booked
  | 0x048 => if pageSecure p then g.denied else 0
  | _ => 0

/-- The registers of a virtual station page above 0x044 (R327). -/
def vstPeek (s : State) (v o : Nat) : Word :=
  let x := s.ctx v
  match o with
  | 0x048 => at_ 0 v ||| at_ 14 x.parcel
  | 0x04C => at_ 0 x.home ||| at_ 16 (x.station.getD 0x3FF) ||| flag 31 x.station.isSome
  | 0x050 => at_ 0 x.ctxSel.toNat
  | 0x054 => at_ 0 x.capSeq.toNat ||| at_ 8 x.ctxSel.toNat ||| flag 30 x.changed ||| flag 31 true
  | 0x058 => at_ 0 x.winSeq.toNat ||| at_ 8 x.winSect.toNat ||| flag 31 x.winValid
  | _ => if 0x05C ≤ o then (x.win[(o - 0x05C) / 4]?).getD 0 else groupPeek s (.vst v) o

/-- The hypervisor page (R197). -/
def hvPeek (s : State) (n o : Nat) : Word :=
  match o with
  | 0x000 => at_ 0 (pendingCtxs s n).length ||| flag 15 ((dbSeat s n).isSome || dbActive s n)
  | 0x004 => (match (s.stn n).resident with
    | some v => at_ 0 v ||| flag 31 true
    | none => 0)
  | _ => 0

/-- A virtual station page that the hub answers with zeros (R329); a poisoned context counts as unbound (R479). -/
def vstDead (s : State) (v : Nat) : Bool := !(s.ctx v).bound || (s.ctx v).poisoned

/-- The value at a page location, without any read action. -/
def pagePeek (s : State) (off : Nat) : Word :=
  let o := off % 0x1000
  if off ≥ 0x4000000 then (if vstDead s (offCtx off) then 0 else vstPeek s (offCtx off) o)
  else if dieAway s (offStation off / 48) then (if offPage off ≠ 1 ∧ o = 0x040 then 0x20000 else 0)
  else if offPage off = 1 then hvPeek s (offStation off) o
  else groupPeek s (offPg off) o

/-- Page locations with a read action (R284). -/
def pageAction (off : Nat) : Bool :=
  let o := off % 0x1000
  if off ≥ 0x4000000 then decide (o = 0) || decide (o = 0x3C) || decide (o = 0x54)
  else decide (offPage off ≠ 1) && (decide (o = 0) || decide (o = 0x3C))

/-! ## Reads and writes -/

/-- A claim, with its answer (R203, R375, R376). -/
def claimRead (s : State) (p : Page) : Rsp × State :=
  let r := match p with
    | .stn n g => claimStation s n g
    | .vst v => claimVirt s v
  match r.1 with
  | some w => ({ data := w }, r.2)
  | none => ({ held := true }, r.2)

/-- A read of the send status: held until every earlier send of the page is settled (R216). -/
def sendStatusRead (s : State) (p : Page) : Rsp × State :=
  if unsettled s p s.nextId then
    ({ held := true }, { s with out := { s.out with held := s.out.held ++ [{ page := p, status := true, upTo := s.nextId }] } })
  else let r := takeSendStatus s p; ({ data := r.1 }, r.2)

/-- The registers of a page that a read uses: its own, and for STN_S_STATUS, whose request level the secure controls decide, those too (R81,
R196). Where the hub answers for the die none is (R212). -/
def pageUse (s : State) (off : Nat) : State :=
  if off < 0x4000000 ∧ dieAway s (offStation off / 48) then s
  else
    let t := parityCheck s off
    if off < 0x4000000 ∧ offPage off = 2 ∧ off % 0x1000 = 0x040 then secureParity t (offStation off) else t

/-- One 32-bit read of a page. -/
def pageRead (s : State) (off : Nat) : Rsp × State :=
  let o := off % 0x1000
  let s1 := pageUse s off
  if !pageAction off then ({ data := pagePeek s1 off }, s1)
  else if off < 0x4000000 ∧ dieAway s1 (offStation off / 48) then ({}, s1)
  else if off ≥ 0x4000000 ∧ vstDead s1 (offCtx off) then ({}, s1)
  else if o = 0 then claimRead s1 (offPg off)
  else if o = 0x3C then sendStatusRead s1 (offPg off)
  else let r := ctxCapture s1 (offCtx off); ({ data := r.1 }, r.2)

/-- A write of a group register (R196, R199, R200, R202, R213, R327). -/
def groupWrite (s : State) (p : Page) (o : Nat) (data : Word) (a : Acc) : State :=
  match o with
  | 0x020 => complete s p data
  | 0x024 => writeRunning s p data
  | 0x028 => writeMask s p data
  | 0x02C => writePreBits s p data
  | 0x030 => modPage s p fun g => { g with sendData := data.extractLsb' 0 20 }
  | 0x034 => writeSend s p data a
  | 0x038 => writeSendGang s p data a
  | 0x044 => modPage s p fun g => { g with booked := data }
  | 0x048 => if pageSecure p then modPage s p fun g => { g with denied := data } else s
  | _ => s

/-- A write of STN_VCTX_SWITCH (R197, R371 to R373). A write of ENTER = 0 on a station with no vCPU resident is ignored;
one with bits [30:14] non-zero is refused (log entry 19). -/
def vctxSwitch (s : State) (n : Nat) (data : Word) : State :=
  let low := data.extractLsb' 0 31
  if data.getLsbD 31 then vctxEnter s n low
  else if low.toNat ≥ 16384 then bump s (deliveryCell s n) 0x46
  else if (s.stn n).resident.isNone then s
  else reqWatch n s (bump (vctxLeave s n) (deliveryCell s n) 0x45)

/-- A write of a page location by the unit that serves it, with no regard to holding. -/
def pageWriteNow (s : State) (off : Nat) (data : Word) (a : Acc) : State :=
  let o := off % 0x1000
  if off ≥ 0x4000000 then
    let v := offCtx off
    if vstDead s v then s
    else if o = 0x050 then s.modCtx v fun x => { x with ctxSel := data.extractLsb' 0 3 }
    else if o < 0x048 then groupWrite s (.vst v) o data a else s
  else if offPage off = 1 then (if o = 8 then vctxSwitch s (offStation off) data else s)
  else groupWrite (if offPage off = 2 then parityClear s off else s) (offPg off) o data a

/-- The station whose delivery cell serves a page location. -/
def servingStation (s : State) (off : Nat) : Option Nat :=
  if off ≥ 0x4000000 then (s.ctx (offCtx off)).station else some (offStation off)

/-- A write of a page location: ignored while the hub answers for the die (R212), held while the delivery cell is
disabled or draining, in one order for both stations of that cell (R211). A VCTX_SWITCH with ENTER = 1 is judged at once (R371). -/
def pageWrite (s : State) (off : Nat) (data : Word) (a : Acc) : State :=
  match servingStation s off with
  | none => pageWriteNow s off data a
  | some n =>
    if dieAway s (n / 48) then s
    else if stnOn s n ∨ (off < 0x4000000 ∧ offPage off = 1 ∧ (off % 0x1000 ≠ 8 ∨ data.getLsbD 31)) ∨ (off ≥ 0x4000000 ∧ vstDead s (offCtx off)) then pageWriteNow s off data a
    else s.modStn (n - n % 2) fun x => { x with heldW := x.heldW ++ [{ offset := off, write := true, data := data.zeroExtend 64, acc := a }] }

/-- The held writes of a delivery cell's two stations, which the lower one keeps, are applied in order at the enable of the cell (R211). -/
def applyHeld (s : State) (n : Nat) : State :=
  let ws := (s.stn n).heldW
  forAll (s.modStn n fun x => { x with heldW := [] }) ws fun t w => pageWriteNow t w.offset (lo32 w.data) w.acc

end Sys2Proof.Machine
end

