-- ==== Sys2Proof/Machine/CellCtl.lean ====
section
/-! DEFINITION. Enabling, disabling and draining of cells (R58 to R62), the Datum check (R73 to R80), self-test and spare
substitution (R63 to R66), the benchmark set as the cells use it (R450 to R453). -/

namespace Sys2Proof.Machine

open Sys2Proof

/-! ## The benchmark set -/

/-- A word of the benchmark set by byte offset (R450). -/
def benchWord (s : State) (off : Nat) : Word := getW s.isl.bench (off / 4)

/-- The coefficient of a physical cell: its ROD_COEF entry, or the built-in default while the set is invalid (R63, R273, R451). -/
def coefOf (s : State) (phys : Nat) : BitVec 16 :=
  if s.isl.defaults then defaultCoef else BitVec.ofNat 16 (bits (benchWord s (0x1000 + 2 * phys / 4 * 4)) (16 * (phys % 2)) 16)

/-- MARGIN and HOT_ADD in force (R449, R453). -/
def marginOf (s : State) (hot : Bool) : BitVec 10 :=
  let m := if s.isl.defaults then 0x0C8 else bits (benchWord s 0x20) 0 10
  let h := if s.isl.defaults then 0x014 else bits (benchWord s 0x20) 10 10
  BitVec.ofNat 10 (max 0x050 (min 0x3FF (if hot then m + h else m)))

/-- The physical cell that serves a slot (R56). -/
def physOf (s : State) (c : Nat) : Nat := (s.cell c).phys.getD c

/-- Wairo's copy of a tuning register (R83), by offset. -/
def journalPut (s : State) (off : Nat) (w : Word) : State := s.modIsl fun x => { x with journal := tput off w x.journal }

/-- Wairo writes the rod registers of a slot (R84 step 3, R451). -/
def writeRod (s : State) (c : Nat) : State :=
  let co := coefOf s (physOf s c)
  let ma := marginOf s (s.cell c).hot
  let s1 := s.modCell c fun x => { x with coef := co, margin := ma, safeCoef := false, safeMargin := false }
  speedJudge s <| journalPut (journalPut (parityClear (parityClear s1 (cellBase c + 0x100)) (cellBase c + 0x104)) (cellBase c + 0x100) (at_ 0 co.toNat))
    (cellBase c + 0x104) (at_ 0 ma.toNat)

/-! ## Cells -/

/-- The cell is enabled or draining: its RWL fields are locked (R59). -/
def locked (x : Cell) : Bool := x.en || !x.quiet

/-- The slot's local value can be read (R75). -/
def canRead (s : State) (c : Nat) : Bool :=
  decide (unitOf c = 12) || (decide ((s.op (unitOf c)).logic = .on) && linkUp s (unitOf c))

/-- The test of R60; the self-test of a cell whose die is off has not run (R55, log entry 32). -/
def canEnable (s : State) (c : Nat) : Bool :=
  let x := s.cell c
  decide (x.role ≠ 0) && decide (x.bist = 1) && !x.unserved && decide (x.datum = 1) && !x.fenced

/-- Every non-spare cell of a unit. -/
def workCells (s : State) (u : Nat) : List Nat :=
  (s.cells.filter fun e => decide (unitOf e.1 = u) && decide (e.2.role ≠ 0)).map (·.1)

/-- The stations that a rank cell serves, and the sets of a hub rank cell (R162). -/
def rankStations (s : State) (c : Nat) : List Nat :=
  if unitOf c = 12 then [] else (dieStations (unitOf c)).filter fun n => decide (rankCell s n = some c)
def rankSets (s : State) (c : Nat) : List Nat :=
  if unitOf c = 12 then (List.range 256).filter fun n => decide (spreadCell s n = some c) else []
/-- The stations of a delivery cell (R50). -/
def cellStations (s : State) (c : Nat) : List Nat := [48 * unitOf c + 2 * (s.cell c).index, 48 * unitOf c + 2 * (s.cell c).index + 1]

/-- Every seat of a group of a station is withdrawn; the queue is left PENDING until the re-offer (R61). -/
def drainSeats (s : State) (n : Nat) (t : Tour) : State :=
  let xs := seatsOf s n t
  let s1 := setPark (putSeats s n t []) n t false
  reportTour (forAll s1 xs fun x y => giveBack x y.cand true n) n t

/-- What draining a cell does at once (R61). -/
def disableCell (s : State) (c : Nat) : State :=
  let x := s.cell c
  if !x.en then s
  else
    let s0 := s.modCell c fun y => { y with en := false, quiet := false }
    let s1 :=
      if x.role = roleDelivery then
        forAll s0 (cellStations s0 c) fun t n => drainSeats (drainSeats t n .normal) n .secure
      else if x.role = roleRank then
        forAll s0 (rankStations s0 c) fun t n =>
          let u := drainSeats (drainSeats t n .normal) n .secure
          let as := (u.stn n).armed
          forAll (u.modStn n fun y => { y with armed := [] }) as fun v a =>
            giveBack v { a.cand with target := some a.target } true n
      else s0
    speedJudge s s1

/-- What the enable of a cell releases (R61, R93, R98, R104, R170, R211). -/
def enableCell (s : State) (c : Nat) : State :=
  let x := s.cell c
  if x.en then s
  else
    let s0 := s.modCell c fun y => { y with en := true, quiet := true }
    let s1 :=
      if x.role = roleIntake then
        drainPorts (forAll s0 (cellInputs s0 c) fun t e => sendLevel (releaseHeld t c e) e)
      else if x.role = roleLedger then
        -- hub ledger index 0 takes the ring base (R151, R293)
        let base := (getW x.plat 0x11) ++ (getW x.plat 0x10)
        let s0 := if unitOf c = 12 ∧ x.index = 0 then { s0 with fb := { s0.fb with base := base, place := if base = s0.fb.base then s0.fb.place else 0 } } else s0
        forAll s0 ((s0.queues.filter fun e => isWired e.1 && decide (e.2.mode = .level) && e.2.bound && decide (ledgerCell s0 e.1 = some c)).map (·.1)) sendLevel
      else if x.role = roleDelivery then
        forAll s0 (cellStations s0 c) fun t n =>
          let u := applyHeld (t.modStn n fun y => { y with wasOn := true }) n
          sendReOffer u (n / 48) (rankCell u n) (.station n)
      else if x.role = roleRank then
        let t := forAll s0 (rankStations s0 c) fun u n => sendReOffer u (n / 48) (some c) (.station n)
        forAll t (rankSets t c) fun u n => sendReOffer u 12 (some c) (.spread n)
      else s0
    speedJudge s (reqWatchAll s s1)

/-- The unit is closing or off: which of its slots are enabled again is settled already (R422). -/
def unitAway (s : State) (u : Nat) : Bool :=
  if u = 12 then s.pwr.closing || decide (s.pwr.hubl ≠ .on) else (s.op u).closing || decide ((s.op u).logic ≠ .on)

/-- A write of CELL_EN (R58, R60). -/
def writeCellEn (s : State) (c : Nat) (on : Bool) : State :=
  if on then
    if canEnable s c then enableCell s c else s.modCell c fun x => { x with enRefused := true }
  else (disableCell s c).modCell c fun x => { x with enKept := x.enKept && unitAway s (unitOf c) }

/-- A token is inside the cell: one that waits in its output port (R61), in a link cell also one that is to cross upward or has come down and is
not served yet, or one that it holds as a ledger (R55, R152). -/
def tokenInside (s : State) (c : Nat) : Bool :=
  (s.cell c).ledgerHold.isSome || s.net.any fun p =>
    (decide (p.cell = some c) && p.up.isNone && !p.downDone) ||
    (match p.up with | some k => !p.upDone && decide (linkCell s k = some c) | none => false) ||
    (match p.down with | some k => p.downDone && decide (linkCell s k = some c) | none => false)

/-- CELL_DRAIN_DONE: the draining cell has finished the tokens inside it and is quiet (R55, R58). -/
def execCellDrainDone (cell : Nat) (s : State) : Ans :=
  if (s.cell cell).en || tokenInside s cell then .next s else .next (s.modCell cell fun x => { x with quiet := true })

/-- A write of HUB_EN (R62, R152, R314). At its rise the ring counts as usable again, so that FULL may fall, and occurrences held for want of space
go on, with the status reads that wait for them (R216). DESIGN
CHOICE (log entry 73): a write of 1 while HUB_EN is 1 already changes nothing, whichever cells are disabled by then. -/
def writeHubEn (s : State) (on : Bool) : State :=
  if on then
    if s.hub.en then s
    else if (workCells s 12).all (fun c => (s.cell c).en) then
      let t : State := { s with hub := { s.hub with en := true }, fb := { s.fb with ringBad := false } }
      let u : State := { t with fb := { t.fb with wasFull := t.fb.wasFull && fbFull t } }
      answerHeld (freeIntakes u (retryHolds u))
    else s.modHub fun h => { h with enRefused := true }
  else s.modHub fun h => { h with en := false }

/-! ## The Datum check -/

/-- CRC-32C of a slot's plat region (R73). -/
def platCrc (x : Cell) : Word := crc32c ((List.range 64).flatMap fun i => wordBytes (getW x.plat i))

/-- Advance a CRC over 256 zero bytes: the shift of the combine operation (R74). -/
def crcShift256 (c : Word) : Word := (List.range 256).foldl (fun x _ => crcByte x 0) c
def crcCombine (a b : Word) : Word := crcShift256 a ^^^ b

/-- DATUM_LOCAL_RECOMPUTE (R74). -/
def execDatumLocalRecompute (cell : Nat) (s : State) : Ans :=
  if cell ≥ 1536 then .next s else .next (s.modCell cell fun x => { x with localCrc := platCrc x })

/-- The slots in the stream, in order (R73). -/
def streamCells (s : State) : List Nat :=
  (s.cells.filter fun e => decide (e.2.role ≠ 0) && (decide (unitOf e.1 = 12) || populated s (unitOf e.1))).map (·.1)

/-- The value of the stream; `all` treats every slot as enabled (R73, R75, R77). A slot whose reference is wanted and that has none gives its
local value (log entry 58). -/
def streamValue (s : State) (all : Bool) : Word :=
  (streamCells s).foldl (fun v c =>
    let x := s.cell c
    crcCombine v (if (x.en || all) && canRead s c then x.localCrc else x.refVal.getD x.localCrc)) 0

/-- The comparison of one slot (R76, R78, R79). -/
def sweepSlot (s : State) (c : Nat) : State :=
  let x := s.cell c
  match x.refVal with
  | none => s
  | some r =>
    if !canRead s c then s
    else if x.localCrc = r ∧ !x.refBad then
      s.modCell c fun y => { y with datum := 1, fenced := y.fenced && (y.en || !y.quiet || s.hub.datum.global) }
    else if x.en ∧ x.datum ≠ 2 then
      raise ((s.modCell c fun y => { y with datum := 2, fenced := true }).modHub fun h => { h with datum := { h.datum with seen := true } })
        0x04 (unitOf c) false (w32 c) r x.localCrc none
    else s.modCell c fun y => { y with datum := 2 }

/-- A restored slot is enabled again once a sweep finds it MATCH; one found MISMATCH stays disabled (R85, R422, R425).
A die that closes keeps what it noted for its return. -/
def reEnable (s : State) (cs : List Nat) : State :=
  forAll s cs fun t c =>
    if (t.cell c).enKept ∧ canRead t c ∧ (unitOf c = 12 ∨ (t.op (unitOf c)).closing = false) then
      let u := if canEnable t c then enableCell t c else t
      u.modCell c fun x => { x with enKept := false }
    else t

/-- One full sweep (R74 to R80, R81). -/
def sweep (s : State) : State :=
  let s0 := parityAll s s.parity
  let s1 := forAll s0 (streamCells s0) sweepSlot
  let v := streamValue s1 false
  let s2 := s1.modHub fun h => { h with datum := { h.datum with last := v, sweeps := h.datum.sweeps + 1 } }
  let judged := s2.hub.datum.committed && !s2.hub.datum.global && (streamCells s2).all fun c => decide ((s2.cell c).datum ≠ 2)
  let s3 := if judged && decide (v ≠ s2.hub.datum.ref) then
      let t := s2.modHub fun h => { h with datum := { h.datum with global := true, seen := true } }
      raise (forAll t (streamCells t) fun u c => u.modCell c fun x => { x with fenced := true }) 0x04 12 false 0x7FF t.hub.datum.ref v none
    else s2
  s3

/-- DATUM_COMMIT's full sweep, with its parity checks, and latch (R77, R81): the result code and the swept value. -/
def datumCommit (s' : State) (arg : Word) : BitVec 8 × Word × State :=
  let s := parityAll s' s'.parity
  let cs := streamCells s
  if cs.any fun c => !canRead s c && (s.cell c).refVal.isNone then (0x01, 0, s)
  else
    let v := streamValue s true
    let s0 := s.modHub fun h => { h with datum := { h.datum with last := v, sweeps := h.datum.sweeps + 1 } }
    if v ≠ arg then (0x02, v, s0)
    else
      let s1 : State := { s0 with
        cells := s0.cells.map (fun e => (e.1,
          if decide (e.2.role ≠ 0) && (decide (unitOf e.1 = 12) || populated s (unitOf e.1)) then
            if canRead s e.1 then { e.2 with refVal := some e.2.localCrc, refBad := false, datum := 1, fenced := false }
            else { e.2 with fenced := false }
          else { e.2 with refVal := none, fenced := false }))
        parity := s0.parity.filter (· < 2 ^ 27) }
      (0x00, v, s1.modHub fun h => { h with datum := { h.datum with ref := arg, committed := true, global := false } })

/-! ## Self-test and substitution -/

/-- Slot `z` with what belongs to the physical cell that slot `w` has: its counters and selectors (R467), and its rod. DESIGN CHOICE (log entry
74): its test controls are the physical cell's too. -/
def Cell.physPart (z w : Cell) : Cell :=
  { z with ctrSel := w.ctrSel, pair := w.pair, wrIdx := w.wrIdx, wrHi := w.wrHi, wrLo := w.wrLo, ctrs := w.ctrs, ovf := w.ovf, ctrSeq := w.ctrSeq, ctrWin := w.ctrWin, ctrLatch := w.ctrLatch, ovfLatch := w.ovfLatch, rodPs := w.rodPs, tripped := w.tripped, clearRun := w.clearRun, test := w.test }

/-- Two slots exchange their physical cells (R64). -/
def swapPhys (s : State) (a b : Nat) : State :=
  let x := s.cell a; let y := s.cell b
  (s.setCell a { x.physPart y with phys := some (physOf s b), subst := true, bist := 1 }).setCell b
    { y.physPart x with phys := some (physOf s a), subst := true, bist := 2 }

/-- Every slot of a unit has its own physical cell again, with what belongs to it (R66, R467). -/
def unswap (s : State) (u : Nat) : State :=
  forAll s ((unitCells u).filter fun c => (s.cell c).phys.isSome) fun t c =>
    t.modCell c fun x => { x.physPart (s.cell (((unitCells u).find? fun d => decide (physOf s d = c)).getD c)) with phys := none, subst := false }

/-- The cells that fail the self-test of unit `u`: those that the test finds failing, and those whose rod lies outside 0.5 to 1.6 times the
benchmark coefficient of the physical cell (R63). -/
def bistFailing (s : State) (x : Bist) : List Nat :=
  x.fails ++ (x.rods.filter fun r => decide (2 * r.2.toNat < (coefOf s r.1).toNat ∨ 10 * r.2.toNat > 16 * (coefOf s r.1).toNat)).map (·.1)

/-- Give a failed non-spare slot the passing cell of a spare slot of its unit, or mark it UNSERVED (R64, R65). -/
def substWith (spare : Nat → Bool) (s : State) (c : Nat) : State :=
  let u := unitOf c
  match (unitCells u).find? fun d => spare d && decide ((s.cell d).bist = 1) with
  | some d =>
    let s1 := log (swapPhys s c d) 0x84 u false (w32 c) (w32 (physOf s c)) (w32 (physOf s d))
    writeRod (writeRod s1 c) d
  | none => log (s.modCell c fun x => { x with unserved := true }) 0x8E u false (w32 c) (w32 u) 0

def substitute (s : State) (c : Nat) : State := substWith (fun d => decide ((s.cell d).role = 0)) s c

/-- Self-test of a whole unit from the unswapped arrangement (R63, R66); `fails` are the physical cells that fail. Slots that
hold a role are substituted at once. -/
def selfTest (s : State) (u : Nat) (fails : List Nat) : State :=
  let s1 := forAll (unswap s u) (unitCells u) fun t c =>
    let r : BitVec 2 := if c ∈ fails then 2 else 1
    (t.modCell c fun x => { x with unserved := false, bist := r }).modHub fun h =>
      { h with bistPhys := tset 0 h.bistPhys c r }
  forAll s1 ((workCells s1 u).filter fun c => decide ((s1.cell c).bist = 2)) substitute

/-- The outposts with an UNSERVED slot are treated as lost by the caller (R65). -/
def unitUnserved (s : State) (u : Nat) : Bool := (workCells s u).any fun c => (s.cell c).unserved

end Sys2Proof.Machine
end

