-- ==== Sys2Proof/Machine/Plat.lean ====
section
/-! DEFINITION. Plat images: their checks (R47, R50, R51, R67, R68, R71, R324, R325) and their loading (R64, R70, R72). -/

namespace Sys2Proof.Machine

open Sys2Proof

/-! ## Checks -/

/-- The image's bytes with IMAGE_CRC as 0 (R67, R68). -/
def imageBytes (p : PlatImage) : List (BitVec 8) :=
  wordBytes p.magic ++ halfBytes p.format ++ halfBytes p.helnakVer ++ wordBytes p.platId ++ halfBytes p.unitMask ++
  [p.decode, 0] ++ wordBytes p.count ++ wordBytes p.datumRef ++ wordBytes 0 ++ List.replicate 36 0 ++
  p.records.flatMap fun r => halfBytes (BitVec.ofNat 16 r.1) ++ [0, 0] ++ ((List.range 64).flatMap fun i => wordBytes ((r.2[i]?).getD 0))

/-- A word of a slot record. -/
def recW (r : Nat × List Word) (i : Nat) : Word := (r.2[i]?).getD 0
def recRole (r : Nat × List Word) : Nat := bits (recW r 0) 0 4
def recIndex (r : Nat × List Word) : Nat := bits (recW r 0) 8 11

/-- The role is valid in the unit (R47). -/
def roleValid (u role : Nat) : Bool :=
  if u = 12 then decide (role ≤ 6) && decide (role ≠ 4) else decide (role ≤ 7) && decide (role ≠ 5) && decide (role ≠ 6)

/-- How many cells of each role a unit may have (R51). -/
def roleCountOk (u role n : Nat) : Bool :=
  if u = 12 then
    match role with
    | 0 => decide (8 ≤ n) | 1 => decide (n = 64) | 2 => decide (n = 512) | 3 => decide (16 ≤ n) && decide (n ≤ 64)
    | 5 => decide (n ≤ 128) | 6 => decide (8 ≤ n) && decide (n ≤ 32) | _ => decide (n = 0)
  else
    match role with
    | 0 => decide (4 ≤ n) | 1 => decide (n = 8) | 2 => decide (4 ≤ n) && decide (n ≤ 16) | 3 => decide (4 ≤ n) && decide (n ≤ 16)
    | 4 => decide (n = 24) | 7 => decide (n = 8) | _ => decide (n = 0)

/-- The records of a unit with a role. -/
def unitRecs (p : PlatImage) (u role : Nat) : List (Nat × List Word) :=
  p.records.filter fun r => decide (unitOf r.1 = u) && decide (recRole r = role)

/-- The role indexes of a unit are given to exactly one cell each (R50). -/
def indexesOk (p : PlatImage) (u role : Nat) : Bool :=
  let rs := unitRecs p u role
  (List.range rs.length).all fun i => decide ((rs.filter fun r => decide (recIndex r = i)).length = 1)

/-- Role parameters hold what their role's rule allows (R97, R151, R163, R192, R232, R324, R325). Of an intake record the bytes from 0x048 on
are judged and no others (log entry 59). -/
def paramsOk (p : PlatImage) (r : Nat × List Word) : Bool :=
  let u := unitOf r.1
  let zeroFrom (i : Nat) : Bool := (List.range 64).all fun j => decide (j < i) || decide (recW r j = 0)
  match recRole r with
  | 1 => zeroFrom 0x12
  | 2 =>
    if u = 12 then
      if recIndex r = 0 then
        let n := (recW r 0x12).toNat
        decide (bits (recW r 0x10) 0 12 = 0) && (decide (n = 0) || (decide (12 ≤ n) && decide (n ≤ 24))) && zeroFrom 0x13
      else zeroFrom 0x10
    else decide ((recW r 0x10).toNat = (unitRecs p u 2).length) && zeroFrom 0x11
  | 3 => decide ((recW r 0x10).toNat = (unitRecs p u 3).length) && zeroFrom 0x11
  | 6 => decide ((recW r 0x10).toNat = (unitRecs p u 6).length) && zeroFrom 0x11
  | _ => zeroFrom 0x10

/-- Every slot of every unit of the mask, in ascending number (R68). -/
def maskUnits (m : BitVec 16) : List Nat := (List.range 13).filter fun u => m.getLsbD u
def recordsFor (p : PlatImage) : List Nat :=
  (if p.unitMask.getLsbD 12 then unitCells 12 else []) ++ ((List.range 12).filter fun u => p.unitMask.getLsbD u).flatMap unitCells

/-- The first check of R71 that an image fails: 1 MAGIC, 2 FORMAT, 3 IMAGE_CRC, 4 UNIT_MASK, 5 RECORD_COUNT, 6 layout
(the numbers are the model's own: log entry 30). DESIGN CHOICE (log entry 75): a DECODE_MODE byte that is neither code of R67 fails check 6. -/
def platCheck (s : State) (p : PlatImage) : Option Nat :=
  let want : BitVec 16 := s.hub.populated.zeroExtend 16 ||| 0x1000
  if p.magic ≠ 0x54414C50 then some 1
  else if p.format ≠ 2 then some 2
  else if p.imageCrc ≠ crc32c (imageBytes p) then some 3
  else if p.unitMask ≠ want then some 4
  else if p.count.toNat ≠ p.records.length ∨ p.records.map (·.1) ≠ recordsFor p then some 5
  else if p.decode.toNat ≤ 1 ∧ p.records.all (fun r => roleValid (unitOf r.1) (recRole r) && paramsOk p r) ∧
    (maskUnits p.unitMask).all (fun u => (List.range 8).all fun role =>
      roleCountOk u role (unitRecs p u role).length && (decide (role = 0) || indexesOk p u role)) then none
  else some 6

/-! ## Loading -/

/-- The units of a set are disabled, and so is the hub where it is named (R70). -/
def unitsDisabled (s : State) (us : List Nat) : Bool :=
  us.all fun u => (s.cells.all fun e => decide (unitOf e.1 ≠ u) || !locked e.2) && (decide (u ≠ 12) || !s.hub.en)

/-- The tuning words of a slot from Wairo's stored settings (R72, R164, R233). -/
def policyWords (s : State) (c : Nat) : Tab Word :=
  s.isl.policy.foldl (fun t e =>
    if homeCell s e.1 = some c ∧ (settingReg s e.1).isSome then
      let w := homeWord s e.1
      let lo := if e.1 ≥ 2048 then 4 * (gangPos s (e.1 - 2048) % 8)
        else if e.1 ≥ 1024 then 8 * (spreadPos s (e.1 - 1024) % 4) else 8 * (rankPos s e.1 % 4)
      putW t (0x43 + w) (getW t (0x43 + w) ||| at_ lo e.2)
    else t) []

/-- Wairo writes the CELL_TUNE words of a slot (R72, R83). -/
def writeTune (s : State) (c : Nat) : State :=
  let t := policyWords s c
  let base := cellBase c
  let s1 : State := { s with parity := s.parity.filter fun o => !(decide (base + 0x10C ≤ o) && decide (o < base + 0x180)) }
  forAll (s1.modCell c fun x => { x with tune := t }) (List.range 29) fun u i => journalPut u (base + 0x10C + 4 * i) (getW t (0x43 + i))

/-- Write one slot's plat region (R64, R72, R422). The record's words are stored as they stand, a CELL_PLAT_ID other than the header's
and reserved bits too (log entry 59); DATUM_STATE of a slot with a reference: log entry 58. -/
def writeSlot (p : PlatImage) (s : State) (r : Nat × List Word) : State :=
  let c := r.1
  let spare (d : Nat) : Bool := p.records.any fun q => decide (q.1 = d) && decide (recRole q = 0)
  let s1 := if recRole r ≠ 0 ∧ (s.cell c).bist = 2 then substWith spare s c else s
  let words := (List.range 64).foldl (fun t i => putW t i (recW r i)) []
  s1.modCell c fun x => { x with
    plat := words, shadow := words, unserved := x.unserved && decide (recRole r ≠ 0) && decide (x.bist ≠ 1)
    datum := if recRole r = 0 then 3 else if x.refVal.isSome then (if x.datum = 3 then 2 else x.datum) else 0 }

/-- Load the records of some slots (R72); `hub` says that the hub is in the set. -/
def platWrite (s : State) (p : PlatImage) (cs : Nat → Bool) (hub : Bool) : State :=
  let rs := p.records.filter fun r => cs r.1
  let s1 := forAll s rs (writeSlot p)
  let s2 := forAll s1 (rs.map (·.1)) writeTune
  let s3 := if hub then s2.modHub fun h => { h with platId := p.platId, compact := decide (p.decode = 1), staged := true } else s2
  if s3.hub.datum.committed ∧ p.datumRef = s3.hub.datum.ref then s3
  else { s3 with
    cells := s3.cells.map (fun e => (e.1, if e.2.role = 0 then { e.2 with refVal := none, refBad := false, datum := 3 } else { e.2 with refVal := none, refBad := false, datum := 0 }))
    parity := s3.parity.filter (· < 2 ^ 27) }

/-- The plat store (R69). -/
def storeEntry (s : State) (one : Bool) : Option PlatImage := if one then s.isl.store1 else s.isl.store0
def storePut (s : State) (one : Bool) (p : PlatImage) (mark : Bool) : State :=
  s.modIsl fun x =>
    let y := if one then { x with store1 := some p } else { x with store0 := some p }
    if mark then { y with bootMark := some one } else y

/-- The boot-marked plat of some units is loaded, under the checks of R71; a refused one is logged (R84, R85),
once for each load (log entry 60). -/
def bootPlat (s : State) (us : List Nat) : State :=
  match s.isl.bootMark with
  | none => s
  | some one => match storeEntry s one with
    | none => log s 0x85 13 false (flag 0 one) 0 0
    | some p => match platCheck s p with
      | some n => log s 0x85 13 false (flag 0 one) (w32 n) 0
      | none => platWrite s p (fun c => decide (unitOf c ∈ us)) (decide (12 ∈ us))

end Sys2Proof.Machine
end

