-- ==== Sys2Proof/Machine/Loss.lean ====
section
/-! DEFINITION. Closing and loss of an outpost, its return, and link errors (R32, R33, R186 to R189, R400, R420, R481 to
R484). -/

namespace Sys2Proof.Machine

open Sys2Proof

/-! ## Withdrawing what a die holds -/

/-- The owner of a candidate that a die gives up takes it back and offers it again (R187 step 2). -/
def takeBack (s : State) (e : Nat) : State := offerAgain (freePlace (unhand s e) e) e

/-- A member of a gathering is skipped after the fan-out: SKIPPED, and the occurrence is booked from that point on; a release by offset
that was graded timed is late (R236, R241). -/
def skipMember (s : State) (r : Gather) (n : Nat) : State :=
  let late := r.timed && !r.late && r.offset
  let s1 := s.modGang r.gang fun g => { g with skipped := satInc g.skipped, late := if late then satInc g.late else g.late }
  let r1 : Gather := { r with grade := false, late := r.late || late }
  memberClear { s1 with gathers := s1.gathers.map fun x => if x.id = r.id then r1 else x } r1 n false

/-- A gang member of station `n` goes to the fallback, or its pending bit is cleared as a skip, as where the fallback is a member or has had a
candidate of this release already (R187, R236, R238). -/
def moveMember (s : State) (c : Cand) (n : Nat) : State :=
  match c.gather with
  | none => takeBack s c.evid
  | some id => match s.gathers.find? fun r => decide (r.id = id) with
    | none => s
    | some r =>
      match resolve s n c.secure with
      | some f =>
        if f ∈ r.sent ∨ f ∈ r.members then skipMember s r n
        else
          sendFrom { s with gathers := s.gathers.map fun x => if x.id = id then { x with sent := x.sent ++ [f], pending := x.pending.map fun m => if m = n then f else m } else x }
            (some r.cell) (.candStation f (candTour c) c) none (some (f / 48))
      | none => skipMember s r n

/-- The members that gather records keep as parked for stations of die `k` move as the seated ones do (R187, R238). -/
def moveParked (s : State) (k : Nat) : State :=
  let ms := s.gathers.flatMap fun r => r.parked.filter fun y => decide (y.1 / 48 = k)
  let s1 : State := { s with gathers := s.gathers.map fun r => { r with parked := r.parked.filter fun y => decide (y.1 / 48 ≠ k) } }
  forAll s1 ms fun t y => moveMember t y.2 y.1

/-- Take the candidates of one station: seats and armed seats (R187 step 2). A station that still runs, of a closing die, reports its loads and
answers its park flags (R170, R175, R420). -/
def clearStation (s : State) (n : Nat) : State :=
  let x := s.stn n
  let cs := x.norm.seats.map (·.cand) ++ x.sec.seats.map (·.cand) ++ x.armed.map fun a => { a.cand with target := some a.target }
  let s1 := s.modStn n fun y => { y with norm := { y.norm with seats := [] }, sec := { y.sec with seats := [] }, armed := [] }
  let s2 := forAll s1 cs fun t c => moveMember t c n
  if dieAway s (n / 48) then s2 else settleStation s s2 n

/-- Candidates on their way to a station of die `k` are taken back as the seated ones are; its doorbell events go elsewhere (R187). -/
def clearFlight (s : State) (k : Nat) : State :=
  let ms := s.net.filterMap fun p => match p.msg with
    | .candStation n _ c => if n / 48 = k then some (n, c) else none
    | _ => none
  let s1 := dropMsgs s fun m => match m with | .candStation n .. | .doorbell _ n _ => decide (n / 48 = k) | _ => false
  forAll s1 ms fun t x => moveMember t x.2 x.1

/-- Die `k` gives up its residents, seats, doorbell events and candidates on their way; its marks stand already (R187 steps 1, 2 and 4, R420). -/
def giveUpDie (s : State) (k : Nat) : State :=
  moveDoorbells (moveParked (clearFlight (forAll (forAll s (dieStations k) vctxLeave) (dieStations k) clearStation) k) k)

/-! ## Loss -/

/-- What was on its way up link `k` when it was lost is settled by the hub: claims and completions take effect, candidates on their way back reach their owner; an event, a count or a re-offer that has crossed goes on. A member completion is taken first; the forced completion then
finds its bit clear and counts STRAY (R246). -/
def settleUp (s : State) (k : Nat) : State :=
  let ms := s.net.filter fun p => decide (p.up = some k)
  let goesOn (p : Packet) : Bool := p.upDone && (match p.msg with | .event _ | .bookedReport .. | .reOffer .. => true | _ => false)
  let past (p : Packet) : Packet := if p.up = some k then { p with up := none, upDone := false } else p
  let s1 : State := { s with net := (s.net.filter fun p => (decide (p.up ≠ some k) || goesOn p) && decide (p.down ≠ some k)).map past }
  let own (e : Nat) : Bool := isOutpostWired e && decide (evidDie e = k)
  forAll s1 ms fun t p => match p.msg with
    | .claimed e h _ _ ovf lost => if own e then t else claimApply (takeSlot t e) e h ovf lost
    | .completed e h => if own e then t else completeApply t e h
    | .candContext v c => if own c.evid then t else send t (.candContext v c) none none
    | .memberDone id _ ns late => forAll t ns fun t n => (match t.gathers.find? fun r => decide (r.id = id) with
      | some r =>
        let u := if n ∈ r.pending then memberClear t r n (late || p.replay) else t
        u.modGang r.gang fun g => { g with stray := satInc g.stray }
      | none => t)
    | .returned c _ n => if own c.evid then t else if c.gather.isSome then moveMember t c n else takeBack t c.evid
    | _ => t

/-- The forced completion of one stack entry (R187 step 3). -/
def forceEntry (n : Nat) (g : Grp) (k : Nat) (s : State) (x : Entry) : State :=
  if x.kind ∨ x.orphan ∨ (isOutpostWired x.evid ∧ evidDie x.evid = k) then s
  else match x.gather with
    | some id => (match s.gathers.find? fun r => decide (r.id = id) with
      | some r => if n ∈ r.pending then memberClear s r n false else s.modGang r.gang fun y => { y with stray := satInc y.stray }
      | none => s)
    | none => completeApply s x.evid (.station n g)

/-- Every active entry of one station is completed by the hub (R187 step 3). -/
def forceStation (k : Nat) (s : State) (n : Nat) : State :=
  let x := s.stn n
  let s1 := s.modStn n fun y => { y with norm := { y.norm with stack := [] }, sec := { y.sec with stack := [] }, heldW := [] }
  forAll (forAll s1 x.norm.stack (forceEntry n .normal k)) x.sec.stack (forceEntry n .secure k)

/-- The entries that step 3 completes. -/
def forcedCount (s : State) (k : Nat) : Nat :=
  (dieStations k).foldl (fun a n => a + (s.stn n).norm.stack.length + (s.stn n).sec.stack.length) 0

/-- A wired queue of the lost die starts again from IDLE; its candidates elsewhere are discarded, its entries orphaned. -/
def resetWired (s : State) (e : Nat) : State :=
  let q := s.queue e
  let s1 := if q.mode = .payload then unlinkAll s e q.count.toNat else s
  let s2 := orphan (dropPlaces (dropGates s1 e) e fun _ => true) e
  let ids := (s2.gathers.filter fun r => decide (r.evid = e)).map (·.id)
  let keep : List Seat → List Seat := fun xs => xs.filter fun y => decide (y.cand.evid ≠ e)
  let s3 : State := { s2 with
    stns := s2.stns.map fun x => (x.1, { x.2 with norm := { x.2.norm with seats := keep x.2.norm.seats }, sec := { x.2.sec with seats := keep x.2.sec.seats }
                                                  armed := x.2.armed.filter fun y => decide (y.cand.evid ≠ e) })
    ctxs := s2.ctxs.map fun x => (x.1,
      let cs := keep x.2.cands
      { x.2 with g := { x.2.g with seats := keep x.2.g.seats }, cands := cs, changed := x.2.changed || decide (cs ≠ x.2.cands), counted := x.2.counted && (cs.length = x.2.cands.length || cs ≠ [] || x.2.spill) })
    gathers := s2.gathers.filter fun r => decide (r.evid ≠ e) }
  let s4 := dropMsgs s3 fun m => match m with
    | .event t => decide (t.evid = e)
    | .candStation _ _ c | .candSpread _ c | .candContext _ c | .candGang _ c | .returned c _ _ => decide (c.evid = e)
    | .claimed a .. | .completed a _ | .withdrawal a _ => decide (a = e)
    | _ => false
  let s5 := gatherOffers s (settleStations s (forAll s4 ids dropMembers) (tkeys s.stns))
  s5.modQueue e fun x => { x with
    state := .idle, count := 0, ovf := false, aged := false, stampSet := false, grade := false, activeN := 0, holders := [], recalled := false, heldFor := none, parked := false, slotTaken := false, due := [], cached := [], tail := if x.mode = .latest then x.tail else 0 }

/-- The hub declares outpost `k` lost (R187, R482). -/
def declareLost (s : State) (k : Nat) : State :=
  if !populated s k ∨ (s.op k).lost then s
  else
    let s0 := s.modOp k fun o => { o with lost := true, link := .lost, returns := 0, fails := 0 }
    let s1 : State := { s0 with
      cells := s0.cells.map (fun e => (e.1, if unitOf e.1 = k then { e.2 with enKept := e.2.en || e.2.enKept, en := false, quiet := true } else e.2))
      gates := s0.gates.filter fun g => decide (g.1 ≠ k)
      out := { s0.out with held := s0.out.held.filter fun h => match h.page with | .stn n _ => decide (n / 48 ≠ k) | .vst _ => true } }
    let wired := (s1.queues.filter fun e => isOutpostWired e.1 && decide (evidDie e.1 = k)).map (·.1)
    let lost := wired.foldl (fun a e => a + (s1.queue e).count.toNat) 0
    let s2 := settleUp (giveUpDie s1 k) k
    let forced := forcedCount s2 k
    let s3 := speedJudge s (forAll (forAll s2 (dieStations k) (forceStation k)) wired resetWired)
    raise s3 0x0D k false (w32 k) 5 (at_ 0 (min forced 0xFFFF) ||| at_ 16 (min lost 0xFFFF)) none

/-- Routes return to a die: the queues that are held are offered again, those held because it was the die of their fallback too (R186,
R189); one that is still held stays so. -/
def routesReturn (s' : State) : State :=
  let s := moveDoorbells s'
  forAll s ((s.queues.filter fun e => e.2.heldFor.isSome).map (·.1)) fun t e =>
    offerAgain (t.modQueue e fun q => { q with heldFor := none }) e

/-- DATUM_SWEEP: a full sweep ends (R74); slots of outposts that came back are enabled again, and then the queues held for a die that is in
service again are offered (R189, R422). -/
def execDatumSweep (s : State) : Ans :=
  if s.pwr.hubl ≠ .on ∨ s.pwr.rst then .next s
  else
    let t := sweep s
    let u := reEnable t (streamCells t)
    .next (if (outpostsOf u).any fun k => inService u k && !dieMarked u k then routesReturn u else u)

/-! ## Link errors -/

def incByte (b : BitVec 8) : BitVec 8 := if b = 0xFF then b else b + 1

/-- One retraining attempt starts (R481); the copy is in TRAINING (R222). -/
def startRetrain (s : State) (k : Nat) : State :=
  s.modOp k fun o => { o with retrains := incByte o.retrains, align := .training, lostSeen := o.lostSeen || decide (o.align = .aligned), good := 0, bad := 0 }

/-- The instants of a list that lie within `w` ns. -/
def recent (s : State) (w : Nat) (ts : List Stamp) : List Stamp := ts.filter fun t => decide ((s.mer.now - t).toNat < w)

/-- Link `k` is declared in error (R33, R481, R482): messages on it are resent with the replay mark. -/
def linkError (s : State) (k cause : Nat) (up : Bool) : State :=
  let o := s.op k
  let errs := recent s 1000000000 o.errorAt ++ [s.mer.now]
  let s1 : State := { s.modOp k fun x => { x with link := .error, errorAt := errs, replayAt := [], accFail := none } with
    net := s.net.map fun p => if p.waitsAt k true ∨ p.waitsAt k false then { p with replay := true, failed := none, long := true } else p }
  let s2 := raise s1 0x0D k false (w32 k) (w32 cause ||| flag 8 (!up)) (w32 o.retrains.toNat) none
  if errs.length ≥ 17 then declareLost s2 k else startRetrain s2 k

/-- Where among the packets the `m`-th that is to cross a direction of link `k` stands, counted from `i` on. -/
def waitingAt (k : Nat) (up : Bool) : Nat → Nat → List Packet → Option Nat
  | _, _, [] => none
  | m, i, p :: t => if p.waitsAt k up then (match m with | 0 => some i | m + 1 => waitingAt k up m (i + 1) t) else waitingAt k up m (i + 1) t

/-- The message has met a replay of its flit `n` (R33, R262); with it go the members that ride in it. -/
def markReplay (s : State) (k : Nat) (up : Bool) (m n : Nat) : State :=
  match waitingAt k up m 0 s.net with
  | none => s
  | some i => match s.net[i]? with
    | none => s
    | some p =>
      let hit (q : Packet) : Packet := { q with replay := true, failed := some n }
      { s with net := (s.net.modify i hit).map fun q => if rides p q k up then hit q else q }

/-- The flit is the one of its message, or of the forwarded access, that failed last (R33). -/
def failsAgain (s : State) (k : Nat) (f : LinkFlit) : Bool :=
  match f.msg with
  | none => decide ((s.op k).accFail = some (f.up, f.flit))
  | some m => match waitingAt k f.up m 0 s.net with
    | none => false
    | some i => match s.net[i]? with | some p => decide (p.failed = some f.flit) | none => false

/-- REPLAY_REQUEST: a flit of one of the messages that a direction is to carry, or of a forwarded access, failed its CRC and is resent (R32,
R33). -/
def execReplayRequest (k : Nat) (f : LinkFlit) (s : State) : Ans :=
  if k ≥ 12 ∨ !linkUp s k then .next s
  else
    let o := s.op k
    let at1 := recent s 1000 o.replayAt ++ [s.mer.now]
    let s1 := bump (s.modOp k fun x => { x with replays := satInc x.replays, replayAt := at1 }) (linkCell s k) 0x72
    let s2 : State := match f.msg with
      | some m => markReplay s1 k f.up m f.flit
      | none => s1.modOp k fun x => { x with accFail := some (f.up, f.flit) }
    if failsAgain s k f then .next (linkError s2 k 1 f.up) else if at1.length > 8 then .next (linkError s2 k 2 f.up) else .next s2

/-- FLIT_ACK_TIMEOUT: a flit stays unacknowledged for 2,000 ns (R33). -/
def execFlitAckTimeout (k : Nat) (up : Bool) (s : State) : Ans :=
  if k ≥ 12 ∨ !linkUp s k then .next s else .next (linkError s k 3 up)

/-- A retraining attempt fails; the third in a row loses the outpost, else the next attempt starts (R481, R482). -/
def retrainFail (s : State) (k : Nat) : State :=
  let s1 := raise s 0x0D k false (w32 k) 4 (w32 (s.op k).retrains.toNat) none
  let n := (s.op k).fails + 1
  if n ≥ 3 then declareLost s1 k else startRetrain (s1.modOp k fun o => { o with fails := n }) k

/-- RETRAIN_DONE: training finds the link good, or a failed wire in one direction (`some true`: upward); the hub then sends INIT
(R33, R222, R481). A copy in holdover is UNALIGNED while the link carries the exchange (R230). DESIGN CHOICE (log entry 76): that it is so
again after a retraining raises no second MER_DEGRADED; R230 gives a holdover one raising, R222 each entry into UNALIGNED. -/
def execRetrainDone (k : Nat) (failedWire : Option Bool) (s : State) : Ans :=
  let o := s.op k
  if o.link ≠ .error ∧ o.link ≠ .training then .next s
  else
    let spent := match failedWire with | none => false | some true => o.spareUp | some false => o.spareDown
    if spent then (if o.link = .error then .next (retrainFail s k) else .next s)
    else
      let s1 := s.modOp k fun x => { x with
        link := .up, fails := 0, align := if x.holdover then .unaligned else .training, good := 0, bad := 0, missed := 0, corr := 0
        spareUp := x.spareUp || decide (failedWire = some true), spareDown := x.spareDown || decide (failedWire = some false) }
      .next (send s1 (.init k s1.mer.now) none (some k))

/-- RETRAIN_ATTEMPT_TIMEOUT: a retraining attempt is not UP within 20 µs (R481). -/
def execRetrainAttemptTimeout (k : Nat) (s : State) : Ans :=
  if (s.op k).link = .error then .next (retrainFail s k) else .next s

/-! ## Return to service -/

/-- The offset of a register lies in a page of a station of die `k` (R190). -/
def inDie (k off : Nat) : Bool := decide (stnBase (48 * k) ≤ off) && decide (off < stnBase (48 * k + 48))

/-- The logic of die `k` is reset: the registers and stacks of its stations take their reset values and have good parity, their loads read 0, and
the tokens that its cells hold are gone (R82, R175, R212, R310, R483 step 1). -/
def resetStations (s : State) (k : Nat) : State :=
  { s with
    stns := s.stns.filter fun e => decide (e.1 / 48 ≠ k), views := s.views.filter fun e => decide (e.1 % 2048 / 2 / 48 ≠ k)
    net := s.net.filter fun p => decide (standsIn s p ≠ k), parity := s.parity.filter fun r => !inDie k r
    cells := s.cells.map fun e => (e.1, if unitOf e.1 = k then { e.2 with ledgerHold := none } else e.2) }

/-- A slot takes its plat region from the shadow (R418, R422). -/
def takeShadow (s : State) (c : Nat) : State :=
  s.modCell c fun x =>
    let y : Cell := { x with plat := x.shadow }
    { y with localCrc := platCrc y, datum := if y.role = 0 then 3 else if x.refVal.isSome then (if x.datum = 3 then 2 else x.datum) else 0 }

/-- Every slot of unit `k` takes its plat region from the shadow, and its tuning region from Wairo's copy (R83, R422, R483). -/
def restoreSlots (s : State) (k : Nat) : State :=
  forAll s ((s.cells.filter fun e => decide (unitOf e.1 = k)).map (·.1)) fun t c => writeTune (writeRod (takeShadow t c) c) c

/-- The failed attempt of R483, R484. -/
def returnFail (s : State) (k : Nat) : State :=
  raise (s.modOp k fun o => { o with returns := o.returns + 1, link := .lost }) 0x0D k false (w32 k) 6 (w32 (s.op k).retrains.toNat) none

/-- A stake is held on a domain (R413), and on the logic of die `k`, which is then wanted. -/
def staked (s : State) (d : Dom) : Bool := s.pwr.stakes.any fun x => decide (x.2 = d)
def wantL (s : State) (k : Nat) : Bool := staked s (.outL k)

/-- The unit of a store, and the cell that reads it. -/
def storeUnit : Store → Nat
  | .desc e | .input e => ownerUnit e
  | .seat n _ _ | .stack n _ _ => n / 48
  | _ => 12
def storeCell (s : State) : Store → Option Nat
  | .desc e | .record e => ledgerCell s e
  | .input e => intakeCell s e
  | .seat n _ _ => rankCell s n
  | .stack n _ _ => deliveryCell s n
  | .ctx v => contextCell s v
  | .gang g => gangCell s g
  | _ => none

/-- Wired inputs and queues of die `k` whose stores come up from OFF (R189, R422): the settings stand in the hub's copies. -/
def freshStores (s : State) (k : Nat) : State :=
  let s1 := forAll s ((s.queues.filter fun e => isOutpostWired e.1 && decide (evidDie e.1 = k)).map (·.1)) resetWired
  let es := (tkeys s1.inputs).filter fun e => isOutpostWired e && decide (evidDie e = k)
  forAll { s1 with ecc := s1.ecc.filter fun y => decide (storeUnit y.1 ≠ k) } es fun t e =>
    t.modInput e fun x => { x with tally := 0, rises := 0, held := 0, heldAt := 0, heldUp := false, heldSat := false }

/-- RETURN_TO_SERVICE: one attempt of R483, with what its self-test and its training find, while OUTk_L is wanted; at most 8 after one declaration
(R484). A copy in holdover reaches no alignment (R230), so that the attempt ends at its step 4. -/
def execReturnToService (k : Nat) (bist : Bist) (trained : Bool) (s : State) : Ans :=
  let o := s.op k
  if !o.lost ∨ !wantL s k ∨ o.logic ≠ .on ∨ o.mem ≠ .on ∨ o.trav ≠ .on ∨ o.returns ≥ 8 then .next s
  else
    let s1 := selfTest (resetStations (freshStores s k) k) k (bistFailing s bist)
    if unitUnserved s1 k then .next (returnFail s1 k)
    else
      let s2 := restoreSlots s1 k
      if !trained ∨ o.holdover then .next (returnFail s2 k)
      else
        let s3 := s2.modOp k fun x => { x with
          link := .up, copy := s2.mer.now, align := .aligned, good := 16, bad := 0, missed := 0, phase := 0, hold := 0, gain := 0, corr := 0 }
        let s4 := sweep s3
        let kept := (s4.cells.filter fun e => decide (unitOf e.1 = k) && e.2.enKept).map (·.1)
        if kept.any fun c => decide ((s4.cell c).datum ≠ 1) then .next (returnFail s4 k)
        else
          let s5 := reEnable s4 kept
          .next (routesReturn (s5.modOp k fun x => { x with lost := false, returns := 0, fails := 0 }))

end Sys2Proof.Machine
end

