-- ==== Sys2Proof/Machine/Meridian.lean ====
section
/-! DEFINITION. The meridian: its tick, alignment (R218 to R222), slews and steps (R226, R227), alarms (R228), holdover
(R230), release trains (R243, R245), and the windows of the reservations (R276). -/

namespace Sys2Proof.Machine

open Sys2Proof

/-! ## One tick -/

/-- A unit's copy counts `n` ticks; a copy that holds its count spends them on the hold, and one that a phase slew takes forward
counts one more a tick (R221). -/
def copyTick (n : Nat) (o : Outpost) : Outpost :=
  if o.logic ≠ .on then o
  else
    let m := n + (if o.gain = 0 then 0 else 1)
    { o with copy := o.copy + BitVec.ofNat 64 (m - o.hold), hold := o.hold - m, gain := o.gain - 1 }

/-- Each cell that holds a token counts BUSY_NS for each of `n` meridian ticks (R462). -/
def busyCells (s : State) (n : Nat) : State :=
  { s with cells := s.cells.map fun e => (e.1, if tokenInside s e.1 then (List.range n).foldl (fun x _ => bumpCell x 0x0A) e.2 else e.2) }

/-- The secure watchdog counts its stage down, except under PKG_RST_N and the SWDT_PAUSE scope (R403, R405, R408). -/
def swdtTick (s : State) : State :=
  if s.pwr.rst ∨ (s.isl.ronuoHalt ∧ s.isl.scope.getLsbD 3) then s
  else if s.pwr.swNs ≥ 999999 then s.modPwr fun p => { p with swNs := 0, swLeft := p.swLeft - (if p.swLeft = 0 then 0 else 1) }
  else s.modPwr fun p => { p with swNs := p.swNs + 1 }

/-- The tick of an empty queue (log entry 2): the master and every copy count 1, and once in 1,000 ns of REFCLK time a
scheduled tick is added or dropped; a 1,000-ns point that falls on the exchange boundary of a slew belongs to the period that begins there
(R226); while the hub is off the slow oscillator runs; a device that is Off does nothing. -/
def tick (s0 : State) : State :=
  let s := swdtTick s0
  if s.pwr.mode = .off then s0
  else if s.pwr.hubl ≠ .on then s.modPwr fun p => { p with slowNs := p.slowNs + 1 }
  else
    let m := s.mer
    let due := decide (m.refNs ≥ 999)
    let n : Nat := if due && decide (m.sched > 0) then 2 else if due && decide (m.sched < 0) then 0 else 1
    let sch : Int := if due then (if m.sched > 0 then m.sched - 1 else if m.sched < 0 then m.sched + 1 else 0) else m.sched
    let waits := decide (m.sched = 0) && decide (m.slew ≠ 0)
    let s1 : State := { s with
      mer := { m with now := m.now + BitVec.ofNat 64 n, refNs := if due && waits then 1000 else if due then m.refNs - 999 else m.refNs + 1, sched := sch }
      outs := s.outs.map fun e => (e.1, copyTick n e.2) }
    busyCells s1 n

/-! ## Alarms -/

/-- Alarm `a` fires with stamp `t`: the meridian unit acts as intake, without lock checks (R228). -/
def fireAlarm (s : State) (a : Nat) (t : Stamp) (pre : Nat) : State :=
  let x := s.alarm a
  let s1 := (s.modAlarm a fun y => { y with arm := false }).modMer fun m => { m with fired := m.fired ||| (1#4 <<< a) }
  let e := x.evid.toNat
  let tok : Token := { evid := e, stamp := t, src := .alarm a }
  if e = 0 then rejectToken s1 none tok rEvidNone false
  else if isWired e then rejectToken s1 none tok rEvidWired false
  else if isInternal e then rejectToken s1 none tok rEvidInternal false
  else intakeHub s1 e (BitVec.ofNat 20 a) t pre (.alarm a) .none false

/-- MER_ALARM_FIRE: the master has reached an armed alarm's target (R228). -/
def execMerAlarmFire (alarm : Nat) (s : State) : Ans :=
  let x := s.alarm alarm
  if alarm ≥ 4 ∨ x.arm = false ∨ s.pwr.hubl ≠ .on ∨ s.mer.now.toNat < x.target.toNat then .next s
  else .next (fireAlarm s alarm x.target 0)

/-- A write of MER_ALRM_CTRL_a (R224, R228): ARM = 1 takes the target; a target already passed fires at once with the
present meridian as its stamp. -/
def writeAlarmCtrl (s : State) (a : Nat) (arm keep : Bool) : State :=
  if arm then
    let t := mk64 (s.alarm a).hi (s.alarm a).lo
    let s1 := s.modAlarm a fun x => { x with arm := true, keep := keep, target := t }
    if t.toNat < s.mer.now.toNat then fireAlarm s1 a s.mer.now 0 else s1
  else s.modAlarm a fun x => { x with arm := false, keep := keep }

/-! ## Slews and steps -/

/-- MER_ADJ as a signed offset. -/
def adjOffset (s : State) : BitVec 64 := mk64 s.mer.adjHi s.mer.adjLo

/-- A write of MER_ADJ_CTRL (R226, R227). -/
def writeAdj (s : State) (op : Nat) : State :=
  let d := adjOffset s
  match op with
  | 1 => s.modMer fun m => { m with order := .start d.toInt }
  | 2 => if d.toInt < 0 then s.modMer fun m => { m with adjRej := true } else s.modMer fun m => { m with step := some d }
  | 3 => s.modMer fun m => { m with order := .cancel }
  | _ => s

/-- MER_STATUS.SLEWING (R226). -/
def slewing (m : Mer) : Bool :=
  decide (m.slew ≠ 0) || decide (m.sched ≠ 0) || (match m.order with | .start _ => true | _ => false)

/-- The 1,000-ns points of REFCLK time that fall into the exchange period that begins (R226): a slew forward that uses all of them makes
its 4,096 ns in 4,091 ns of REFCLK time, one back in 4,101 ns. -/
def slewPoints (m : Mer) : Nat := (m.refNs + (if m.slew > 0 then 4091 else 4101)) / 1000

/-- What the exchange boundary does with the slew orders and the schedule of the next period (R226). -/
def slewBoundary (m : Mer) : Mer :=
  let m1 : Mer := match m.order with
    | .none => { m with slew := m.slew + m.sched, sched := 0 }
    | .start d => { m with slew := d, sched := 0, order := .none, estim := false, uncert := 0 }
    | .cancel => { m with slew := 0, sched := 0, order := .none }
  let n := max (-(slewPoints m1 : Int)) (min (slewPoints m1) m1.slew)
  { m1 with sched := n, slew := m1.slew - n }

/-- Count LATE once for a gathered occurrence (R239, R241). -/
def lateGather (s : State) (id : Option Nat) : State :=
  match s.gathers.find? fun r => decide (some r.id = id) with
  | some r => if r.late then s else
      ({ s with gathers := s.gathers.map fun y => if y.id = r.id then { y with late := true } else y } : State).modGang r.gang
        fun g => { g with late := satInc g.late }
  | none => s

/-- The member candidates of releases that no station has armed yet, with their stations: on their way, or parked with their record. -/
def comingArmed (s : State) : List (Nat × Cand) :=
  (s.net.filterMap fun p => match p.msg with
    | .candStation n _ c => some (n, c)
    | .returned c _ n => some (n, c)
    | _ => none) ++ s.gathers.flatMap (·.parked)

/-- A change of the candidate in a message. -/
def Msg.mapCand (f : Cand → Cand) : Msg → Msg
  | .candStation n t c => .candStation n t (f c)
  | .candSpread n c => .candSpread n (f c)
  | .candContext v c => .candContext v (f c)
  | .candGang g c => .candGang g (f c)
  | .returned c p n => .returned (f c) p n
  | m => m

/-- Every armed release that `f` accepts, with its station, is re-graded booked and counted in LATE, with what of it is still on its way
(R227, R230, R234). -/
def regradeArmed (s : State) (f : Nat → Armed → Bool) : State :=
  let seats := s.stns.flatMap fun e => (e.2.armed.filter (f e.1)).map fun a => a.cand.gather
  let coming := (comingArmed s).filterMap fun x => match x.2.target with
    | some t => if f x.1 { tour := candTour x.2, cand := x.2, target := t } then some x.2.gather else none
    | none => none
  let ids := (seats ++ coming).eraseDups
  let book (c : Cand) : Cand := if c.target.isSome ∧ c.gather ∈ ids then { c with grade := false } else c
  let s1 : State := { s with
    stns := s.stns.map fun e => (e.1, { e.2 with armed := e.2.armed.map fun a =>
      if a.cand.gather ∈ ids then { a with cand := { a.cand with grade := false } } else a })
    net := s.net.map fun p => { p with msg := p.msg.mapCand book }
    gathers := s.gathers.map fun r => if some r.id ∈ ids then
      { r with parked := r.parked.map fun y => (y.1, book y.2), grade := r.grade && r.claimed } else r }
  forAll s1 ids lateGather

/-- The path of a gathered release includes unit `k` (R230): its queue's unit, its gang's, or that of a member of its fan-out. -/
def releaseVia (s : State) (k : Nat) (a : Armed) : Bool :=
  s.gathers.any fun r => decide (some r.id = a.cand.gather) &&
    (decide (ownerUnit r.evid = k) || decide (unitOf r.cell = k) || r.members.any fun n => decide (n / 48 = k))

/-- The armed releases whose target is not ahead of their copy join their tournaments (R227, R240). -/
def releasePassed (s : State) (n : Nat) : State :=
  let m := (s.op (n / 48)).copy
  let due := (s.stn n).armed.filter fun a => decide (a.target.toNat ≤ m.toNat)
  forAll (s.modStn n fun x => { x with armed := x.armed.filter fun a => decide (m.toNat < a.target.toNat) }) due fun t a =>
    reqWatch n t (seat t n a.tour { a.cand with target := none })

/-- The arm point of a train's next target (R243). -/
def armPoint (s : State) (t : Train) : Stamp := t.target - BitVec.ofNat 64 (s.gang t.gang).offsetNs.toNat

/-- A train goes past `n` targets; the last one frees its record (R243, R245). -/
def advanceTrain (s : State) (t : Train) (n : Nat) : State :=
  { s with trains :=
      if n ≥ t.left then s.trains.filter fun x => !(decide (x.id = t.id) && decide (x.cell = t.cell))
      else s.trains.map fun x => if x.id = t.id ∧ x.cell = t.cell then { x with left := x.left - n, target := x.target + BitVec.ofNat 64 n * x.period } else x }

/-- The targets whose arm point lies before the present master are dropped and counted (R245). DESIGN CHOICE (log entry 77): an arm point equal to
the value that a STEP or a wake lands on has not passed within it, and generates. -/
def missTrain (s : State) (t : Train) : State :=
  let a := (armPoint s t).toNat
  let now := s.mer.now.toNat
  if now ≤ a then s
  else
    let n := min t.left ((now - a - 1) / max 1 t.period.toNat + 1)
    (advanceTrain s t n).modGang t.gang fun g => { g with missed := satAdd g.missed n }
def missTrains (s : State) : State := forAll s s.trains missTrain

/-- Every seat of the rank cells is marked aged, and with them a candidate on its way or parked with its gather record (R227). -/
def Cand.age (c : Cand) : Cand := { c with aged := true }
def ageAll (xs : List Seat) : List Seat := xs.map fun x => { x with cand := x.cand.age }
def stepAge (s : State) : State :=
  { s with
    queues := s.queues.map fun e => (e.1, if decide (e.2.count ≠ 0) || e.2.busy then { e.2 with aged := true } else e.2)
    stns := s.stns.map fun e => (e.1, { e.2 with
      norm := { e.2.norm with seats := ageAll e.2.norm.seats }, sec := { e.2.sec with seats := ageAll e.2.sec.seats }
      armed := e.2.armed.map fun a => { a with cand := a.cand.age } })
    net := s.net.map fun p => { p with msg := p.msg.mapCand Cand.age }
    gathers := s.gathers.map fun r => { r with parked := r.parked.map fun y => (y.1, y.2.age) }
    ctxs := s.ctxs.map fun e => (e.1, { e.2 with g := { e.2.g with seats := ageAll e.2.g.seats } }) }

/-- A waiting STEP is applied in every unit (R227). -/
def applyStep (s : State) : State :=
  match s.mer.step with
  | none => s
  | some d =>
    if d = 0 then s.modMer fun m => { m with step := none, estim := false, uncert := 0 }
    else
      let s1 : State := { s with
        mer := { s.mer with now := s.mer.now + d, lockedAt := s.mer.lockedAt + d, step := none, stepped := true, estim := false, uncert := 0 }
        outs := s.outs.map fun e => (e.1, { e.2 with copy := e.2.copy + d }) }
      let s2 := regradeArmed (stepAge s1) fun _ _ => true
      let s3 := forAll s2 (tkeys s2.stns) releasePassed
      let s4 := forAll s3 (List.range 4) fun t a =>
        if (t.alarm a).arm && decide ((t.alarm a).target.toNat ≤ t.mer.now.toNat) then fireAlarm t a (t.alarm a).target 0 else t
      missTrains s4

/-! ## Alignment -/

/-- A copy leaves ALIGNED for UNALIGNED, or TRAINING for it at holdover: MER_DEGRADED is raised once (R222). -/
def unalign (s : State) (k : Nat) (arg1 : Word) : State :=
  if (s.op k).align = .unaligned then s
  else raise (s.modOp k fun o => { o with align := .unaligned, good := 0, bad := 0, lostSeen := o.lostSeen || decide (o.align = .aligned) })
    0x15 k false (w32 k) arg1 0 none

/-- The time field of R220: [31:6] ns, [5:0] 1/64 ns. -/
def fineNow (s : State) : BitVec 32 := BitVec.ofNat 32 (64 * s.mer.now.toNat)

/-- An exchange of outpost `k` without ECHO so far: the third in a row takes its copy out of ALIGNED, and one that had none ends a run of
consecutive exchanges (R222). -/
def missEcho (s : State) (k : Nat) : State :=
  let s1 := if (s.op k).missed ≥ 3 ∧ (s.op k).align = .aligned then unalign s k 1 else s
  s1.modOp k fun o => { o with missed := min 3 (o.missed + 1), good := if o.missed = 0 then o.good else 0, bad := if o.missed = 0 then o.bad else 0 }

/-- One exchange starts on link `k` (R220); one still open counts as without ECHO. -/
def alignOne (s : State) (k : Nat) : State :=
  let s1 := dropMsgs s fun m => match m with | .align j .. | .echo j .. => decide (j = k) | _ => false
  let s2 := missEcho s1 k
  (send s2 (.align k (fineNow s2) (s2.op k).corr) none (some k)).modOp k fun o => { o with t1 := fineNow s2, corr := 0 }

/-- The link of outpost `k` carries the exchange (R220). -/
def exchanges (s : State) (k : Nat) : Bool := decide ((s.op k).logic = .on) && linkUp s k

/-- ALIGN_SLOT: the exchange boundary (R220, R226, R227). An ALIGNED copy whose link carries no exchange has no ECHO (R222). -/
def execAlignSlot (s : State) : Ans :=
  let n := s.mer.now.toNat / 4096
  if s.pwr.hubl ≠ .on ∨ s.mer.slotAt = some n then .next s
  else
    let s1 := applyStep (s.modMer slewBoundary)
    let s2 := s1.modMer fun m => { m with slotAt := some (m.now.toNat / 4096) }
    .next (forAll s2 (outpostsOf s2) fun t k =>
      if exchanges t k then alignOne t k else if (t.op k).align = .aligned then missEcho t k else t)

/-- A correction of θ (in 1/128 ns) that is no phase slew: one above 4 ns, at a copy that is not ALIGNED (R221). -/
def jumps (a : Align) (theta : Int) : Bool := decide (a ≠ .aligned) && (decide (theta > 512) || decide (theta < -512))

/-- Move a copy by `d` in 1/128 ns, as a jump (whole ns step it forward, or hold its count) or as a phase slew (whole ns are counted
or left out one a tick, so that it neither steps nor runs backwards) (R221). -/
def movePhase (o : Outpost) (jump : Bool) (d : Int) : Outpost :=
  let p := o.phase + d
  let w := Int.tdiv p 128
  let o1 := { o with phase := p - 128 * w }
  if w < 0 then { o1 with hold := o1.hold + (-w).toNat }
  else if jump then { o1 with copy := o1.copy + BitVec.ofNat 64 w.toNat }
  else { o1 with gain := o1.gain + w.toNat }

/-- The part of a correction of θ that one exchange applies (R221), in 1/128 ns: 0.125 ns at an ALIGNED copy; elsewhere all of it
(log entry 63). -/
def applied (a : Align) (theta : Int) : Int :=
  match a with
  | .aligned => max (-16) (min 16 theta)
  | _ => theta

/-- ALIGN: the outpost latches t2, applies the correction and answers with ECHO (R220, R221). -/
def execAlign (k : Nat) (t2 t3 : BitVec 32) (s : State) : Ans :=
  match arrive s (fun m => match m with | .align j .. => decide (j = k) | _ => false) with
  | none => .next s
  | some (p, s1) => (match p.msg with
    | .align _ _ corr => .next (send (s1.modOp k fun o => movePhase o (jumps o.align corr) (-(applied o.align corr))) (.echo k t2 t3) (some k) none)
    | _ => .next s)

/-- a_k of the benchmark set, 0 while the set is invalid (R220, R453), in 1/128 ns. -/
def linkSeed (s : State) (k : Nat) : List Word := (List.range 8).map fun i => benchWord s (0x200 + 32 * k + 4 * i)
def wireA (s : State) (k : Nat) : Int := if s.isl.defaults then 0 else Config.wireSkew k (linkSeed s k)

/-- MER_ALIGN_k.RESID_PS and DELAY_NS (R224). -/
def residOf (theta : Int) : BitVec 16 :=
  if theta % 16 = 0 ∧ -32768 ≤ theta * 1000 / 128 ∧ theta * 1000 / 128 ≤ 32767 then BitVec.ofInt 16 (theta * 1000 / 128)
  else Config.residPs theta
def delayOf (d : Int) : BitVec 8 := if d % 128 = 0 ∧ 0 ≤ d ∧ d ≤ 255 * 128 then BitVec.ofInt 8 (d / 128) else Config.delayNs d

/-- The alignment state after an exchange with residue θ (R222); 0.35 ns is 44.8/128 ns. -/
def judge (o : Outpost) (theta : Int) : Outpost × Bool :=
  let inside := decide (theta ≤ 44) && decide (-44 ≤ theta)
  match o.align with
  | .aligned =>
    if inside then ({ o with bad := 0 }, false) else if o.bad + 1 ≥ 3 then (o, true) else ({ o with bad := o.bad + 1 }, false)
  | _ =>
    if inside then
      if o.good + 1 ≥ 16 ∧ o.holdover = false then ({ o with align := .aligned, good := 16, bad := 0 }, false)
      else ({ o with good := min 16 (o.good + 1) }, false)
    else ({ o with good := 0 }, false)

/-- ECHO: link port `k` latches t4 and computes θ (R220, R222). -/
def execEcho (k : Nat) (t4 : BitVec 32) (s : State) : Ans :=
  match arrive s (fun m => match m with | .echo j .. => decide (j = k) | _ => false) with
  | none => .next s
  | some (p, s1) => (match p.msg with
    | .echo _ t2 t3 =>
      let t1 := (s1.op k).t1
      let theta := (t2 - t1).toInt - (t4 - t3).toInt - wireA s1 k
      let r := judge (s1.op k) theta
      let s2 := s1.setOp k { r.1 with
        missed := 0, corr := theta, resid := residOf theta, delay := delayOf ((t2 - t1).toInt + (t4 - t3).toInt) }
      .next (bump (if r.2 then unalign s2 k 1 else s2) (linkCell s2 k) 0x73)
    | _ => .next s)

/-- INIT: the copy loads the master value of its departure plus the seed delay (R222). -/
def execInit (k : Nat) (s : State) : Ans :=
  match arrive s (fun m => match m with | .init j _ => decide (j = k) | _ => false) with
  | none => .next s
  | some (p, s1) => (match p.msg with
    | .init _ v =>
      let d := if s1.isl.defaults then 0 else Config.seedDelay k (linkSeed s1 k)
      .next (s1.modOp k fun o => { o with copy := v + BitVec.ofNat 64 d, hold := 0, gain := 0, phase := 0, good := 0, bad := 0, missed := 0 })
    | _ => .next s)

/-! ## Holdover -/

/-- The master PLL goes on in holdover: DEGRADED, with its one raising of MER_DEGRADED, and every armed release is booked (R230). -/
def masterHoldover (s : State) : State :=
  let s1 := s.modMer fun m => { m with degraded := true, degSeen := true, locked := false }
  regradeArmed (raise s1 0x15 12 false 12 0 0 none) fun _ _ => true

/-- PLL_HOLDOVER: the PLL of a unit loses its lock (R230). -/
def execPllHoldover (unit : Nat) (s : State) : Ans :=
  if unit = 12 then
    if s.mer.locked = false then .next s else .next (masterHoldover s)
  else if !populated s unit ∨ (s.op unit).holdover then .next s
  else
    let s1 := s.modOp unit fun o => { o with holdover := true }
    let s2 := if (s1.op unit).align = .unaligned then raise s1 0x15 unit false (w32 unit) 0 0 none else unalign s1 unit 0
    .next (regradeArmed s2 fun n a => decide (n / 48 = unit) || releaseVia s2 unit a)

/-- PLL_RELOCK: lock returns (R230). -/
def execPllRelock (unit : Nat) (s : State) : Ans :=
  if unit = 12 then
    if s.mer.locked then .next s else .next (s.modMer fun m => { m with locked := true, lockedAt := m.now })
  else if (s.op unit).holdover then .next (s.modOp unit fun o => { o with holdover := false, align := .training, good := 0, bad := 0 })
  else .next s

/-- DEGRADED_CLEAR: the master has been locked for 200 µs (R230). -/
def execDegradedClear (s : State) : Ans :=
  if s.mer.degraded ∧ s.mer.locked ∧ (s.mer.now - s.mer.lockedAt).toNat ≥ 200000 then .next (s.modMer fun m => { m with degraded := false })
  else .next s

/-! ## Trains -/

/-- TRAIN_ARM_POINT: the arm point of a train (by its place among the trains held) is reached (R243, R245). -/
def execTrainArmPoint (train : Nat) (s : State) : Ans :=
  match s.trains[train]? with
  | none => .next s
  | some t =>
    if s.pwr.hubl ≠ .on ∨ s.mer.now.toNat < (armPoint s t).toNat then .next s
    else if s.mer.degraded then .next ((advanceTrain s t 1).modGang t.gang fun g => { g with missed := satInc g.missed })
    else
      let s1 := bump (advanceTrain s t 1) (some t.cell) 0x63
      .next (intakeGang s1 t.cell (s.gang t.gang).send t.payload (armPoint s t) false .train .secureOnly t.secure)

/-! ## Reservation windows (R120, R276) -/

/-- The hub holds a bound route to a reservation of an outpost. -/
def hubRoutes (s : State) (key : Nat) : Bool :=
  s.queues.any fun e => e.2.bound && decide (ownerUnit e.1 = 12) && decide (key ∈ resvKeys s e.2)

/-- The split of one reservation for the next window (R276); a home whose die is off or lost divides nothing. -/
def splitOne (s : State) (win : Stamp) (key : Nat) : State :=
  let r := s.res key
  let set := setting s key
  if keyUnit key ≠ 12 ∧ dieAway s (keyUnit key) then s.setRes key { r with homeN := 0, leaseN := 0 }
  else if keyUnit key ≠ 12 ∧ hubRoutes s key then
    let l := set * (r.usedL + 1) / (r.usedH + 1 + (r.usedL + 1))
    sendFrom (s.setRes key { r with homeN := set - l, leaseN := 0 }) (keyCell s key) (.lease key l win) (some (key / 48)) none
  else s.setRes key { r with homeN := set, leaseN := 0 }

/-- The keys of every reservation that may have units (R164, R233, R363). -/
def resvAll (s : State) : List Nat :=
  ((outpostsOf s).flatMap dieStations) ++ (tkeys s.spreads).map keySpread ++ (tkeys s.gangs).map keyGang ++
  ((s.parcels.filter fun e => decide (e.2.st ≠ .free)).map fun e => keyParcel e.1)

/-- RESERVATION_SPLIT: the instant ≡ 750 mod 1,000 (R276). -/
def execReservationSplit (s : State) : Ans :=
  let next := BitVec.ofNat 64 ((s.mer.now.toNat / 1000 + 1) * 1000)
  if s.pwr.hubl ≠ .on ∨ s.mer.now.toNat % 1000 < 750 ∨ s.mer.splitFor = some next then .next s
  else
    let s1 := parityAll s (settingRegs s ((resvAll s).filter fun k => decide (keyUnit k = 12) || !dieAway s (keyUnit k)))
    .next (forAll (s1.modMer fun m => { m with splitFor := some next }) (resvAll s1) fun t k => splitOne t next k)

/-- LEASE: a lease reaches the hub (R276): for the next window, or late for the window in progress. -/
def execLease (station : Nat) (s : State) : Ans :=
  match arrive s (fun m => match m with | .lease n .. => decide (n = station) | _ => false) with
  | none => .next s
  | some (p, s1) => (match p.msg with
    | .lease n l w =>
      let r := s1.res n
      if w = s1.mer.window then .next (s1.setRes n { r with lease := l })
      else if w.toNat > s1.mer.window.toNat then .next (s1.setRes n { r with leaseN := l })
      else .next s1
    | _ => .next s)

/-- LEASE_REVOCATION: the hub stops granting against the leases of a station (R276). -/
def execLeaseRevocation (station : Nat) (s : State) : Ans :=
  match arrive s (fun m => match m with | .leaseRevoke n => decide (n = station) | _ => false) with
  | none => .next s
  | some (_, s1) =>
    let r := s1.res station
    .next (s1.setRes station { r with lease := r.usedL, leaseN := 0 })

/-- RESERVATION_WINDOW_START: unused units expire, and the counts divided at the split begin (R120, R276). -/
def execReservationWindowStart (s : State) : Ans :=
  let w := BitVec.ofNat 64 (s.mer.now.toNat / 1000 * 1000)
  if s.pwr.hubl ≠ .on ∨ s.mer.window = w then .next s
  else
    let split := decide (s.mer.splitFor = some w)
    .next { s with
      mer := { s.mer with window := w }
      resv := (s.resv.map fun e => (e.1, ({ home := if split then e.2.homeN else 0, lease := if split then e.2.leaseN else 0 } : Resv))).filter
        fun e => decide (e.2 ≠ {}) }

end Sys2Proof.Machine
end

