-- ==== Sys2Proof/Machine/Guard.lean ====
section
/-! DEFINITION. The rod guard and SPEED_REQ (R267 to R274), the voltage monitors (R271), the sensors (R322, R448) and Wairo's
margin policy (R449). -/

namespace Sys2Proof.Machine

open Sys2Proof

/-! ## SPEED_REQ -/

/-- The hub asserts SPEED_REQ (R274). -/
def speedAssert (s : State) : State := s.modHub fun h => { h with speedReq := true, speedAt := s.mer.now }

/-- The registers by which the guard ratios of the enabled cells are judged are read with parity (R81, R274). -/
def guardParity (s : State) : State := rodParityAll (parityCheck s 0x490) (guardCells s)

/-- SPEED_REQ_RELEASE: the conditions have held for HOLD_US without a break (R274). -/
def execSpeedReqRelease (s : State) : Ans :=
  if !s.hub.speedReq ∨ s.pwr.hubl ≠ .on then .next s
  else
    let s := guardParity s
    if !speedCalm s then .next (speedJudge s s)
    else if (s.mer.now - s.hub.speedAt).toNat ≥ s.hub.holdUs.toNat * 1000 then .next (s.modHub fun h => { h with speedReq := false })
    else .next s

/-! ## Rods -/

/-- One measurement judged against the threshold: the cell after it, and whether it trips (R267, R269). -/
def rodJudge (x : Cell) (ps : BitVec 16) : Cell × Bool :=
  let y := { x with rodPs := ps }
  if ps.toNat > x.thresh then ({ y with tripped := true, clearRun := 0 }, !x.tripped)
  else if x.tripped then
    if ps.toNat ≤ x.thresh * 63 / 64 then
      if x.clearRun + 1 ≥ 16 then ({ y with tripped := false, clearRun := 0 }, false) else ({ y with clearRun := x.clearRun + 1 }, false)
    else ({ y with clearRun := 0 }, false)
  else (y, false)

/-- A trip: counters, flag and ROD_GUARD (R269, R477). -/
def rodTrip (s : State) (c : Nat) (ps : BitVec 16) (thresh : Nat) : State :=
  let s1 := bump (s.modHub fun h => { h with tripSeen := true, tripCnt := satInc h.tripCnt }) (some c) 0x06
  raise s1 0x06 (unitOf c) false (w32 c) (at_ 0 ps.toNat ||| at_ 16 (min thresh 0xFFFF)) 1 (some c)

/-- The logic domain of a unit is ON. -/
def unitOn (s : State) (u : Nat) : Bool := if u = 12 then decide (s.pwr.hubl = .on) else decide ((s.op u).logic = .on)

/-- ROD_MEASUREMENT: a rod completes a measurement (R269, R274); the logic of every unit is in reset while PKG_RST_N is asserted (R503). -/
def execRodMeasurement (cell : Nat) (ps : BitVec 16) (s : State) : Ans :=
  if cell ≥ 1536 ∨ s.pwr.rst ∨ unitOn s (unitOf cell) = false then .next s
  else
    let s1 := guardParity (rodParity s cell)
    let r := rodJudge (s1.cell cell) ps
    let s2 := s1.setCell cell r.1
    let s3 := if r.2 then rodTrip s2 cell ps (s1.cell cell).thresh else s2
    let hit := (s3.cell cell).en && decide ((s3.cell cell).role ≠ 0) && decide ((s3.cell cell).ratio ≥ s3.hub.assertPm.toNat)
    .next (if hit then speedAssert s3 else speedJudge s s3)

/-! ## Monitors and sensors -/

/-- VOLTAGE_MONITOR_CROSSING: a domain's monitor crosses 0.70 V (R271, R274); a hub in reset asserts no SPEED_REQ (R503). -/
def execVoltageMonitorCrossing (d : Dom) (below : Bool) (s : State) : Ans :=
  let s1 := match d with
    | .hubl => s.modPwr fun p => { p with lowHubl := below }
    | .hubm => s.modPwr fun p => { p with lowHubm := below }
    | .outL k => if k < 12 then s.modOp k fun o => { o with lowLogic := below } else s
    | .outM k => if k < 12 then s.modOp k fun o => { o with lowMem := below } else s
    | .trav k => if k < 12 then s.modOp k fun o => { o with lowTrav := below } else s
  if s.pwr.hubl ≠ .on ∨ s.pwr.rst then .next s1
  else if vddLow s1 && below then .next (speedAssert s1)
  else .next (s1.modHub fun h => { h with speedAt := s.mer.now })

/-- One temperature register (R321): outside −10 to 105 °C; a sensor whose unit is off keeps its sample. -/
def tempOf (old : Temp) : Option (BitVec 16) → Temp
  | none => { old with invalid := true }
  | some t => { temp := t, seq := old.seq + 1, out := decide (t.toInt < -160) || decide (t.toInt > 1680), invalid := false }

/-- HOT_ADD for a unit whose latest samples read so (R449): in at 95 °C, out when all are below 90 °C. -/
def hotNow (s : State) (u : Nat) (was : Bool) : Bool :=
  let ts := (unitSensors u).map fun n => tget {} s.pwr.temps n
  if ts.any fun t => decide (t.temp.toInt ≥ 1520) then true
  else if ts.all fun t => decide (t.temp.toInt < 1440) then false else was

/-- Wairo writes CELL_ROD_MARGIN of a slot (R449). -/
def writeMargin (s : State) (c : Nat) (hot : Bool) : State :=
  let m := marginOf s hot
  speedJudge s <| journalPut (parityClear (s.modCell c fun x => { x with hot := hot, margin := m, safeMargin := false }) (cellBase c + 0x104)) (cellBase c + 0x104) (at_ 0 m.toNat)

/-- Wairo's margin policy at each sample, while it runs: every cell whose register, read with its parity (R81), differs from it is written (R449,
R461). -/
def marginPolicy (s : State) : State :=
  if s.isl.fw ≠ .running ∨ s.isl.ronuoHalt then s
  else forAll s (List.range 13) fun t' u =>
    let now := hotNow t' u (t'.cell (unitFirst u)).hot
    let m := marginOf t' now
    let cs := if now ∨ m ≠ 0x0C8 then unitCells u else (tkeys t'.cells).filter fun c => decide (unitOf c = u)
    let t := if t'.parity = [] then t' else parityAll t' (cs.map fun c => cellBase c + 0x104)
    forAll t (cs.filter fun c => decide ((t.cell c).hot ≠ now) || decide ((t.cell c).margin ≠ m)) fun v c => writeMargin v c now

/-- A reading corrected with trim word `i` of the benchmark set (R448); no trim applies while the defaults are in use (R453). DESIGN CHOICE (log
entry 78): a trim word of zero corrects nothing; what another one does is free. -/
def trimmed (s : State) (i n : Nat) : Nat :=
  let w := getW s.isl.bench i
  if s.isl.defaults ∨ w = 0 then n else Config.trimmed i w n

/-- A temperature within the readout of R448, −40 to 125 °C. -/
def readTemp (s : State) (n : Nat) (t : BitVec 16) : BitVec 16 :=
  BitVec.ofInt 16 (max (-640) (min 2000 (BitVec.ofNat 16 (trimmed s (0x10 + n) t.toNat)).toInt))

/-- A domain voltage within the readout of R448; `i` is the place of its monitor among the trims of R450. -/
def readMv (s : State) (i : Nat) (v : BitVec 10) : BitVec 10 := BitVec.ofNat 10 (min 1023 (trimmed s (0x24 + i) v.toNat))

/-- SENSOR_SAMPLE: every register of R321 is written whole, with the corrected samples (R322, R448). A sensor whose sample the operand does not
give keeps its register. -/
def execSensorSample (x : Samples) (s : State) : Ans :=
  let p := s.pwr
  let ts := (List.range 20).foldl (fun t n => tset {} t n
    (let old := tget {} p.temps n
     if unitOn s (if n < 8 then 12 else n - 8) then (match (x.temps[n]?).getD none with | some v => tempOf old (some (readTemp s n v)) | none => old)
     else tempOf old none)) p.temps
  let aux := trimmed s 0x27 x.auxin
  let s1 := s.modPwr fun q => { q with
    temps := ts, vaon := readMv s 0 x.vaon, vhubl := readMv s 1 x.hubl, vhubm := readMv s 2 x.hubm
    auxin := BitVec.ofNat 16 (min aux 0xFFFF), auxLow := decide (aux < 4500), auxHigh := decide (aux > 54000) }
  let s2 := forAll s1 (List.range 12) fun t k =>
    let v := (x.outs[k]?).getD (0, 0, 0)
    t.modOp k fun o => { o with vlogic := if o.logic = .off then 0 else readMv s (4 + 3 * k) v.1
                                vmem := if o.mem = .off then 0 else readMv s (5 + 3 * k) v.2.1
                                vtrav := if o.trav = .off then 0 else readMv s (6 + 3 * k) v.2.2 }
  .next (marginPolicy s2)

end Sys2Proof.Machine
end

