-- ==== Sys2Proof/Machine/HubRegs.lean ====
section
/-! DEFINITION. The registers of the hub global control block, the mailboxes and the power, wake and meridian window, word by
word: their values, their read actions and their writes (R114, R115, R153, R223 to R228, R278, R289, R311 to R323). Offsets are
those of FULL decode; the checks of an access stand in Operands.lean. -/

namespace Sys2Proof.Machine

open Sys2Proof

/-! ## Codes -/

def DomSt.code : DomSt → Nat
  | .off => 0 | .ramping => 1 | .on => 2 | .retained => 3 | .failed => 4
def LinkSt.code : LinkSt → Nat
  | .reset => 0 | .training => 1 | .up => 2 | .error => 3 | .lost => 4
/-- HUB_FW_STATE.STATE; a halt through the debug gate reads HALTED too (R408). -/
def fwCode (s : State) : Nat :=
  if s.isl.ronuoHalt then 3 else match s.isl.fw with
    | .running => 0 | .restarting => 1 | .activating => 2 | .halted => 3
/-- Wairo runs and serves the mailboxes. -/
def wairoRuns (s : State) : Bool := decide (fwCode s = 0)

/-- The state code of a hub domain (R322): one whose clamps a wake has released is ON (R417). -/
def hubDomSt (s : State) (d : DomSt) : DomSt := if s.pwr.bring = 5 ∧ d = .ramping then .on else d

/-- A list of flags as bits. -/
def bitsOf (n : Nat) (f : Nat → Bool) : Nat := (List.range n).foldl (fun a i => if f i then a + 2 ^ i else a) 0

/-! ## The end of a mailbox command (R318, R319) -/

/-- The mailbox acts as intake for its notify occurrence. -/
def notifyPost (s : State) (b : Box) : State :=
  let m := s.mbx b
  let e := m.notify.toNat
  let tok : Token := { evid := e, payload := m.seq.zeroExtend 20, stamp := s.mer.now, src := .notify, lock := .secureOnly, sec := decide (b = .secure) }
  if e = 0 then s
  else if isWired e then rejectToken s none tok rEvidWired false
  else if isInternal e then rejectToken s none tok rEvidInternal false
  else intakeHub s e tok.payload s.mer.now 0 .notify .secureOnly (decide (b = .secure))

/-- The update that ends a command: response words, CODE, DONE and BUSY; then the notify occurrence. -/
def mbxEnd (s : State) (b : Box) (code : Nat) (resp : List Word) : State :=
  let ws := (List.range 28).foldl (fun t i => putW t i ((resp[i]?).getD 0)) []
  notifyPost (s.modMbx b fun m => { m with code := BitVec.ofNat 8 code, resp := ws, done := true, busy := false, cut := false }) b

/-- MBX_NOTIFY of the secure mailbox is used, with its parity (R20, R81). -/
def notifyParity (s : State) (b : Box) : State := match b with | .normal => s | .secure => parityCheck s 0x1800C

/-- A RING (R318), which takes MBX_CMD.SEQ, with its parity in the secure mailbox (R81); while the firmware is halted the mailbox hardware ends the
command at once (R343). -/
def mbxRing (s : State) (b : Box) : State :=
  let s1 := (match b with | .normal => s | .secure => parityCheck s 0x18000).modMbx b fun m => { m with busy := true, done := false, seq := m.seqIn }
  if fwCode s = 3 then mbxEnd (notifyParity s1 b) b 0x0D [] else s1

def boxBase : Box → Nat
  | .normal => 0x10000
  | .secure => 0x18000

/-- The RWP words of the secure mailbox that a command reads (R81, R317). -/
def boxRegs : Box → List Nat
  | .normal => []
  | .secure => [0x18000, 0x1800C] ++ (List.range 32).map fun i => 0x18010 + 4 * i

def mbxPeek (s : State) (b : Box) (o : Nat) : Word :=
  let m := s.mbx b
  match o with
  | 0x000 => at_ 0 m.op.toNat ||| at_ 16 m.seqIn.toNat ||| flag 24 m.list
  | 0x008 => at_ 0 m.code.toNat ||| at_ 8 m.seq.toNat ||| flag 16 m.busy ||| flag 17 m.done ||| flag 18 (!wairoRuns s) ||| flag 19 m.wrBusy
  | 0x00C => at_ 0 m.notify.toNat
  | _ => if 0x010 ≤ o ∧ o < 0x090 then getW m.args ((o - 0x010) / 4)
    else if 0x090 ≤ o ∧ o < 0x100 then getW m.resp ((o - 0x090) / 4) else 0

/-- MBX_STATUS.WR_BUSY clears as it is read (R294, R317). -/
def mbxClear (s : State) (b : Box) (o : Nat) : State := if o = 0x008 then s.modMbx b fun m => { m with wrBusy := false } else s

def mbxWrite (s : State) (b : Box) (o : Nat) (data : Word) : State :=
  let taken := decide (o = 0x000) || decide (o = 0x004) || decide (o = 0x00C) || (decide (0x010 ≤ o) && decide (o < 0x090))
  if !taken then s
  else if (s.mbx b).busy then s.modMbx b fun m => { m with wrBusy := true }
  else
    let s1 := match b with
      | .normal => s
      | .secure => parityClear s (0x18000 + o)
    match o with
    | 0x000 => s1.modMbx b fun m => { m with op := data.extractLsb' 0 16, seqIn := data.extractLsb' 16 8, list := data.getLsbD 24 }
    | 0x004 => if data.getLsbD 0 then mbxRing s1 b else s
    | 0x00C => s1.modMbx b fun m => { m with notify := data.extractLsb' 0 20 }
    | _ => s1.modMbx b fun m => { m with args := putW m.args ((o - 0x010) / 4) data }

/-! ## Hub global control -/

/-- The reserved bits of HUB_LNK_INFO_k (R312) and of MER_ALIGN_k (R224); 0 for a register without such test controls. -/
def testWord (off : Nat) : Word :=
  if 0x500 ≤ off ∧ off ≤ 0x55C ∧ off % 8 = 4 then 0xFFFF00E0 else if 0x20840 ≤ off ∧ off < 0x20870 then 0xF8000000 else 0

/-- The test controls of a link or a meridian unit, which reserved bits of its register show live (R299). Which of those bits are test
controls is free value `Config.testBits` (log entry 35). -/
def testMask (off : Nat) : Word := testWord off &&& Config.testBits off
def testLive (s : State) (off : Nat) : Word := (getW s.testCtl off ^^^ Config.liveReserved off) &&& testMask off

/-- Implemented offsets of R311. -/
def hubImpl (o : Nat) : Bool :=
  o ∈ [0x000, 0x004, 0x010, 0x014, 0x018, 0x020, 0x024, 0x028, 0x040, 0x044, 0x048, 0x04C, 0x300, 0x460, 0x464] ||
  (decide (0x304 ≤ o) && decide (o ≤ 0x354)) || (decide (0x400 ≤ o) && decide (o ≤ 0x428)) || (decide (0x440 ≤ o) && decide (o ≤ 0x44C)) ||
  (decide (0x480 ≤ o) && decide (o ≤ 0x490)) || (decide (0x4A0 ≤ o) && decide (o ≤ 0x4B8)) || (decide (0x4C0 ≤ o) && decide (o ≤ 0x4E0)) ||
  (decide (0x500 ≤ o) && decide (o ≤ 0x55C))

/-- HUB_UNITS (R312). -/
def hubUnits (s : State) : Word := at_ 0 s.hub.populated.toNat ||| flag 12 true ||| at_ 16 (bitsOf 12 (inService s))

/-- Bits of HUB_DB_PORT_STATUS (R115). -/
def portBp (s : State) (p : Nat) : Bool := decide (portLoad s p ≥ 64)
def portSubst (s : State) (p : Nat) : Bool :=
  let on := (List.range 8).map fun i => onCell s (roleCell s 12 roleIntake (8 * p + i))
  on.any (fun b => b) && on.any fun b => !b

def fencedCells (s : State) : List Nat := (s.cells.filter fun e => e.2.fenced).map (·.1)

/-- The value of a hub register, without any read action. -/
def hubPeek (s : State) (o : Nat) : Word :=
  let h := s.hub
  match o with
  | 0x000 => 0xC2880201
  | 0x004 => hubUnits s
  | 0x010 => flag 0 h.en
  | 0x014 => flag 0 h.enRefused ||| flag 1 h.cfgEn ||| flag 2 h.paritySeen ||| flag 3 (s.cells.any fun e => e.2.subst) |||
      flag 4 (s.cells.any fun e => e.2.unserved) ||| flag 5 (s.cells.any fun e => e.2.fenced)
  | 0x018 => at_ 0 (fwCode s) ||| flag 2 s.isl.slotB ||| flag 3 s.isl.defaults ||| at_ 8 s.isl.fwVer.toNat
  | 0x020 => h.platId
  | 0x024 => flag 0 h.compact ||| flag 1 h.staged
  | 0x028 => flag 0 h.memSnoop ||| flag 1 h.memRelax ||| at_ 4 h.memQos.toNat
  | 0x040 => h.datum.ref
  | 0x044 => h.datum.last
  | 0x048 => at_ 0 h.datum.sweeps.toNat ||| flag 16 h.datum.committed ||| flag 17 h.datum.global ||| flag 18 h.datum.seen
  | 0x04C => at_ 0 (fencedCells s).length ||| at_ 16 ((fencedCells s).head?.getD 0x7FF)
  | 0x300 => h.seen.zeroExtend 32
  | 0x400 => h.dbDiscard
  | 0x404 => h.dbFormat
  | 0x408 => h.dbLock
  | 0x40C => h.dbRange
  | 0x410 => h.dbState
  | 0x414 => at_ 0 (bitsOf 8 (portBp s)) ||| at_ 8 (bitsOf 8 fun p => s.pwr.heldDb.any fun d => decide (d.port = p)) ||| at_ 16 (bitsOf 8 (portSubst s))
  | 0x41C => at_ 0 h.dbCap.reason.toNat ||| at_ 4 h.dbCap.port.toNat ||| flag 7 h.dbCap.sec ||| flag 8 h.dbCap.addr ||| flag 31 h.dbCap.valid
  | 0x420 => at_ 0 h.dbCap.rid.toNat ||| at_ 16 h.dbCap.dataHi.toNat
  | 0x424 => at_ 0 h.dbCap.evid.toNat
  | 0x428 => h.dbCap.data
  | 0x440 => at_ 0 s.fb.recs.length
  | 0x444 => at_ 0 s.fb.ring.length
  | 0x448 => flag 0 (fbFull s) ||| flag 1 (!s.fb.ring.isEmpty) ||| flag 2 (s.fb.fullSeen || fbFull s) ||| flag 3 s.fb.ringErr
  | 0x44C => at_ 0 s.fb.peak.toNat
  | 0x460 => at_ 0 (poolFree s)
  | 0x464 => h.eccCorr
  | 0x480 => flag 0 h.speedReq ||| flag 1 (s.cells.any fun e => e.2.en && e.2.tripped) ||| flag 2 h.tripSeen ||| flag 3 (vddLow s) |||
      flag 4 (s.pwr.temps.any fun e => e.2.out) ||| flag 5 s.isl.defaults ||| flag 6 h.mutexSeen
  | 0x484 => at_ 0 (worst s).1 ||| at_ 16 (worst s).2
  | 0x488 => h.tripCnt
  | 0x48C => h.mutexCnt
  | 0x490 => at_ 0 h.assertPm.toNat ||| at_ 10 h.holdUs.toNat ||| at_ 16 h.releasePm.toNat
  | 0x4C0 => at_ 0 h.accSeen.toNat ||| flag 4 h.touched ||| flag 5 h.compact
  | 0x4C4 => h.accWidth
  | 0x4C8 => h.accAlign
  | 0x4CC => h.accUnimpl
  | 0x4D0 => h.accDenied
  | 0x4D8 => at_ 0 h.accCap.reason.toNat ||| at_ 4 h.accCap.size.toNat ||| flag 6 h.accCap.write ||| flag 7 h.accCap.sec ||| flag 31 h.accCap.valid
  | 0x4DC => at_ 0 h.accCap.offset.toNat
  | 0x4E0 => at_ 0 h.accCap.tag.toNat ||| at_ 16 h.accCap.dataLo.toNat
  | _ =>
    if 0x304 ≤ o ∧ o ≤ 0x354 then getW h.faultCnt ((o - 0x300) / 4)
    else if 0x4A0 ≤ o ∧ o ≤ 0x4B8 then getW h.bookCnt ((o - 0x4A0) / 4)
    else if 0x500 ≤ o ∧ o ≤ 0x55C then
      let x := s.op ((o - 0x500) / 8)
      if o % 8 = 0 then x.replays
      else at_ 0 x.link.code ||| flag 3 x.spareUp ||| flag 4 x.spareDown ||| at_ 8 x.retrains.toNat ||| testLive s o
    else 0

/-- Hub registers with RC fields (R284). -/
def hubAction (o : Nat) : Bool := o ∈ [0x014, 0x048, 0x300, 0x448, 0x480, 0x4C0]

/-- What a 32-bit read clears: every RC bit that it returned as 1 (R294); FULL_SEEN is set again where FULL is 1 (R153). -/
def hubClear (s : State) (o : Nat) : State :=
  match o with
  | 0x014 => s.modHub fun h => { h with enRefused := false, cfgEn := false, paritySeen := false }
  | 0x048 => s.modHub fun h => { h with datum := { h.datum with seen := false } }
  | 0x300 => s.modHub fun h => { h with seen := 0 }
  | 0x448 => { s with fb := { s.fb with fullSeen := fbFull s, ringErr := false } }
  | 0x480 => s.modHub fun h => { h with tripSeen := false, mutexSeen := false }
  | 0x4C0 => s.modHub fun h => { h with accSeen := 0 }
  | _ => s

/-- CFG_WHILE_EN for the hub block (R59, R313). -/
def hubCfgWhileEn (s : State) (o : Nat) : State :=
  raise (s.modHub fun h => { h with cfgEn := true }) 0x03 12 false 0x7FF (w32 o) 1 (some 0x7FF)

/-- HUB_SPEED_CFG: a RELEASE_PM at or above ASSERT_PM stores ASSERT_PM − 50 (R278); below 50 the rule states no value. -/
def writeSpeedCfg (s : State) (data : Word) : State :=
  let a := data.extractLsb' 0 10
  let r := data.extractLsb' 16 10
  let s1 := (parityClear s 0x490).modHub fun h => { h with
    assertPm := a, holdUs := data.extractLsb' 10 6, releasePm := if r.toNat < a.toNat then r else if a.toNat ≥ 50 then a - 50 else Config.releaseLow a }
  speedJudge s (journalPut s1 0x490 (hubPeek s1 0x490))

def hubWrite (s : State) (o : Nat) (data : Word) : State :=
  match o with
  | 0x010 => writeHubEn s (data.getLsbD 0)
  | 0x028 => if s.hub.en then hubCfgWhileEn s 0x028
    else s.modHub fun h => { h with memSnoop := data.getLsbD 0, memRelax := data.getLsbD 1, memQos := data.extractLsb' 4 4 }
  | 0x400 => s.modHub fun h => { h with dbDiscard := data }
  | 0x404 => s.modHub fun h => { h with dbFormat := data }
  | 0x408 => s.modHub fun h => { h with dbLock := data }
  | 0x40C => s.modHub fun h => { h with dbRange := data }
  | 0x410 => s.modHub fun h => { h with dbState := data }
  | 0x418 => if data.getLsbD 0 then s.modHub fun h => { h with dbCap := { h.dbCap with valid := false } } else s
  | 0x44C => { s with fb := { s.fb with peak := data.extractLsb' 0 26 } }
  | 0x464 => s.modHub fun h => { h with eccCorr := data }
  | 0x488 => s.modHub fun h => { h with tripCnt := data }
  | 0x48C => s.modHub fun h => { h with mutexCnt := data }
  | 0x490 => writeSpeedCfg s data
  | 0x4C4 => s.modHub fun h => { h with accWidth := data }
  | 0x4C8 => s.modHub fun h => { h with accAlign := data }
  | 0x4CC => s.modHub fun h => { h with accUnimpl := data }
  | 0x4D0 => s.modHub fun h => { h with accDenied := data }
  | 0x4D4 => if data.getLsbD 0 then s.modHub fun h => { h with accCap := { h.accCap with valid := false } } else s
  | _ =>
    if 0x304 ≤ o ∧ o ≤ 0x354 then s.modHub fun h => { h with faultCnt := putW h.faultCnt ((o - 0x300) / 4) data }
    else if 0x4A0 ≤ o ∧ o ≤ 0x4B8 then s.modHub fun h => { h with bookCnt := putW h.bookCnt ((o - 0x4A0) / 4) data }
    else if 0x500 ≤ o ∧ o ≤ 0x55C ∧ o % 8 = 0 then s.modOp ((o - 0x500) / 8) fun x => { x with replays := data }
    else s

/-! ## Power, wake and meridian -/

/-- Implemented offsets of R320, counted from 0x2_0000. -/
def pwrImpl (o : Nat) : Bool :=
  o ∈ [0x000, 0x004, 0x008, 0x010, 0x080, 0x180, 0x184, 0x200, 0x204, 0x208] ||
  (decide (0x040 ≤ o) && decide (o < 0x070)) || (decide (0x0C0 ≤ o) && decide (o < 0x0F0)) || (decide (0x100 ≤ o) && decide (o < 0x150)) ||
  (decide (0x1C0 ≤ o) && decide (o < 0x1F0)) || (decide (0x800 ≤ o) && decide (o ≤ 0x824)) || (decide (0x840 ≤ o) && decide (o < 0x870)) ||
  (decide (0x880 ≤ o) && decide (o < 0x8C0))

/-- How many stakes are held on a domain, 255 at most (R322), and whether client 1 holds one. -/
def stakeCount (s : State) (d : Dom) : Nat := min 255 (s.pwr.stakes.filter fun x => decide (x.2 = d)).length
def secureStake (s : State) (d : Dom) : Bool := decide ((1, d) ∈ s.pwr.stakes)

/-- PWR_STATE (R321). -/
def napping (s : State) : Bool := (outpostsOf s).any fun k => decide ((s.op k).logic ≠ .on)
def changing (s : State) : Bool :=
  s.pwr.closing || decide (s.pwr.bring ≠ 0) || s.outs.any fun e => e.2.closing || decide (e.2.bring ≠ 0) ||
    decide (e.2.logic = .ramping) || decide (e.2.mem = .ramping) || decide (e.2.trav = .ramping)

/-- MER_ALIGN_k.STATE: TRAINING while the die is off (R422). -/
def alignCode (s : State) (k : Nat) : Nat :=
  if !populated s k then 0
  else match (s.op k).logic, (s.op k).align with
    | .on, .aligned => 2
    | .on, .unaligned => 3
    | _, _ => 1

def stakesOf (s : State) (k : Nat) : Word :=
  at_ 0 (stakeCount s (.outL k)) ||| at_ 8 (stakeCount s (.outM k)) ||| at_ 16 (stakeCount s (.trav k)) |||
  flag 24 (secureStake s (.outL k) || secureStake s (.outM k) || secureStake s (.trav k))

def merPeek (s : State) (o : Nat) : Word :=
  let m := s.mer
  match o with
  | 0x800 => at_ 0 m.capSeq.toNat ||| flag 8 m.degraded ||| flag 9 m.estim ||| flag 31 true
  | 0x804 => at_ 0 m.winSeq.toNat ||| flag 8 m.winDeg ||| flag 9 m.winEst ||| flag 31 m.winValid
  | 0x808 => lo32 m.win
  | 0x80C => hi32 m.win
  | 0x810 => flag 0 m.degraded ||| flag 1 m.estim ||| flag 2 (slewing m) ||| flag 3 m.degSeen ||| flag 4 m.stepped ||| flag 5 m.adjRej |||
      at_ 8 m.fired.toNat ||| at_ 12 m.alrmRej.toNat
  | 0x814 => m.uncert
  | 0x818 => m.adjLo
  | 0x81C => m.adjHi
  | 0x824 => at_ 0 (bitsOf 12 fun k => decide (alignCode s k = 2)) ||| at_ 12 (bitsOf 12 fun k => (s.op k).lostSeen)
  | _ =>
    if 0x840 ≤ o ∧ o < 0x870 then
      let k := (o - 0x840) / 4
      at_ 0 (s.op k).resid.toNat ||| at_ 16 (s.op k).delay.toNat ||| at_ 24 (alignCode s k) ||| flag 26 (s.op k).holdover ||| testLive s (0x20000 + o)
    else if 0x880 ≤ o ∧ o < 0x8C0 then
      let a := s.alarm ((o - 0x880) / 0x10)
      match o % 0x10 with
      | 0 => a.lo
      | 4 => a.hi
      | 8 => at_ 0 a.evid.toNat
      | _ => flag 0 a.arm ||| flag 1 a.keep
    else 0

def pwrPeek (s : State) (o : Nat) : Word :=
  let p := s.pwr
  match o with
  | 0x000 => flag 0 (napping s) ||| flag 3 (changing s)
  | 0x004 => at_ 0 p.cause.toNat
  | 0x008 => at_ 0 p.wakeSrc.toNat ||| at_ 4 p.wakeFrom.toNat ||| at_ 8 p.wakeDet.toNat ||| flag 31 p.wakeNew
  | 0x010 => at_ 0 (hubDomSt s p.hubl).code ||| at_ 3 (hubDomSt s p.hubm).code ||| flag 6 p.backup
  | 0x080 => at_ 0 (stakeCount s .hubl) ||| at_ 8 (stakeCount s .hubm) ||| flag 16 (secureStake s .hubl || secureStake s .hubm)
  | 0x180 => at_ 0 p.vhubl.toNat ||| at_ 10 p.vhubm.toNat ||| at_ 20 p.vaon.toNat
  | 0x184 => at_ 0 p.auxin.toNat ||| flag 16 p.auxLow ||| flag 17 p.auxHigh
  | 0x200 => at_ 0 p.swPeriod.toNat
  | 0x208 => flag 0 p.swStage ||| at_ 16 (p.swLeft.toNat - (if p.swNs = 0 then 0 else 1))
  | _ =>
    if o ≥ 0x800 then merPeek s o
    else if 0x040 ≤ o ∧ o < 0x070 then
      let x := s.op ((o - 0x040) / 4)
      at_ 0 x.logic.code ||| at_ 3 x.mem.code ||| at_ 6 x.trav.code ||| flag 9 x.iso ||| flag 10 x.secCut
    else if 0x0C0 ≤ o ∧ o < 0x0F0 then stakesOf s ((o - 0x0C0) / 4)
    else if 0x100 ≤ o ∧ o < 0x150 then
      let t := tget {} p.temps ((o - 0x100) / 4)
      at_ 0 t.temp.toNat ||| at_ 16 t.seq.toNat ||| flag 24 t.out ||| flag 25 t.invalid
    else if 0x1C0 ≤ o ∧ o < 0x1F0 then
      let x := s.op ((o - 0x1C0) / 4)
      at_ 0 x.vlogic.toNat ||| at_ 10 x.vmem.toNat ||| at_ 20 x.vtrav.toNat
    else 0

def pwrAction (o : Nat) : Bool := o ∈ [0x004, 0x008, 0x800, 0x810, 0x824]

def pwrClear (s : State) (o : Nat) : State :=
  match o with
  | 0x004 => s.modPwr fun p => { p with cause := 0 }
  | 0x008 => s.modPwr fun p => { p with wakeNew := false }
  | 0x810 => s.modMer fun m => { m with degSeen := false, stepped := false, adjRej := false, fired := 0, alrmRej := 0 }
  | 0x824 => { s with outs := s.outs.map fun e => (e.1, { e.2 with lostSeen := false }) }
  | _ => s

/-- A read of MER_CAPTURE (R225). -/
def merCapture (s : State) : Word × State :=
  let s1 := s.modMer fun m => { m with
    capSeq := m.capSeq + 1, winValid := true, winSeq := m.capSeq + 1, winDeg := m.degraded, winEst := m.estim, win := m.now }
  (merPeek s1 0x800, s1)

/-- A service of the secure watchdog (R323, R404). -/
def swdtService (s : State) : State :=
  let s1 := parityCheck s 0x20200
  s1.modPwr fun p => { p with swStage := false, swDone := false, swLeft := p.swPeriod, swNs := 0 }

def pwrWrite (s : State) (o : Nat) (data : Word) : State :=
  match o with
  | 0x200 =>
    let n := bits data 0 14
    (parityClear s 0x20200).modPwr fun p => { p with swPeriod := if n = 0 then 1 else BitVec.ofNat 14 (min 16000 n) }
  | 0x204 => let s1 := parityClear s 0x20204; if bits data 0 8 = 0xA5 then swdtService s1 else s1
  | 0x818 => s.modMer fun m => { m with adjLo := data }
  | 0x81C => s.modMer fun m => { m with adjHi := data }
  | 0x820 => writeAdj s (bits data 0 2)
  | _ =>
    if 0x880 ≤ o ∧ o < 0x8C0 then
      let a := (o - 0x880) / 0x10
      match o % 0x10 with
      | 0 => s.modAlarm a fun x => { x with lo := data }
      | 4 => s.modAlarm a fun x => { x with hi := data }
      | 8 => s.modAlarm a fun x => { x with evid := data.extractLsb' 0 20 }
      | _ => writeAlarmCtrl s a (data.getLsbD 0) (data.getLsbD 1)
    else s

end Sys2Proof.Machine
end

