-- ==== Sys2Proof/Machine/CellRegs.lean ====
section
/-! DEFINITION. The cell configuration blocks as registers (R52 to R60, R164, R233, R299, R300, R324, R325, R463 to R466).
Offsets are those of the register window. -/

namespace Sys2Proof.Machine

open Sys2Proof

def offCell (off : Nat) : Nat := (off - 0x100000) / 0x200

/-- A cell block that exists: the hub's, or one of a populated outpost (R23, R302). The 1,536 blocks end at 0x1C_0000; the offsets after
them, up to 0x3F_FFFF, are unimplemented (log entry 61). -/
def cellImpl (s : State) (off : Nat) : Bool := decide (offCell off < 768) || populated s (unitOf (offCell off))

/-! ## Values -/

/-- CELL_STATUS (R55). A draining cell shows QUIET once its drain is done. -/
def cellStatus (s : State) (c : Nat) : Word :=
  let x := s.cell c
  flag 0 (if x.en then !tokenInside s c else x.quiet) ||| flag 1 x.enRefused ||| flag 2 x.cfgEn ||| at_ 3 x.datum.toNat ||| flag 5 x.fenced ||| at_ 6 x.bist.toNat |||
  flag 8 x.subst ||| flag 9 x.parity ||| flag 10 x.unserved

/-- CELL_CTR_CAPTURE as a capture returns it (R463). -/
def ctrCapWord (x : Cell) : Word := at_ 0 x.ctrSeq.toNat ||| flag 8 x.pair ||| flag 31 true

/-- The counter window (R463). -/
def ctrPeek (x : Cell) (o : Nat) : Word :=
  match o with
  | 0x1A0 => x.ctrSel
  | 0x1A4 => flag 0 x.pair ||| at_ 1 x.wrIdx.toNat ||| at_ 16 x.wrHi.toNat
  | 0x1A8 => x.wrLo
  | 0x1AC => ctrCapWord x
  | _ => match x.ctrWin with
    | none => 0
    | some (pr, oa, ob, a, b) => match o with
      | 0x1B0 => at_ 0 x.ctrSeq.toNat ||| flag 8 pr ||| flag 9 oa ||| flag 10 ob ||| flag 31 true
      | 0x1B4 => a.extractLsb' 0 32
      | 0x1B8 => b.extractLsb' 0 32
      | 0x1BC => at_ 0 (a.toNat / 2 ^ 32) ||| at_ 16 (b.toNat / 2 ^ 32)
      | _ => 0

/-- A word of a cell block, without any read action. -/
def cellPeek (s : State) (off : Nat) : Word :=
  let x := s.cell (offCell off)
  let o := off % 0x200
  if o < 0x100 then getW x.plat (o / 4)
  else if o < 0x180 then
    match o with
    | 0x100 => at_ 0 x.coef.toNat
    | 0x104 => at_ 0 x.margin.toNat
    | 0x108 => at_ 0 x.thresh
    | _ => getW x.tune (o / 4)
  else if o < 0x1A0 then
    match o with
    | 0x180 => flag 0 x.en
    | 0x184 => cellStatus s (offCell off)
    | 0x188 => at_ 0 (physOf s (offCell off))
    | 0x18C => x.localCrc
    | 0x190 => at_ 0 x.rodPs.toNat
    | _ => 0
  else if o < 0x1C0 then ctrPeek x o
  else getW x.test (o / 4) ^^^ Config.liveReserved off

/-- Cell registers with a read action (R284). -/
def cellAction (off : Nat) : Bool := decide (off % 0x200 = 0x184) || decide (off % 0x200 = 0x1AC)

def cellClear184 (s : State) (c : Nat) : State :=
  s.modCell c fun x => { x with enRefused := false, cfgEn := false, parity := false }

/-- A read of CELL_CTR_CAPTURE (R464). -/
def ctrCapture (s : State) (c : Nat) : Word × State :=
  let x := s.cell c
  let i := if x.pair then 2 else 0
  let y := { x with ctrSeq := x.ctrSeq + 1, ctrWin := some (x.pair, x.ovf.getLsbD i, x.ovf.getLsbD (i + 1), tget 0 x.ctrs i, tget 0 x.ctrs (i + 1)) }
  (ctrCapWord y, s.setCell c y)

/-! ## Writes -/

/-- CFG_WHILE_EN of a cell (R59, R477). -/
def cellCfgWhileEn (s : State) (c o : Nat) : State :=
  raise ((s.modCell c fun x => { x with cfgEn := true }).modHub fun h => { h with cfgEn := true }) 0x03 (unitOf c) false (w32 c) (w32 o) 1 (some c)

/-- The writable bits of a plat-region word (R53, R54, R97, R151, R163, R232, R325): word `i` of a cell with the role. -/
def platMask (c role idx i : Nat) : Word :=
  if i = 0 then 0x0007FF0F
  else if i < 5 then 0x0000BFFF
  else if i = 5 then 0xFFFFFFFF
  else if i < 16 then 0
  else if role = roleLedger ∧ unitOf c = 12 ∧ idx = 0 ∧ i = 0x12 then 0x1F
  else if role = roleLedger ∧ unitOf c ≠ 12 ∧ i = 0x10 then 0x1F
  else if role = roleRank ∧ i = 0x10 then 0x7F
  else if role = roleGang ∧ i = 0x10 then 0x3F
  else 0xFFFFFFFF

/-- A write of a plat-region word of an unlocked cell. DATUM_STATE reads 3 for a spare slot, and 0 from the moment it takes
another role with no reference latched (R55). -/
def writePlatWord (s : State) (c i : Nat) (data : Word) : State :=
  s.modCell c fun x =>
    let m := platMask c x.role x.index i
    let y := { x with plat := putW x.plat i ((getW x.plat i &&& ~~~m) ||| (data &&& m)) }
    -- a slot with a reference that takes a role again shows MISMATCH until the next sweep (log entry 58)
    if y.role = 0 then { y with datum := 3 }
    else if x.datum = 3 then { y with datum := if x.refVal.isSome then 2 else 0 } else y

/-- A byte of a reservation word above 64 stores 64 (R164). -/
def clampResv (w : Word) : Word :=
  let b (i : Nat) : Word := at_ (8 * i) (min 64 (bits w (8 * i) 8))
  b 0 ||| b 1 ||| b 2 ||| b 3

/-- The value that a write of a tuning word stores (R57, R164). -/
def tuneValue (x : Cell) (o : Nat) (data : Word) : Word :=
  if o = 0x100 then data &&& 0xFFFF
  else if o = 0x104 then at_ 0 (max 0x050 (bits data 0 10))
  else if x.role = roleRank ∧ 0x10C ≤ o ∧ o ≤ 0x118 then clampResv data else data

/-- A write of the tuning region, with its parity (R81), which Wairo copies (R83). -/
def writeTuneWord (s : State) (off : Nat) (data : Word) : State :=
  let c := offCell off
  let o := off % 0x200
  let v := tuneValue (s.cell c) o data
  let s1 := (parityClear s off).modCell c fun x =>
    if o = 0x100 then { x with coef := v.extractLsb' 0 16, safeCoef := false }
    else if o = 0x104 then { x with margin := v.extractLsb' 0 10, safeMargin := false } else { x with tune := putW x.tune (o / 4) v }
  journalPut s1 off v

/-- A write of CELL_CTR_CTRL: WR_GO first, OVF_CLR second (R465). -/
def writeCtrCtrl (x : Cell) (data : Word) : Cell :=
  let y := { x with pair := data.getLsbD 0, wrIdx := data.extractLsb' 1 2, wrHi := data.extractLsb' 16 16 }
  let z := if data.getLsbD 3 then { y with ctrs := tset 0 y.ctrs y.wrIdx.toNat (y.wrHi ++ y.wrLo) } else y
  { z with ovf := z.ovf &&& ~~~(data.extractLsb' 4 4) }

/-- A write that changes a test control takes effect and voids the contract (R299, R300). `cap` notes the access. -/
def writeTest (s : State) (off : Nat) (data : Word) (cap : State → State) : State :=
  let c := offCell off
  let v := data ^^^ Config.liveReserved off
  if getW (s.cell c).test (off % 0x200 / 4) = v then s
  else
    let s1 := cap ((s.modCell c fun x => { x with test := putW x.test (off % 0x200 / 4) v }).modHub fun h => { h with touched := true })
    raise s1 0x13 (unitOf c) false (w32 off) data 1 (some 0)

/-- The same for a test control of a link or of a meridian unit; the entry carries the offset as `issued` (R290, R299, R300). -/
def writeTestCtl (s : State) (off issued : Nat) (data : Word) (cap : State → State) : State :=
  let v := (data ^^^ Config.liveReserved off) &&& testMask off
  if getW s.testCtl off = v then s
  else
    let s1 := cap (({ s with testCtl := tput off v s.testCtl } : State).modHub fun h => { h with touched := true })
    raise s1 0x13 12 false (w32 issued) data 1 (some 0)

/-- A 32-bit write of a word of a cell block (R52, R59, R60, R325). -/
def cellWrite (s : State) (off : Nat) (data : Word) (cap : State → State) : State :=
  let c := offCell off
  let o := off % 0x200
  if o < 0x100 then
    if 0x018 ≤ o ∧ o < 0x040 then s
    else if locked (s.cell c) then cellCfgWhileEn s c o else writePlatWord s c (o / 4) data
  else if o = 0x108 then s
  else if o < 0x180 then speedJudge s (writeTuneWord s off data)
  else if o = 0x180 then writeCellEn s c (data.getLsbD 0)
  else if o = 0x1A0 then s.modCell c fun x => { x with ctrSel := data }
  else if o = 0x1A4 then s.modCell c fun x => writeCtrCtrl x data
  else if o = 0x1A8 then s.modCell c fun x => { x with wrLo := data }
  else if o ≥ 0x1C0 then writeTest s off data cap
  else s

end Sys2Proof.Machine
end

