-- ==== Sys2Proof/Machine/Operands.lean ====
section
/-! DEFINITION. Every form of access to the register window: the checks of R281 in their order, the folding of COMPACT mode
(R303), narrow and 64-bit accesses (R282 to R285), the access faults (R287 to R290), accesses held while the hub logic is off
(R424), the view of STATUS_PEEK (R22, R295); and the rows of the table that are one access. -/

namespace Sys2Proof.Machine

open Sys2Proof

/-! ## Where an access goes -/

def sizeCode : Size → Nat
  | .b8 => 0 | .b16 => 1 | .b32 => 2 | .b64 => 3
def sizeBytes : Size → Nat
  | .b8 => 1 | .b16 => 2 | .b32 => 4 | .b64 => 8

/-- The offset after the folding of the decode mode in force (R303). -/
def foldOff (compact : Bool) (off : Nat) : Nat :=
  if !compact then off
  else if off < 0x10000 then off % 0x1000
  else if off < 0x18000 then 0x10000 + off % 0x100
  else if off < 0x20000 then 0x18000 + off % 0x100
  else if off < 0x100000 then 0x20000 + off % 0x1000
  else if off < 0x1000000 then off
  else if off < 0x4000000 then
    match offPage off with
    | 0 | 2 => off / 0x1000 * 0x1000 + off % 0x80
    | 1 => off / 0x1000 * 0x1000 + off % 0x10
    | _ => off
  else off / 0x1000 * 0x1000 + off % 0x80

/-- A station or virtual station page (R281 check 4). -/
def onPage (off : Nat) : Bool := decide (0x1000000 ≤ off)

/-- The word that an offset lies in. -/
def wordOff (off : Nat) : Nat := off / 4 * 4

/-- A register map row names the word at this offset of FULL decode (R302). -/
def implemented (s : State) (off : Nat) : Bool :=
  if off < 0x10000 then hubImpl off
  else if off < 0x18000 then decide (off < 0x10100)
  else if off < 0x20000 then decide (off < 0x18100)
  else if off < 0x100000 then pwrImpl (off - 0x20000)
  else if off < 0x400000 then cellImpl s off
  else if off < 0x1000000 then false else pageImpl s off

/-- A location of a secure station page (R194). -/
def securePage (off : Nat) : Bool := onPage off && decide (off < 0x4000000) && decide (offPage off = 2)

/-- The secure mailbox and the RWP registers (R287). -/
def needsSec (off : Nat) : Bool :=
  (decide (0x18000 ≤ off) && decide (off < 0x20000)) || decide (off = 0x490) || decide (off = 0x20200) || decide (off = 0x20204) ||
  (decide (0x100000 ≤ off) && decide (off < 0x400000) && decide (0x100 ≤ off % 0x200) && decide (off % 0x200 < 0x180) &&
    decide (off % 0x200 ≠ 0x108)) || securePage off

/-- A register with a read action (R284). -/
def hasAction (off : Nat) : Bool :=
  if off < 0x10000 then hubAction off
  else if off < 0x20000 then decide (off % 0x8000 = 0x008)
  else if off < 0x100000 then pwrAction (off - 0x20000)
  else if off < 0x400000 then cellAction off else if onPage off then pageAction off else false

/-! ## Access faults -/

/-- The access capture takes the first fault after it was armed (R289, R290). DESIGN CHOICE (log entry 93): where one half of a 64-bit page access
faults or is refused (R285), the capture shows the whole access: SIZE 64 bits, its first offset and its low 16 bits of data. -/
def accNote (s : State) (r : HeldAcc) (reason : Nat) : State :=
  s.modHub fun h =>
    if h.accCap.valid then h
    else { h with accCap := { valid := true, reason := BitVec.ofNat 3 reason, size := BitVec.ofNat 2 (sizeCode r.acc.size), write := r.write,
                              sec := r.acc.sec, offset := BitVec.ofNat 27 r.offset, tag := r.acc.tag, dataLo := if r.write then r.data.extractLsb' 0 16 else 0 } }

/-- The arguments of an access fault (R477). -/
def accRaise (s : State) (r : HeldAcc) (code : Nat) : State :=
  raise s code (offUnit (foldOff s.hub.compact r.offset)) false (w32 r.offset)
    (at_ 0 r.acc.tag.toNat ||| at_ 16 (sizeCode r.acc.size) ||| flag 18 r.write ||| flag 19 r.acc.sec) 1 (some 0)

/-- ACCESS_WIDTH, with its capture reason (R283, R284, R289). -/
def widthFault (s : State) (r : HeldAcc) (reason : Nat) : State :=
  accRaise (accNote (s.modHub fun h => { h with accWidth := satInc h.accWidth, accSeen := h.accSeen ||| 1 }) r reason) r 0x01

/-- ACCESS_ALIGN (R282). -/
def alignFault (s : State) (r : HeldAcc) : State :=
  accRaise (accNote (s.modHub fun h => { h with accAlign := satInc h.accAlign, accSeen := h.accSeen ||| 2 }) r 4) r 0x02

/-- A write of an unimplemented location (R302). -/
def unimplWrite (s : State) (r : HeldAcc) : State :=
  accNote (s.modHub fun h => { h with accUnimpl := satInc h.accUnimpl, accSeen := h.accSeen ||| 4 }) r 5

/-- An access refused for want of the secure attribute (R194, R287): STN_S_DENIED for a secure station page, the hub's count
elsewhere and where the hub answers for the die (R212). -/
def refuse (s : State) (r : HeldAcc) (off : Nat) : State :=
  if securePage off && !dieAway s (offStation off / 48) then
    s.modGrp (offStation off) .secure fun g => { g with denied := satInc g.denied }
  else if securePage off then s.modHub fun h => { h with accDenied := satInc h.accDenied }
  else accNote (s.modHub fun h => { h with accDenied := satInc h.accDenied, accSeen := h.accSeen ||| 8 }) r 6

/-! ## One word -/

/-- A read uses the register, and those from which its value is computed: HUB_GUARD_WORST, CELL_ROD_THRESH and STN_S_STATUS (R81, R196, R267,
R278). -/
def readParity (s : State) (off : Nat) : State :=
  let t := if onPage off then pageUse s off else parityCheck s off
  if off = 0x484 then rodParityAll t (guardCells t)
  else if 0x100000 ≤ off ∧ off < 0x400000 ∧ off % 0x200 = 0x108 then rodParity t (offCell off) else t

/-- A 32-bit read at its serving point, with its read action (R20, R294). -/
def readWord (s : State) (off : Nat) : Rsp × State :=
  if onPage off then pageRead s off
  else
    let s1 := readParity s off
    if off < 0x10000 then ({ data := hubPeek s1 off }, hubClear s1 off)
    else if off < 0x18000 then ({ data := mbxPeek s1 .normal (off - 0x10000) }, mbxClear s1 .normal (off - 0x10000))
    else if off < 0x20000 then ({ data := mbxPeek s1 .secure (off - 0x18000) }, mbxClear s1 .secure (off - 0x18000))
    else if off < 0x100000 then
      if off = 0x20800 then let r := merCapture s1; ({ data := r.1 }, r.2)
      else ({ data := pwrPeek s1 (off - 0x20000) }, pwrClear s1 (off - 0x20000))
    else if off % 0x200 = 0x184 then ({ data := cellPeek s1 off }, cellClear184 s1 (offCell off))
    else if off % 0x200 = 0x1AC then let r := ctrCapture s1 (offCell off); ({ data := r.1 }, r.2)
    else ({ data := cellPeek s1 off }, s1)

/-- The value of a word with no read action. -/
def peekWord (s : State) (off : Nat) : Word :=
  if off < 0x10000 then hubPeek s off
  else if off < 0x18000 then mbxPeek s .normal (off - 0x10000)
  else if off < 0x20000 then mbxPeek s .secure (off - 0x18000)
  else if off < 0x100000 then pwrPeek s (off - 0x20000)
  else if off < 0x400000 then cellPeek s off
  else if onPage off then pagePeek s off else 0

/-- A 32-bit write at its serving point (R297, R298). -/
def writeWord (s : State) (r : HeldAcc) (off : Nat) (data : Word) : State :=
  if onPage off then pageWrite s off data r.acc
  else if testWord off ≠ 0 then writeTestCtl s off r.offset data fun t => accNote t r 7
  else if off < 0x10000 then hubWrite s off data
  else if off < 0x18000 then mbxWrite s .normal (off - 0x10000) data
  else if off < 0x20000 then mbxWrite s .secure (off - 0x18000) data
  else if off < 0x100000 then pwrWrite s (off - 0x20000) data
  else if off < 0x400000 then cellWrite s off data fun t => accNote t r 7 else s

/-- The addressed bytes of a word, for a narrow read. -/
def narrow (sz : Size) (off : Nat) (w : Word) : Word :=
  match sz with
  | .b8 => w32 (bits w (8 * (off % 4)) 8)
  | .b16 => w32 (bits w (8 * (off % 4)) 16)
  | _ => w

/-- Checks 5 to 8 of R281 on one access of at most 32 bits, or on one half of R285. `off` is the folded offset. -/
def serveWord (s : State) (r : HeldAcc) (sz : Size) (off : Nat) (data : Word) : Rsp × State :=
  let w := wordOff off
  if !implemented s w then (if r.write then ({}, unimplWrite s r) else ({}, s))
  else if needsSec w && !r.acc.sec then ({ err := true }, refuse s r w)
  else if sz = .b8 ∨ sz = .b16 then
    if r.write then ({}, widthFault s r 1)
    else if hasAction w then ({}, widthFault s r 2)
    else let t := readParity s w; ({ data := narrow sz off (peekWord t w) }, t)
  else if r.write then ({}, writeWord s r w data) else readWord s w

/-! ## A whole access -/

/-- The response of an access leaves on the fabric. -/
def respond (s : State) (data : BitVec 64) (err : Bool) : State := { s with out := { s.out with data := data, err := err } }

/-- The read that has just been held keeps its requester tag, and whether it is one half of a 64-bit read (R26, R285). -/
def tagHeld (s : State) (tag : BitVec 16) (wide : Bool) : State :=
  match s.out.held.getLast? with
  | none => s
  | some h => { s with out := { s.out with held := s.out.held.dropLast ++ [{ h with tag := tag, wide := wide }] } }

/-- A 64-bit access of a page: the low word, then the high word (R285). A half that is held holds the response; the other half
is kept with it. -/
def serveWide (s : State) (r : HeldAcc) (off : Nat) : State :=
  let lo := serveWord s r .b32 off (lo32 r.data)
  let hi := serveWord lo.2 r .b32 (foldOff lo.2.hub.compact (r.offset + 4)) (hi32 r.data)
  if lo.1.held then tagHeld lo.2 r.acc.tag true
  else if hi.1.held then tagHeld hi.2 r.acc.tag true
  else respond hi.2 (mk64 (if hi.1.err then 0 else hi.1.data) (if lo.1.err then 0 else lo.1.data)) (lo.1.err || hi.1.err)

/-- The checks 2 to 8 of R281 on an access outside the doorbell windows. -/
def serveReg (s : State) (r : HeldAcc) : State :=
  let off := foldOff s.hub.compact r.offset
  if r.offset % sizeBytes r.acc.size ≠ 0 then respond (alignFault s r) 0 true
  else if r.acc.size = .b64 then
    if onPage r.offset then serveWide s r off else respond (widthFault s r 3) 0 true
  else
    let a := serveWord s r r.acc.size off (lo32 r.data)
    if a.1.held then tagHeld a.2 r.acc.tag false else respond a.2 (a.1.data.zeroExtend 64) a.1.err

/-- The die whose outpost serves an access: that of the pages of a station, or of the station where the vCPU of a virtual page is resident; none
where the hub serves it, in a lost or powered-off die's stead too (R25, R212). -/
def servingDie (s : State) (r : HeldAcc) : Option Nat :=
  let off := foldOff s.hub.compact r.offset
  if if off ≥ 0x4000000 then offCtx off < ctxCapacity s else onPage off ∧ stnExists s (offStation off) then
    match servingStation s off with
    | some n => if dieAway s (n / 48) then none else some (n / 48)
    | none => none
  else none

/-- The access waits: for a traverse link that is in error or trains, or whose link cells are off, or behind an earlier access of its requester tag (R25, R26). -/
def mustWait (s : State) (r : HeldAcc) : Bool :=
  (match servingDie s r with | some k => !linkOpen s k | none => false) ||
  s.out.held.any (fun h => decide (h.tag = r.acc.tag)) || s.waits.any fun w => decide (w.acc.tag = r.acc.tag)

/-- Flits of a forwarded access cross one direction of link `k`: the messages of the classes before its own that are ready there go first (R30, R34);
the link cell counts the flits and the token (R462). One of 64 bits is two accesses (R285). -/
def forwardFlits (s : State) (r : HeldAcc) (k : Nat) (up : Bool) (n : Nat) : State :=
  let m := if r.acc.size = .b64 then 2 else 1
  let c := linkCell s k
  bumpBy (bumpBy (bumpBy (runClass s k up 3 s.net.length) c 0x01 m) c 0x02 m) c (if up then 0x70 else 0x71) (m * n)

/-- The request of an access that an outpost serves goes down its link. -/
def forwarded (s : State) (r : HeldAcc) : Option Nat → State
  | none => s
  | some k => forwardFlits s r k false (if r.write then 3 else 2)

/-- Its response comes up again; a flit of it that failed is then settled (R33). -/
def returnedAcc (s : State) (r : HeldAcc) : Option Nat → State
  | none => s
  | some k => (forwardFlits s r k true (if r.write then 1 else 2)).modOp k fun o => { o with accFail := none }

/-- An access at the register target port (R281): held while the hub logic is off (R424); at a doorbell offset a write goes to
doorbell port 0 and a read returns zero (R103, R107); nothing is served while PKG_RST_N is asserted (log entry 1). -/
def regServe (s : State) (r : HeldAcc) : State :=
  if r.offset ≥ 2 ^ 27 ∨ s.pwr.rst then s
  else if s.pwr.hubl ≠ .on then s.modPwr fun p => { p with heldAcc := p.heldAcc ++ [r] }
  else if mustWait s r then { s with waits := s.waits ++ [r] }
  else match dbWindow s r.offset with
    | some _ =>
      if r.write then
        respond (doorbell s { port := 0, offset := r.offset, data := lo32 r.data, whole := decide (r.acc.size = .b32) && r.acc.whole, poisoned := r.acc.poisoned, rid := r.acc.rid, sec := r.acc.sec }) 0 false
      else respond s 0 false
    | none => let k := servingDie s r; returnedAcc (serveReg (forwarded s r k) r) r k

/-- The accesses that wait are tried again, in their order (R25, R26; log entry 62). -/
def serveWaits (s : State) : State := forAll { s with waits := [] } s.waits regServe

/-- An access: those that wait and can be served go first. -/
def regAccess (s : State) (r : HeldAcc) : State := regServe (serveWaits s) r

/-- The accesses held at the register target port are served in order after a wake (R424). -/
def serveHeld (s : State) : State :=
  let rs := s.pwr.heldAcc
  forAll (s.modPwr fun p => { p with heldAcc := [] }) rs regAccess

/-! ## STATUS_PEEK -/

/-- A word with a read action other than RC (R284, R347). -/
def captures (off : Nat) : Bool :=
  decide (off = 0x20800) || (decide (0x100000 ≤ off) && decide (off < 0x400000) && decide (off % 0x200 = 0x1AC)) ||
  (onPage off && pageAction off && decide (off % 0x1000 ≠ 0x3C))

/-- The word that STATUS_PEEK returns for an offset (R22, R295, R334, R347): no bit is cleared and no action is performed; what an access
of the mailbox's security could not read reads zero. A register with a parity mismatch shows the safe value that a read would return (R82). -/
def peekReg (s : State) (off : Nat) (sec : Bool) : Word :=
  let o := wordOff (foldOff s.hub.compact off)
  if (dbWindow s off).isSome || !implemented s o || (needsSec o && !sec) || captures o then 0 else peekWord (readParity s o) o

/-! ## Rows that may settle a held access -/

/-- LEDGER_TAKE: the oldest token of the EVID reaches its owning ledger (R119), which settles it (R216); intake cells that a ledger held up go
on (R152). -/
def execLedgerTake (evid : Nat) (s : State) : Ans := .next (serveWaits (answerHeld (freeIntakes s (ledgerTake s evid))))

/-- FIELD_BOOK_RELEASE: the oldest record of the EVID leaves the field book (R150); an occurrence held for want of space may be settled
by it (R152, R216). -/
def execFieldBookRelease (evid : Nat) (s : State) : Ans := .next (serveWaits (answerHeld (freeIntakes s (fieldBookRelease s evid))))

/-- CLAIM_DATA_ARRIVAL: the window is latched and the held claim read answered (R203, R375); an access that waited behind it is served
(R26). -/
def execClaimDataArrival (evid : Nat) (s : State) : Ans := .next (serveWaits (claimDataArrival s evid))

/-! ## Rows that are one access -/

/-- One access as a meaning. -/
def access (s : State) (off : Nat) (write : Bool) (data : BitVec 64) (a : Acc) : Ans :=
  .next (regAccess s { offset := off, write := write, data := data, acc := a })

/-- A register of a station page; there are 576 stations and R191 gives the window room for 3,072. -/
def pageOffset (n : Nat) (g : Grp) (o : Nat) : Nat := stnBase n + (match g with | .normal => 0 | .secure => 0x2000) + o
def stnAccess (n : Nat) (g : Grp) (o : Nat) (write : Bool) (data : Word) (a : Acc) (s : State) : Ans :=
  if n < 3072 then access s (pageOffset n g o) write (data.zeroExtend 64) a else .next s
def vstAccess (v o : Nat) (write : Bool) (data : Word) (a : Acc) (s : State) : Ans :=
  if v < 16384 then access s (vstBase v + o) write (data.zeroExtend 64) a else .next s
def cellAccess (c o : Nat) (write : Bool) (data : Word) (a : Acc) (s : State) : Ans :=
  if c < 1536 then access s (cellBase c + o) write (data.zeroExtend 64) a else .next s

/-- STN_CLAIM (R203). -/
def execStnClaim (station : Nat) (g : Grp) (a : Acc) (s : State) : Ans := stnAccess station g 0x000 false 0 a s
/-- STN_COMPLETE (R207). -/
def execStnComplete (station : Nat) (g : Grp) (data : Word) (a : Acc) (s : State) : Ans := stnAccess station g 0x020 true data a s
/-- STN_RUNNING_RANK (R199). -/
def execStnRunningRank (station : Nat) (g : Grp) (data : Word) (a : Acc) (s : State) : Ans := stnAccess station g 0x024 true data a s
/-- STN_MASK_RANK (R196). -/
def execStnMaskRank (station : Nat) (g : Grp) (data : Word) (a : Acc) (s : State) : Ans := stnAccess station g 0x028 true data a s
/-- STN_PRE_BITS (R196). -/
def execStnPreBits (station : Nat) (g : Grp) (data : Word) (a : Acc) (s : State) : Ans := stnAccess station g 0x02C true data a s
/-- STN_SEND (R213). -/
def execStnSend (station : Nat) (g : Grp) (data : Word) (a : Acc) (s : State) : Ans := stnAccess station g 0x034 true data a s
/-- STN_SEND_GANG (R214). -/
def execStnSendGang (station : Nat) (g : Grp) (data : Word) (a : Acc) (s : State) : Ans := stnAccess station g 0x038 true data a s
/-- STN_SEND_STATUS (R216). -/
def execStnSendStatus (station : Nat) (g : Grp) (a : Acc) (s : State) : Ans := stnAccess station g 0x03C false 0 a s

/-- VCTX_ENTER (R371, R372): a write of STN_VCTX_SWITCH with ENTER = 1. -/
def execVctxEnter (station : Nat) (low : BitVec 31) (a : Acc) (s : State) : Ans :=
  stnAccess station .normal 0x1008 true (1#1 ++ low) a s
/-- VCTX_LEAVE (R373): a write of STN_VCTX_SWITCH with ENTER = 0. -/
def execVctxLeave (station : Nat) (low : BitVec 31) (a : Acc) (s : State) : Ans :=
  stnAccess station .normal 0x1008 true (0#1 ++ low) a s

/-- VST_CLAIM (R375). -/
def execVstClaim (ctx : Nat) (a : Acc) (s : State) : Ans := vstAccess ctx 0x000 false 0 a s
/-- VST_COMPLETE (R376). -/
def execVstComplete (ctx : Nat) (data : Word) (a : Acc) (s : State) : Ans := vstAccess ctx 0x020 true data a s
/-- VST_RUNNING_RANK (R327). -/
def execVstRunningRank (ctx : Nat) (data : Word) (a : Acc) (s : State) : Ans := vstAccess ctx 0x024 true data a s
/-- VST_MASK_RANK (R327). -/
def execVstMaskRank (ctx : Nat) (data : Word) (a : Acc) (s : State) : Ans := vstAccess ctx 0x028 true data a s
/-- VST_PRE_BITS (R327). -/
def execVstPreBits (ctx : Nat) (data : Word) (a : Acc) (s : State) : Ans := vstAccess ctx 0x02C true data a s
/-- VST_SEND (R377). -/
def execVstSend (ctx : Nat) (data : Word) (a : Acc) (s : State) : Ans := vstAccess ctx 0x034 true data a s
/-- VST_SEND_GANG (R377). -/
def execVstSendGang (ctx : Nat) (data : Word) (a : Acc) (s : State) : Ans := vstAccess ctx 0x038 true data a s
/-- VST_SEND_STATUS (R327). -/
def execVstSendStatus (ctx : Nat) (a : Acc) (s : State) : Ans := vstAccess ctx 0x03C false 0 a s
/-- VST_CTX_CAPTURE (R328). -/
def execVstCtxCapture (ctx : Nat) (a : Acc) (s : State) : Ans := vstAccess ctx 0x054 false 0 a s

/-- MER_CAPTURE (R225). -/
def execMerCapture (a : Acc) (s : State) : Ans := access s 0x20800 false 0 a
/-- MER_ADJ_CTRL: SLEW (R226). -/
def execMerSlew (a : Acc) (s : State) : Ans := access s 0x20820 true 1 a
/-- MER_ADJ_CTRL: STEP (R227). -/
def execMerStep (a : Acc) (s : State) : Ans := access s 0x20820 true 2 a
/-- MER_ADJ_CTRL: CANCEL (R226). -/
def execMerCancel (a : Acc) (s : State) : Ans := access s 0x20820 true 3 a
/-- MER_ALRM_CTRL_a.ARM (R228). -/
def execMerAlarmArm (alarm : Nat) (keepWake : Bool) (a : Acc) (s : State) : Ans :=
  if alarm < 4 then access s (0x2088C + 0x10 * alarm) true (if keepWake then 3 else 1) a else .next s

/-- CELL_CTRL.CELL_EN = 1 (R58, R60). -/
def execCellEnable (cell : Nat) (a : Acc) (s : State) : Ans := cellAccess cell 0x180 true 1 a s
/-- CELL_CTRL.CELL_EN = 0 (R58, R61). -/
def execCellDisable (cell : Nat) (a : Acc) (s : State) : Ans := cellAccess cell 0x180 true 0 a s
/-- HUB_CTRL.HUB_EN = 1 (R62). -/
def execHubEnable (a : Acc) (s : State) : Ans := access s 0x010 true 1 a
/-- HUB_CTRL.HUB_EN = 0 (R62). -/
def execHubDisable (a : Acc) (s : State) : Ans := access s 0x010 true 0 a
/-- HUB_DB_REJ_CTRL.ARM (R116). -/
def execHubDbRejArm (a : Acc) (s : State) : Ans := access s 0x418 true 1 a
/-- HUB_ACC_CAP_CTRL.ARM (R290). -/
def execHubAccCapArm (a : Acc) (s : State) : Ans := access s 0x4D4 true 1 a
/-- CELL_CTR_CAPTURE (R464). -/
def execCellCtrCapture (cell : Nat) (a : Acc) (s : State) : Ans := cellAccess cell 0x1AC false 0 a s
/-- WR_GO (R465): the write of CELL_CTR_CTRL carries WR_GO = 1. -/
def execWrGo (cell : Nat) (data : Word) (a : Acc) (s : State) : Ans := cellAccess cell 0x1A4 true (data ||| 8) a s
/-- OVF_CLR (R465). -/
def execOvfClr (cell : Nat) (data : Word) (a : Acc) (s : State) : Ans := cellAccess cell 0x1A4 true data a s
/-- SWDT_SERVICE (R404). -/
def execSwdtService (data : Word) (a : Acc) (s : State) : Ans := access s 0x20204 true (data.zeroExtend 64) a
/-- RC_REGISTER_READ (R294): a read of any register, with its read action. -/
def execRcRegisterRead (offset : Nat) (a : Acc) (s : State) : Ans := access s offset false 0 a
/-- REGISTER_WRITE (R297, R298): a write of any register. -/
def execRegisterWrite (offset : Nat) (data : BitVec 64) (a : Acc) (s : State) : Ans := access s offset true data a

/-- A register of Wairo's copy: the tuning region of a cell, or HUB_SPEED_CFG (R83). -/
def tuned (off : Nat) : Bool :=
  decide (off = 0x490) || (decide (0x100000 ≤ off) && decide (off < 0x1C0000) && decide (0x100 ≤ off % 0x200) && decide (off % 0x200 < 0x180) &&
    decide (off % 0x200 ≠ 0x108) && decide (off % 4 = 0))

/-- Wairo writes one register from its copy and logs it (R83). -/
def rewriteTuning (s : State) (offset : Nat) : State :=
  let v := tget (peekWord s offset) s.isl.journal offset
  let s1 := if offset = 0x490 then writeSpeedCfg s v else writeTuneWord s offset v
  log (speedJudge s s1) 0x86 (offUnit offset) false (if offset = 0x490 then 0x7FF else w32 (offCell offset)) (w32 (if offset = 0x490 then offset else offset % 0x200)) v

/-- Wairo, just started, reads back every tuning register and rewrites those that differ from its copy (R444). -/
def rewriteAll (s : State) : State :=
  if s.pwr.hubl ≠ .on then s
  else forAll s (tkeys s.isl.journal) fun s' o =>
    let t := if tuned o then parityCheck s' o else s'
    if tuned o ∧ tget (peekWord t o) t.isl.journal o ≠ peekWord t o then rewriteTuning t o else t

/-- TUNING_REWRITE: Wairo writes a register that took its safe value back from its copy, and logs it (R83). -/
def execTuningRewrite (offset : Nat) (s : State) : Ans :=
  if !tuned offset ∨ !wairoRuns s ∨ s.pwr.hubl ≠ .on then .next s else .next (rewriteTuning s offset)

end Sys2Proof.Machine
end

