-- ==== Sys2Proof/Machine/Mailbox.lean ====
section
/-! DEFINITION. The mailbox protocol (R330 to R337, R343, R344), and the commands for information, plat and integrity (R346 to R348).
A row of the table carries its command out when the mailbox has it waiting, Wairo runs and it is that mailbox's turn. -/

namespace Sys2Proof.Machine

open Sys2Proof

/-! ## Calls, results and checks -/

/-- A command as Wairo takes it: its mailbox, its 32 argument words, and what the list entry carries. -/
structure Call where
  box    : Box
  args   : List Word
  ext    : ListEntry := { opcode := 0, args := [] }
  inList : Bool := false
  deriving DecidableEq, Repr

/-- How a command ends: CODE, the response words and the state with its effect; of a list that waits at an entry, where it stands. -/
structure Res where
  code : Nat
  resp : List Word := []
  st   : State
  hold : Option (Nat × Nat × ListEntry) := none
  deriving DecidableEq, Repr

def Call.arg (c : Call) (i : Nat) : Word := (c.args[i]?).getD 0
def Call.sec (c : Call) : Bool := decide (c.box = .secure)

/-- Status codes (R335). -/
def cOk : Nat := 0x00
def cBusy : Nat := 0x01
def cBadArg : Nat := 0x02
def cNoResource : Nat := 0x03
def cDenied : Nat := 0x04
def cNotDisabled : Nat := 0x05
def cFenced : Nat := 0x06
def cNotSupported : Nat := 0x07
def cMemError : Nat := 0x08
def cAuthFail : Nat := 0x09
def cRollback : Nat := 0x0A
def cFenceTimeout : Nat := 0x0B
def cAborted : Nat := 0x0C

/-- The first check that fails gives the code (R336). -/
def firstFail : List (Bool × Nat) → Option Nat
  | [] => none
  | (b, c) :: t => if b then some c else firstFail t

/-- Every argument bit that no field names is zero (R336 check 2): `ms` are the masks of the named bits, ARG0 first. -/
def zerosOk (c : Call) (ms : List Word) : Bool :=
  (List.range 32).all fun i => decide (c.arg i &&& ~~~((ms[i]?).getD 0) = 0)

/-- A command that ends with a code other than OK and has changed nothing (R334). -/
def failWith (s : State) (code : Nat) : Res := { code := code, st := s }

/-- The zero bits, then the command's own checks, then its effect. -/
def checked (c : Call) (ms : List Word) (cs : List (Bool × Nat)) (s : State) (f : Unit → Res) : Res :=
  match firstFail ((!zerosOk c ms, cBadArg) :: cs) with
  | some e => failWith s e
  | none => f ()

/-! ## Serving a mailbox -/

/-- The opcodes of Wairo 3.4 (R344). -/
def opcodes : List Nat :=
  [0x01, 0x02, 0x10, 0x11, 0x12, 0x13, 0x20, 0x21, 0x22, 0x23, 0x24, 0x30, 0x31, 0x40, 0x41, 0x42, 0x43, 0x44, 0x50, 0x51, 0x52,
   0x60, 0x61, 0x62, 0x70, 0x80, 0x81, 0x82, 0x90, 0xA0]

def otherBox : Box → Box
  | .normal => .secure
  | .secure => .normal

/-- A command waits on mailbox `b` and Wairo takes it now (R332, R333): after a command the other mailbox goes first, and of two
waiting ones the secure one. -/
def boxTurn (s : State) (b : Box) : Bool :=
  decide (s.pwr.hubl = .on) && !s.pwr.rst && wairoRuns s && (s.mbx b).busy && !(s.mbx b).cut &&
  (!(s.mbx (otherBox b)).busy || decide (s.isl.turn = some b) || (decide (s.isl.turn = none) && decide (b = .secure)))

/-- The end update of a command, and whose turn it is then (R330 step 5, R332). -/
def endCmd (s : State) (b : Box) (code : Nat) (resp : List Word) : State :=
  let s1 := mbxEnd s b code resp
  s1.modIsl fun x => { x with turn := if (s1.mbx (otherBox b)).busy then some (otherBox b) else none, listRun := none }

/-- The waiting command as a call. -/
def callOf (s : State) (b : Box) : Call := { box := b, args := (List.range 32).map fun i => getW (s.mbx b).args i }

/-- A row of the table for mailbox `b`: its command, opcode `op` and form `form`, is carried out when it is the one that waits.
Any row finds a waiting opcode that Wairo does not implement and ends it with NOT_SUPPORTED (log entry 33). Reading the secure
mailbox's words checks their parity (R82). -/
def serveBox (b : Box) (op : Nat) (form : Call → Bool) (f : Call → State → Res) (s : State) : Ans :=
  if !boxTurn s b then .next s
  else
    let s1 := parityAll s (boxRegs b)
    let m := s1.mbx b
    let c := callOf s1 b
    if !m.list ∧ m.op.toNat ∉ opcodes then .next (endCmd s1 b cNotSupported [])
    else if m.list ∨ m.op.toNat ≠ op ∨ !form c then .next s
    else
      let r := f c s1
      .next (endCmd r.st b r.code r.resp)

def anyForm (_ : Call) : Bool := true

/-! ## GET_INFO and STATUS_PEEK -/

/-- GET_INFO (R346). -/
def cmdGetInfo (c : Call) (s : State) : Res :=
  checked c [1] [] s fun _ =>
    if c.arg 0 = 1 then
      { code := cOk, st := s, resp := (List.range 8).map fun i => w32 (bitsOf 32 fun j => decide (32 * i + j ∈ opcodes)) }
    else
      let x := s.isl
      let otherSlot := if x.slotB then x.a else x.b
      { code := cOk, st := s, resp :=
        [ 0xC2880201
        , at_ 0 x.fwVer.toNat ||| flag 16 x.slotB ||| flag 17 (decide (otherSlot.st = .committed))
        , hubUnits s &&& 0x0FFF0FFF
        , s.hub.platId
        , flag 0 s.hub.staged ||| flag 1 s.hub.datum.committed ||| flag 2 s.hub.compact ||| flag 3 x.defaults ||| at_ 16 (ctxCapacity s)
        , lo32 x.deviceId, hi32 x.deviceId
        , x.rollback
        , flag 0 x.store0.isSome ||| flag 1 x.store1.isSome ||| flag 2 (decide (x.bootMark = some false)) ||| flag 3 (decide (x.bootMark = some true))
        , 3
        , flag 0 (decide (x.scope ≠ 0)) ] }

/-- A route's kind and index (R127). -/
def Route.kind : Route → Nat
  | .station _ => 0 | .context _ => 1 | .gang _ => 2 | .spread _ => 3
def Route.index : Route → Nat
  | .station n => n | .context n => n | .gang n => n | .spread n => n

/-- STATE of a descriptor (R136). -/
def QState.code : QState → Nat
  | .idle => 0 | .pending => 1 | .presented => 2 | .active => 3 | .activePresented => 4

/-- MODE_WORD (R128). -/
def modeWord (q : Queue) : Nat :=
  match q.mode with
  | .payload => q.quota.toNat + q.tail * 2 ^ 12
  | .latest => 1 + q.tail * 2 ^ 12
  | .count => q.stamp.toNat + q.activeN.toNat * 2 ^ 23
  | .level => q.stamp.toNat

/-- The descriptor as 128 bits (R127). -/
def descriptor (q : Queue) : BitVec 128 :=
  let b (x : Bool) : Nat := if x then 1 else 0
  if !q.bound then 0
  else if q.poisoned then BitVec.ofNat 128 (1 + 2 ^ 122)
  else BitVec.ofNat 128 (1 + q.mode.code.toNat * 2 + b q.secure * 2 ^ 3 + q.rank.toNat * 2 ^ 4 + q.route.kind * 2 ^ 12 + q.route.index * 2 ^ 14 +
    q.parcel * 2 ^ 28 + b q.lockEn * 2 ^ 38 + q.lockId.toNat * 2 ^ 39 + q.lockMask.toNat * 2 ^ 55 + b q.bookOnly * 2 ^ 71 + b q.early * 2 ^ 72 +
    q.state.code * 2 ^ 73 + q.count.toNat * 2 ^ 76 + modeWord q * 2 ^ 88 + b q.ovf * 2 ^ 121 + b q.fbw * 2 ^ 123 + b q.overQ * 2 ^ 124 +
    b q.aged * 2 ^ 125 + b q.stampSet * 2 ^ 126 + b q.grade * 2 ^ 127)

/-- The waiting field-book records of a queue; those of a poisoned queue wait for their discarding (R158). -/
def recsOf (s : State) (e : Nat) : Nat :=
  ((fbOf s e).filter fun r => decide (r.dead = 0) || ((s.queue e).poisoned && decide (r.dead = rQueuePoisoned))).length

/-- Input mode code (R90). -/
def InMode.code : InMode → Nat
  | .off => 0 | .levelHigh => 1 | .levelLow => 2 | .rise => 3 | .fall => 4 | .both => 5 | .tally => 6

/-- An input table entry as two words (R90). -/
def inputWords (x : Input) : List Word :=
  [at_ 0 x.mode.code ||| at_ 4 x.filterW.toNat ||| at_ 16 x.tallyN.toNat, at_ 0 x.tally.toNat ||| flag 20 x.heldSat ||| flag 21 x.level]

/-- A list of station numbers as the 18 words of a station bitmap (R345). -/
def bitmapOf (ns : List Nat) : List Word := (List.range 18).map fun i => w32 (bitsOf 32 fun j => decide (32 * i + j ∈ ns))

/-- Word `i` (0–31) of a gang record (R234). -/
def gangWord (g : Gang) (i : Nat) : Word :=
  if i < 4 then
    let n := (if g.defined then 1 else 0) + g.parcel * 2 + g.send * 2 ^ 11 + g.done * 2 ^ 31 + (if g.offset then 2 ^ 51 else 0) +
      g.offsetNs.toNat * 2 ^ 52 + (if g.post then 2 ^ 72 else 0) + g.members.length * 2 ^ 73
    w32 (n >>> (32 * i))
  else if i < 22 then ((bitmapOf g.members)[i - 4]?).getD 0
  else match i with
    | 22 => g.releases | 23 => g.late | 24 => g.skipped | 25 => g.missed | 26 => g.stray | _ => 0

/-- The bound queues of a parcel, and its bound contexts. -/
def parcelQueues (s : State) (p : Nat) : List Nat := (s.queues.filter fun e => e.2.bound && decide (queueParcel s e.1 = p)).map (·.1)
def parcelCtxs (s : State) (p : Nat) : List Nat := (s.ctxs.filter fun e => e.2.bound && decide (e.2.parcel = p)).map (·.1)

/-- The EVID of a wired input of an absent outpost (R23, R125). -/
def evidAbsent (s : State) (e : Nat) : Bool := isOutpostWired e && !populated s (evidDie e)

/-- The answer of STATUS_PEEK for one target (R347); none: an index, section or count is out of range. -/
def peekTarget (c : Call) (s : State) : Option (List Word) :=
  let i := (c.arg 1).toNat
  let k := (c.arg 2).toNat
  let hide (e : Nat) : Bool := !c.sec && (s.queue e).secure
  match (c.arg 0).toNat with
  | 0 => if i % 4 = 0 ∧ 1 ≤ k ∧ k ≤ 28 ∧ i + 4 * k ≤ 2 ^ 27 then some ((List.range k).map fun j => peekReg s (i + 4 * j) c.sec) else none
  | 1 =>
    if i < 2 ^ 20 ∧ k = 0 then
      if hide i then some [flag 0 (s.queue i).bound ||| flag 3 true, 0, 0, 0, 0, 0]
      else
        let d := descriptor (s.queue i)
        some [d.extractLsb' 0 32, d.extractLsb' 32 32, d.extractLsb' 64 32, d.extractLsb' 96 32, w32 (recsOf s i), getW s.tally i]
    else none
  | 2 => if isWired i ∧ !evidAbsent s i ∧ k = 0 then (if hide i then some [0, 0, 0] else some (inputWords (s.input i) ++ [(s.input i).held])) else none
  | 3 => if i < 1024 ∧ k < 2 then some ((List.range 16).map fun j => gangWord (s.gang i) (16 * k + j)) else none
  | 4 =>
    if i < 1024 ∧ k = 0 then
      let p := s.parcel i
      if !parcelHeld s i then some [0, 0, 0, 0, 0, 0, 0]
      else some [w32 p.used, w32 (share s i), w32 (parcelQueues s i).length, w32 (parcelCtxs s i).length, lo32 p.booked,
        flag 0 (decide (p.st = .fenced)) ||| flag 1 p.overQ ||| flag 2 true, at_ 0 p.tag.toNat]
    else none
  | 5 =>
    if i < 12 ∧ k = 0 then
      some [w32 ((s.op i).fallN.getD 0x3FF), w32 ((s.op i).fallS.getD 0x3FF), w32 (s.queues.filter fun e => decide (e.2.heldFor = some i)).length]
    else none
  | 6 => if i = 0 ∧ k = 0 then some [lo32 s.pwr.wakeMer, hi32 s.pwr.wakeMer, pwrPeek s 0x008] else none
  | 7 => if i < 16384 ∧ k < 8 then some ((List.range 8).map fun j => recordWord (s.ctx i) (8 * k + j)) else none
  | 8 =>
    if i < 256 ∧ k = 0 then
      -- a word that fails its parity shows its safe value 0 here too (R22, R82)
      let n := if (settingRegs s [keySpread i]).any fun r => decide (r ∈ s.parity) then 0 else setting s (keySpread i)
      some (bitmapOf (s.spread i).members ++ [w32 n, w32 (s.spread i).parcel])
    else none
  | _ => none

/-- STATUS_PEEK (R346, R347). -/
def cmdStatusPeek (c : Call) (s : State) : Res :=
  checked c [0xF, 0xFFFFFFFF, 0xFFFFFFFF] [((peekTarget c s).isNone, cBadArg)] s fun _ =>
    { code := cOk, resp := (peekTarget c s).getD [], st := s }

/-! ## PLAT_LOAD, DATUM_COMMIT, ENABLE, DISABLE -/

/-- The image that a PLAT_LOAD takes (R69, R348). -/
def platOf (c : Call) (s : State) : Option PlatImage :=
  if (c.arg 0).getLsbD 0 then (if c.inList then c.ext.plat else none) else storeEntry s ((c.arg 0).getLsbD 4)

/-- Outposts that run and hold a slot marked UNSERVED are treated as lost (R65). -/
def unservedLost (s : State) : State :=
  forAll s ((outpostsOf s).filter fun k => decide ((s.op k).logic = .on) && unitUnserved s k) declareLost

/-- PLAT_LOAD (R65, R67 to R72, R348). -/
def cmdPlatLoad (c : Call) (s : State) : Res :=
  let a := c.arg 0
  let one := a.getLsbD 1
  let only := a.getLsbD 6
  let slot := bits (c.arg 1) 0 11
  let us := (List.range 13).filter fun u => (c.arg 1).getLsbD u
  let ok := match platOf c s with
    | none => false
    | some p => (platCheck s p).isNone &&
      (only || (if one then p.records.any fun r => decide (r.1 = slot) else us.all fun u => decide (u = 12) || populated s u))
  let free := only || (if one then !locked (s.cell slot) else unitsDisabled s us)
  checked c [0x7F, if one then 0x7FF else 0x1FFF] [(!ok, cBadArg), (!free, cNotDisabled)] s fun _ =>
    match platOf c s with
    | none => failWith s cBadArg
    | some p =>
      let s1 := if a.getLsbD 2 ∨ only then storePut s (a.getLsbD 5) p (a.getLsbD 2 && a.getLsbD 3) else s
      let cs (d : Nat) : Bool := if one then decide (d = slot) else decide (unitOf d ∈ us)
      let n := (p.records.filter fun r => cs r.1).length
      if only then { code := cOk, resp := [0, p.datumRef, p.platId], st := s1 }
      else { code := cOk, resp := [w32 n, p.datumRef, p.platId], st := unservedLost (platWrite s1 p cs (!one && decide (12 ∈ us))) }

/-- DATUM_COMMIT (R77, R348). -/
def cmdDatumCommit (c : Call) (s : State) : Res :=
  checked c [0xFFFFFFFF] [] s fun _ =>
    let r := datumCommit s (c.arg 0)
    { code := r.1.toNat, resp := [r.2.1], st := r.2.2 }

/-- The cells of an ENABLE or DISABLE: no spare slots and no slots of absent outposts (R348). -/
def rangeCells (s : State) (c : Call) : List Nat :=
  ((List.range (bits (c.arg 1) 0 11)).map (bits (c.arg 0) 0 11 + ·)).filter fun d =>
    decide ((s.cell d).role ≠ 0) && (decide (unitOf d = 12) || populated s (unitOf d))
def rangeOk (c : Call) : Bool :=
  decide (1 ≤ bits (c.arg 1) 0 11) && decide (bits (c.arg 1) 0 11 ≤ 1536) && decide (bits (c.arg 0) 0 11 + bits (c.arg 1) 0 11 ≤ 1536)

/-- ENABLE (R60, R65, R348): every named cell is tested, an enabled one too; those that pass are enabled even where others are refused. -/
def cmdEnable (c : Call) (s : State) : Res :=
  checked c [0x7FF, 0x7FF]
    [(!rangeOk c, cBadArg), ((rangeCells s c).any fun d => unitUnserved s (unitOf d), cNoResource)] s fun _ =>
    let s1 := forAll s (rangeCells s c) fun t d => writeCellEn t d true
    let bad := (rangeCells s c).filter fun d => !canEnable s d
    { code := if bad = [] then cOk else cDenied, st := s1
      resp := [w32 ((rangeCells s c).length - bad.length), w32 bad.length, w32 (bad.head?.getD 0x7FF)] }

/-- A drained slot is quiet (R58). -/
def markQuiet (s : State) (d : Nat) : State := { s with cells := tmod d (fun x => { x with quiet := true }) s.cells }

/-- DISABLE (R58, R61, R348): the named slots drain, and those with no token inside are quiet when the command ends, which RESP0 counts. DESIGN
CHOICE (log entry 100): a slot that a token keeps from being quiet within the command's time is not counted, and goes on draining. -/
def cmdDisable (c : Call) (s : State) : Res :=
  checked c [0x7FF, 0x7FF] [(!rangeOk c, cBadArg)] s fun _ =>
    let s1 := forAll s (rangeCells s c) fun t d => writeCellEn t d false
    let done := (rangeCells s c).filter fun d => !tokenInside s1 d
    { code := cOk, resp := [w32 done.length], st := forAll s1 done markQuiet }

/-! ## Rows -/

/-- GET_INFO (R346). -/
def execGetInfo (b : Box) (s : State) : Ans := serveBox b 0x01 anyForm cmdGetInfo s
/-- STATUS_PEEK (R346, R347). -/
def execStatusPeek (b : Box) (s : State) : Ans := serveBox b 0x02 anyForm cmdStatusPeek s
/-- PLAT_LOAD (R348). -/
def execPlatLoad (b : Box) (s : State) : Ans := serveBox b 0x10 anyForm cmdPlatLoad s
/-- DATUM_COMMIT (R77). -/
def execDatumCommit (b : Box) (s : State) : Ans := serveBox b 0x11 anyForm cmdDatumCommit s
/-- ENABLE (R348). -/
def execEnable (b : Box) (s : State) : Ans := serveBox b 0x12 anyForm cmdEnable s
/-- DISABLE (R348). -/
def execDisable (b : Box) (s : State) : Ans := serveBox b 0x13 anyForm cmdDisable s

end Sys2Proof.Machine
end

