-- ==== Sys2Proof/Machine/Queues.lean ====
section
/-! DEFINITION. The commands for queues, routes, spread sets, gangs and release trains (R91 to R93, R112, R125, R129 to R132, R137,
R158, R164, R173, R180 to R182, R186, R233, R235, R243, R244, R345, R349 to R352). -/

namespace Sys2Proof.Machine

open Sys2Proof

/-! ## Parcels as the checks see them -/

def parcelFenced (s : State) (p : Nat) : Bool := decide (p ≠ 0) && decide ((s.parcel p).st = .fenced)

/-- Parcel 0's allowance of contexts, gangs and spread sets: what no other parcel holds (R364). -/
def holdings (s : State) (total : Nat) (f : Parcel → Nat) : Nat :=
  total - s.parcels.foldl (fun n e => if e.2.st = .free then n else n + f e.2) 0

/-! ## Taking back everything that stands outside the ledger -/

/-- Claims and completions of an EVID that are on their way reach the ledger now: they were served before (R140). -/
def settleReports (s : State) (e : Nat) : State :=
  let ms := s.net.filterMap fun p => match p.msg with
    | .claimed a .. => if a = e then some p.msg else none
    | .completed a _ => if a = e then some p.msg else none
    | _ => none
  let s1 := dropMsgs s fun m => match m with
    | .claimed a .. => decide (a = e)
    | .completed a _ => decide (a = e)
    | _ => false
  forAll s1 ms fun t m => match m with
    | .claimed _ h want _ ovf lost => if want then ledgerClaim t e h else claimApply t e h ovf lost
    | .completed _ h => completeApply t e h
    | _ => t

/-- Every candidate of a queue is taken off its seat, out of its context, placement, gather record and link, and discarded
(R132, R384). -/
def purge (s : State) (e : Nat) : State :=
  let keep (xs : List Seat) : List Seat := xs.filter fun x => decide (x.cand.evid ≠ e)
  let s1 : State := { s with
    stns := s.stns.map fun x => (x.1, { x.2 with norm := { x.2.norm with seats := keep x.2.norm.seats }, sec := { x.2.sec with seats := keep x.2.sec.seats }, armed := x.2.armed.filter fun y => decide (y.cand.evid ≠ e) })
    ctxs := s.ctxs.map fun x => (x.1, { x.2 with g := { x.2.g with seats := keep x.2.g.seats }, cands := keep x.2.cands, counted := x.2.counted && (keep x.2.cands ≠ [] || x.2.spill), changed := x.2.changed || decide (keep x.2.cands ≠ x.2.cands) })
    gathers := s.gathers.filter fun r => decide (r.evid ≠ e) }
  let s2 := dropMsgs s1 fun m => match m with
    | .candStation _ _ c | .candSpread _ c | .candContext _ c | .candGang _ c | .returned c _ _ => decide (c.evid = e)
    | .withdrawal a _ => decide (a = e)
    | _ => false
  gatherOffers s (settleStations s (dropPlaces (dropGates s2 e) e fun _ => true) (tkeys s.stns))

/-! ## Argument words -/

def qwMask : Word := 0xFFFFFF1F
def owMask : Word := 0x0FFF07FF
def iwMask : Word := 0x0FFF3FF7
def evidMask : Word := 0xFFFFF

def qmodeOf (n : Nat) : QMode :=
  match n with
  | 0 => .level | 1 => .count | 2 => .payload | _ => .latest
def inModeOf (n : Nat) : InMode :=
  match n with
  | 1 => .levelHigh | 2 => .levelLow | 3 => .rise | 4 => .fall | 5 => .both | 6 => .tally | _ => .off
def routeOf (w : Word) : Route :=
  match bits w 16 2 with
  | 0 => .station (bits w 18 14)
  | 1 => .context (bits w 18 14)
  | 2 => .gang (bits w 18 14)
  | _ => .spread (bits w 18 14)

/-- The pair of input mode and queue mode is listed in R91. -/
def modePair (im : InMode) (qm : QMode) : Bool :=
  match im with
  | .off => false
  | .levelHigh | .levelLow => decide (qm = .level)
  | .rise | .fall | .both => decide (qm ≠ .level)
  | .tally => decide (qm = .payload) || decide (qm = .latest)

/-- The input word alone breaks R92; a message EVID takes a zero input word (R345). -/
def inputBad (s : State) (e : Nat) (w : Word) : Bool :=
  if isWired e then
    decide (bits w 0 3 = 7) || decide (bits w 4 10 > 1000) || (decide (bits w 0 3 = 6) && !(decide (0xC01 ≤ e) && decide (e ≤ 0xC20))) ||
      !inputPresent s e
  else decide (w ≠ 0)

/-- The route breaks a rule of R91 to R235 for queue `e` with this mode (R173, R235, R349). -/
def routeBad (s : State) (e : Nat) (r : Route) (m : QMode) (early : Bool) : Bool :=
  match r with
  | .station n => !stnExists s n
  | .context v => !(s.ctx v).bound || (s.ctx v).poisoned
  | .gang g => decide (g ≥ 1024) || !(s.gang g).defined ||
      ((s.gang g).offset && (decide ((s.gang g).send ≠ e) || decide (m = .level) || early))
  | .spread n => decide (n ≥ 256) || decide ((s.spread n).members = [])

/-- The route names nothing outside parcel `p` (R349, R365). -/
def routeOwned (s : State) (p : Nat) : Route → Bool
  | .station n => inSet s p n
  | .context v => decide ((s.ctx v).parcel = p)
  | .gang g => decide ((s.gang g).parcel = p)
  | .spread n => decide ((s.spread n).parcel = p)

/-- A change of an input entry from its word: the endpoint starts from the present level (R93). DESIGN CHOICE (log entry 101): what a disabled intake
cell holds of the input stays, and is delivered under the new mode and N. -/
def setInput (s : State) (e : Nat) (w : Word) (fresh : Bool) : State :=
  s.modInput e fun x => { x.sampled with mode := inModeOf (bits w 0 3), filterW := BitVec.ofNat 10 (bits w 4 10), tallyN := BitVec.ofNat 12 (bits w 16 12), tally := if fresh then 0 else x.tally, rises := if fresh then 0 else x.rises, held := if fresh then 0 else x.held, heldSat := false }

/-! ## QUEUE_BIND, QUEUE_UNBIND -/

/-- QUEUE_BIND (R129, R130, R349, R394). It writes the whole descriptor, with its check bits (R155). -/
def cmdQueueBind (c : Call) (s0 : State) : Res :=
  let e := bits (c.arg 0) 0 20
  let s := descRead s0 e
  let qw := c.arg 1; let ow := c.arg 2; let lw := c.arg 3; let iw := c.arg 4
  let m := qmodeOf (bits qw 0 2)
  let sec := qw.getLsbD 2
  let early := qw.getLsbD 4
  let r := routeOf qw
  let p := bits ow 0 10
  let quota := bits ow 16 12
  let wired := isWired e
  checked c [evidMask, qwMask, owMask, 0xFFFFFFFF, iwMask]
    [ (sec && !c.sec, cDenied)
    , (decide (e = 0) || evidAbsent s e || (!isInternal e && (s.queue e).bound), cBadArg)
    , (!wired && decide (m = .level), cBadArg)
    , (inputBad s e iw || (wired && !modePair (inModeOf (bits iw 0 3)) m), cBadArg)
    , (wired && (ow.getLsbD 10 || decide (lw ≠ 0)), cBadArg)
    , (if m = .payload then decide (quota = 0) else decide (quota ≠ 0), cBadArg)
    , (early && decide (m ≠ .count), cBadArg)
    , (routeBad s e r m early, cBadArg)
    , (isInternal e, cDenied)
    , (decide (p ≠ 0) && !wired && !ow.getLsbD 10, cDenied)
    , (sec && decide (p ≠ 0), cDenied)
    , (decide (evidParcel s e ≠ p) || !routeOwned s p r, cDenied)
    , (parcelFenced s p, cFenced)
    , (decide (m = .latest) && !parcelRoom s p, cNoResource) ] s fun _ =>
    let t := if m = .latest then poolTake s p else (0, s)
    let q : Queue := { bound := true, mode := m, secure := sec, rank := qw.extractLsb' 8 8, route := r, parcel := p, lockEn := ow.getLsbD 10,
                       lockId := lw.extractLsb' 0 16, lockMask := lw.extractLsb' 16 16, bookOnly := qw.getLsbD 3, early := early,
                       quota := BitVec.ofNat 12 quota, tail := t.1 }
    let s1 : State := { t.2.setQueue e q with tally := tset 0 t.2.tally e 0, ecc := t.2.ecc.filter fun z => decide (z.1 ≠ .desc e) }
    let s2 := if wired then setInput s1 e iw true else s1
    { code := cOk, st := touch (if wired && decide (m = .level) then sendLevel s2 e else s2) p }

/-- The waiting entries of a queue: what it holds and nobody has claimed. -/
def waitingCount (q : Queue) : Nat := if q.mode = .level ∧ q.busy then 0 else q.count.toNat

/-- Unbind one queue as one update (R132, R158, R387); `why` is the reason that its field-book records carry. -/
def unbind (s : State) (e : Nat) (why : BitVec 4) : State :=
  let s0 := settleReports s e
  let q := s0.queue e
  let s1 := purge (orphan (killRecs (withdraw s0 e) e why) e) e
  let s2 := match q.mode with
    | .payload => if q.poisoned then s1 else unlinkAll s1 e q.count.toNat
    | .latest => if q.poisoned then s1 else poolFreeSlot s1 q.tail
    | _ => s1
  let s3 := if isWired e then s2.modInput e fun x => { x with mode := .off, held := 0 } else s2
  let s4 := if q.poisoned then s3.modIsl fun x => { x with auditFor := x.auditFor ++ [evidParcel s0 e] } else s3
  touch (s4.setQueue e {}) (queueParcel s0 e)

/-- QUEUE_UNBIND (R132, R155, R158, R349). -/
def cmdQueueUnbind (c : Call) (s0 : State) : Res :=
  let e := bits (c.arg 0) 0 20
  let s := descRead s0 e
  let q := s.queue e
  checked c [evidMask]
    [ (q.secure && !c.sec, cDenied), (!q.bound, cBadArg), (isInternal e, cDenied), (parcelFenced s (queueParcel s e), cFenced) ] s fun _ =>
    let q1 := (settleReports s e).queue e
    { code := cOk, resp := [w32 (if q1.poisoned then 0 else waitingCount q1), w32 (recsOf s e)], st := unbind s e rUnbound }

/-! ## QUEUE_SET -/

/-- The queue of a QUEUE_SET after its selected fields, MODE and QUOTA apart. -/
def setFields (q : Queue) (mask qw lw ow : Word) : Queue :=
  let q1 := if mask.getLsbD 0 then { q with rank := qw.extractLsb' 8 8 } else q
  let q2 := if mask.getLsbD 1 then { q1 with secure := qw.getLsbD 2 } else q1
  let q3 := if mask.getLsbD 2 then { q2 with bookOnly := qw.getLsbD 3 } else q2
  let q4 := if mask.getLsbD 3 then { q3 with early := qw.getLsbD 4 } else q3
  if mask.getLsbD 6 then { q4 with lockEn := ow.getLsbD 10, lockId := lw.extractLsb' 0 16, lockMask := lw.extractLsb' 16 16 } else q4

/-- A change of MODE: MODE_WORD is rewritten and every field that only the ledger changes takes its reset value (R131). -/
def changeMode (s : State) (e : Nat) (m : QMode) (quota : BitVec 12) : State :=
  let q := s.queue e
  let s1 := if q.mode = .latest then poolFreeSlot s q.tail else s
  let t := if m = .latest then poolTake s1 q.parcel else (0, s1)
  t.2.modQueue e fun x => { x with mode := m, quota := quota, tail := t.1, stamp := 0, activeN := 0, state := .idle, count := 0, ovf := false, fbw := false, overQ := false, aged := false, stampSet := false, grade := false, holders := [], heldFor := none, parked := false, slotTaken := false, due := [] }

/-- COUNT_CLEAR: COUNT = 0 and OVF = 0, and a handed-out candidate is withdrawn (R350). -/
def countClear (s : State) (e : Nat) : State :=
  let s1 := s.modQueue e fun x => { x with count := 0, ovf := false, due := [] }
  (withdraw s1 e).modQueue e fun x => { x with state := if x.state = .pending then .idle else x.state }

/-- QUEUE_SET (R92, R131, R155, R181, R350, R394). R350 exempts argument bits that it does not select, and no other case of R92: the input
must be present and its pair of modes listed as they will stand. Of a poisoned queue, whose fields are lost, the checks are those that the new values alone
can fail (R336). -/
def cmdQueueSet (c : Call) (s0 : State) : Res :=
  let e := bits (c.arg 0) 0 20
  let s := descRead s0 e
  let mask := c.arg 1
  let qw := c.arg 2; let ow := c.arg 3; let lw := c.arg 4; let iw := c.arg 5
  let q := s.queue e
  let p := queueParcel s e
  let known := !q.poisoned || mask.getLsbD 4
  let m := if mask.getLsbD 4 then qmodeOf (bits qw 0 2) else q.mode
  let changes := decide (m ≠ q.mode)
  let quota := bits ow 16 12
  let early := if mask.getLsbD 3 then qw.getLsbD 4 else q.early
  let im := if mask.getLsbD 7 then inModeOf (bits iw 0 3) else (s.input e).mode
  let wired := isWired e
  let resel := (mask.getLsbD 0 && decide (qw.extractLsb' 8 8 ≠ q.rank)) || (mask.getLsbD 1 && decide (qw.getLsbD 2 ≠ q.secure))
  checked c [evidMask, 0x3FF, qwMask, owMask, 0xFFFFFFFF, iwMask]
    [ (!c.sec && (q.secure || (mask.getLsbD 1 && qw.getLsbD 2)), cDenied)
    , (!q.bound, cBadArg)
    , ((mask.getLsbD 4 && !wired && decide (m = .level)) || (!q.poisoned && changes && isInternal e), cBadArg)
    , (known && early && decide (m ≠ .count), cBadArg)
    , (!q.poisoned && changes && decide (m = .payload) && !mask.getLsbD 5, cBadArg)
    , (known && mask.getLsbD 5 && (if m = .payload then decide (quota = 0) || decide (quota < q.count.toNat) else decide (quota ≠ 0)), cBadArg)
    , (wired && mask.getLsbD 6 && (ow.getLsbD 10 || decide (lw ≠ 0)), cBadArg)
    , (mask.getLsbD 7 && inputBad s e iw, cBadArg)
    , (wired && !inputPresent s e, cBadArg)
    , (known && wired && !modePair im m, cBadArg)
    , (mask.getLsbD 8 && decide (im ≠ .tally), cBadArg)
    , (known && mask.getLsbD 9 && decide (m ≠ .count), cBadArg)
    , (mask.getLsbD 6 && !wired && decide (p ≠ 0) && !ow.getLsbD 10, cDenied)
    , (mask.getLsbD 1 && qw.getLsbD 2 && decide (p ≠ 0), cDenied)
    , (parcelFenced s p, cFenced)
    , (q.poisoned, cBusy)
    , (changes && (decide (q.state ≠ .idle) || decide (q.count ≠ 0) || q.fbw), cBusy)
    , (changes && decide (m = .latest) && !parcelRoom s q.parcel, cNoResource) ] s fun _ =>
    let s1 := if changes then changeMode s e m (BitVec.ofNat 12 (if m = .payload then quota else 0))
      else if mask.getLsbD 5 then quotaCheck (s.modQueue e fun x => { x with quota := BitVec.ofNat 12 quota }) q.parcel else s
    let s2 := if mask.getLsbD 9 then countClear s1 e else s1
    let s3 := if resel then withdraw s2 e else s2
    let s4 := s3.modQueue e fun x => setFields x mask qw lw ow
    let s5 := if !wired then s4
      else if mask.getLsbD 7 then setInput s4 e iw false else s4.modInput e fun x => { x with heldSat := false }
    let s6 := if mask.getLsbD 8 then s5.modInput e fun x => { x with tally := 0, rises := 0 } else s5
    let s7 := if mask.getLsbD 7 && wired && decide (m = .level) then sendLevel s6 e else s6
    { code := cOk, resp := [if mask.getLsbD 9 then w32 q.count.toNat else 0], st := settle (offer s7 e) e }

/-! ## ROUTE_SET -/

/-- ROUTE_SET form 0, and the form value 3, which no form has (R155, R180, R351). A PENDING queue is offered to the new route at once, a
parked or held one too. Of a poisoned queue, whose fields are lost, the route alone is checked (R336). -/
def cmdRouteQueue (c : Call) (s0 : State) : Res :=
  let e := bits (c.arg 0) 0 20
  let s := descRead s0 e
  let q := s.queue e
  let r := routeOf (c.arg 1)
  checked c [0xC00FFFFF, 0xFFFF0000]
    [ (decide (bits (c.arg 0) 30 2 = 3), cBadArg)
    , (q.secure && !c.sec, cDenied)
    , (!q.bound, cBadArg)
    , (routeBad s e r (if q.poisoned then .count else q.mode) q.early, cBadArg)
    , (!routeOwned s (queueParcel s e) r, cDenied)
    , (parcelFenced s (queueParcel s e), cFenced)
    , (q.poisoned, cBusy) ] s fun _ =>
    { code := cOk, resp := [0], st := offerAgain ((withdraw s e).modQueue e fun x => { x with route := r, heldFor := none }) e }

/-- ROUTE_SET form 1: a die's fallback (R186, R351). A hold that it ends offers the held queues again (R170), and doorbell events that no
station could take go there (R189). -/
def cmdRouteDie (c : Call) (s : State) : Res :=
  let k := bits (c.arg 1) 0 4
  let sec := (c.arg 1).getLsbD 8
  let n := bits (c.arg 1) 16 10
  checked c [0xC0000000, 0x03FF010F]
    [ (sec && !c.sec, cDenied)
    , (!populated s k, cBadArg)
    , (decide (n ≠ 0x3FF) && (!stnExists s n || decide (n / 48 = k)), cBadArg) ] s fun _ =>
    let f := if n = 0x3FF then none else some n
    let s1 := s.modOp k fun o => if sec then { o with fallS := f } else { o with fallN := f }
    { code := cOk, resp := [0], st := forAll (moveDoorbells s1) ((s1.queues.filter fun x => decide (x.2.heldFor = some k)).map (·.1)) offerAgain }

/-- ROUTE_SET form 2: a reservation setting, which Wairo keeps and writes with parity (R72, R164, R233, R351), into a word whose parity is checked as
its other settings are read (R81). -/
def cmdRouteResv (c : Call) (s : State) : Res :=
  let i := bits (c.arg 1) 0 10
  let kind := bits (c.arg 1) 12 2
  let v := bits (c.arg 1) 16 8
  let bad := match kind with
    | 0 => !stnExists s i
    | 1 => decide (i ≥ 256) || decide ((s.spread i).members = [])
    | 2 => !(s.gang i).defined
    | _ => true
  let p := match kind with
    | 1 => (s.spread i).parcel
    | 2 => (s.gang i).parcel
    | _ => 0
  checked c [0xC0000000, 0x00FF33FF] [(bad, cBadArg), (parcelFenced s p, cFenced)] s fun _ =>
    let key := match kind with
      | 0 => keyStation i
      | 1 => keySpread i
      | _ => keyGang i
    let stored := if kind = 2 then min (v / 4) 15 else min v 64
    let s0 := parityAll s (settingRegs s [key])
    let s1 := s0.modIsl fun x => { x with policy := tset 0 x.policy key stored }
    let s2 := match settingReg s1 key with
      | none => s1
      | some off =>
        let lo := if kind = 2 then 4 * (gangPos s1 i % 8) else if kind = 1 then 8 * (spreadPos s1 i % 4) else 8 * (rankPos s1 i % 4)
        let m : Word := at_ lo (if kind = 2 then 0xF else 0xFF)
        writeTuneWord s1 off ((tuneWord (s1.cell (offCell off)) (homeWord s1 key) &&& ~~~m) ||| at_ lo stored)
    { code := cOk, resp := [w32 (if kind = 2 then 4 * stored else stored)], st := s2 }

/-! ## SPREAD_DEFINE -/

/-- The stations of an 18-word bitmap from argument `i` on (R345). -/
def bitmapArg (c : Call) (i : Nat) : List Nat := (List.range 576).filter fun n => (c.arg (i + n / 32)).getLsbD (n % 32)
def allOnes (n : Nat) : List Word := List.replicate n 0xFFFFFFFF

/-- SPREAD_DEFINE (R173, R182, R349). -/
def cmdSpreadDefine (c : Call) (s : State) : Res :=
  let n := bits (c.arg 0) 0 8
  let p := bits (c.arg 1) 0 10
  let ms := bitmapArg c 2
  let x := s.spread n
  let old := decide (x.members ≠ [])
  let used := (s.spreads.filter fun y => decide (y.2.members ≠ []) && decide (y.2.parcel = p)).length
  checked c ([0xFF, 0x3FF] ++ allOnes 18)
    [ (decide (ms = []) || decide (ms.length > 64) || ms.any fun m => !stnExists s m, cBadArg)
    , (old && decide (x.parcel ≠ p), cBadArg)
    , (ms.any fun m => !inSet s p m, cDenied)
    , (parcelFenced s p, cFenced)
    , (!old && decide (used ≥ (if p = 0 then holdings s 256 (·.spreads) else (s.parcel p).spreads)), cNoResource) ] s fun _ =>
    { code := cOk, resp := [w32 ms.length], st := s.modSpread n fun y => { y with members := ms, parcel := p } }

/-! ## Gangs -/

/-- GANG_DEFINE without UNDEFINE (R234, R235, R352). -/
def cmdGangDefine (c : Call) (s : State) : Res :=
  let g := bits (c.arg 0) 0 10
  let off := (c.arg 0).getLsbD 16
  let p := bits (c.arg 1) 0 10
  let se := bits (c.arg 2) 0 20
  let de := bits (c.arg 3) 0 20
  let ns := bits (c.arg 4) 0 20
  let ms := bitmapArg c 5
  let x := s.gang g
  let used := (s.gangs.filter fun y => y.2.defined && decide (y.2.parcel = p)).length
  let crowd (m : Nat) : Bool := decide ((s.gangs.filter fun y => decide (y.1 ≠ g) && y.2.defined && y.2.offset && decide (m ∈ y.2.members)).length ≥ 4)
  checked c ([0x800303FF, 0x3FF, evidMask, evidMask, evidMask] ++ allOnes 18)
    [ (decide (ms = []) || ms.any fun m => !stnExists s m, cBadArg)
    , (if off then decide (ns < 100) else decide (ns ≠ 0), cBadArg)
    , (isInternal se || isInternal de, cBadArg)
    , (x.defined && decide (x.parcel ≠ p), cBadArg)
    , (off && s.queues.any fun q => q.2.bound && decide (q.2.route = .gang g) && decide (q.1 ≠ se), cBadArg)
    , (ms.any fun m => !inSet s p m, cDenied)
    , (parcelFenced s p, cFenced)
    , (off && ms.any crowd, cNoResource)
    , (!x.defined && decide (used ≥ (if p = 0 then holdings s 1024 (·.gangs) else (s.parcel p).gangs)), cNoResource) ] s fun _ =>
    { code := cOk, resp := [w32 ms.length]
      st := s.modGang g fun y => { y with defined := true, parcel := p, send := se, done := de, offset := off, offsetNs := BitVec.ofNat 20 ns, post := (c.arg 0).getLsbD 17, members := ms } }

/-- GANG_DEFINE with UNDEFINE (R352). -/
def cmdGangUndefine (c : Call) (s : State) : Res :=
  let g := bits (c.arg 0) 0 10
  checked c [0x800303FF]
    [ (!(s.gang g).defined, cBadArg)
    , (parcelFenced s (s.gang g).parcel, cFenced)
    , ((s.queues.any fun q => q.2.bound && decide (q.2.route = .gang g)) || (s.gathers.any fun r => decide (r.gang = g)) ||
       s.trains.any fun t => decide (t.gang = g), cBusy) ] s fun _ =>
    { code := cOk, st := s.modGang g fun _ => {} }

/-- The lowest free train number of a cell (R243, R352). -/
def freeTrain (s : State) (cell : Nat) : Option Nat :=
  (List.range 16).find? fun i => s.trains.all fun t => decide (t.cell ≠ cell) || decide (t.id ≠ i)

/-- The reason for which R244 denies a train: 0 for none. -/
def trainReason (s : State) (x : Gang) (t1 : Nat) : Nat :=
  let lead := s.mer.now.toNat + x.offsetNs.toNat + 10000
  if t1 < lead then 1
  else if s.mer.degraded then 2
  else if s.mer.estim ∧ t1 < lead + 1000 * s.mer.uncert.toNat then 3
  else if x.members.any fun n => decide (alignCode s (n / 48) ≠ 2) then 4 else 0

/-- GANG_RELEASE_AT (R243, R244, R352). -/
def cmdGangReleaseAt (c : Call) (s : State) : Res :=
  let g := bits (c.arg 0) 0 10
  let x := s.gang g
  let t1 := (mk64 (c.arg 2) (c.arg 1)).toNat
  let p := (c.arg 3).toNat
  let n := (c.arg 4).toNat
  let some' := decide (n ≠ 0)
  let why := if some' then trainReason s x t1 else 0
  let cell := gangCell s g
  let slot := cell.bind (freeTrain s)
  match firstFail
    [ (!zerosOk c [0x3FF, 0xFFFFFFFF, 0xFFFFFFFF, 0xFFFFFFFF, 0xFFFFFFFF, evidMask], cBadArg)
    , (!x.defined || !x.offset, cBadArg)
    , (!some' && (decide (c.arg 1 ≠ 0) || decide (c.arg 2 ≠ 0) || decide (c.arg 3 ≠ 0) || decide (c.arg 5 ≠ 0)), cBadArg)
    , (some' && (decide (x.send = 0) || isWired x.send || decide (p < 1000) || decide (p > 2 ^ 30) || decide (t1 > s.mer.now.toNat + 2 ^ 30)), cBadArg)
    , (decide (why ≠ 0), cDenied)
    , (parcelFenced s x.parcel, cFenced)
    , (some' && slot.isNone, cNoResource) ] with
  | some e => { code := e, resp := if e = cDenied then [w32 why] else [], st := s }
  | none =>
    if n = 0 then { code := cOk, resp := [0], st := { s with trains := s.trains.filter fun t => decide (t.gang ≠ g) } }
    else
      let id := slot.getD 0
      { code := cOk, resp := [w32 id]
        st := { s with trains := s.trains ++ [{ id := id, cell := cell.getD 0, gang := g, target := BitVec.ofNat 64 t1, period := BitVec.ofNat 64 p, left := n, payload := (c.arg 5).extractLsb' 0 20, secure := c.sec }] } }

/-! ## Rows -/

def form30 (n : Nat) (c : Call) : Bool := decide (bits (c.arg 0) 30 2 = n)
def bit31 (b : Bool) (c : Call) : Bool := (c.arg 0).getLsbD 31 == b

/-- QUEUE_BIND (R349). -/
def execQueueBind (b : Box) (s : State) : Ans := serveBox b 0x20 anyForm cmdQueueBind s
/-- QUEUE_UNBIND (R349). -/
def execQueueUnbind (b : Box) (s : State) : Ans := serveBox b 0x21 anyForm cmdQueueUnbind s
/-- QUEUE_SET (R349, R350). -/
def execQueueSet (b : Box) (s : State) : Ans := serveBox b 0x22 anyForm cmdQueueSet s
/-- ROUTE_SET, form 0; the value 3 in the form bits is answered here too (R351). -/
def execRouteSetQueue (b : Box) (s : State) : Ans := serveBox b 0x23 (fun c => form30 0 c || form30 3 c) cmdRouteQueue s
/-- ROUTE_SET, form 1 (R351). -/
def execRouteSetDieFallback (b : Box) (s : State) : Ans := serveBox b 0x23 (form30 1) cmdRouteDie s
/-- ROUTE_SET, form 2 (R351). -/
def execRouteSetReservation (b : Box) (s : State) : Ans := serveBox b 0x23 (form30 2) cmdRouteResv s
/-- SPREAD_DEFINE (R349). -/
def execSpreadDefine (b : Box) (s : State) : Ans := serveBox b 0x24 anyForm cmdSpreadDefine s
/-- GANG_DEFINE (R352). -/
def execGangDefine (b : Box) (s : State) : Ans := serveBox b 0x30 (bit31 false) cmdGangDefine s
/-- GANG_DEFINE with UNDEFINE (R352). -/
def execGangUndefine (b : Box) (s : State) : Ans := serveBox b 0x30 (bit31 true) cmdGangUndefine s
/-- GANG_RELEASE_AT (R352). -/
def execGangReleaseAt (b : Box) (s : State) : Ans := serveBox b 0x31 anyForm cmdGangReleaseAt s

end Sys2Proof.Machine
end

