-- ==== Sys2Proof/Machine/Parcels.lean ====
section
/-! DEFINITION. Parcels and contexts: the deed, the shares, the easement page, the fence, destruction and resize (R353, R361 to R366,
R379 to R382, R384 to R390), and the pool audit (R158). -/

namespace Sys2Proof.Machine

open Sys2Proof

/-! ## The easement page (R379 to R382) -/

/-- STATE of the status block (R380). -/
def parcelState (x : Parcel) : Word :=
  flag 0 (decide (x.st = .live)) ||| flag 1 (decide (x.st = .fenced)) ||| flag 2 x.overQ ||| flag 3 x.timeout ||| flag 4 x.destroyed |||
  flag 5 x.perf ||| flag 6 x.retry

/-- The words of bytes 0x000–0x0FF as they stand, with the SEQ of a whole block (R380, R382). -/
def statusWords (s : State) (p : Nat) (seq : Word) : List Word :=
  let x := s.parcel p
  let cs := parcelCtxs s p
  let resident := (cs.filter fun v => (s.ctx v).station.isSome).length
  [ seq, at_ 0 p ||| at_ 16 x.tag.toNat, parcelState x, x.resets, w32 x.used, w32 x.slots, w32 (parcelQueues s p).length
  , at_ 0 cs.length ||| at_ 16 resident, lo32 x.booked, hi32 x.booked, x.fTokens, x.fDoors, x.faults
  , at_ 0 x.lastFault.toNat ||| at_ 8 x.lastEvid, lo32 s.mer.now, hi32 s.mer.now, w32 x.resv ] ++ List.replicate 15 0 ++
  (List.range 32).map fun i => if x.perf then getW x.perfCnt (32 + i) else 0

/-- A write of the block that meets a memory master error: it is logged, and the next write shows it (R381). DESIGN CHOICE (log entry 82): the
256 bytes stay as they were, and SEQ still goes on by two. -/
def blockError (s : State) (p : Nat) : State :=
  let e := Config.easementError p
  let s1 : State := { s with ecc := s.ecc.filter fun z => decide (z.1 ≠ .page p) }
  let s2 := s1.modParcel p fun x => { x with retry := true, seq := x.seq + 2 }
  log (s2.modIsl fun x => { x with easement := x.easement.filter (· ≠ p) }) (Config.logCode e.1) 12 false e.2.1 e.2.2.1 e.2.2.2

/-- One whole write of the block (R381): SEQ is even again and two higher. A command's write fails where the page is marked so
(log entry 29). -/
def writeBlock (s : State) (p : Nat) : State :=
  if s.ecc.any fun z => decide (z.1 = .page p) then blockError s p
  else
    let q := (s.parcel p).seq + 2
    let s1 := s.modParcel p fun x => { x with seq := q, retry := false }
    let s2 : State := { s1 with mem := memWrite s1.mem (s.parcel p).page.toNat ((statusWords s p q).flatMap wordBytes) }
    s2.modIsl fun x => { x with easement := x.easement.filter (· ≠ p) }

/-- EASEMENT_STATUS_WRITE: the hub writes the block of a parcel whose fields have changed; an error is logged and shown by the
next write (R381). -/
def execEasementStatusWrite (parcel : Nat) (memOk : Bool) (s : State) : Ans :=
  if parcel ∉ s.isl.easement ∨ s.pwr.hubl ≠ .on then .next s
  else .next (if memOk then writeBlock s parcel else blockError s parcel)

/-! ## PARCEL_CREATE -/

/-- The parcel reservations in force, all together (R364). -/
def resvTotal (s : State) : Nat := s.parcels.foldl (fun n e => if e.2.st = .free then n else n + e.2.resv) 0

/-- A free number for ANY; which one is free value `Config.freeParcel` (log entry 6). -/
def anyParcel (s : State) : Option Nat :=
  let a := Config.freeParcel s.free
  ((List.range 1023).map fun i => (a + i) % 1023 + 1).find? fun p => decide ((s.parcel p).st = .free)

/-- The create counter after one creation (R362). -/
def nextTag (t : BitVec 16) : BitVec 16 := if t + 1 = 0 then 1 else t + 1

/-- The slots of a PAYLOAD list: `n` links from the head. -/
def listSlots (s : State) : Nat → Nat → List Nat
  | 0, _ => []
  | n + 1, h => h :: listSlots s n (s.slot h).link

/-- The slots that a bound queue reaches (R142). -/
def queueSlots (s : State) (q : Queue) : List Nat :=
  if !q.bound ∨ q.poisoned then []
  else match q.mode with
    | .payload => if q.count = 0 then [] else listSlots s q.count.toNat (headSlot s q)
    | .latest => [q.tail]
    | _ => []

/-- A bound queue comes into parcel `p` with the slots that it holds (R143, R353, R363). -/
def intoParcel (p : Nat) (s : State) (e : Nat) : State :=
  let q := s.queue e
  let ns := queueSlots s q
  let s1 := forAll s ns fun t n => t.setSlot n { t.slot n with parcel := p }
  let s2 := (s1.modParcel q.parcel fun x => { x with used := x.used - ns.length }).modParcel p fun x => { x with used := x.used + ns.length }
  let s3 := perfAdd s2 p 0x0B0 ((s2.parcel p).used - (getW (s2.parcel p).perfCnt (0x0B0 / 4)).toNat)
  s3.modQueue e fun x => { x with parcel := p }

/-- PARCEL_CREATE (R112, R353, R362 to R365, R394), with the descriptors of its range read (R155). -/
def cmdParcelCreate (c : Call) (s0 : State) : Res :=
  let any := (c.arg 0).getLsbD 31
  let named := bits (c.arg 0) 0 10
  let base := bits (c.arg 1) 0 20
  let count := bits (c.arg 2) 0 20
  let inRange (e : Nat) : Bool := decide (base ≤ e) && decide (e < base + count)
  let s := forAll s0 ((s0.queues.filter fun q => q.2.bound && inRange q.1).map (·.1)) descRead
  let slots := bits (c.arg 3) 0 22
  let ctxs := bits (c.arg 4) 0 15
  let resv := bits (c.arg 5) 0 8
  let gangs := bits (c.arg 6) 0 11
  let spreads := bits (c.arg 6) 16 9
  let ms := bitmapArg c 9
  let target := if any then anyParcel s else some named
  let excess (q : Nat × Parcel) : Bool := decide (q.2.st ≠ .free) && decide (base < q.2.base + q.2.count) && decide (q.2.base < base + count)
  let taken := s.queues.filter fun q => q.2.bound && inRange q.1
  let ctx0 := (s.ctxs.filter fun x => x.2.bound && decide (x.2.parcel = 0)).length
  let gang0 := (s.gangs.filter fun x => x.2.defined && decide (x.2.parcel = 0)).length
  let spread0 := (s.spreads.filter fun x => decide (x.2.members ≠ []) && decide (x.2.parcel = 0)).length
  checked c ([0x800003FF, evidMask, evidMask, 0x3FFFFF, 0x7FFF, 0x000100FF, 0x01FF07FF, 0xFFFFF000, 0xFFFFFFFF] ++ allOnes 18)
    [ (if any then decide (named ≠ 0) else decide (named = 0) || decide ((s.parcel named).st ≠ .free), cBadArg)
    , (decide (base % 64 ≠ 0) || decide (count % 64 ≠ 0) || decide (count < 64) || decide (base < 0x1040) || decide (base + count > 0xFFFC0), cBadArg)
    , (s.parcels.any excess, cBadArg)
    , (decide (slots > 2097152) || decide (ctxs > 16384) || decide (gangs > 1024) || decide (spreads > 256), cBadArg)
    , (ms.any fun m => !stnExists s m, cBadArg)
    , (taken.any fun q => !q.2.lockEn || q.2.secure, cDenied)
    , (target.isNone || decide (slots + (s.parcel 0).used > share s 0) || decide (ctxs + ctx0 > holdings s 16384 (·.ctxs)) ||
       decide (gangs + gang0 > holdings s 1024 (·.gangs)) || decide (spreads + spread0 > holdings s 256 (·.spreads)) ||
       decide (resvTotal s + resv > 8192), cNoResource) ] s fun _ =>
    let p := target.getD 0
    let tag := s.isl.createCnt
    let x : Parcel := { st := .live, tag := tag, base := base, count := count, slots := slots, ctxs := ctxs, resv := resv, perf := (c.arg 5).getLsbD 16,
                        gangs := gangs, spreads := spreads, page := mk64 (c.arg 8) (c.arg 7), stations := ms }
    let s1 := (s.modParcel p fun _ => x).modIsl fun y => { y with createCnt := nextTag y.createCnt }
    let s2 : State := { s1 with free := if any then s1.free + 1 else s1.free }
    let s3 := forAll s2 (taken.map (·.1)) (intoParcel p)
    { code := cOk, resp := [at_ 0 p ||| at_ 16 tag.toNat, c.arg 1, c.arg 2, c.arg 3, c.arg 4, c.arg 5, c.arg 6], st := writeBlock s3 p }

/-! ## The fence -/

/-- A deed names a parcel that exists and carries its tag (R353, R362). -/
def deedOk (s : State) (p : Nat) (tag : Nat) : Bool :=
  if p = 0 then decide (tag = 0) else decide ((s.parcel p).st ≠ .free) && decide ((s.parcel p).tag.toNat = tag)

/-- A message of one of the parcel's queues, other than a claim's data, which the claiming page still waits for; a SEND_GANG on its way is one of the
queue of its gang's SEND_EVID. -/
def msgOf (s : State) (p : Nat) : Msg → Bool
  | .event t =>
    let e := match t.gang with | some g => (s.gang g).send | none => t.evid
    decide ((s.queue e).bound) && decide ((s.queue e).parcel = p)
  | .memberDone _ e _ _ => decide ((s.queue e).parcel = p)
  | _ => false

/-- Step 4 of R384 on one queue: IDLE with COUNT = 0; its slots return to the parcel's share; a LATEST slot stays. DESIGN CHOICE (log entry
80): STAMP_SET and FIRST_STAMP, which the rule does not list, stay as they are. -/
def fenceQueue (s0 : State) (e : Nat) : State :=
  let s := descRead s0 e
  let s1 := purge (orphan (killRecs (withdraw s e) e rFenced) e) e
  let q := s1.queue e
  let s2 := if q.mode = .payload then unlinkAll s1 e q.count.toNat else s1
  s2.modQueue e fun x => { x with state := .idle, count := 0, ovf := false, fbw := false, aged := false, activeN := 0, holders := [], recalled := false, heldFor := none, cached := [], parked := false, slotTaken := false, due := [] }

/-- A context of a fenced parcel: recorded candidates, SPILL and announcement go; the stack of a resident vCPU is emptied (R384,
R385). -/
def fenceCtx (s : State) (v : Nat) : State :=
  s.modCtx v fun x =>
    let y := { x with
      cands := [], spill := false, announced := false, counted := false, changed := x.changed || decide (x.cands ≠ []) || x.spill || x.announced }
    if x.station.isSome then
      { y with voided := y.voided ++ (y.g.stack.map (·.evid)), g := { y.g with stack := [], seats := [] } }
    else y

/-- A fence asks the cell: one of the hub or of an outpost that is not lost or off (R384), one whose link retrains too (R386). -/
def fenceAsks (s : State) (c : Nat) : Bool :=
  decide (c < 768) || (decide (c < 1536) && populated s (unitOf c) && !dieAway s (unitOf c))

/-- Steps 1, 3 and 4 of R384, for the cells that acknowledge; the tokens discarded, field-book records among them (R388), and the slots
returned. DESIGN CHOICE (log entry 81): what a rank or delivery cell that does not acknowledge holds of a queue goes with the queue where its
ledger cell acknowledges, and a virtual stack with its context where the context cell does. -/
def fence (s : State) (p : Nat) (silent : List Nat) : Nat × Nat × State :=
  let acked (c : Option Nat) : Bool := match c with | none => true | some n => decide (n ∉ silent)
  let s1 := touch (s.modParcel p fun x => { x with st := .fenced, fDoors := if x.st = .fenced then x.fDoors else 0 }) p
  let qs := (parcelQueues s1 p).filter fun e => acked (ledgerCell s1 e)
  let s2 := forAll s1 qs settleReports
  let flying := (s2.net.filter fun m => match m.msg with | .event _ => msgOf s2 p m.msg | _ => false).length
  let held := s2.cells.filter fun x => match x.2.ledgerHold with | some t => decide (t.evid ∈ qs) | none => false
  let s3 := forAll (dropMsgs s2 (msgOf s2 p)) (held.map (·.1)) fun t c => t.modCell c fun x => { x with ledgerHold := none, holdRep := false }
  let waiting := qs.foldl (fun n e => n + waitingCount (s3.queue e) + ((fbOf s3 e).filter fun r => decide (r.dead = 0)).length) 0
  let used := (s3.parcel p).used
  let s4 := forAll s3 qs fenceQueue
  let s5 := forAll s4 ((parcelCtxs s4 p).filter fun v => acked (contextCell s4 v)) fenceCtx
  let s6 : State := { s5 with trains := s5.trains.filter fun t => decide ((s5.gang t.gang).parcel ≠ p) }
  (flying + held.length + waiting, used - (s6.parcel p).used, reqWatchAll s (answerHeld (freeIntakes s (settleStations s s6 (tkeys s6.stns)))))

/-- Step 2 of R384: the block is written with FENCED = 1. -/
def fenceBegin (s : State) (p : Nat) : State :=
  writeBlock (s.modParcel p fun x => { x with st := .fenced, fDoors := if x.st = .fenced then x.fDoors else 0 }) p

/-- A fence that some cells do not acknowledge by its bound (R386). -/
def fenceFails (s : State) (p : Nat) (silent : List Nat) : State :=
  let r := fence (fenceBegin s p) p silent
  let s1 := raise (r.2.2.modParcel p fun x => { x with timeout := true, fTokens := w32 r.1 }) 0x0E 12 false (w32 p) (w32 (silent.foldl min 0x7FF)) (w32 silent.length) none
  writeBlock s1 p

/-- PARCEL_RESET where every cell acknowledges (R353, R384, R385). The two status block writes of the fence are made. -/
def cmdParcelReset (c : Call) (s : State) : Res :=
  let p := bits (c.arg 0) 0 10
  checked c [0xFFFF03FF] [ (!deedOk s p (bits (c.arg 0) 16 16), cBadArg), (decide (p = 0), cDenied) ] s fun _ =>
    let s0 := fenceBegin s p
    let r := fence s0 p []
    let s1 := r.2.2.modParcel p fun x => { x with st := .live, timeout := false, resets := satInc x.resets, fTokens := w32 r.1 }
    { code := cOk, resp := [w32 r.1, w32 r.2.1, (s1.parcel p).fDoors], st := writeBlock s1 p }

/-! ## PARCEL_DESTROY -/

/-- Slots that a poisoned queue of the parcel has lost count against parcel 0, to which the share goes back, until the audit returns them (R143,
R158, R387). -/
def lostToZero (s : State) (p : Nat) : State :=
  let ns := (s.pool.filter fun x => x.2.used && decide (x.2.parcel = p)).map (·.1)
  ((forAll s ns fun t n => t.setSlot n { t.slot n with parcel := 0 }).modParcel p fun x => { x with used := x.used - ns.length, slots := 0, owed := 0, resv := 0 }).modParcel 0
    fun x => { x with used := x.used + ns.length }

/-- The final step of R387: every share is back at parcel 0 when the final block is written. -/
def dissolve (s : State) (p : Nat) : State :=
  let s1 := lostToZero (forAll s (parcelQueues s p) fun t e => unbind t e rFenced) p
  let s2 : State := { s1 with
    ctxs := s1.ctxs.filter fun x => decide (x.2.parcel ≠ p)
    gangs := s1.gangs.filter fun x => decide (x.2.parcel ≠ p)
    spreads := s1.spreads.filter fun x => decide (x.2.parcel ≠ p)
    places := s1.places.filter fun x => decide ((s1.spread x.set).parcel ≠ p)
    resv := s1.resv.filter fun x => decide (x.1 ≠ keyParcel p) }
  let s3 := writeBlock (s2.modParcel p fun x => { x with st := .free, destroyed := true }) p
  (s3.modParcel p fun _ => {}).modIsl fun x => { x with easement := x.easement.filter (· ≠ p) }

/-- PARCEL_DESTROY where every cell acknowledges (R353, R387). -/
def cmdParcelDestroy (c : Call) (s : State) : Res :=
  let p := bits (c.arg 0) 0 10
  checked c [0xFFFF03FF]
    [ (!deedOk s p (bits (c.arg 0) 16 16), cBadArg), (decide (p = 0), cDenied)
    , ((parcelCtxs s p).any fun v => (s.ctx v).station.isSome, cBusy) ] s fun _ =>
    let s0 := fenceBegin s p
    let n := (parcelQueues s0 p).length
    let used := (s0.parcel p).used
    let r := fence s0 p []
    let s1 := forAll (r.2.2.modParcel p fun x => { x with timeout := false, fTokens := w32 r.1 }) (parcelQueues r.2.2 p) fun t e => unbind t e rFenced
    { code := cOk, resp := [w32 n, w32 (used - (s1.parcel p).used)], st := dissolve s1 p }

/-- FENCE_ACK_TIMEOUT: a cell has not acknowledged the fence of the waiting PARCEL_RESET or PARCEL_DESTROY (R386). -/
def cmdFenceTimeout (silent : List Nat) (destroys : Bool) (c : Call) (s : State) : Res :=
  let p := bits (c.arg 0) 0 10
  let cs := silent.filter (fenceAsks s)
  checked c [0xFFFF03FF]
    [ (!deedOk s p (bits (c.arg 0) 16 16), cBadArg), (decide (p = 0), cDenied)
    , (destroys && (parcelCtxs s p).any fun v => (s.ctx v).station.isSome, cBusy) ] s fun _ =>
    { code := cFenceTimeout, st := fenceFails s p cs }

/-! ## PARCEL_RESIZE -/

/-- PARCEL_RESIZE (R353, R389, R390). -/
def cmdParcelResize (c : Call) (s : State) : Res :=
  let p := bits (c.arg 0) 0 10
  let slots := bits (c.arg 1) 0 22
  let resv := bits (c.arg 2) 0 8
  let x := s.parcel p
  checked c [0xFFFF03FF, 0x3FFFFF, 0xFF]
    [ (!deedOk s p (bits (c.arg 0) 16 16), cBadArg), (decide (slots > 2097152), cBadArg)
    , (decide (p = 0), cDenied), (parcelFenced s p, cFenced)
    , (decide (slots > x.slots + x.owed + (share s 0 - (s.parcel 0).used)) || decide (resvTotal s - x.resv + resv > 8192), cNoResource) ] s fun _ =>
    let small := decide (slots < x.used)
    let s0 := if small then forAll s (parcelQueues s p) descRead else s
    let qs := (parcelQueues s0 p).filter fun e => decide ((s0.queue e).mode = .payload) && !(s0.queue e).poisoned
    let s1 := s0.modParcel p fun y => { y with slots := slots, resv := resv, owed := if small then y.used - slots else 0, overQ := small || y.overQ }
    let s2 := if small then forAll s1 qs fun t e => t.modQueue e fun q => { q with overQ := true } else quotaCheck s1 p
    { code := cOk, resp := [if small then w32 qs.length else 0], st := touch s2 p }

/-! ## VCTX_BIND -/

/-- VCTX_BIND without UNBIND (R51, R353, R366). -/
def cmdVctxBind (c : Call) (s : State) : Res :=
  let v := bits (c.arg 0) 0 14
  let p := bits (c.arg 1) 0 10
  let home := bits (c.arg 2) 0 10
  checked c [0x80003FFF, 0xFFFF03FF, 0x00FF03FF]
    [ (!deedOk s p (bits (c.arg 1) 16 16) || (s.ctx v).bound || !stnExists s home, cBadArg)
    , (!inSet s p home, cDenied)
    , (parcelFenced s p, cFenced)
    , (decide (v ≥ ctxCapacity s) || decide ((parcelCtxs s p).length ≥ (if p = 0 then holdings s 16384 (·.ctxs) else (s.parcel p).ctxs)), cNoResource) ] s fun _ =>
    let x : Ctx := { bound := true, home := home, parcel := p, dbRank := (c.arg 2).extractLsb' 16 8 }
    { code := cOk, st := touch (sendReOffer (s.setCtx v x) 12 (contextCell s v) (.context v)) p }

/-- VCTX_BIND with UNBIND, which succeeds for a poisoned context (R366, R479). -/
def cmdVctxUnbind (c : Call) (s : State) : Res :=
  let v := bits (c.arg 0) 0 14
  let p := bits (c.arg 1) 0 10
  let x := s.ctx v
  checked c [0x80003FFF, 0xFFFF03FF]
    [ (!deedOk s p (bits (c.arg 1) 16 16) || !x.bound || decide (x.parcel ≠ p), cBadArg)
    , (parcelFenced s p, cFenced)
    , (!x.poisoned && (x.station.isSome || decide (x.cands ≠ []) || decide (x.g.stack ≠ [])), cBusy) ] s fun _ =>
    { code := cOk, st := touch (s.setCtx v {}) p }

/-! ## Pool audit -/

/-- The audit reads every slot of every bound list, where it may find an error (R157, R158). -/
def auditQueue (s0 : State) (e : Nat) : State :=
  let s := descRead s0 e
  forAll s (queueSlots s (s.queue e)) fun t n =>
    let r := strike t (.slot n) e (ledgerCell t e)
    if r.1 then poison r.2 e else r.2

/-- POOL_AUDIT_DONE: every slot that is neither free nor reachable returns to its parcel's share, with one log entry (R158). -/
def execPoolAuditDone (s : State) : Ans :=
  match s.isl.auditFor with
  | [] => .next s
  | p :: rest =>
    let s1 := forAll s (tkeys s.queues) auditQueue
    let live := s1.queues.flatMap fun x => queueSlots s1 x.2
    let lost := (s1.pool.filter fun x => x.2.used && decide (x.1 ∉ live)).map (·.1)
    let s2 := forAll s1 lost poolFreeSlot
    .next (log (s2.modIsl fun x => { x with auditFor := rest }) 0x87 13 false (w32 p) (w32 lost.length) 0)

/-! ## Rows -/

/-- PARCEL_CREATE (R353). -/
def execParcelCreate (b : Box) (s : State) : Ans := serveBox b 0x40 anyForm cmdParcelCreate s
/-- PARCEL_DESTROY (R353, R387). -/
def execParcelDestroy (b : Box) (s : State) : Ans := serveBox b 0x41 anyForm cmdParcelDestroy s
/-- PARCEL_RESET (R353, R384). -/
def execParcelReset (b : Box) (s : State) : Ans := serveBox b 0x42 anyForm cmdParcelReset s
/-- PARCEL_RESIZE (R353, R389, R390). -/
def execParcelResize (b : Box) (s : State) : Ans := serveBox b 0x43 anyForm cmdParcelResize s
/-- VCTX_BIND (R353, R366). -/
def execVctxBind (b : Box) (s : State) : Ans := serveBox b 0x44 (bit31 false) cmdVctxBind s
/-- VCTX_BIND with UNBIND (R353, R366). -/
def execVctxUnbind (b : Box) (s : State) : Ans := serveBox b 0x44 (bit31 true) cmdVctxUnbind s
/-- FENCE_ACK_TIMEOUT (R386). -/
def execFenceAckTimeout (b : Box) (cells : List Nat) (s : State) : Ans :=
  if cells.filter (fenceAsks s) = [] then .next s
  else if (s.mbx b).op = 0x41 then serveBox b 0x41 anyForm (cmdFenceTimeout cells true) s
  else serveBox b 0x42 anyForm (cmdFenceTimeout cells false) s

end Sys2Proof.Machine
end

