-- ==== Sys2Proof/Machine/Signature.lean ====
section
/-! DEFINITION. The SHA-384 engine and the P-384 signature verifier of the island (R357, R438, R442, R407). The spec names the two
algorithms and gives neither; they are taken as FIPS 180-4 and FIPS 186-4 define them (PRESUMED, log entry 38). -/

namespace Sys2Proof.Machine

open Sys2Proof

/-! ## SHA-384 -/

/-- The round constants and the initial hash value. -/
def shaK : List (BitVec 64) :=
  [0x428A2F98D728AE22, 0x7137449123EF65CD, 0xB5C0FBCFEC4D3B2F, 0xE9B5DBA58189DBBC,
   0x3956C25BF348B538, 0x59F111F1B605D019, 0x923F82A4AF194F9B, 0xAB1C5ED5DA6D8118,
   0xD807AA98A3030242, 0x12835B0145706FBE, 0x243185BE4EE4B28C, 0x550C7DC3D5FFB4E2,
   0x72BE5D74F27B896F, 0x80DEB1FE3B1696B1, 0x9BDC06A725C71235, 0xC19BF174CF692694,
   0xE49B69C19EF14AD2, 0xEFBE4786384F25E3, 0x0FC19DC68B8CD5B5, 0x240CA1CC77AC9C65,
   0x2DE92C6F592B0275, 0x4A7484AA6EA6E483, 0x5CB0A9DCBD41FBD4, 0x76F988DA831153B5,
   0x983E5152EE66DFAB, 0xA831C66D2DB43210, 0xB00327C898FB213F, 0xBF597FC7BEEF0EE4,
   0xC6E00BF33DA88FC2, 0xD5A79147930AA725, 0x06CA6351E003826F, 0x142929670A0E6E70,
   0x27B70A8546D22FFC, 0x2E1B21385C26C926, 0x4D2C6DFC5AC42AED, 0x53380D139D95B3DF,
   0x650A73548BAF63DE, 0x766A0ABB3C77B2A8, 0x81C2C92E47EDAEE6, 0x92722C851482353B,
   0xA2BFE8A14CF10364, 0xA81A664BBC423001, 0xC24B8B70D0F89791, 0xC76C51A30654BE30,
   0xD192E819D6EF5218, 0xD69906245565A910, 0xF40E35855771202A, 0x106AA07032BBD1B8,
   0x19A4C116B8D2D0C8, 0x1E376C085141AB53, 0x2748774CDF8EEB99, 0x34B0BCB5E19B48A8,
   0x391C0CB3C5C95A63, 0x4ED8AA4AE3418ACB, 0x5B9CCA4F7763E373, 0x682E6FF3D6B2B8A3,
   0x748F82EE5DEFB2FC, 0x78A5636F43172F60, 0x84C87814A1F0AB72, 0x8CC702081A6439EC,
   0x90BEFFFA23631E28, 0xA4506CEBDE82BDE9, 0xBEF9A3F7B2C67915, 0xC67178F2E372532B,
   0xCA273ECEEA26619C, 0xD186B8C721C0C207, 0xEADA7DD6CDE0EB1E, 0xF57D4F7FEE6ED178,
   0x06F067AA72176FBA, 0x0A637DC5A2C898A6, 0x113F9804BEF90DAE, 0x1B710B35131C471B,
   0x28DB77F523047D84, 0x32CAAB7B40C72493, 0x3C9EBE0A15C9BEBC, 0x431D67C49C100D4C,
   0x4CC5D4BECB3E42B6, 0x597F299CFC657E2A, 0x5FCB6FAB3AD6FAEC, 0x6C44198C4A475817]

def shaInit : List (BitVec 64) :=
  [0xCBBB9D5DC1059ED8, 0x629A292A367CD507, 0x9159015A3070DD17, 0x152FECD8F70E5939,
   0x67332667FFC00B31, 0x8EB44A8768581511, 0xDB0C2E0D64F98FA7, 0x47B5481DBEFA4FA4]

/-- One round: the eight working variables and the sixteen words of the schedule in sight, with its constant. -/
def shaRound (st : List (BitVec 64) × List (BitVec 64)) (k : BitVec 64) : List (BitVec 64) × List (BitVec 64) :=
  let v (i : Nat) : BitVec 64 := (st.1[i]?).getD 0
  let w (i : Nat) : BitVec 64 := (st.2[i]?).getD 0
  let e := v 4
  let a := v 0
  let t1 := v 7 + (e.rotateRight 14 ^^^ e.rotateRight 18 ^^^ e.rotateRight 41) + ((e &&& v 5) ^^^ (~~~e &&& v 6)) + k + w 0
  let t2 := (a.rotateRight 28 ^^^ a.rotateRight 34 ^^^ a.rotateRight 39) + ((a &&& v 1) ^^^ (a &&& v 2) ^^^ (v 1 &&& v 2))
  let next := ((w 14).rotateRight 19 ^^^ (w 14).rotateRight 61 ^^^ (w 14 >>> 6)) + w 9 +
    ((w 1).rotateRight 1 ^^^ (w 1).rotateRight 8 ^^^ (w 1 >>> 7)) + w 0
  ([t1 + t2, a, v 1, v 2, v 3 + t1, e, v 5, v 6], st.2.drop 1 ++ [next])

/-- Bytes as one number, most significant first. -/
def bytesNum (bs : List (BitVec 8)) : Nat := bs.foldl (fun a b => a * 256 + b.toNat) 0

/-- One block of 128 bytes. -/
def shaBlock (h : List (BitVec 64)) (bs : List (BitVec 8)) : List (BitVec 64) :=
  let ws := (List.range 16).map fun i => BitVec.ofNat 64 (bytesNum ((bs.drop (8 * i)).take 8))
  List.zipWith (· + ·) h (shaK.foldl shaRound (h, ws)).1

/-- The padding of a message of `n` bytes. -/
def shaPad (n : Nat) : List (BitVec 8) :=
  [0x80] ++ List.replicate ((239 - n % 128) % 128) 0 ++ (List.range 16).map fun i => BitVec.ofNat 8 (8 * n / 256 ^ (15 - i))

/-- The SHA-384 digest of a byte string: the first six words of the hash. -/
def sha384 (bs : List (BitVec 8)) : BitVec 384 :=
  let m := bs ++ shaPad bs.length
  let h := (List.range (m.length / 128)).foldl (fun h i => shaBlock h ((m.drop (128 * i)).take 128)) shaInit
  (h.take 6).foldl (fun a w => (a <<< 64) ||| w.zeroExtend 384) 0

/-! ## ECDSA on P-384 -/

/-- The field's prime, the order of the base point, the curve's b and the base point. -/
def p384 : Nat := 2 ^ 384 - 2 ^ 128 - 2 ^ 96 + 2 ^ 32 - 1
def p384Order : Nat := 0xFFFFFFFFFFFFFFFFFFFFFFFFFFFFFFFFFFFFFFFFFFFFFFFFC7634D81F4372DDF581A0DB248B0A77AECEC196ACCC52973
def p384B : Nat := 0xB3312FA7E23EE7E4988E056BE3F82D19181D9C6EFE8141120314088F5013875AC656398D8A2ED19D2A85C8EDD3EC2AEF
def p384X : Nat := 0xAA87CA22BE8B05378EB1C71EF320AD746E1D3B628BA79B9859F741E082542A385502F25DBF55296C3A545E3872760AB7
def p384Y : Nat := 0x3617DE4A96262C6F5D9E98BF9292DC29F8F41DBD289A147CE9DA3113B5F0B8C00A60B1CE1D7E819D7A431D7C90EA0E5F

/-- A power modulo `m`, by the low `n` bits of the exponent from its bit `n` − 1 down. -/
def powMod (m x e : Nat) : Nat → Nat
  | 0 => 1
  | n + 1 =>
    let y := powMod m x (e / 2) n
    y * y % m * (if e % 2 = 1 then x else 1) % m
/-- The inverse modulo a prime below 2³⁸⁴. -/
def invMod (m x : Nat) : Nat := powMod m x (m - 2) 384

/-- A point in Jacobian coordinates: x is X / Z², y is Y / Z³; Z = 0 is the point at infinity. -/
abbrev Point := Nat × Nat × Nat

def subMod (a b : Nat) : Nat := (a + (p384 - b % p384)) % p384

/-- Twice a point (the curve's a is −3). -/
def pointDouble (q : Point) : Point :=
  let (x, y, z) := q
  let zz := z * z % p384
  let yy := y * y % p384
  let s := 4 * x * yy % p384
  let m := 3 * subMod x zz * (x + zz) % p384
  let x3 := subMod (m * m) (2 * s)
  (x3, subMod (m * subMod s x3) (8 * yy * yy), 2 * y * z % p384)

/-- The sum of two points. -/
def pointAdd (q r : Point) : Point :=
  let (x1, y1, z1) := q
  let (x2, y2, z2) := r
  if z1 = 0 then r else if z2 = 0 then q
  else
    let zz1 := z1 * z1 % p384
    let zz2 := z2 * z2 % p384
    let u1 := x1 * zz2 % p384
    let u2 := x2 * zz1 % p384
    let s1 := y1 * z2 * zz2 % p384
    let s2 := y2 * z1 * zz1 % p384
    if u1 = u2 then (if s1 = s2 then pointDouble q else (1, 1, 0))
    else
      let h := subMod u2 u1
      let d := subMod s2 s1
      let hh := h * h % p384
      let hhh := h * hh % p384
      let v := u1 * hh % p384
      let x3 := subMod (d * d) (hhh + 2 * v)
      (x3, subMod (d * subMod v x3) (s1 * hhh), h * z1 * z2 % p384)

/-- a G + b Q, by the bits below `n` of the factors, most significant first. -/
def pointMul (a b : Nat) (q : Point) : Nat → Point
  | 0 => (1, 1, 0)
  | n + 1 => pointMul (a / 2) (b / 2) q n |> pointDouble
      |> (fun r => if a % 2 = 1 then pointAdd r (p384X, p384Y, 1) else r)
      |> (fun r => if b % 2 = 1 then pointAdd r q else r)

/-- The signature (r, s) of a digest verifies under a public key, whose bytes are those of x and then of y, most significant first. A key
that is no point of the curve verifies nothing. -/
def ecdsaVerify (key : BitVec 768) (digest r s : BitVec 384) : Bool :=
  let x := key.toNat / 2 ^ 384
  let y := key.toNat % 2 ^ 384
  let onCurve := decide (x < p384) && decide (y < p384) && decide (y * y % p384 = subMod (x * x * x + p384B) (3 * x))
  let inRange (v : BitVec 384) : Bool := decide (1 ≤ v.toNat) && decide (v.toNat < p384Order)
  let w := invMod p384Order s.toNat
  let q := pointMul (digest.toNat * w % p384Order) (r.toNat * w % p384Order) (x, y, 1) 384
  let zi := invMod p384 q.2.2
  onCurve && inRange r && inRange s && decide (q.2.2 ≠ 0) && decide (q.1 * zi % p384 * zi % p384 % p384Order = r.toNat)

end Sys2Proof.Machine
end

