-- ==== Sys2Proof/Machine/Island.lean ====
section
/-! DEFINITION. The management island: the benchmark set (R272, R355, R450 to R453), the Monument log as LOG_READ shows it (R356, R454),
firmware slots (R357, R440 to R447), the debug gate and its certificates (R359, R406 to R409). -/

namespace Sys2Proof.Machine

open Sys2Proof

/-! ## Benchmark set -/

/-- ORIGIN and WRITE_COUNT (R450). -/
def benchOrigin (s : State) : Nat := bits (benchWord s 4) 16 16
def benchCount (s : State) : Word := benchWord s 0xC

def benchPut (s : State) (i : Nat) (w : Word) : State := s.modIsl fun x => { x with bench := putW x.bench i w }

/-- CRC-32C of bytes 0x0020–0xFFFF of the set (R450). -/
def benchCrc (s : State) : Word := crc32c ((List.range 16376).flatMap fun i => wordBytes (getW s.isl.bench (8 + i)))

/-- The set is valid (R451). -/
def setValid (s : State) : Bool :=
  decide (benchWord s 0 = 0x4B524D42) && decide (bits (benchWord s 4) 0 16 = 1) && decide (benchWord s 0x10 = lo32 s.isl.deviceId) &&
  decide (benchWord s 0x14 = hi32 s.isl.deviceId) && !s.isl.benchPend && decide (benchWord s 8 = benchCrc s)

/-- The set is found invalid: the defaults are in use, and BENCHMARK_DEFAULTS is raised (R453, R477). -/
def benchInvalid (s : State) (why : Nat) : State :=
  raise (s.modIsl fun x => { x with defaults := true }) 0x14 13 false (w32 why) (w32 (benchOrigin s)) (benchCount s) none

/-- The same while the device runs: every cell takes the default coefficient (R273, R453). -/
def benchDefaults (s : State) (why : Nat) : State := forAll (benchInvalid s why) (List.range 1536) writeRod

/-- Wairo checks the set at a boot (R451, R453); cells that run take the defaults then (R273), those that are off as they come up. -/
def benchBoot (s : State) : State :=
  if setValid s then s.modIsl fun x => { x with defaults := false }
  else if s.pwr.hubl = .on then benchDefaults s 0 else benchInvalid s 0

/-- BENCHMARK_READ (R355). -/
def cmdBenchmarkRead (c : Call) (s : State) : Res :=
  let off := bits (c.arg 0) 0 16
  let n := bits (c.arg 0) 16 5
  checked c [0x1FFFFF] [ (decide (off % 4 ≠ 0) || decide (n = 0) || decide (n > 28) || decide (off + 4 * n > 0x10000), cBadArg) ] s fun _ =>
    { code := cOk, resp := (List.range n).map fun j => getW s.isl.bench (off / 4 + j), st := s }

/-- The words that Wairo alone writes (R450). -/
def benchOwn (i : Nat) : Bool := decide (i < 2) || (decide (3 ≤ i) && decide (i < 8))

/-- The data of a BENCHMARK_WRITE go into the set; the first that changes it marks a write as pending (R450, R451). -/
def benchStore (s : State) (i : Nat) (ws : List Word) : State :=
  let js := (List.range ws.length).filter fun j => !benchOwn (i + j)
  let w (j : Nat) : Word := (ws[j]?).getD 0
  let change := js.any fun j => decide (getW s.isl.bench (i + j) ≠ w j)
  if !change then s
  else
    let s1 := forAll s js fun t j => benchPut t (i + j) (w j)
    let s2 := benchPut (benchPut s1 1 (benchWord s1 4 ||| at_ 16 1)) 3 (benchCount s1 + 1)
    let s3 := log s2 0x8A 13 false 0 (w32 (4 * i)) (w32 ws.length)
    if s3.isl.benchPend then s3 else benchDefaults (s3.modIsl fun x => { x with benchPend := true }) 1

/-- A FINISH (R355, R451): whether the check passes. -/
def benchFinish (s : State) : Bool × State :=
  let s1 := log s 0x8A 13 false 1 0 0
  if setValid (s1.modIsl fun x => { x with benchPend := false }) then
    let s2 := s1.modIsl fun x => { x with benchPend := false, defaults := false }
    (true, forAll s2 (List.range 1536) writeRod)
  else (false, benchDefaults s1 2)

/-- BENCHMARK_WRITE (R40, R337, R355, R450, R451). -/
def cmdBenchmarkWrite (c : Call) (s : State) : Res :=
  let off := bits (c.arg 0) 0 16
  let n := bits (c.arg 0) 16 5
  let fin := (c.arg 0).getLsbD 31
  let ws := (List.range n).map fun j => c.arg (1 + j)
  let policy := ws[(0x20 - off) / 4]?
  let low := decide (off ≤ 0x20) && (match policy with | some w => decide (bits w 0 10 < 0x050) | none => false)
  checked c ([0x801FFFFF] ++ allOnes n)
    [ (!c.sec, cDenied)
    , (decide (off % 4 ≠ 0) || decide (n > 28) || decide (off + 4 * n > 0x10000) || (decide (n = 0) && !fin), cBadArg)
    , (low, cDenied) ] s fun _ =>
    let s1 := if n = 0 then s else benchStore s (off / 4) ws
    if fin then
      let r := benchFinish s1
      if r.1 then { code := cOk, resp := [1], st := r.2 } else { code := cBadArg, st := r.2 }
    else { code := cOk, resp := [flag 0 (setValid s1)], st := s1 }

/-- A captured value is refused outside 0.5 to 1.6 times the built-in default (R272). -/
def captureOk (v : BitVec 16) : Bool := decide (450 ≤ v.toNat) && decide (v.toNat ≤ 1440)

/-- One captured coefficient: the entry of the cell's physical cell, and the register with parity, which keeps the default while the set is
invalid (R272, R273, R451). -/
def captureCell (s : State) (c : Nat) (v : BitVec 16) : State :=
  let p := physOf s c
  let i := (0x1000 + 2 * p) / 4
  let old := getW s.isl.bench i
  let s1 := benchPut s i (if p % 2 = 0 then (old &&& 0xFFFF0000) ||| at_ 0 v.toNat else (old &&& 0xFFFF) ||| at_ 16 v.toNat)
  let co := if s.isl.defaults then defaultCoef else v
  speedJudge s (journalPut (parityClear (s1.modCell c fun x => { x with coef := co, safeCoef := false }) (cellBase c + 0x100)) (cellBase c + 0x100)
    (at_ 0 co.toNat))

/-- A range of cells names one of an absent outpost (R23). -/
def unitsAbsent (s : State) (first n : Nat) : Bool :=
  (List.range 12).any fun k => !populated s k && decide (first < unitFirst k + 64) && decide (unitFirst k < first + n)

/-- BENCHMARK_CAPTURE: after it INTEGRITY is rewritten, unless that alone would make an invalid set valid (R451). It takes the coefficients that the test tokens measure, first cell first (R272, R355, R451). -/
def cmdBenchmarkCapture (measured : List (BitVec 16)) (c : Call) (s : State) : Res :=
  let first := bits (c.arg 0) 0 11
  let n := bits (c.arg 1) 0 11
  checked c [0x7FF, 0x7FF] [ (!c.sec, cDenied), (decide (n = 0) || decide (first + n > 1536) || unitsAbsent s first n, cBadArg) ] s fun _ =>
    let v (i : Nat) : BitVec 16 := (measured[i]?).getD 0
    let good := (List.range n).filter fun i => captureOk (v i)
    let bad := (List.range n).filter fun i => !captureOk (v i)
    let s1 := forAll s good fun t i => captureCell t (first + i) (v i)
    let s2 := if good = [] then s1
      else
        let t := benchPut (benchPut s1 1 (benchWord s1 4 ||| at_ 16 2)) 3 (benchCount s1 + 1)
        let u := benchPut t 2 (benchCrc t)
        if s.isl.defaults && setValid u then t else u
    { code := cOk, resp := [w32 good.length, w32 bad.length, w32 (match bad with | [] => 0x7FF | i :: _ => first + i)]
      st := log s2 0x8A 13 false 2 (w32 first) (w32 n) }

/-! ## The Monument log -/

/-- The words of an entry before CHECK (R454). -/
def logWords (e : LogEntry) : List Word :=
  [ e.no, lo32 e.mer, hi32 e.mer
  , at_ 0 e.code.toNat ||| at_ 8 e.unit.toNat ||| flag 16 e.secure ||| flag 17 e.est ||| flag 18 e.deg ||| flag 19 e.agg
  , e.arg0, e.arg1, e.arg2 ]

/-- An entry as its 32 bytes show it, with CHECK over the 28 bytes (R454). -/
def logEntryWords (e : LogEntry) : List Word := logWords e ++ [crc32c ((logWords e).flatMap wordBytes)]

/-- An entry whose arguments a reader may not see (R356, R460). -/
def hideArgs (e : LogEntry) (hide : Bool) : LogEntry := if hide && e.secure then { e with arg0 := 0, arg1 := 0, arg2 := 0 } else e

/-- LOG_READ (R356, R408). -/
def cmdLogRead (c : Call) (s : State) : Res :=
  let n := bits (c.arg 1) 0 2
  checked c [0xFFFFFFFF, 3] [ (decide (n = 0), cBadArg) ] s fun _ =>
    let hide := !c.sec && !s.isl.scope.getLsbD 4
    let es := (s.isl.log.filter fun e => decide ((c.arg 0).toNat ≤ e.no.toNat)).take n
    let first := match es with | e :: _ => e.no | [] => Config.logOpen 0
    let oldest := match s.isl.log with | e :: _ => e.no | [] => Config.logOpen 1
    { code := cOk, st := s
      resp := [first, w32 es.length, oldest, s.isl.logNext] ++ es.flatMap fun e => logEntryWords (hideArgs e hide) }

/-- LOG_AGGREGATE_FLUSH: an aggregation interval of a code and key ends (R477). -/
def execLogAggregateFlush (code key : Nat) (s : State) : Ans := .next (aggFlush s code key)

/-! ## Firmware slots -/

def fwSlot (s : State) (b : Bool) : FwSlot := if b then s.isl.b else s.isl.a
def modFw (s : State) (b : Bool) (f : FwSlot → FwSlot) : State :=
  s.modIsl fun x => if b then { x with b := f x.b } else { x with a := f x.a }
def slotNo (b : Bool) : Word := if b then 1 else 0

/-- Header bytes 0x00–0x3F (R442). -/
def fwHeader (i : FwImage) : List (BitVec 8) :=
  wordBytes i.magic ++ halfBytes i.format ++ halfBytes i.version ++ wordBytes i.secVersion ++ wordBytes i.length ++ wordBytes i.entry ++
  (List.range 44).map fun j => (i.rest[j]?).getD 0

/-- MAGIC, FORMAT and LENGTH of a header (R442). -/
def fwHeaderOk (i : FwImage) : Bool :=
  decide (i.magic = 0x4F524957) && decide (i.format = 3) && decide (0x100 + i.length.toNat ≤ 1048576) && decide (i.body.length = i.length.toNat)

/-- The bytes of a digest or signature half, most significant first. -/
def bytes384 (x : BitVec 384) : List (BitVec 8) := (List.range 48).map fun i => x.extractLsb' (8 * (47 - i)) 8

/-- The signature verifies under the firmware verifying key (R442). -/
def fwSigned (s : State) (i : FwImage) : Bool :=
  match s.isl.fwKey with
  | none => false
  | some k => ecdsaVerify k (sha384 (fwHeader i ++ i.body)) i.sigR i.sigS

/-- A slot holds an image that starts: `none` stands for the image that the package test wrote (log entry 34). -/
def slotGood (s : State) (x : FwSlot) : Bool := match x.image with | none => true | some i => fwHeaderOk i && fwSigned s i

/-- A slot is bootable (R443). -/
def bootable (s : State) (b : Bool) : Bool :=
  decide ((fwSlot s b).st = .committed) && slotGood s (fwSlot s b) && decide (s.isl.rollback.toNat ≤ (fwSlot s b).secVer.toNat)

/-- The bootable slot with the higher COMMIT_SEQ (R443). -/
def bootSlot (s : State) : Option Bool :=
  if bootable s false && bootable s true then some (decide ((fwSlot s true).seq.toNat > (fwSlot s false).seq.toNat))
  else if bootable s false then some false else if bootable s true then some true else none

/-- FW_STAGE has ended, with the version words of its image, which are not known where none was read (R456). -/
def stageNote (s : State) (i : Option FwImage) (code : Nat) : State :=
  match i with
  | none => log s 0x81 13 false (Config.logOpen 4) (Config.logOpen 5) (w32 code)
  | some i => log s 0x81 13 false (at_ 0 i.version.toNat) i.secVersion (w32 code)

/-- FW_STAGE of the image as the memory master port reads it (R357, R445); `none`: a read failed. Every end of it is logged (R456). -/
def cmdFwStage (image : Option FwImage) (c : Call) (s : State) : Res :=
  let n := (c.arg 2).toNat
  let b := !s.isl.slotB
  match firstFail
    [ (!zerosOk c [0xFFFFFFFF, 0xFFFFFFFF, 0xFFFFFFFF], cBadArg)
    , (decide (bits (c.arg 0) 0 12 ≠ 0) || decide (n = 0) || decide (n > 1048576), cBadArg) ] with
  | some e => failWith (stageNote s none e) e
  | none =>
    let s1 := modFw s b fun _ => {}
    match image with
    | none => failWith (stageNote s1 none cMemError) cMemError
    | some i =>
      if !fwHeaderOk i || decide (0x100 + i.length.toNat > n) || !fwSigned s i then failWith (stageNote s1 image cAuthFail) cAuthFail
      else if i.secVersion.toNat < s.isl.rollback.toNat then failWith (stageNote s1 image cRollback) cRollback
      else
        { code := cOk, resp := [at_ 0 i.version.toNat, i.secVersion]
          st := stageNote (modFw s1 b fun _ => { st := .staged, version := i.version, secVer := i.secVersion, image := some i }) image cOk }

/-- A slot is committed: its COMMIT_SEQ first, then the anti-rollback counter (R445). -/
def commitSlot (s : State) (b : Bool) : State :=
  let q := (fwSlot s (!b)).seq + 1
  let s1 := modFw s b fun x => { x with st := .committed, seq := q }
  let s2 := s1.modIsl fun x => { x with rollback := if x.rollback.toNat < (fwSlot s1 b).secVer.toNat then (fwSlot s1 b).secVer else x.rollback }
  log s2 0x82 13 false (slotNo b) q s2.isl.rollback

/-- FW_COMMIT (R357, R445). -/
def cmdFwCommit (c : Call) (s : State) : Res :=
  let b := !s.isl.slotB
  checked c [] [ (decide ((fwSlot s b).st ≠ .staged), cBadArg) ] s fun _ => { code := cOk, resp := [slotNo b], st := commitSlot s b }

/-- A command of mailbox `b` is an FW_STAGE on its way: its slot is invalid from its start (R357, R445). -/
def staging (s : State) (b : Box) : Bool := boxTurn s b && decide ((s.mbx b).op = 0x80) && !(s.mbx b).list

/-- An FW_STAGE that is cut short leaves the inactive slot EMPTY (R445, R461). -/
def dropStaging (s : State) : State := if staging s .secure || staging s .normal then modFw s (!s.isl.slotB) fun _ => {} else s

/-- The slot is marked START_FAILED, with its log entry (R446, R447, R456). -/
def startFailed (s : State) (b : Bool) : State :=
  if (fwSlot s b).st = .startFailed then s
  else log (modFw s b fun x => { x with st := .startFailed }) 0x83 13 false (slotNo b) (at_ 0 (fwSlot s b).version.toNat) 0

/-- The island's answer to the loss of Ronuo's service (R446, R447): Ronuo alone restarts, FIRMWARE_FAULT is raised, and the command
that was running is to be ended (R341). `slot` is the one that was running: at the fourth time within 10 s it is marked. -/
def islandNow (s : State) : Stamp := meridian s
def restartRonuo (s : State) (why : Nat) (slot : Bool) (pc : Word) : State :=
  let now := islandNow s
  let ex := (s.isl.expiries.filter fun t => decide ((now - t).toNat < 10000000000)) ++ [now]
  let cut (b : Box) (t : State) : State := if boxTurn s b then t.modMbx b fun m => { m with cut := true } else t
  let s1 := cut .secure (cut .normal (dropStaging s))
  let s2 := (s1.modPwr fun p => { p with cause := p.cause ||| 8 }).modIsl fun x => { x with fw := .restarting, booting := some 1, expiries := ex }
  let s3 := raise s2 0x0F 13 false (w32 why) (slotNo slot) pc none
  if ex.length ≥ 4 then startFailed s3 slot else s3

/-- MGMT_WATCHDOG_EXPIRY (R447): not while Ronuo is halted through the gate or clock-stopped. -/
def execMgmtWatchdogExpiry (pc : Word) (s : State) : Ans :=
  if s.isl.ronuoHalt ∨ s.pwr.mode = .sleep ∨ s.pwr.mode = .off ∨ (s.isl.fw ≠ .running ∧ s.isl.fw ≠ .activating) then .next s
  else .next (restartRonuo s 0 s.isl.slotB pc)

/-- The target of an activation does not start: START_FAILED, then as a watchdog expiry (R446). -/
def activationFails (s : State) (target : Bool) : State :=
  restartRonuo (startFailed s target) 2 target 0

/-- ACTIVATION_START_TIMEOUT (R446). DESIGN CHOICE (log entry 97): an image that does not service the watchdog in time has not come up, and no entry
0x80 of its boot is written. -/
def execActivationStartTimeout (s : State) : Ans :=
  match s.isl.act with
  | some (_, b) => if s.isl.fw = .activating then .next (activationFails s b) else .next s
  | none => .next s

/-- The committed slot with the higher COMMIT_SEQ (R445), where the slot that does not run is committed. -/
def activateTarget (s : State) : Bool :=
  let own := s.isl.slotB
  if (fwSlot s own).st = .committed ∧ (fwSlot s (!own)).seq.toNat < (fwSlot s own).seq.toNat then own else !own

/-- FW_ACTIVATE begins (R445, R446): the mailboxes read OFFLINE = 1; the command ends with the offline period (R341). -/
def beginActivate (b : Box) (s : State) : State :=
  s.modIsl fun x => { x with fw := .activating, act := some (some b, activateTarget s) }
def cmdFwActivate (c : Call) (s : State) : Res :=
  checked c [] [ (decide ((fwSlot s (!s.isl.slotB)).st ≠ .committed), cBadArg) ] s fun _ => { code := cOk, st := beginActivate c.box s }

/-! ## The debug gate -/

/-- The 16 bytes that a certificate signs (R407). -/
def certMessage (id : BitVec 64) (count scope : Word) : List (BitVec 8) :=
  wordBytes (lo32 id) ++ wordBytes (hi32 id) ++ wordBytes count ++ wordBytes scope

/-- Twelve words, most significant first, as one value (R359). -/
def join384 (ws : List Word) : BitVec 384 := ws.foldl (fun a w => (a <<< 32) ||| w.zeroExtend 384) 0

/-- DEBUG_UNLOCK (R337, R359, R407, R409): every acceptance and refusal is logged, with the device ID check result, whose codes are free value
`Config.idResult` (log entry 6). -/
def cmdDebugUnlock (c : Call) (s : State) : Res :=
  let id := mk64 (c.arg 1) (c.arg 0)
  let count := c.arg 2
  let scope := c.arg 3
  let signed := match s.isl.dbgKey with
    | none => false
    | some k => ecdsaVerify k (sha384 (certMessage id count scope))
        (join384 ((List.range 12).map fun i => c.arg (4 + i))) (join384 ((List.range 12).map fun i => c.arg (16 + i)))
  let note (t : State) : State := log t 0x89 13 false (Config.idResult (decide (id = s.isl.deviceId))) count scope
  match firstFail
    [ (!zerosOk c ([0xFFFFFFFF, 0xFFFFFFFF, 0xFFFFFFFF, 0x1F] ++ allOnes 24), cBadArg)
    , (!c.sec && decide (scope &&& ~~~2 ≠ 0), cDenied), (s.isl.dbgKey.isNone, cAuthFail), (decide (id ≠ s.isl.deviceId), cDenied)
    , (decide (count.toNat < s.isl.dbgCount.toNat), cDenied), (decide (s.isl.dbgCount = 0xFFFFFFFF), cDenied), (!signed, cAuthFail) ] with
  | some e => failWith (note s) e
  | none =>
    let s1 := s.modIsl fun x => { x with scope := x.scope ||| scope.extractLsb' 0 5, dbgCount := if count = 0xFFFFFFFF then count else count + 1 }
    { code := cOk, resp := [s1.isl.scope.zeroExtend 32], st := note s1 }

/-- While the firmware is halted the mailbox hardware ends a running command, an FW_ACTIVATE and an FW_STAGE among them (R343); none waits
then (R332). The end of an FW_STAGE is logged (R456). -/
def haltBoxes (s : State) : State :=
  forAll ((dropStaging s).modIsl fun x => { x with
      turn := none, listRun := none, act := x.act.map fun a => (none, a.2)
      sweep := { x.sweep with owner := none, run := x.sweep.run.map fun r => { r with box := none } } })
    [Box.secure, Box.normal] fun t b =>
      if !(t.mbx b).busy then t
      else mbxEnd (notifyParity (if (t.mbx b).op = 0x80 ∧ !(t.mbx b).list then stageNote t none 0x0D else t) b) b 0x0D []

/-- Ronuo has run: what its registers and memory hold is not known (R408, R438; log entry 6). -/
def ronuoRuns (s : State) : State :=
  { s.modIsl fun y => { y with ronuoMem := [], ronuoRan := s.free } with free := s.free + 1 }

/-- An access to Ronuo through the gate, by place: memory by its address, register n at 2³² + n (R408). While Ronuo is not halted a read finds
what it has made of the place. -/
def ronuoAccess (s : State) (place : Nat) (w : Option Word) : State :=
  match w with
  | some v => s.modIsl fun y => { y with ronuoMem := tput place v y.ronuoMem }
  | none =>
    let t := if s.isl.ronuoHalt then s else ronuoRuns s
    { t with out := { t.out with gate := tget (Config.ronuoWord t.isl.ronuoRan place) t.isl.ronuoMem place } }

/-- The verifying keys are written once, at package test, while the provisioning lock is clear (R407, R440, R441). -/
def provKey (s : State) (debug : Bool) (key : BitVec 768) : State :=
  s.modIsl fun y =>
    if y.provLock then y
    else if debug then { y with dbgKey := some (y.dbgKey.getD key) } else { y with fwKey := some (y.fwKey.getD key) }

/-- DEBUG_GATE_ACCESS (R406, R408): outside the scope in force every instruction selects the bypass register; a device that is Off answers nothing
(R495). -/
def execDebugGateAccess (op : GateOp) (s : State) : Ans :=
  let x := s.isl
  let shift (t : State) (w : Word) : Ans := .next { t with out := { t.out with gate := w } }
  if s.pwr.mode = .off then .next s
  else match op with
  | .idcode => shift s (0x2C288001 ||| at_ 1 (bits (at_ 0 x.straps.mfr.toNat) 0 11))
  | .bypass => shift s 0
  | .halt =>
    if x.scope.getLsbD 0 then
      .next (if x.ronuoHalt then s else haltBoxes ((ronuoRuns s).modIsl fun y => { y with ronuoHalt := true }))
    else shift s 0
  | .resume => if x.scope.getLsbD 0 then .next (if x.ronuoHalt then (ronuoRuns s).modIsl fun y => { y with ronuoHalt := false } else s) else shift s 0
  | .step => if x.scope.getLsbD 0 then .next (if x.ronuoHalt then ronuoRuns s else s) else shift s 0
  | .ronuo a w => if x.scope.getLsbD 0 then .next (ronuoAccess s a.toNat w) else shift s 0
  | .ronuoReg n w => if x.scope.getLsbD 0 then .next (ronuoAccess s (2 ^ 32 + n) w) else shift s 0
  | .provKey d k => if x.provLock then shift s 0 else .next (provKey s d k)
  | .cellTest c i v =>
    if x.scope.getLsbD 1 then
      if c < 1536 ∧ i < 16 ∧ s.pwr.hubl = .on then .next (writeTest s (cellBase c + 0x1C0 + 4 * i) v id) else .next s
    else shift s 0
  | .secureView o =>
    if x.scope.getLsbD 2 then (if s.pwr.hubl = .on then shift s (peekReg s o true) else .next s) else shift s 0

/-! ## Rows -/

/-- BENCHMARK_READ (R355). -/
def execBenchmarkRead (b : Box) (s : State) : Ans := serveBox b 0x60 anyForm cmdBenchmarkRead s
/-- BENCHMARK_WRITE (R355, R451). -/
def execBenchmarkWrite (b : Box) (s : State) : Ans := serveBox b 0x61 anyForm cmdBenchmarkWrite s
/-- BENCHMARK_CAPTURE (R272, R355). -/
def execBenchmarkCapture (b : Box) (measured : List (BitVec 16)) (s : State) : Ans := serveBox b 0x62 anyForm (cmdBenchmarkCapture measured) s
/-- LOG_READ (R356). -/
def execLogRead (b : Box) (s : State) : Ans := serveBox b 0x70 anyForm cmdLogRead s
/-- FW_STAGE (R357, R445). -/
def execFwStage (b : Box) (image : Option FwImage) (s : State) : Ans := serveBox b 0x80 anyForm (cmdFwStage image) s
/-- FW_COMMIT (R357, R445). -/
def execFwCommit (b : Box) (s : State) : Ans := serveBox b 0x81 anyForm cmdFwCommit s
/-- DEBUG_UNLOCK (R359, R407). -/
def execDebugUnlock (b : Box) (s : State) : Ans := serveBox b 0xA0 anyForm cmdDebugUnlock s

/-- FW_ACTIVATE (R357, R446): the mailbox stays busy until the end of the offline period, unless its checks fail. -/
def execFwActivate (b : Box) (s : State) : Ans :=
  let s1 := parityAll s (boxRegs b)
  let m := s1.mbx b
  if boxTurn s b ∧ !m.list ∧ m.op = 0x82 then
    let r := cmdFwActivate (callOf s1 b) s1
    if r.code = cOk then .next r.st else .next (endCmd r.st b r.code [])
  else serveBox b 0x82 anyForm cmdFwActivate s

end Sys2Proof.Machine
end

