-- ==== Sys2Proof/Machine/Power.lean ====
section
/-! DEFINITION. Stakes and the wanted set, bring-up and power-down of units, quiesce, Nap, Keep, Sleep and the wakes, power cuts (R354,
R397 to R402, R411 to R437). -/

namespace Sys2Proof.Machine

open Sys2Proof

/-! ## The wanted set (R413) -/

def wantM (s : State) (k : Nat) : Bool := staked s (.outM k) || wantL s k
def wantT (s : State) (k : Nat) : Bool := staked s (.trav k) || wantL s k
/-- HUBL; a cold start that is still to load the boot plat keeps it wanted (R84 step 1). -/
def wantHubl (s : State) : Bool := s.pwr.cold || staked s .hubl || (List.range 12).any (wantT s)
def wantHubm (s : State) : Bool :=
  wantHubl s || staked s .hubm || (List.range 4).any (fun a => (s.alarm a).arm && (s.alarm a).keep) || decide (ringSize s = 0)

/-- A stake set with one more stake, each at most once (R354). -/
def addStake (s : State) (c : Nat) (d : Dom) : State :=
  s.modPwr fun p => if (c, d) ∈ p.stakes then p else { p with stakes := p.stakes ++ [(c, d)] }
def dropStake (s : State) (c : Nat) (d : Dom) : State := s.modPwr fun p => { p with stakes := p.stakes.filter fun x => decide (x ≠ (c, d)) }

/-! ## Domain codes -/

def domUnit : Dom → Nat
  | .hubl | .hubm => 12
  | .outL k | .outM k | .trav k => k
/-- The domain code of R477. -/
def domCode (d : Dom) : Nat :=
  (match d with | .hubl | .hubm => 12 | .outL k | .outM k | .trav k => k) +
  16 * (match d with | .hubl | .outL _ => 0 | .hubm | .outM _ => 1 | .trav _ => 2)
def domSt (s : State) : Dom → DomSt
  | .hubl => hubDomSt s s.pwr.hubl
  | .hubm => hubDomSt s s.pwr.hubm
  | .outL k => (s.op k).logic
  | .outM k => (s.op k).mem
  | .trav k => (s.op k).trav

/-! ## Output pins (R412, R496) -/

/-- PD_ON_d asks for the supply of domain d: while it comes up, is ON or is held RETAINED. An output is high impedance (none) while AUXIN is
absent. -/
def pinPdOn (s : State) (d : Dom) : Option Bool :=
  if s.pwr.mode = .off then none
  else some (match domSt s d with | .ramping | .on | .retained => true | .off | .failed => false)
/-- ISO_GNT_k, SPEED_REQ and CHIP_RESET_REQ likewise. -/
def pinIsoGnt (s : State) (k : Nat) : Option Bool := if s.pwr.mode = .off then none else some (s.op k).isoGnt
def pinSpeedReq (s : State) : Option Bool := if s.pwr.mode = .off then none else some (s.hub.speedReq && decide (s.pwr.hubl = .on))
def pinChipReset (s : State) : Option Bool := if s.pwr.mode = .off then none else some s.pwr.chipRst
/-- TDO of the debug gate, as the latest access left it (R406, R495). -/
def pinTdo (s : State) : Option Word := if s.pwr.mode = .off then none else some s.out.gate

/-! ## Closing and bringing up a die -/

/-- ISO_GNT_k (R421). DEDUCED (log entry 94): a cut withdraws it, until the supply has returned (R410). -/
def isoAnswer (s : State) (k : Nat) : State :=
  s.modOp k fun o => { o with isoGnt := o.isoReq && !o.noSupply && decide (o.logic = .off) && decide (o.mem = .off) && decide (o.trav = .off) }

/-- Change every cell of a unit. -/
def modUnit (s : State) (u : Nat) (f : Cell → Cell) : State :=
  { s with cells := (s.cells.map fun e => (e.1, if unitOf e.1 = u then f e.2 else e.2)).filter fun e => decide (e.2 ≠ {}) }

/-- The CELL_EN bits of die `k` that are kept: for a lost die those of its declaration stand (R482), else these. -/
def keepEn (s : State) (k : Nat) (f : Cell → Bool) : State := if (s.op k).lost then s else modUnit s k fun x => { x with enKept := f x }

/-- Die `k` becomes closing (R420); the CELL_EN bits are noted (R422). -/
def closeDie (s : State) (k : Nat) : State :=
  giveUpDie (keepEn (s.modOp k fun o => { o with closing := true, stays := false }) k (·.en)) k

/-- A stake taken before the last grant ends closing (R437). -/
def reopenDie (s : State) (k : Nat) : State :=
  routesReturn (keepEn (s.modOp k fun o => { o with closing := false, stays := false }) k fun _ => false)

/-- Step 1 of a bring-up (R417): PD_ON of the pair and of the link; ISO_GNT_k falls first (R421). -/
def raiseDie (s : State) (k : Nat) : State :=
  s.modOp k fun o => { o with
    logic := .ramping, mem := .ramping, trav := if o.trav = .on then .on else .ramping, bring := 1, tries := 0, isoGnt := false
    fresh := o.fresh || decide (o.mem = .off) }

/-- The link is reset with its driver off or its die off (R422). -/
def linkDown (o : Outpost) : Outpost :=
  { o with link := if o.lost then .lost else .reset, align := .training, good := 0, bad := 0, lostSeen := o.lostSeen || decide (o.align = .aligned) }

/-- Link domain `k` is powered: what its registers say is counted from its power-up (R312). -/
def linkPower (o : Outpost) : Outpost :=
  if o.trav = .on then o else { o with trav := .on, retrains := 0, spareUp := false, spareDown := false }

/-- The sequencer's rule for one die (R413, R414); a domain that is FAILED stays so while it is wanted (R434); a die whose supply was cut reads
OFF until it returns (R399). -/
def sequenceDie (s : State) (k : Nat) : State :=
  if !populated s k then s
  else if (s.op k).noSupply then isoAnswer s k
  else
    let o := s.op k
    let s1 := match o.logic with
      | .on => if wantL s k then (if o.closing then reopenDie s k else s) else if o.closing then s else closeDie s k
      | .off => if wantL s k ∧ o.mem ≠ .failed then raiseDie s k else s
      | .failed => if wantL s k then s else s.modOp k fun x => { x with logic := .off, fresh := true }
      | _ => s
    let s2 := if (s1.op k).logic ≠ .off then s1
      else s1.modOp k fun x =>
        let m : DomSt := if wantM s k then (if x.mem = .off then .retained else x.mem) else .off
        let t : DomSt := if wantT s k then (if x.trav = .off then .ramping else x.trav) else .off
        linkDown { x with mem := m, fresh := x.fresh || decide (m = .off), trav := t }
    isoAnswer s2 k

/-- The writes that the doorbell front ends hold are handed on in their order (R424). -/
def releaseDb (s : State) : State :=
  let ds := s.pwr.heldDb
  forAll (s.modPwr fun p => { p with heldDb := [], knock := 0 }) ds fun t d =>
    match dbWindow t d.offset with | some w => portTake t d w | none => t

/-- An entry into Keep or Sleep is abandoned: the hub goes on (R437). -/
def reopenHub (s : State) : State := releaseDb (s.modPwr fun p => { p with closing := false, toSleep := false })

/-- The sequencer's rule for the hub (R414, R423): its domains close once every outpost's logic is off. In Keep with HUBM no longer wanted the
pair is powered up to write the save book (R428). A FAILED domain stays so while it is wanted (R434). -/
def sequenceHub (s : State) : State :=
  match s.pwr.hubl with
  | .on =>
    if s.pwr.mode ≠ .run then s
    else if wantHubl s then (if s.pwr.closing then reopenHub s else s)
    else if s.pwr.closing ∨ (outpostsOf s).any (fun k => decide ((s.op k).logic ≠ .off)) then s
    else s.modPwr fun p => { p with closing := true }
  | .failed =>
    s.modPwr fun p => { p with
      hubl := if wantHubl s then p.hubl else .off, hubm := if wantHubm s ∨ p.hubm ≠ .failed then p.hubm else .off, fresh := p.fresh || !wantHubm s }
  | .off =>
    if s.pwr.mode = .keep ∧ s.pwr.bring = 0 ∧ !wantHubm s then
      s.modPwr fun p => { p with hubl := .ramping, hubm := .ramping, bring := 1, tries := 0, toSleep := true }
    else s
  | _ => s

/-- The sequencer after a change of the wanted set. -/
def sequence (s : State) : State := sequenceHub (forAll s (List.range 12) sequenceDie)

/-! ## Self-test of a retained unit (R418) -/

/-- The EVID that a store word belongs to, as a raising names it. -/
def storeEvid : Store → Nat
  | .desc e | .input e | .record e => e
  | _ => 0

/-- What the device does where a store word is found uncorrectable as its store is read through (R156, R157, R479). -/
def storeLost (s : State) : Store → State
  | .desc e => poison s e
  | .slot n => forAll s ((s.queues.filter fun q => (queueSlots s q.2).contains n).map (·.1)) poison
  | .record e => let t := fbTake s e; t.modQueue e fun x => { x with fbw := x.fbw && fbWaits t e }
  | .input e => s.modInput e fun x => { x with mode := .off }
  | .ctx v => poisonCtx s v
  | .gang g => gangLost s g
  | _ => s

/-- A store word is read. -/
def readThrough (s : State) (x : Store) : State :=
  let k := strike s x (storeEvid x) (storeCell s x)
  if k.1 then storeLost k.2 x else k.2

/-- A retained store is read through once: what can be corrected is, and what cannot is found (R155, R418, R479). -/
def scrub (s : State) (u : Nat) : State := forAll s ((s.ecc.filter fun y => decide (storeUnit y.1 = u)).map (·.1)) readThrough

/-- The store content of a slot whose cell fails there is lost (R418, R479). -/
def lostStore (s : State) (c : Nat) : State :=
  let x := s.cell c
  if x.role = roleLedger then
    forAll s ((s.queues.filter fun e => e.2.bound && decide (ledgerCell s e.1 = some c)).map (·.1)) poison
  else if x.role = roleContext then
    forAll s ((s.ctxs.filter fun e => e.2.bound && decide (contextCell s e.1 = some c)).map (·.1)) poisonCtx
  else if x.role = roleGang then
    let gs := (s.gangs.filter fun e => decide (gangCell s e.1 = some c)).map (·.1)
    let s1 := forAll s gs fun t g => t.modGang g fun _ => {}
    gatherOffers s { s1 with trains := s1.trains.filter fun t => decide (t.cell ≠ c), gathers := s1.gathers.filter fun r => decide (r.cell ≠ c) }
  else if x.role = roleIntake then forAll s (cellInputs s c) fun t e => t.modInput e fun y => { y with mode := .off }
  else s

/-- Self-test of a unit whose memory was retained: the arrangement of substitutions stands, and a slot whose cell fails takes its plat region
from the shadow (R66, R418). -/
def retainedTest (s : State) (u : Nat) (fails : List Nat) : State :=
  let s1 := forAll (scrub s u) (unitCells u) fun t c =>
    let p := physOf t c
    let r : BitVec 2 := if p ∈ fails then 2 else 1
    (t.modCell c fun x => { x with unserved := false, bist := r }).modHub fun h => { h with bistPhys := tset 0 h.bistPhys p r }
  forAll s1 ((workCells s1 u).filter fun c => decide ((s1.cell c).bist = 2)) fun t c =>
    lostStore (writeTune (substitute (takeShadow t c) c) c) c

/-! ## A die's bring-up ends -/

/-- Counters and OVF bits read zero after each power-up of the logic domain from OFF (R467). -/
def clearCounters (s : State) (u : Nat) : State := modUnit s u fun x => { x with ctrs := [], ovf := 0 }

/-- What a cold start writes for a unit (R84 steps 3 and 4), or what a return from OFF restores (R422). -/
def loadDie (s : State) (k : Nat) : State :=
  if (s.op k).cold then
    bootPlat (forAll (s.modOp k fun o => { o with cold := false }) (unitCells k) writeRod) [k]
  else restoreSlots s k

/-- The pair of die `k` is ON (R417 step 4): self-test, plat and link training follow (R418, R422). -/
def finishDie (s : State) (k : Nat) (fails : List Nat) : State :=
  let o := s.op k
  let s1 := s.modOp k fun x => { x with
    logic := .on, mem := .on, iso := false, bring := 0, tries := 0, fresh := false
    link := if x.lost then .lost else if x.trav = .on then .training else .reset
    lostSeen := x.lostSeen || decide (x.align = .aligned), align := if x.holdover then .unaligned else .training, good := 0, bad := 0, missed := 0, corr := 0, fails := 0, replayAt := []
    secUp := none, secDown := none }
  let s2 := resetStations (clearCounters s1 k) k
  let s3 := if o.fresh then loadDie (selfTest (freshStores s2 k) k fails) k else retainedTest s2 k fails
  let s4 := if unitUnserved s3 k then declareLost s3 k else s3
  sequenceDie s4 k

/-! ## Cold start of the hub (R84, R503) -/

/-- Raisings held in the AON are accepted as booked (R404, R476); 0x19 stands for the secure watchdog's EVID. -/
def deliverFaults (s : State) : State :=
  let fs := s.pwr.faults
  forAll (s.modPwr fun p => { p with faults := [] }) fs fun t f =>
    if f.1 = 0x19 then intakeHub t 0xFFFD9 0 t.mer.now 7 .device .none false else raiseHub t f.1 7

/-- The station of the internal queues' default route (R475). -/
def firstStation (s : State) : Nat := 48 * ((outpostsOf s).head?.getD 0)

/-- A die that stayed ON through PKG_RST_N starts as after a power-up from off; one that was coming up starts again (R503). DESIGN CHOICE (log
entry 95): a die with a FAILED domain, which R503 does not name, stays as it is under Wairo's new stake. -/
def restartDie (fails : List Nat) (s : State) (k : Nat) : State :=
  match (s.op k).logic with
  | .on => finishDie s k fails
  | .ramping => raiseDie s k
  | _ => s

/-- Steps 2 to 4 of R84 for the hub, with its logic on, and for the outposts that are on already (R503). -/
def coldStart (s : State) (fails : List Nat) : State :=
  let ks : Tab Queue := s.queues.filter fun e => !isInternal e.1
  let s1 : State := { s with queues := ks ++ internalQueues (firstStation s) }
  let s2 := forAll (selfTest (clearCounters s1 12) 12 fails) (unitCells 12) writeRod
  let s3 := bootPlat (s2.modPwr fun p => { p with cold := false }) [12]
  sequence (serveHeld (releaseDb (deliverFaults (forAll s3 (outpostsOf s3) (restartDie fails)))))

/-- Wairo takes its cold-start stakes on HUBL and on OUTk_L of the populated outposts (R84, R415). -/
def coldStakes (s : State) : State :=
  let pop := if s.pwr.hubl = .on then s.hub.populated else s.isl.straps.present
  let ds := Dom.hubl :: ((List.range 12).filter pop.getLsbD).map Dom.outL
  forAll (s.modPwr fun p => { p with coldStake := true, coldDue := false }) ds fun t d => addStake t 0 d

/-- After a time with the hub off the sweep period runs from now (R471). -/
def sweepAgain (s : State) : State :=
  s.modIsl fun x => { x with sweep := if x.sweep.active then { x.sweep with due := s.mer.now + BitVec.ofNat 64 (x.sweep.period * 1000) } else x.sweep }

/-- The meridian after a time with the hub off (R231, R436). -/
def restoreMer (s : State) : State :=
  let c := s.pwr.slowNs / 1000
  let u := if s.isl.defaults then (c * 3 + 99) / 100 + 1 else (c * 5 + 999) / 1000 + 1
  s.modMer fun m => { m with
    now := s.pwr.entryE + BitVec.ofNat 64 (c * 1000), estim := true, uncert := w32 (min u 0xFFFFFFFF), slew := 0, sched := 0, order := .none, step := none }

/-- What the AON holds for watch inputs is dropped: no input takes it (R101, R431). -/
def watchDrop (s : State) : State :=
  s.modPwr fun p => { p with watch := p.watch.map fun w => (w.1, { w.2 with held := 0, heldC := 0, up := false, wake := false }) }

/-- STRAP_PRESENT is sampled at each power-up of HUBL (R312, R497): as it was, unless the levels have changed. -/
def samplePresent (s : State) (x : Bist) : State :=
  let v := x.present.getD s.isl.straps.present
  (s.modIsl fun y => { y with straps := { y.straps with present := v } }).modHub fun h => { h with populated := v }

/-- The hub's pair is ON outside a wake: the test controls count as untouched (R300), a sweep period starts again (R471), and the cold start
runs (R84, R503). -/
def hubUp (s : State) (fails : List Nat) : State :=
  let s1 := watchDrop (if s.pwr.mode = .run then s else restoreMer s)
  let s2 := s1.modPwr fun p => { p with hubl := .on, hubm := .on, mode := .run, bring := 0, tries := 0, fresh := false }
  coldStart (sweepAgain (s2.modHub fun h => { h with touched := false })) fails

/-- PD_ON of the hub pair stands: step 1 of R417, which at a wake from Sleep follows the RC oscillator's start (R430 steps 1 and 2; log entry
84). -/
def hubRamps (s : State) : State :=
  if s.pwr.bring = 6 then s.modPwr fun p => { p with hubl := .ramping, hubm := .ramping, bring := 1 } else s

/-- The ready signal of the hub pair's present step (R417, R425, R430); after step 4, which samples STRAP_PRESENT, a wake goes on with
WAKE_COMPLETE, and a hub that came up to write its save book writes it (R428). -/
def hubStep (s' : State) (x : Bist) : State :=
  let s := hubRamps s'
  if s.pwr.bring = 0 then s
  else if s.pwr.bring ≤ 3 then
    let s1 := s.modPwr fun p => { p with bring := p.bring + 1 }
    if s.pwr.bring = 2 then s1.modMer fun m => { m with locked := true, lockedAt := meridian s } else s1
  else if s.pwr.bring = 4 then
    let t := samplePresent s x
    match s.pwr.mode with
    | .wakeKeep => (retainedTest t 12 (bistFailing t x)).modPwr fun p => { p with bring := 5 }
    | .wakeSleep => (selfTest t 12 (bistFailing t x)).modPwr fun p => { p with bring := 5 }
    | _ => if s.pwr.toSleep then (retainedTest t 12 (bistFailing t x)).modPwr fun p => { p with bring := 5 } else hubUp t (bistFailing t x)
  else s

/-- The ready signal of a die's present step (R417); a die whose supply was cut comes up with its supply (R399). -/
def dieStep (s : State) (k : Nat) (fails : List Nat) : State :=
  let o := s.op k
  if !populated s k then s
  else if o.bring = 0 then
    if o.noSupply then
      let s1 := s.modOp k fun x => { x with noSupply := false }
      if wantL s k then (raiseDie s1 k).modOp k fun x => { linkPower x with bring := 2 } else sequenceDie s1 k
    else s
  else if o.bring = 1 then s.modOp k fun x => { linkPower x with bring := 2 }
  else if o.bring = 2 then s.modOp k fun x => { x with bring := 3, holdover := false }
  else if o.bring = 3 then s.modOp k fun x => { x with bring := 4 }
  else finishDie s k fails

/-- The ready signal of link `k`'s own domain (R417 step 1). -/
def travStep (s : State) (k : Nat) : State :=
  if (s.op k).bring = 0 ∧ ((s.op k).trav = .ramping ∨ ((s.op k).noSupply ∧ wantT s k)) then s.modOp k linkPower else s

/-- PD_GOOD: a ready signal of the bring-up of a unit: 0–11 the pair of an outpost, 12 the hub's, 16 + k link k's domain (R417). -/
def execPdGood (unit : Nat) (bist : Bist) (s : State) : Ans :=
  if s.pwr.rst then .next s
  else if unit = 12 then .next (hubStep s bist)
  else if unit < 12 then .next (dieStep s unit (bistFailing s bist))
  else if 16 ≤ unit ∧ unit < 28 then .next (travStep s (unit - 16)) else .next s

/-! ## Failures of a bring-up (R434, R435) -/

/-- Domains of a die have failed, its pair or its link's: the outpost is lost where one of them is wanted (R482); what is not wanted becomes
OFF (R434). -/
def dieFailed (s : State) (k kind step tries : Nat) : State :=
  let t := raise s 0x0A k false (w32 (k + 16 * kind)) (w32 step) (w32 tries) none
  sequenceDie (if (if kind = 2 then wantT s k else wantM s k) then declareLost t k else t) k

/-- POWER_STEP_TIMEOUT: the ready signal of a unit's present step misses its timeout (R434, R435). The retries count over the whole sequence. -/
def execPowerStepTimeout (unit : Nat) (s : State) : Ans :=
  if s.pwr.rst then .next s
  else if unit = 12 then
    let s := hubRamps s
    let p := s.pwr
    if p.bring = 0 ∨ p.bring > 4 then .next s
    else if p.bring = 2 then .next (masterHoldover (raise (s.modPwr fun q => { q with bring := 3 }) 0x0B 12 false 1 12 0 none))
    else if p.tries < 2 then .next (s.modPwr fun q => { q with bring := 1, tries := q.tries + 1 })
    else
      let m : Mode := match p.mode with | .wakeKeep => .keep | .wakeSleep => .sleep | x => x
      let s1 := s.modPwr fun q => { q with bring := 0, tries := 0, mode := m, hubl := .failed, hubm := if m = .keep then .retained else .failed, toSleep := false }
      .next (raise s1 0x0A 12 false (w32 12) (w32 p.bring) (w32 (p.tries + 1)) none)
  else if unit < 12 then
    let o := s.op unit
    if o.bring = 0 then .next s
    else if o.bring = 2 then
      let s1 := s.modOp unit fun x => { x with bring := 3, holdover := true }
      .next (unalign (raise s1 0x0B unit false 2 (w32 unit) 0 none) unit 0)
    else if o.tries < 2 then .next (s.modOp unit fun x => { x with bring := 1, tries := x.tries + 1 })
    else
      .next (dieFailed (s.modOp unit fun x => { x with bring := 0, tries := 0, logic := .failed, mem := .failed, iso := true, fresh := true }) unit 0 o.bring (o.tries + 1))
  else if 16 ≤ unit ∧ unit < 28 then
    let k := unit - 16
    let o := s.op k
    if o.trav ≠ .ramping ∨ o.bring ≠ 0 then .next s
    else if o.tries < 2 then .next (s.modOp k fun x => { x with tries := x.tries + 1 })
    else .next (dieFailed (s.modOp k fun x => { x with trav := .failed, tries := 0 }) k 2 1 (o.tries + 1))
  else .next s

/-! ## Quiesce and power-down (R419 to R423) -/

/-- A message inside die `k` or on its link. -/
def nearDie (s : State) (k : Nat) (p : Packet) : Bool := decide (p.up = some k) || decide (p.down = some k) || decide (standsIn s p = k)

/-- A unit's cells hold an event token waiting for the field book (R152). -/
def holdsToken (s : State) (u : Nat) : Bool := s.cells.any fun e => decide (unitOf e.1 = u) && e.2.ledgerHold.isSome

/-- Every cell of die `k` grants: no token, no seat, no active entry, no held COMPLETE (R420). -/
def dieQuiet (s : State) (k : Nat) : Bool :=
  !(s.net.any (nearDie s k)) && !holdsToken s k &&
  (dieStations k).all fun n =>
    let x := s.stn n
    x.norm.seats.isEmpty && x.sec.seats.isEmpty && x.armed.isEmpty && x.norm.stack.isEmpty && x.sec.stack.isEmpty && x.heldW.isEmpty && x.resident.isNone

/-- Every hub cell grants: no token (every message of a hub cell is one, R35), no presented candidate but a recorded one, no open gather record,
no placement entry (R420). -/
def hubQuiet (s : State) : Bool :=
  !(s.net.any fun p => decide (standsIn s p = 12)) && !holdsToken s 12 && s.gathers.isEmpty && s.places.isEmpty &&
  s.queues.all fun e => decide (ownerUnit e.1 ≠ 12) || !e.2.handed || s.ctxs.any fun x => x.2.cands.any fun y => decide (y.cand.evid = e.1)

/-- Die `k` goes down (R419, R422); its cells are to run self-test anew (R55), and its guards leave the enabled ones (R274). -/
def downDie (s : State) (k : Nat) : State :=
  let s1 := s.modOp k fun o => linkDown { o with
    closing := false, stays := false, iso := true, logic := .off, mem := if wantM s k then .retained else .off, fresh := o.fresh || !wantM s k
    trav := if wantT s k then o.trav else .off, bring := 0 }
  let s2 := modUnit s1 k fun x => { x with en := false, quiet := true, bist := 0 }
  let s3 : State := { s2 with gates := s2.gates.filter fun g => decide (g.1 ≠ k) }
  sequence (isoAnswer (speedJudge s s3) k)

/-- The hub's logic is removed: E is latched and C starts (R423). CELL_EN and HUB_EN are kept for the wake (R425), as in Keep they are already;
the outputs of HUBL stand at their inactive levels (R412). -/
def hubOff (s : State) (m : Mode) (mem : DomSt) : State :=
  let kept := decide (s.pwr.mode = .keep)
  let s1 := modUnit s 12 fun x => { x with enKept := x.en || (kept && x.enKept), en := false, quiet := true }
  (s1.modHub fun h => { h with enKept := h.en || (kept && h.enKept), en := false, speedReq := false }).modPwr fun p => { p with
    mode := m, hubl := .off, hubm := mem, fresh := decide (mem = .off), closing := false, toSleep := false, bring := 0
    entryE := meridian s, slowNs := 0 }

/-- QUIESCE_GRANT: every cell of a closing unit grants (R420): a die goes down, the hub enters Keep or writes the save book. The
sequencer makes no change while PKG_RST_N is asserted (R503). -/
def execQuiesceGrant (unit : Nat) (s : State) : Ans :=
  if s.pwr.rst then .next s
  else if unit = 12 then
    if !s.pwr.closing ∨ s.pwr.toSleep ∨ !hubQuiet s then .next s
    else if wantHubm s then .next (hubOff s .keep .retained) else .next (s.modPwr fun p => { p with toSleep := true })
  else if unit < 12 ∧ (s.op unit).closing ∧ dieQuiet s unit then .next (downDie s unit) else .next s

/-- QUIESCE_REFUSED: a cell of a closing unit still holds something and refuses (R420). -/
def execQuiesceRefused (cell : Nat) (s : State) : Ans :=
  let u := unitOf cell
  if cell ≥ 1536 ∨ s.pwr.rst then .next s
  else if u = 12 then (if s.pwr.closing ∧ !hubQuiet s then .next (bump s (some cell) 0x08) else .next s)
  else if (s.op u).closing ∧ !dieQuiet s u then .next (bump (s.modOp u fun o => { o with stays := true }) (some cell) 0x08) else .next s

/-- QUIESCE_RETRY: the sequencer asks again while the domain is not wanted (R420). -/
def execQuiesceRetry (unit : Nat) (s : State) : Ans :=
  if s.pwr.rst ∨ s.pwr.hubl ≠ .on then .next s
  else if unit = 12 then .next (sequenceHub s)
  else if unit < 12 then .next (sequenceDie (s.modOp unit fun o => { o with stays := false }) unit) else .next s

/-- The save book's address (R426): directly above the spill ring, at the base in force (R293). -/
def bookBase (s : State) : Nat := s.fb.base.toNat + 16 * ringSize s

/-- The header of R427. -/
def bookHeader (len : Nat) (crc seq : Word) (e : Stamp) : List (BitVec 8) :=
  wordBytes 0x4B4F4F42 ++ halfBytes 1 ++ [0, 0] ++ wordBytes (w32 len) ++ wordBytes crc ++ wordBytes seq ++ wordBytes (lo32 e) ++ wordBytes (hi32 e) ++
  List.replicate 36 0

/-- The records of the on-chip buffer are read as the book is written: one in error is discarded, with its EVID where that can be
read (R157). -/
def bookReads (s : State) : State :=
  let es := s.ecc.filterMap fun y => match y.1 with | .record e => some e | _ => none
  forAll s es fun t e =>
    let k := strike t (.record e) (if Config.recordRead e then e else 0) (ledgerCell t e)
    if k.1 then storeLost k.2 (.record e) else k.2

/-- The hub is up to write its save book: in Run, or after it came up for it in Keep (R428). -/
def bookTime (s : State) : Bool := s.pwr.toSleep && (decide (s.pwr.hubl = .on) || decide (s.pwr.bring = 5))

/-- SAVE_BOOK_WRITTEN: the hub has written the book, whose body's bytes are `body`, and enters Sleep, or abandons the entry and stays in Keep
(R428); where HUBM has become wanted meanwhile the device stays in Keep too (R437). DESIGN CHOICE (log entry 96): memory is as it was after an
entry that is abandoned. -/
def execSaveBookWritten (body : List (BitVec 8)) (memOk : Bool) (s' : State) : Ans :=
  let s := bookReads s'
  if !bookTime s' then .next s'
  else if wantHubm s then .next (hubOff s .keep .retained)
  else if memOk ∧ body.length ≤ 33554368 then
    let q := s.pwr.saveSeq + 1
    let crc := crc32c body
    let s1 := hubOff (s.modPwr fun p => { p with saveSeq := q, bodyCrc := crc }) .sleep .off
    .next { s1 with mem := memWrite s1.mem (bookBase s) (bookHeader body.length crc q (meridian s) ++ body) }
  else .next (log (hubOff s .keep .retained) 0x88 13 false 0 (Config.bookCause (if memOk then 1 else 0)) s.pwr.saveSeq)

/-- ISO_REQ: a change of ISO_REQ_k (R421). -/
def execIsoReq (k : Nat) (level : Bool) (s : State) : Ans :=
  if k < 12 then .next (isoAnswer (s.modOp k fun o => { o with isoReq := level }) k) else .next s

/-! ## Wakes (R425, R430, R432, R433) -/

/-- The source, its code, its detail, and whether it is enabled and has happened (R100, R106, R433). -/
def srcCode : WakeSrc → Nat
  | .watch _ => 1 | .i3c => 2 | .chord _ => 3 | .doorbell _ => 4 | .regPort => 4 | .swdt => 5 | .alarm _ => 6
def srcDetail : WakeSrc → Nat
  | .watch n => n | .chord k => k | .doorbell p => p | .regPort => 8 | .alarm a => a | _ => 0
def srcOn (s : State) : WakeSrc → Bool
  | .watch n => (tget {} s.pwr.watch n).input.isSome && ((tget {} s.pwr.watch n).wake || decide (s.pwr.hubl = .on))
  | .i3c => s.pwr.wakeEn.getLsbD 0
  | .chord k => s.pwr.wakeEn.getLsbD 1 && populated s k
  | .doorbell p => s.pwr.wakeEn.getLsbD 2 && decide (p < 8) && s.pwr.knock.getLsbD p
  | .regPort => !s.pwr.heldAcc.isEmpty || decide (s.pwr.hubl = .on)
  | .swdt => true
  | .alarm a => (s.alarm a).arm && (s.alarm a).keep && (decide (s.pwr.mode = .keep) || s.pwr.closing) && decide ((s.alarm a).target.toNat ≤ (meridian s).toNat)

/-- The wake logic records a source and starts the wake (R425 step 1, R430 step 1); one that comes before the logic is removed
abandons the entry, with no LAST_WAKE (R437). DESIGN CHOICE (log entry 84): so does one that comes while the hub comes up in Keep to write its
save book, and Wairo takes no wake stake for it. -/
def wake (s : State) (w : WakeSrc) : State :=
  if !srcOn s w ∨ s.pwr.rst then s
  else if s.pwr.hubl = .on then (if s.pwr.closing then reopenHub s else s)
  else if s.pwr.mode = .keep ∧ s.pwr.toSleep then s.modPwr fun p => { p with mode := .wakeKeep, toSleep := false }
  else if (s.pwr.mode ≠ .keep ∧ s.pwr.mode ≠ .sleep) ∨ s.pwr.bring ≠ 0 then s
  else
    let keep := decide (s.pwr.mode = .keep)
    addStake (s.modPwr fun p => { p with
      wakeSrc := BitVec.ofNat 4 (srcCode w), wakeFrom := if keep then 2 else 3, wakeDet := BitVec.ofNat 6 (srcDetail w), wakeNew := true
      mode := if keep then .wakeKeep else .wakeSleep, hubl := if keep then .ramping else p.hubl, hubm := if keep then .ramping else p.hubm
      bring := if keep then 1 else 6, tries := 0, wakeStake := true }) 0 .hubl

/-- Nothing crosses link `k`, or waits to (R34). -/
def linkIdle (s : State) (k : Nat) : Bool := !(s.net.any fun p => p.waitsAt k true || p.waitsAt k false)

/-- WAKE_SOURCE (R433). -/
def execWakeSource (w : WakeSrc) (s : State) : Ans := .next (wake s w)

/-- WAKE_CHORD (R432): an upward chord is a wake source in Keep and Sleep, and before an entry into them completes (R437); a downward one is
presented at the die end. A chord comes over a link that is otherwise idle (R34). -/
def execWakeChord (k : Nat) (up : Bool) (s : State) : Ans := .next (if up && linkIdle s k then wake s (.chord k) else s)

/-- The occurrences that the AON held for watch inputs go to their inputs, with the stamp of R436; the enable of the intake cell
accepts them as booked (R98, R101). An endpoint that holds some already adds the count, which saturates, and keeps its stamp and kind (log
entry 66). -/
def watchDeliver (s : State) (w : Nat) : State :=
  let x := tget {} s.pwr.watch w
  let s1 := s.modPwr fun p => { p with watch := tset {} p.watch w { x with held := 0, heldC := 0, up := false, wake := false } }
  match x.input with
  | none => s1
  | some j =>
    if x.held = 0 then s1
    else s1.modInput (0xC01 + j) fun y =>
      if y.held = 0 then
        { y with held := x.held.zeroExtend 32, heldAt := s.pwr.entryE + BitVec.ofNat 64 (x.heldC * 1000), heldUp := x.up }
      else
        let n := y.held.toNat + x.held.toNat
        if n > 0xFFFFFFFF then { y with held := 0xFFFFFFFF, heldSat := true } else { y with held := BitVec.ofNat 32 n }

/-- Each armed alarm whose target has passed fires once, booked, stamped with the restored meridian (R229). -/
def alarmsAfterWake (s : State) : State :=
  forAll s (List.range 4) fun t a =>
    if (t.alarm a).arm ∧ (t.alarm a).target.toNat ≤ t.mer.now.toNat then fireAlarm t a t.mer.now 7 else t

/-- The parts of the hub that a lost save book loses, and a reset clears (R431, R503): cells, stores, records and registers of the
hub and the outposts; the power lines, the meridian's count and the island stay. -/
def wipeUnits (s : State) : State :=
  { s with
    net := [], cells := [], queues := internalQueues (firstStation s), tally := [], pool := [], fb := {}, gates := [], resv := [], stns := []
    ctxs := [], spreads := [], places := [], views := [], gangs := [], gathers := [], trains := [], parcels := [], parcel0 := {}
    mbxN := {}, mbxS := {}, parity := s.parity.filter fun r => decide (r = 0x20200) || decide (r = 0x20204), ecc := [], testCtl := []
    inputs := (s.inputs.map fun e => (e.1, ({ level := e.2.level, raw := e.2.raw } : Input))).filter fun e => decide (e.2 ≠ {})
    hub := { populated := s.hub.populated, bistPhys := s.hub.bistPhys }
    mer := { now := s.mer.now, locked := s.mer.locked, lockedAt := s.mer.lockedAt, degraded := s.mer.degraded, estim := s.mer.estim, uncert := s.mer.uncert, refNs := s.mer.refNs, slotAt := s.mer.slotAt, window := s.mer.window, splitFor := s.mer.splitFor }
    outs := s.outs.map fun e => (e.1, ({ logic := e.2.logic, mem := e.2.mem, trav := e.2.trav, iso := e.2.iso, noSupply := e.2.noSupply, isoReq := e.2.isoReq, isoGnt := e.2.isoGnt, copy := e.2.copy, align := .training, holdover := e.2.holdover, lowLogic := e.2.lowLogic, lowMem := e.2.lowMem, lowTrav := e.2.lowTrav, bring := e.2.bring, tries := e.2.tries, chords := e.2.chords, vlogic := e.2.vlogic, vmem := e.2.vmem, vtrav := e.2.vtrav } : Outpost)) }

/-- The physical hub cells that failed their latest self-test. -/
def hubFails (s : State) : List Nat := (s.hub.bistPhys.filter fun e => decide (e.1 < 768) && decide (e.2 = 2)).map (·.1)

/-- The hub is on after a wake, with the restored meridian (R425 step 6, R430 step 8); the test controls count as untouched (R300). -/
def wakeOn (s : State) : State :=
  let s1 := (restoreMer s).modHub fun h => { h with touched := false }
  s1.modPwr fun p => { p with mode := .run, hubl := .on, hubm := .on, bring := 0, tries := 0, fresh := false, wakeMer := s1.mer.now }

/-- The hub takes up its work as before (R425 steps 6 and 7, R430 steps 8 and 9), with HUB_EN unless a hub slot is UNSERVED (R65): the filters of its inputs start from the present level
(R424), sweep, enables, held happenings, the wake report of R474. -/
def wakeResume (s : State) : State :=
  let s0 := forAll s (tkeys s.inputs) fun t e => if isOutpostWired e then t else t.modInput e Input.sampled
  let s1 := missTrains (forAll s0 (tkeys s.pwr.watch) watchDeliver)
  let s2 := reEnable (sweep s1) ((streamCells s1).filter fun c => decide (unitOf c = 12))
  let s3 := s2.modHub fun h => { h with en := h.enKept && !unitUnserved s2 12, enKept := false }
  let s4 := alarmsAfterWake (deliverFaults (intakeHub s3 0xFFFD8 0 s3.mer.now 0 .device .none false))
  sequence (serveHeld (releaseDb (sweepAgain s4)))

/-- The save book as it is read, its header and then its body, is the one that the island knows (R427, R431). -/
def bookOk (s : State) (bs : List (BitVec 8)) : Bool :=
  let field (i n : Nat) : Nat := bytesNum ((bs.drop i).take n).reverse
  let body := (bs.drop 64).take (field 0x08 4)
  decide (64 ≤ bs.length) && decide (field 0 4 = 0x4B4F4F42) && decide (field 4 2 = 1) && decide (field 0x0C 4 = s.pwr.bodyCrc.toNat) &&
  decide (field 0x10 4 = s.pwr.saveSeq.toNat) && decide (crc32c body = s.pwr.bodyCrc)

/-- The save book is lost: a cold start from step 2 of R84, with Wairo's cold-start stakes (R415, R431). The doorbell writes that the ports hold are
handled with those of their front ends, under R62. An activation goes on, but the command that began it is gone with its mailbox (R341). -/
def bookLost (s : State) : State :=
  let s1 := log (watchDrop (wakeOn s)) 0x88 13 false 1 (Config.bookCause 2) s.pwr.saveSeq
  let s2 := (wipeUnits s1).modIsl fun x => { x with turn := none, listRun := none, act := x.act.map fun a => (none, a.2) }
  let ds := (List.range 8).flatMap fun p => tget [] s.hub.ports p
  let s3 := coldStart (coldStakes (sweepAgain (s2.modPwr fun p => { p with heldDb := ds ++ p.heldDb }))) (hubFails s)
  intakeHub s3 0xFFFD8 0 s3.mer.now 0 .device .none false

/-- WAKE_COMPLETE: the hub is restored from its retained memory or, after a Sleep, from the save book, which the operand gives as it is read
(`none`: a read fails); or the book is lost (R425, R430, R431). After a Sleep the booked tally of every unbound EVID reads 0 (R130), and FBW is
set from the records restored (R157). -/
def execWakeComplete (book : Option (List (BitVec 8))) (s : State) : Ans :=
  if s.pwr.bring ≠ 5 ∨ s.pwr.toSleep then .next s
  else if s.pwr.mode = .wakeSleep then
    if (match book with | some bs => bookOk s bs | none => false) then
      let s1 := wakeOn s
      let s2 : State := { s1 with tally := s1.tally.filter fun e => (s1.queue e.1).bound
                                  queues := s1.queues.map fun e => (e.1, { e.2 with fbw := e.2.bound && !e.2.poisoned && fbWaits s1 e.1 }) }
      .next (wakeResume s2)
    else .next (bookLost s)
  else .next (wakeResume (wakeOn s))

/-- NAP_WAKE_CHORD_TIMER: a downward wake chord while a queue is held for a die that is off by grant (R422), on a link that is otherwise idle
(R34). -/
def execNapWakeChordTimer (k : Nat) (s : State) : Ans :=
  if s.pwr.hubl = .on ∧ populated s k ∧ (s.op k).logic = .off ∧ !(s.op k).noSupply ∧ !(s.op k).lost ∧ linkIdle s k ∧ s.queues.any (fun e => decide (e.2.heldFor = some k)) then
    .next (s.modOp k fun o => { o with chords := o.chords + 1 })
  else .next s

/-! ## Wairo's own stakes (R415) -/

/-- COLD_STAKE_RELEASE. -/
def execColdStakeRelease (s : State) : Ans :=
  if s.pwr.coldStake ∧ s.pwr.coldDue ∧ !s.pwr.rst then
    .next (sequence (s.modPwr fun p => { p with coldStake := false, coldDue := false, stakes := p.stakes.filter fun x => decide (x.1 ≠ 0) || (p.wakeStake && decide (x.2 = .hubl)) }))
  else .next s

/-- Wairo gives up its wake stake. -/
def dropWakeStake (s : State) : State :=
  if s.pwr.wakeStake then
    let s1 := s.modPwr fun p => { p with wakeStake := false }
    if s.pwr.coldStake then s1 else dropStake s1 0 .hubl
  else s

/-- WAKE_STAKE_RELEASE. -/
def execWakeStakeRelease (s : State) : Ans :=
  if s.pwr.wakeStake ∧ s.pwr.mode = .run ∧ !s.pwr.rst then .next (sequence (dropWakeStake s)) else .next s

/-! ## STAKE_TAKE, STAKE_RELEASE, WAKE_CONFIG (R354) -/

def stakeDoms (c : Call) : List Dom :=
  let ks (i : Nat) (f : Nat → Dom) : List Dom := ((List.range 12).filter fun k => (c.arg i).getLsbD k).map f
  (if (c.arg 1).getLsbD 0 then [Dom.hubl] else []) ++ (if (c.arg 1).getLsbD 1 then [Dom.hubm] else []) ++
  ks 2 Dom.outL ++ ks 3 Dom.outM ++ ks 4 Dom.trav
def clientOk (n : Nat) : Bool := decide (n = 1) || (decide (2 ≤ n) && decide (n ≤ 13)) || decide (16 ≤ n)
def dieOf : Dom → Option Nat
  | .hubl | .hubm => none
  | .outL k | .outM k | .trav k => some k
def domAbsent (s : State) (d : Dom) : Bool := match dieOf d with | some k => !populated s k | none => false

/-- A client-1 stake command of the secure mailbox that names a die in service ends its SEC_CUT; held queues are offered again
(R400). -/
def endCut (s : State) (c : Call) : State :=
  if c.sec ∧ (c.arg 0).toNat = 1 then
    forAll s (List.range 12) fun t k =>
      if (stakeDoms c).any (fun d => decide (dieOf d = some k)) ∧ inService t k ∧ (t.op k).secCut then
        routesReturn (t.modOp k fun o => { o with secCut := false })
      else t
  else s

/-- A stake on OUTk_L of a lost die whose attempts are used up, with none held before, starts the count again (R484). -/
def takeOne (n : Nat) (s : State) (d : Dom) : State :=
  let s1 := match d with
    | .outL k => if staked s d then s else s.modOp k fun o => { o with returns := 0 }
    | _ => s
  addStake s1 n d

/-- The named domains that are not ON, in the layout of ARG1 to ARG4. -/
def notOn (s : State) (c : Call) : List Word :=
  let off (d : Dom) : Bool := decide (domSt s d ≠ .on)
  let m (i : Nat) (f : Nat → Dom) : Word := w32 (bitsOf 12 fun k => (c.arg i).getLsbD k && off (f k))
  [flag 0 ((c.arg 1).getLsbD 0 && off .hubl) ||| flag 1 ((c.arg 1).getLsbD 1 && off .hubm), m 2 Dom.outL, m 3 Dom.outM, m 4 Dom.trav]

def stakeChecks (c : Call) (s : State) : List (Bool × Nat) :=
  [ (!c.sec && decide ((c.arg 0).toNat = 1), cDenied), (!clientOk (c.arg 0).toNat, cBadArg), ((stakeDoms c).any (domAbsent s), cBadArg) ]

/-- STAKE_TAKE: the stakes are taken, and the answer as the domains stand then (R354, R415). -/
def cmdStakeTake (c : Call) (s : State) : Res :=
  let n := (c.arg 0).toNat
  checked c [0xFF, 3, 0xFFF, 0xFFF, 0xFFF] (stakeChecks c s ++ [((stakeDoms c).isEmpty, cBadArg)]) s fun _ =>
    let s1 := forAll s (stakeDoms c) (takeOne n)
    let s2 := if (c.arg 1).getLsbD 0 then dropWakeStake (s1.modPwr fun p => { p with coldDue := p.coldDue || p.coldStake }) else s1
    let s3 := sequence (endCut s2 c)
    { code := if (stakeDoms c).any fun d => decide (domSt s3 d = .failed) then cNoResource else cOk, resp := notOn s3 c, st := s3 }

/-- STAKE_RELEASE (R354). -/
def cmdStakeRelease (c : Call) (s : State) : Res :=
  let n := (c.arg 0).toNat
  checked c [0xFF, 3, 0xFFF, 0xFFF, 0xFFF]
    (stakeChecks c s ++ [((stakeDoms c).any fun d => decide ((n, d) ∉ s.pwr.stakes), cBadArg)]) s fun _ =>
    { code := cOk, st := sequence (endCut (forAll s (stakeDoms c) fun t d => dropStake t n d) c) }

/-- WAKE_CONFIG (R99, R354). -/
def cmdWakeConfig (c : Call) (s : State) : Res :=
  let op := bits (c.arg 0) 0 2
  let slot := bits (c.arg 0) 8 6
  let j := bits (c.arg 1) 0 10
  let w := bits (c.arg 2) 0 10
  let other := s.pwr.watch.any fun x => decide (x.1 ≠ slot) && decide (x.2.input = some j)
  checked c (match op with | 0 => [0x3F03, 0x3FF, 0x3FF] | 2 => [0x3F03, 7] | _ => [0x3F03])
    [ (decide (op = 3), cBadArg), (decide (op = 0) && (other || decide (w > 1000)), cBadArg) ] s fun _ =>
    { code := cOk
      st := s.modPwr fun p =>
        match op with
        | 0 => { p with watch := tset {} p.watch slot { input := some j, width := BitVec.ofNat 10 w } }
        | 1 => { p with watch := tset {} p.watch slot {} }
        | _ => { p with wakeEn := (c.arg 1).extractLsb' 0 3 } }

/-- A named domain of a waiting STAKE_TAKE is still coming up. -/
def stakeWaits (s : State) (c : Call) : Bool := (stakeDoms c).any fun d => decide (domSt s d = .ramping)

/-- STAKE_TAKE: it stays in progress while a named domain comes up, and the row issued again then ends it (R354). -/
def execStakeTake (b : Box) (s : State) : Ans :=
  let s1 := parityAll s (boxRegs b)
  let c := callOf s1 b
  let r := cmdStakeTake c s1
  if boxTurn s b ∧ !(s1.mbx b).list ∧ (s1.mbx b).op = 0x50 ∧ r.code = cOk ∧ stakeWaits r.st c then
    .next (r.st.modIsl fun x => { x with turn := some b })
  else serveBox b 0x50 anyForm cmdStakeTake s
/-- STAKE_RELEASE (R354). -/
def execStakeRelease (b : Box) (s : State) : Ans := serveBox b 0x51 anyForm cmdStakeRelease s
/-- WAKE_CONFIG (R354). -/
def execWakeConfig (b : Box) (s : State) : Ans := serveBox b 0x52 anyForm cmdWakeConfig s

/-! ## Oscillators (R435) -/

/-- RC_OSC_TIMEOUT: the RC oscillator is not ready in time at a wake from Sleep or at the start of the island. -/
def execRcOscTimeout (s : State) : Ans :=
  if s.pwr.backup ∨ (s.pwr.bring ≠ 6 ∧ s.isl.booting ≠ some 0) then .next s
  else .next (raise ((hubRamps s).modPwr fun p => { p with backup := true }) 0x0B 13 false 0 12 0 none)

/-- RC_OSC_RETRY: the island tries the RC oscillator again, and returns to it when it is ready. -/
def execRcOscRetry (ready : Bool) (s : State) : Ans :=
  if s.pwr.backup ∧ ready ∧ s.pwr.mode ≠ .sleep then .next (s.modPwr fun p => { p with backup := false }) else .next s

/-- PD_GOOD_STILL_ASSERTED: logged, without a fault (R419). -/
def execPdGoodStillAsserted (d : Dom) (s : State) : Ans :=
  if domSt s d = .off then
    let e := Config.lateGood d
    .next (log s (Config.logCode e.1) (domUnit d) false e.2.1 e.2.2.1 e.2.2.2)
  else .next s

/-! ## Cuts (R398 to R402) -/

/-- A domain of die `k` is in secure use (R397). -/
def dieSecure (s : State) (k : Nat) : Bool := secureStake s (.outL k) || secureStake s (.outM k) || secureStake s (.trav k)

/-- The supply of die `k` is gone: clamps applied, domains OFF, the outpost lost (R399 steps 1 and 2, R402). -/
def cutDie (s : State) (k : Nat) (sec : Bool) : State :=
  let s1 := s.modOp k fun o => { o with iso := true, secCut := o.secCut || sec, closing := false }
  let s2 := declareLost (s1.modOp k fun o => linkDown { o with
    logic := .off, mem := .off, trav := .off, fresh := true, noSupply := true, bring := 0, tries := 0 }) k
  isoAnswer (modUnit s2 k fun x => { x with bist := 0 }) k

/-- Client 1's stakes on die `k`, in the layout of PWR_STAKES_k (R477). -/
def clientOne (s : State) (k : Nat) : Word :=
  flag 0 (secureStake s (.outL k)) ||| flag 8 (secureStake s (.outM k)) ||| flag 16 (secureStake s (.trav k)) ||| flag 24 (dieSecure s k)

/-- Some domain of die `k` is supplied. -/
def diePowered (s : State) (k : Nat) : Bool :=
  decide ((s.op k).logic ≠ .off) || decide ((s.op k).mem ≠ .off) || decide ((s.op k).trav ≠ .off)

/-- SECURE_POWER_CUT: a domain of a die in secure use is cut without a grant (R398, R399). -/
def execSecurePowerCut (d : Dom) (reference : Bool) (s : State) : Ans :=
  match dieOf d with
  | none => .next s
  | some k =>
    if !populated s k ∨ !dieSecure s k ∨ (s.op k).isoGnt ∨ !diePowered s k then .next s
    else .next (raise (cutDie s k true) 0x0C k true (w32 k) (at_ 0 (domCode d) ||| flag 8 reference) (clientOne s k) none)

/-- Client 1's stakes on the hub, in the layout of R477. -/
def clientOneHub (s : State) : Word :=
  flag 0 (secureStake s .hubl) ||| flag 8 (secureStake s .hubm) ||| flag 24 (secureStake s .hubl || secureStake s .hubm)

/-- What HUBM and the stores of the hub's cells hold is dropped (R401, R411): hub cells, queues, pool, tally, field book, parcels, contexts and the
records of the hub's rank and gang cells. What outposts hold stays. -/
def wipeHub (s : State) : State :=
  { s with
    cells := s.cells.filter fun e => decide (unitOf e.1 ≠ 12), queues := (s.queues.filter fun e => decide (ownerUnit e.1 ≠ 12)) ++ internalQueues (firstStation s)
    tally := [], pool := [], fb := {}, gates := [], resv := s.resv.filter fun e => decide (keyUnit e.1 ≠ 12), ctxs := [], spreads := [], places := [], views := []
    gangs := [], gathers := [], trains := [], parcels := [], parcel0 := {}
    ecc := s.ecc.filter fun y => decide (storeUnit y.1 ≠ 12)
    inputs := (s.inputs.map fun e => (e.1, if isOutpostWired e.1 then e.2 else ({ level := e.2.level, raw := e.2.raw } : Input))).filter fun e => decide (e.2 ≠ {})
    hub := { populated := s.hub.populated, bistPhys := s.hub.bistPhys } }

/-- A hub domain is cut (R401, R490): what stands in it is dropped, commands in progress among it, and the outputs of HUBL stand at their inactive
levels (R412); with `all`, in HUBM and HUBL alike, as for a cold start. In a wake the device falls back to the state that it was waking from
(R434), with the records that are retained or in the save book. -/
def hubCut (s : State) (d : Dom) (all : Bool) : State :=
  let waking := decide (s.pwr.mode = .wakeSleep) || (decide (s.pwr.mode = .wakeKeep) && decide (d = .hubl))
  let m : Mode := match s.pwr.mode with | .wakeKeep => .keep | .wakeSleep => .sleep | x => x
  let s1 := (modUnit s 12 fun x => { x with en := false, quiet := true, enKept := waking && x.enKept }).modPwr fun p => { p with
    bring := 0, tries := 0, closing := false, toSleep := false, hubl := .off, mode := m, cold := p.cold || !waking, coldStake := p.coldStake && waking
    hubm := if s.pwr.mode = .wakeKeep then .retained else if s.pwr.mode = .wakeSleep then .off else p.hubm }
  let s2 : State := { s1.modHub fun h => { h with speedReq := false } with
    net := s1.net.filter fun p => decide (standsIn s1 p ≠ 12), mbxN := {}, mbxS := {} }
  let s3 := s2.modIsl fun x => { x with
    turn := none, listRun := none, act := x.act.map fun a => (none, a.2), sweep := { x.sweep with run := none, owner := none } }
  let s4 := if waking then s3 else if all then wipeUnits s3 else if d = .hubm then wipeHub s3 else s3
  if d = .hubm ∧ !waking then s4.modPwr fun p => { p with hubm := .off, fresh := true } else s4

/-- HUB_SECURE_POWER_CUT (R401): every cell and record of the domain is dropped, the island logs it and asserts CHIP_RESET_REQ. -/
def execHubSecurePowerCut (d : Dom) (reference : Bool) (s : State) : Ans :=
  if (d ≠ .hubl ∧ d ≠ .hubm) ∨ !secureStake s d ∨ domSt s d = .off then .next s
  else
    let s1 := log s 0x0C 12 true 12 (at_ 0 (domCode d) ||| flag 8 reference) (clientOneHub s)
    .next ((hubCut s1 d false).modPwr fun p => { p with cause := p.cause &&& ~~~4, chipRst := true, chipRep := 0 })

/-- Bring-up of the hub pair begins (R417 step 1). -/
def raiseHubPair (s : State) : State :=
  s.modPwr fun p => { p with hubl := .ramping, hubm := .ramping, bring := 1, tries := 0, fresh := true }

/-- A hub domain without a secure stake is cut (R490). DESIGN CHOICE (log entry 85): the hub's records are dropped, and where a domain of it is
wanted the pair comes up again as at a cold start. -/
def cutHub (s : State) (d : Dom) : State :=
  if secureStake s d ∨ domSt s d = .off then s
  else
    let t := hubCut s d true
    if t.pwr.cold ∧ !t.pwr.rst ∧ wairoRuns t then raiseHubPair (coldStakes t) else t

/-- CUT_WITHOUT_HANDSHAKE: a die with no secure stake is cut (R402), or at 12 and 13 HUBL and HUBM (R490). -/
def execCutWithoutHandshake (k : Nat) (s : State) : Ans :=
  if k = 12 then .next (cutHub s .hubl)
  else if k = 13 then .next (cutHub s .hubm)
  else if !populated s k ∨ dieSecure s k ∨ (s.op k).isoGnt ∨ !diePowered s k then .next s else .next (cutDie s k false)

end Sys2Proof.Machine
end

