-- ==== Sys2Proof/Machine/Sideband.lean ====
section
/-! DEFINITION. The I3C sideband: its target, MCTP requests and the reports of the island (R457 to R460). -/

namespace Sys2Proof.Machine

open Sys2Proof

/-! ## The target (R457, R458) -/

/-- The static address (R457). -/
def staticAddr (s : State) : BitVec 7 := 0x48 + s.isl.straps.i3cAddr.zeroExtend 7

/-- PID, most significant byte first (R457). -/
def pidBytes (s : State) : List (BitVec 8) :=
  let p := s.isl.straps.mfr.toNat * 2 ^ 33 + 0xC288 * 2 ^ 16 + s.isl.deviceId.toNat % 2 ^ 16
  (List.range 6).map fun i => BitVec.ofNat 8 (p >>> (8 * (5 - i)))

/-- The CCC is sent to the target's own address, which the matcher then finds; the others may be broadcast (log entry 87). -/
def cccOwn (s : State) : Ccc → Bool
  | .setdasa a => decide (a = staticAddr s)
  | .getmwl | .getmrl | .getpid | .getbcr | .getdcr | .getstatus => true
  | _ => false

/-- What the matcher does with a transfer (R458): while the device is Off nothing answers; in Sleep the header is NACKed, and a match of the
own address starts the wake where the source is enabled; otherwise the transfer is served by `f`, and in Keep a match also wakes the device. The
transfer ends an announcement of R460. DESIGN CHOICE (log entry 98): transfers are served whether or not a dynamic address has been taken. -/
def transfer (s : State) (own : Bool) (f : State → State) : State :=
  let t : State := { s with out := { s.out with ibi := false } }
  if s.pwr.mode = .off then { t with out := { t.out with i3c := [], nack := true } }
  else
    let u := if s.pwr.mode = .sleep then { t with out := { t.out with i3c := [], nack := true } } else f { t with out := { t.out with nack := false } }
    if own then wake u .i3c else u

/-- What the target answers to a CCC (R457). -/
def cccAnswer (c : Ccc) (s : State) : State :=
  let answer (t : State) (bs : List (BitVec 8)) : State := { t with out := { t.out with i3c := bs } }
  let hl (n : BitVec 16) : List (BitVec 8) := [n.extractLsb' 8 8, n.extractLsb' 0 8]
  match c with
  | .enec b => answer (s.modIsl fun x => { x with i3cEvents := x.i3cEvents ||| b }) []
  | .disec b => answer (s.modIsl fun x => { x with i3cEvents := x.i3cEvents &&& ~~~b }) []
  | .rstdaa => answer (s.modIsl fun x => { x with dynAddr := false }) []
  | .setaasa => answer (s.modIsl fun x => { x with dynAddr := true }) []
  | .setdasa a => answer (if a = staticAddr s then s.modIsl fun x => { x with dynAddr := true } else s) []
  | .setmwl n => answer (s.modIsl fun x => { x with mwl := n }) []
  | .setmrl n => answer (s.modIsl fun x => { x with mrl := n }) []
  | .getmwl => answer s (hl s.isl.mwl)
  | .getmrl => answer s (hl s.isl.mrl)
  | .getpid => answer s (pidBytes s)
  | .getbcr => answer s [0x0E]
  | .getdcr => answer s [0x00]
  | .getstatus => answer s Config.i3cStatus
  | .other _ => { s with out := { s.out with i3c := [], nack := true } }

/-- I3C_CCC (R457, R458). -/
def execI3cCcc (c : Ccc) (s : State) : Ans := .next (transfer s (cccOwn s c) (cccAnswer c))

/-! ## MCTP (R459, R486) -/

/-- The answer of one vendor request, whose vendor identifier field carries the value of the straps (R459). -/
def mctpAnswer (s : State) (code : Nat) (resp : List Word) : State :=
  { s with out := { s.out with mctp := w32 code :: resp, vid := s.isl.straps.vid } }

/-- Bytes in transmission units of 64 (R459). -/
def inUnits : Nat → List (BitVec 8) → List (List (BitVec 8))
  | 0, _ => []
  | n + 1, bs => if bs = [] then [] else bs.take 64 :: inUnits n (bs.drop 64)

/-- The transmission units of the latest answer, as it leaves the target (R459). -/
def mctpUnits (s : State) : List (List (BitVec 8)) :=
  let bs := halfBytes s.out.vid ++ s.out.mctp.flatMap wordBytes
  inUnits bs.length bs

/-- A vendor request (R459, R486): served while neither mailbox has a command waiting; while Ronuo is halted in its boot ROM only GET_INFO is
answered here. A message with another vendor identifier is none of this target's. -/
def vendorAnswer (vid opcode : BitVec 16) (args : List Word) (s : State) : State :=
  let c : Call := { box := .normal, args := args }
  let run (f : Call → State → Res) : State := let r := f c s; mctpAnswer r.st r.code r.resp
  if vid ≠ s.isl.straps.vid then s
  else if s.isl.fw = .halted then (if opcode = 1 then run cmdGetInfo else mctpAnswer s 0x0D [])
  else if !wairoRuns s ∨ s.mbxN.busy ∨ s.mbxS.busy then s
  else match opcode.toNat with
    | 0x01 => if s.pwr.hubl = .on then run cmdGetInfo else mctpAnswer s cBusy []
    | 0x02 => if s.pwr.hubl = .on then run cmdStatusPeek else mctpAnswer s cBusy []
    | 0x70 => run cmdLogRead
    | _ => mctpAnswer s cDenied []

/-- MCTP_VENDOR_REQUEST (R458, R459): a vendor request with its opcode, or a control message with its command code. -/
def execMctpVendorRequest (code : BitVec 16) (m : MctpReq) (s : State) : Ans :=
  .next (transfer s true fun t => match m with
    | .vendor vid args => vendorAnswer vid code args t
    | .control d => { t with out := { t.out with ctrl := Config.mctpControl code d } })

/-! ## Reports (R460) -/

/-- SIDEBAND_REPORT: Wairo sends the oldest report, announced by an IBI; what was dropped goes before it (R460). DESIGN CHOICE (log entry 99): the
IBI is raised whether or not DISEC has disabled target events. -/
def execSidebandReport (s : State) : Ans :=
  match s.isl.reports with
  | [] => .next s
  | e :: rest =>
    if !wairoRuns s ∨ s.pwr.mode = .sleep then .next s
    else
      let drop : List LogEntry := if s.isl.repDrop = 0 then []
        else [{ entryNow s 0x8B 13 false s.isl.repDrop 0 0 false with no := Config.logOpen 2 }]
      let t := s.modIsl fun x => { x with reports := rest, repDrop := 0, sent := drop ++ [hideArgs e true] }
      .next { t with out := { t.out with vid := s.isl.straps.vid, ibi := true } }

end Sys2Proof.Machine
end

