-- ==== Sys2Proof/Machine/Reset.lean ====
section
/-! DEFINITION. PKG_RST_N, AUXIN, the secure watchdog and the starts of Ronuo (R310, R341 to R343, R403 to R405, R439, R443, R444,
R446, R486, R488, R503). -/

namespace Sys2Proof.Machine

open Sys2Proof

/-! ## PKG_RST_N (R503) -/

/-- The glitch filter of PKG_RST_N: a pulse below 200 ns is never taken, one of 1 µs always; one between is free value `Config.pulseTaken` (R497,
log entry 6). -/
def pulseTaken (s : State) (lowNs : Nat) : Bool := decide (1000 ≤ lowNs) || (decide (200 ≤ lowNs) && Config.pulseTaken s.free)

/-- A DEBUG_UNLOCK that waits as PKG_RST_N comes is served after it, with no prior scope (R410): its mailbox keeps it. -/
def keptUnlock (s : State) (b : Box) : Mbx :=
  let m := s.mbx b
  if m.busy && !m.list && decide (m.op = 0xA0) && !m.cut then m else {}

/-- PKG_RST_N is taken (R503): the logic of every unit is in reset; registers of the always-on domain that R310 names, the log, the MRAM, the
create counter and the meridian's count stay. One that is low as AUXIN rises is taken once VAON is good, and logged then (R501). The period that
the secure watchdog takes is read with its parity (R20, R405). -/
def takeReset (s' : State) : State :=
  if (s'.pwr.rst ∧ s'.pwr.cause.getLsbD 1) ∨ s'.pwr.mode = .off then s'
  else
    let s := parityCheck s' 0x20200
    let s1 := (wipeUnits (log s 0x8C 13 false 0 0 0)).modMer fun m => { m with degraded := false, estim := false, uncert := 0, locked := true }
    let m : Mode := match s.pwr.mode with | .wakeKeep => .keep | .wakeSleep => .sleep | x => x
    let s2 := s1.modPwr fun p => { p with
      cause := p.cause ||| 2, rst := true, chipRst := false, chipRep := 0, swStage := false, swDone := false, backup := false, knock := 0, swLeft := p.swPeriod, swNs := 0, mode := m
      temps := [], vhubl := 0, vhubm := 0, vaon := 0, auxin := 0, auxLow := false, auxHigh := false, bring := 0, tries := 0, closing := false
      toSleep := false, cold := true, watch := p.watch.map fun w => (w.1, { w.2 with held := 0, heldC := 0, up := false, wake := false }) }
    let s3 := s2.modIsl fun x => { x with scope := 0, ronuoHalt := false, turn := none, listRun := none, act := x.act.map fun a => (none, a.2), journal := [], policy := [], sweep := {}, easement := [], auditFor := [] }
    { s3 with
      outs := s3.outs.map fun e => (e.1, { e.2 with bring := 0, tries := 0, holdover := false, vlogic := 0, vmem := 0, vtrav := 0 })
      mbxN := keptUnlock s .normal, mbxS := keptUnlock s .secure, out := {}, waits := [] }

/-- PKG_RST_ASSERT: PKG_RST_N has been low for `lowNs` ns, for the 1 µs that is always taken where nothing else is said (R497, R503). -/
def execPkgRstAssert (s : State) (lowNs : Nat := 1000) : Ans :=
  let t : State := if 200 ≤ lowNs ∧ lowNs < 1000 then { s with free := s.free + 1 } else s
  .next (if pulseTaken s lowNs then takeReset t else t)

/-- PKG_RST_DEASSERT: stakes are cleared and Wairo takes its own; a hub that is ON goes through the cold start, one that is not comes up
first (R84, R503). -/
def execPkgRstDeassert (bist : Bist) (s' : State) : Ans :=
  if !s'.pwr.rst then .next s'
  else
    let s := parityCheck s' 0x20200
    let s1 := s.modPwr fun p => { p with rst := false, stakes := [], coldStake := false, coldDue := false, wakeStake := false, swLeft := p.swPeriod, swNs := 0 }
    if !wairoRuns s1 then .next s1
    else
      let s2 := coldStakes s1
      if s2.pwr.hubl = .on then .next (coldStart s2 (bistFailing s2 bist)) else .next (raiseHubPair s2)

/-- Wairo has started: a cold start that waits for it begins (R84, R439), with the hub pair OFF, FAILED or left RAMPING by PKG_RST_N, or at once
where the hub is ON; its self-test then finds what the latest one found (DESIGN CHOICE, log entry 79). -/
def startWairo (s : State) : State :=
  if !s.pwr.cold ∨ s.pwr.rst ∨ s.pwr.coldStake then s
  else if s.pwr.hubl = .on then coldStart (coldStakes s) (hubFails s)
  else if s.pwr.bring = 0 then raiseHubPair (coldStakes s) else coldStakes s

/-! ## AUXIN (R488) -/

/-- The log as AUXIN leaves it: the entry that the writer writes is torn, and with it goes the one whose place it takes in the full ring; the
place is reused, as its number is (R455, R461, R501). -/
def tornLog (x : Isl) : List LogEntry := if (x.logQ ≠ [] ∨ x.logDrop ≠ 0) ∧ 8192 ≤ x.log.length then x.log.drop 1 else x.log

/-- The device is Off: what stands in MRAM stays (R37, R416, R440), but the slot that an FW_STAGE writes, which is EMPTY (R461), and the entries
that wait for the log writer (R455). The levels of the ISO_REQ inputs are the package's. -/
def offState (s : State) : State :=
  let x := (dropStaging s).isl
  { wipeUnits { s with outs := [], mer := {}, hub := {} } with
    hub := {}, out := {}, parity := [], waits := []
    outs := (s.outs.map fun e => (e.1, ({ isoReq := e.2.isoReq } : Outpost))).filter fun e => decide (e.2 ≠ {})
    pwr := { mode := .off, hubl := .off, hubm := .off, cause := 0 }
    isl := { fw := .restarting, a := x.a, b := x.b, rollback := x.rollback, store0 := x.store0, store1 := x.store1, bootMark := x.bootMark, bench := x.bench, benchPend := x.benchPend, defaults := x.defaults, deviceId := x.deviceId, fwKey := x.fwKey, dbgKey := x.dbgKey, provLock := x.provLock, dbgCount := x.dbgCount, slotB := x.slotB, log := tornLog x, logNext := x.logNext } }

/-- AUXIN_LOST. -/
def execAuxinLost (s : State) : Ans := .next (offState s)

/-- AUXIN_APPLIED: the island's rails rise, the straps are sampled and Ronuo starts in its boot ROM (R439, R497); PKG_RST_N is asserted
until the board releases it (R84 step 1). -/
def execAuxinApplied (straps : Straps) (s : State) : Ans :=
  if s.pwr.mode ≠ .off then .next s
  else
    let s1 := (s.modPwr fun p => { p with mode := .run, cause := 1, rst := true }).modIsl fun x => { x with
      straps := straps, fw := .restarting, booting := some 0, createCnt := 1, slotB := false }
    .next (forAll s1 (List.range 12) isoAnswer)

/-- AUXIN_SURGE_LIMIT: from 54 to 60 V the stage stops and the device is Off; above 60 V no behaviour is stated (R488). -/
def execAuxinSurgeLimit (mv : Nat) (s : State) : Ans :=
  if mv > 60000 then .fault .absoluteMaximum else if mv > 54000 then .next (offState s) else .next s

/-! ## Secure watchdog (R403, R404) -/

/-- The secure watchdog counts: not Off, not under PKG_RST_N, not paused through the gate (R403, R405, R408). Each stage ends as its period has
run out, and with it its expiry comes (log entry 42). -/
def swdtCounts (s : State) : Bool :=
  decide (s.pwr.mode ≠ .off) && !s.pwr.rst && !(s.isl.ronuoHalt && s.isl.scope.getLsbD 3)

/-- SWDT_FIRST_EXPIRY: stage 0 has lasted its period (R403, R404, R410). -/
def execSwdtFirstExpiry (s : State) : Ans :=
  if !swdtCounts s ∨ s.pwr.swStage ∨ s.pwr.swLeft ≠ 0 then .next s
  else
    let s1 := (parityCheck s 0x20200).modPwr fun p => { p with swStage := true, swLeft := p.swPeriod, swNs := 0 }
    let s2 := log s1 0x8D 13 false 0 0 0
    if s.pwr.hubl = .on then .next (intakeHub s2 0xFFFD9 0 s2.mer.now 0 .device .none false)
    else .next (wake (s2.modPwr fun p => { p with faults := p.faults ++ [(0x19, 0, 0, 0)] }) .swdt)

/-- SWDT_SECOND_EXPIRY: stage 1 has lasted its period; in every state, one in which CHIP_RESET_REQ is asserted already too; once until a service or
a reset (R404). -/
def execSwdtSecondExpiry (s : State) : Ans :=
  if !swdtCounts s ∨ !s.pwr.swStage ∨ s.pwr.swDone ∨ s.pwr.swLeft ≠ 0 then .next s
  else
    let s1 := s.modPwr fun p => { p with
      swLeft := 0, swNs := 0, swDone := true, cause := p.cause ||| 4, chipRst := true, chipRep := if p.chipRst then p.chipRep else 0 }
    .next (log s1 0x8D 13 false 1 0 0)

/-- CHIP_RESET_REQ_REPEAT: the request is still unanswered (R404). -/
def execChipResetReqRepeat (s : State) : Ans :=
  if !s.pwr.chipRst ∨ s.pwr.rst then .next s
  else .next (log (s.modPwr fun p => { p with chipRep := p.chipRep + 1 }) 0x8D 13 false 1 (w32 (s.pwr.chipRep + 1)) 0)

/-! ## Starts of Ronuo -/

/-- The boot ROM starts a slot: the anti-rollback counter first, then the image, which checks the benchmark set and the tuning
registers (R443, R444, R451). `cause` as in log code 0x80. -/
def bootInto (s : State) (b : Bool) (cause : Word) : State :=
  let v := (fwSlot s b).version
  let sv := (fwSlot s b).secVer
  let s1 := s.modIsl fun x => { x with
    fw := .running, booting := none, slotB := b, fwVer := v, rollback := if x.rollback.toNat < sv.toNat then sv else x.rollback }
  rewriteAll (benchBoot (log s1 0x80 13 false (slotNo b) (at_ 0 v.toNat) cause))

/-- No slot is bootable: Ronuo stays in its boot ROM (R443, R343). -/
def haltRonuo (s : State) : State :=
  haltBoxes (raise (s.modIsl fun x => { x with fw := .halted, booting := none, act := none }) 0x0F 13 false 1 (slotNo s.isl.slotB) 0 none)

/-- RONUO_BOOT: the boot ROM started at AUXIN application finishes its checks (R443, R444). -/
def execRonuoBoot (s : State) : Ans :=
  if s.isl.fw ≠ .restarting ∨ s.isl.booting ≠ some 0 then .next s
  else match bootSlot s with
    | some b => .next (startWairo (bootInto s b 0))
    | none => .next (haltRonuo s)

/-- RESP0 of a command cut short (R342). Only a STAKE_TAKE or a COUNTER_SWEEP, alone or as the entry at which a list waits, can have left its
effect in force: its stakes stand, or its sweep has begun and runs on in hardware or has been written (R358), and the entries of the list before
it (log entry 37). -/
def cutResp (s : State) (b : Box) : Word :=
  let m := s.mbx b
  let c := callOf s b
  if m.list then (match s.isl.listRun with | some x => w32 (x.1 + 1) | none => 0)
  else if m.op = 0x90 then flag 0 (!(c.arg 3).getLsbD 31 && decide (s.isl.sweep.owner = some b))
  else if m.op = 0x50 ∧ (stakeDoms c).all (fun d => decide (((c.arg 0).toNat, d) ∈ s.pwr.stakes)) then 1 else 0

/-- The sweep that a command of mailbox `b` began goes on without it. -/
def dropSweep (b : Box) (s : State) : State :=
  if s.isl.sweep.owner = some b then
    s.modIsl fun x => { x with sweep := { x.sweep with owner := none, run := x.sweep.run.map fun r => { r with box := none } } }
  else s

/-- A command that was running when the offline period began ends with ABORTED (R341, R342); the end of an FW_STAGE, whose slot the cut left
EMPTY, is logged (R456), and a sweep that it began is no command's any more. Its words are used with their parity (R20, R82). -/
def endCutBox (s' : State) (b : Box) : State :=
  let s := if (s'.mbx b).cut && (s'.mbx b).busy then parityAll s' (boxRegs b) else s'
  let m := s.mbx b
  if !m.cut ∨ !m.busy then s
  else dropSweep b (endCmd (if m.op = 0x80 ∧ !m.list then stageNote s none cAborted else s) b cAborted [cutResp s b])

/-- FW_ACTIVATE ends as its row states. -/
def endAct (s : State) (code : Nat) (resp : Word) : State :=
  match s.isl.act with
  | none => s
  | some (none, _) => s.modIsl fun x => { x with act := none }
  | some (some b, _) =>
    let s1 := s.modIsl fun x => { x with act := none }
    if (s1.mbx b).busy then endCmd s1 b code [resp] else s1

/-- MAILBOX_OFFLINE_END: the image that came up takes the mailboxes back (R341, R444, R446). After a watchdog expiry the boot ROM takes
the slot last booted, and the other one only where that is not bootable. No image comes up while Ronuo is halted through the gate. -/
def execMailboxOfflineEnd (s : State) : Ans :=
  if s.isl.ronuoHalt then .next s
  else match s.isl.fw with
  | .activating =>
    (match s.isl.act with
     | some (_, t) =>
       if bootable s t then .next (startWairo (endAct (bootInto s t 2) cOk (at_ 0 (fwSlot s t).version.toNat)))
       else .next (activationFails s t)
     | none => .next s)
  | .restarting =>
    if s.isl.booting ≠ some 1 then .next s
    else
      let own := s.isl.slotB
      (match (if bootable s own then some own else if bootable s (!own) then some (!own) else none) with
       | some b => .next (startWairo (endCutBox (endCutBox (endAct (bootInto s b 1) cAborted 0) .secure) .normal))
       | none => .next (haltRonuo s))
  | _ => .next s

/-! ## Recovery (R486) -/

/-- The slot that RECOVERY_WRITE writes: the one with the lower COMMIT_SEQ, slot B where they are equal. -/
def recoverySlot (s : State) : Bool := !decide (s.isl.a.seq.toNat < s.isl.b.seq.toNat)

/-- The bytes of an image in a slot (R442). -/
def imageAll (i : FwImage) : List (BitVec 8) := fwHeader i ++ bytes384 i.sigR ++ bytes384 i.sigS ++ ((List.range 96).map fun j => (i.pad[j]?).getD 0) ++ i.body

/-- A byte of a slot: as written by RECOVERY_WRITE, else as the image that stood there has it. -/
def slotByte (s : State) (b : Bool) (n : Nat) : BitVec 8 :=
  let x := fwSlot s b
  let old := match x.image with | some i => ((imageAll i)[n]?).getD (Config.slotByte b n) | none => Config.slotByte b n
  tget old x.chunks n

/-- A number of `k` bytes at offset `n`, little-endian; and 48 bytes, most significant first. -/
def slotNum (s : State) (b : Bool) (n k : Nat) : Nat := (List.range k).foldl (fun a i => a + (slotByte s b (n + i)).toNat * 256 ^ i) 0
def slotBig (s : State) (b : Bool) (n : Nat) : Nat := (List.range 48).foldl (fun a i => a * 256 + (slotByte s b (n + i)).toNat) 0

/-- The image that a slot's bytes spell. -/
def slotImage (s : State) (b : Bool) : FwImage :=
  let len := slotNum s b 0x0C 4
  { magic := w32 (slotNum s b 0 4), format := BitVec.ofNat 16 (slotNum s b 4 2), version := BitVec.ofNat 16 (slotNum s b 6 2)
    secVersion := w32 (slotNum s b 8 4), length := w32 len, entry := w32 (slotNum s b 0x10 4)
    sigR := BitVec.ofNat 384 (slotBig s b 0x40), sigS := BitVec.ofNat 384 (slotBig s b 0x70)
    rest := (List.range 44).map fun i => slotByte s b (0x14 + i), pad := (List.range 96).map fun i => slotByte s b (0xA0 + i)
    body := (List.range (min len 0xFFF00)).map fun i => slotByte s b (0x100 + i) }

/-- One RECOVERY_WRITE: a chunk, and with FINISH the check, the commit and the boot; a check that fails leaves the slot EMPTY, with the bytes that
stand in it (R486). While Ronuo runs it is an opcode that is denied (R459). -/
def recoveryServe (args : List Word) (s : State) : State :=
  let arg (i : Nat) : Word := (args[i]?).getD 0
  let off := (arg 0).toNat
  let n := bits (arg 2) 0 6
  let b := recoverySlot s
  if s.isl.fw ≠ .halted then vendorAnswer s.isl.straps.vid 0x00F0 args s
  else if n > 48 ∨ off + n > 1048576 then mctpAnswer s cBadArg []
  else
    let bs := ((List.range 12).flatMap fun i => wordBytes (arg (3 + i))).take n
    let s1 := if n = 0 then s
      else modFw s b fun x => { x with st := .empty, chunks := (List.range n).foldl (fun t i => tput (off + i) ((bs[i]?).getD 0) t) x.chunks }
    if !(arg 1).getLsbD 0 then mctpAnswer s1 cOk []
    else
      let i := slotImage s1 b
      let fail (code : Nat) : State := mctpAnswer (modFw s1 b fun x => { seq := x.seq, image := x.image, chunks := x.chunks }) code []
      if !fwHeaderOk i || !fwSigned s1 i then fail cAuthFail
      else if i.secVersion.toNat < s1.isl.rollback.toNat then fail cRollback
      else
        let s2 := commitSlot (modFw s1 b fun x => { st := .staged, version := i.version, secVer := i.secVersion, seq := x.seq, image := some i }) b
        startWairo (bootInto (mctpAnswer s2 cOk []) b (Config.logOpen 3))

/-- RECOVERY_WRITE: a message of the sideband, which the target serves as any other (R458, R486). -/
def execRecoveryWrite (args : List Word) (s : State) : Ans := .next (transfer s true (recoveryServe args))

end Sys2Proof.Machine
end

