-- ==== Sys2Proof/Machine/Sweep.lean ====
section
/-! DEFINITION. The counter sweep (R358, R468 to R472): the latches, the buffer in host memory, COUNTER_SWEEP and the sweeps that fall
due. -/

namespace Sys2Proof.Machine

open Sys2Proof

/-- The domain of a cell's unit is ON (R469). -/
def cellOn (s : State) (c : Nat) : Bool :=
  if unitOf c = 12 then decide (s.pwr.hubl = .on) else populated s (unitOf c) && decide ((s.op (unitOf c)).logic = .on)

/-- The powered cells of some units latch their four counters and OVF bits (R470 step 2). -/
def latchUnits (s : State) (us : List Nat) : State :=
  { s with cells := s.cells.map fun e =>
      (e.1, if unitOf e.1 ∈ us ∧ cellOn s e.1 then { e.2 with ctrLatch := (List.range 4).map fun n => tget 0 e.2.ctrs n, ovfLatch := e.2.ovf } else e.2) }

/-- A cell's record is written with VALID = 1 (R469). -/
def recValid (s : State) (c : Nat) : Bool := cellOn s c && decide ((s.cell c).role ≠ 0)

/-- Counter `n` of a record: VALUE, EVENT, OVF, VALID (R469). -/
def recCounter (x : Cell) (n : Nat) : BitVec 64 :=
  BitVec.ofNat 64 (((x.ctrLatch[n]?).getD 0).toNat + bits x.ctrSel (8 * n) 8 * 2 ^ 48 + (if x.ovfLatch.getLsbD n then 2 ^ 56 else 0) + 2 ^ 63)

/-- The 32 bytes of a cell record, as eight words (R469). -/
def recWords (s : State) (c : Nat) : List Word :=
  if recValid s c then (List.range 4).flatMap fun n => [lo32 (recCounter (s.cell c) n), hi32 (recCounter (s.cell c) n)]
  else List.replicate 8 0

/-- The counts of station `n` are granted (R472). -/
def granted (s : State) (userMap : List Nat) (n : Nat) : Bool :=
  decide (n ∈ userMap) || s.parcels.any fun p => decide (p.2.st = .live) && p.2.perf && decide (n ∈ p.2.stations)

/-- Bytes 0x00–0x3F of a station page (R469), with the grants as step 1 of the sweep found them (R472). -/
def stnPageWords (s : State) (grants : List Nat) (seq : Word) (n : Nat) : List Word :=
  let g := decide (n ∈ grants)
  let body := if g then (match deliveryCell s n with | some c => recWords s c | none => List.replicate 8 0) else List.replicate 8 0
  let booked : Word := if g && stnExists s n && !dieAway s (n / 48) then (s.grp n .normal).booked else 0
  [seq, at_ 0 n ||| flag 31 g] ++ body ++ [booked, 0, 0, 0, 0, seq]

/-- The full buffer, and its part without station pages (R468). -/
def sweepFull : Nat := 0x24D000
def sweepLeast : Nat := 0xD000

/-- Station pages are written (R468). -/
def sweepPages (x : Sweep) : Bool := decide (x.bytes ≥ sweepFull) && decide (x.addr.toNat % 0x1000 = 0)

/-- The header (R469). -/
def sweepHeader (s : State) (x : Sweep) (r : SweepRun) : List Word :=
  [0x53574543, r.seq, lo32 r.ts, hi32 r.ts, lo32 (r.last - r.ts), w32 ((List.range 1536).filter (recValid s)).length, x.skipped,
    flag 0 (sweepPages x) ||| r.flags] ++ List.replicate 23 0 ++ [r.seq]

/-- Write words into system memory. -/
def putWords (s : State) (a : Nat) (ws : List Word) : State := { s with mem := memWrite s.mem a (ws.flatMap wordBytes) }

/-- Step 1 of R470: Ts, and the grants of R472. -/
def beginSweep (s : State) (late : Nat) (userMap : List Nat) (memOk : Bool) (box : Option Box) : State :=
  let r : SweepRun := { seq := s.isl.sweep.seq, ts := s.mer.now + 1000, units := List.range 13, last := s.mer.now + 1000, late := min late 2000, grants := (List.range 576).filter (granted s userMap), memOk := memOk, box := box }
  s.modIsl fun x => { x with sweep := { x.sweep with run := some r } }

/-- Step 3 of R470: the header, the records, the pages and END_SEQ. A memory master error leaves BEGIN_SEQ as the only word written, and stops
a periodic sweep (R471, log entry 36). -/
def writeSweep (s : State) (r : SweepRun) : State :=
  let x := s.isl.sweep
  let a := x.addr.toNat
  if !r.memOk then (putWords s (a + 4) [r.seq]).modIsl fun y => { y with sweep := { y.sweep with active := false } }
  else
    let s2 := putWords s a (sweepHeader s x r)
    let s3 := putWords s2 (a + 0x1000) ((List.range 1536).flatMap (recWords s))
    if sweepPages x then forAll s3 (List.range 576) fun t n => putWords t (a + 0xD000 + 0x1000 * n) (stnPageWords s r.grants r.seq n) else s3

/-- The sweep has ended, and the command that started it ends (R358), unless an offline period has cut it short (R341). -/
def endSweep (s : State) (r : SweepRun) : State :=
  let t := (writeSweep s r).modIsl fun x => { x with sweep := { x.sweep with run := none } }
  let idle (u : State) : State := u.modIsl fun x => { x with sweep := { x.sweep with owner := none } }
  match r.box with
  | none => t
  | some b =>
    if (t.mbx b).cut then (if r.memOk then t else idle t)
    else if !(t.mbx b).busy then idle t
    else if r.memOk then endCmd (idle t) b cOk [t.isl.sweep.first] else endCmd (idle t) b cMemError []

/-- The sweep in progress: the units whose copy has reached Ts, and whose cells' service points come `late` ns after it, latch, one that powers up
meanwhile too; after the last of those that are on the writes are made (R470). FLAGS are those of the instant at which the master reaches Ts. A
unit whose copy does not come there within 2 µs of Ts, as one in TRAINING, latches then (DESIGN CHOICE, log entry 36). -/
def sweepTurn (s : State) : State :=
  match s.isl.sweep.run with
  | none => s
  | some r =>
    if s.pwr.hubl ≠ .on then s.modIsl fun x => { x with sweep := { x.sweep with run := none } }
    else
      let on (u : Nat) : Bool := decide (u = 12) || (populated s u && decide ((s.op u).logic = .on))
      let there (u : Nat) : Bool := decide (r.ts.toNat + r.late ≤ (copyOf s u).toNat) || decide (r.ts.toNat + 2000 ≤ s.mer.now.toNat)
      let now := r.units.filter fun u => on u && there u
      let left := r.units.filter fun u => !(on u && there u)
      let r1 : SweepRun := { r with
        units := left, last := if now = [] then r.last else s.mer.now
        flags := if s.mer.now.toNat ≤ r.ts.toNat then flag 1 s.mer.estim ||| flag 2 s.mer.degraded else r.flags }
      let t := latchUnits s now
      if left.any on then t.modIsl fun x => { x with sweep := { x.sweep with run := some r1 } } else endSweep t r1

/-- One tick of the meridian: every link lets its next message start, the log writer writes one entry, gang/timing cells resolve what waits for
them, held status reads and what waits for a link are tried again, and a sweep in progress goes on (R25, R34, R214, R216, R218, R455, R470; log
entries 2, 12, 36, 54, 62). -/
def idle (s : State) : State := sweepTurn (serveWaits (answerHeld (gangTurn (logWrite (linkTurn (tick s))) none)))

/-- COUNTER_SWEEP without STOP (R358, R468, R471): the first sweep begins at once, and a new command takes the place of an earlier one. Its end
comes with the sweep's. -/
def cmdCounterSweep (userMap : List Nat) (memOk : Bool) (c : Call) (s : State) : Res :=
  let n := (c.arg 2).toNat
  let p := bits (c.arg 3) 0 24
  checked c [0xFFFFFFFF, 0xFFFFFFFF, 0xFFFFFFFF, 0x80FFFFFF]
    [ (decide (bits (c.arg 0) 0 6 ≠ 0), cBadArg)
    , (decide (n < sweepLeast), cBadArg)
    , (decide (p ≠ 0) && (decide (p < 100) || decide (p > 16000000)), cBadArg) ] s fun _ =>
    let seq := s.isl.sweep.seq + 1
    let s1 := s.modIsl fun x => { x with sweep := { addr := mk64 (c.arg 1) (c.arg 0), bytes := n, period := p, active := decide (p ≠ 0), due := s.mer.now + BitVec.ofNat 64 (1000 + 1000 * p), seq := seq, first := seq, owner := if c.inList then none else some c.box, skipped := 0 } }
    { code := cOk, resp := [seq], st := beginSweep s1 0 userMap memOk (if c.inList then none else some c.box) }

/-- The sweep that an entry of a list, or the command of mailbox `b`, has begun is in progress. -/
def sweepOf (s : State) (b : Option Box) : Bool := match s.isl.sweep.run with | some r => decide (r.box = b) | none => false

/-- COUNTER_SWEEP with STOP: a periodic sweep ends after the one in progress (R358, R471). -/
def cmdCounterSweepStop (c : Call) (s : State) : Res :=
  checked c [0, 0, 0, 0x80000000] [] s fun _ =>
    { code := cOk, resp := [0], st := s.modIsl fun x => { x with sweep := { x.sweep with active := false } } }

/-- COUNTER_SWEEP (R358): the command stays in progress until its sweep has ended. -/
def execCounterSweep (b : Box) (userMap : List Nat) (memOk : Bool) (s : State) : Ans :=
  let form (c : Call) : Bool := !(c.arg 3).getLsbD 31
  let s1 := parityAll s (boxRegs b)
  let r := cmdCounterSweep userMap memOk (callOf s1 b) s1
  if sweepOf s (some b) then .next s
  else if boxTurn s b ∧ !(s1.mbx b).list ∧ (s1.mbx b).op = 0x90 ∧ form (callOf s1 b) ∧ r.code = cOk then
    .next (r.st.modIsl fun x => { x with turn := some b })
  else serveBox b 0x90 form (cmdCounterSweep userMap memOk) s

/-- COUNTER_SWEEP with STOP (R471). -/
def execCounterSweepStop (b : Box) (s : State) : Ans := serveBox b 0x90 (fun c => (c.arg 3).getLsbD 31) cmdCounterSweepStop s

/-- COUNTER_SWEEP_DUE: a periodic sweep falls due; while the previous one, or the writes of it, are in progress it is skipped (R471). -/
def execCounterSweepDue (busy : Bool) (lateNs : Nat) (userMap : List Nat) (memOk : Bool) (s : State) : Ans :=
  let x := s.isl.sweep
  if !x.active ∨ s.pwr.hubl ≠ .on ∨ s.pwr.rst ∨ s.mer.now.toNat < x.due.toNat then .next s
  else if busy ∨ x.run.isSome then
    .next (s.modIsl fun y => { y with sweep := { x with seq := x.seq + 1, due := x.due + BitVec.ofNat 64 (1000 * x.period), skipped := satInc x.skipped } })
  else
    .next (beginSweep (s.modIsl fun y => { y with sweep := { x with seq := x.seq + 1, due := x.due + BitVec.ofNat 64 (1000 * x.period) } }) lateNs userMap memOk none)

end Sys2Proof.Machine
end

