-- ==== Sys2Proof/Machine/Lists.lean ====
section
/-! DEFINITION. Host command lists (R338 to R340). -/

namespace Sys2Proof.Machine

open Sys2Proof

/-- One command of a list, by its opcode (R344); the forms of an opcode as their rows take them. -/
def runOpcode (c : Call) (s : State) : Res :=
  match c.ext.opcode.toNat with
  | 0x01 => cmdGetInfo c s
  | 0x02 => cmdStatusPeek c s
  | 0x10 => cmdPlatLoad c s
  | 0x11 => cmdDatumCommit c s
  | 0x12 => cmdEnable c s
  | 0x13 => cmdDisable c s
  | 0x20 => cmdQueueBind c s
  | 0x21 => cmdQueueUnbind c s
  | 0x22 => cmdQueueSet c s
  | 0x23 => if form30 1 c then cmdRouteDie c s else if form30 2 c then cmdRouteResv c s else cmdRouteQueue c s
  | 0x24 => cmdSpreadDefine c s
  | 0x30 => if bit31 true c then cmdGangUndefine c s else cmdGangDefine c s
  | 0x31 => cmdGangReleaseAt c s
  | 0x40 => cmdParcelCreate c s
  | 0x41 => if c.ext.silent.filter (fenceAsks s) = [] then cmdParcelDestroy c s else cmdFenceTimeout c.ext.silent true c s
  | 0x42 => if c.ext.silent.filter (fenceAsks s) = [] then cmdParcelReset c s else cmdFenceTimeout c.ext.silent false c s
  | 0x43 => cmdParcelResize c s
  | 0x44 => if bit31 true c then cmdVctxUnbind c s else cmdVctxBind c s
  | 0x50 => cmdStakeTake c s
  | 0x51 => cmdStakeRelease c s
  | 0x52 => cmdWakeConfig c s
  | 0x60 => cmdBenchmarkRead c s
  | 0x61 => cmdBenchmarkWrite c s
  | 0x62 => cmdBenchmarkCapture c.ext.measured c s
  | 0x70 => cmdLogRead c s
  | 0x80 => cmdFwStage c.ext.image c s
  | 0x81 => cmdFwCommit c s
  | 0x90 => if (c.arg 3).getLsbD 31 then cmdCounterSweepStop c s else cmdCounterSweep c.ext.userMap c.ext.memOk c s
  | _ => failWith s cNotSupported

/-- The bytes of an entry, padded to a multiple of 16 (R338). -/
def entryBytes (e : ListEntry) : Nat := (16 + 4 * e.args.length + e.inlineLen + 15) / 16 * 16

/-- The entry as a call of the mailbox that the list was rung on: argument words not given are zero (R338, R339). -/
def entryCall (b : Box) (e : ListEntry) : Call := { box := b, args := e.args, ext := e, inList := true }

/-- Only PLAT_LOAD with SOURCE = 1 accepts an inline block (R338). -/
def inlineOk (e : ListEntry) : Bool :=
  decide (e.inlineLen = 0) || (decide (e.opcode = 0x10) && ((e.args[0]?).getD 0).getLsbD 0)

/-- An entry that ends with BAD_ARG whatever its command is (R339); one outside the layout of R338 is another (log entry 37). -/
def entryBad (e : ListEntry) (left : Nat) : Bool :=
  decide (e.opcode = 0x82) || decide (e.opcode = 0xA0) || decide (e.opcode = 0) || !inlineOk e || decide (entryBytes e > left) ||
  decide (e.args.length > 32) || decide (e.inlineLen % 4 ≠ 0) || decide (e.inlineLen > 1048576) || !e.zeroOk

/-- One entry of a list with `left` bytes still to read; `none`: the read failed. An FW_STAGE ends with its log entry here too (R456). -/
def runEntry (b : Box) (left : Nat) (e : Option ListEntry) (s : State) : Res :=
  match e with
  | none => failWith s cMemError
  | some x => if entryBad x left then failWith (if x.opcode = 0x80 then stageNote s none cBadArg else s) cBadArg else runOpcode (entryCall b x) s

/-- The entry waits: a STAKE_TAKE for a domain to come up (R354), or a COUNTER_SWEEP for the end of its sweep (R358). -/
def entryWaits (b : Box) (x : ListEntry) (s : State) : Bool :=
  (decide (x.opcode = 0x50) && stakeWaits s (entryCall b x)) || (decide (x.opcode = 0x90) && !((entryCall b x).arg 3).getLsbD 31 && sweepOf s none)

/-- The end of an entry that waited, as it was read (R340). -/
def resumeEntry (b : Box) (x : ListEntry) (s : State) : Res :=
  if x.opcode = 0x90 then (if x.memOk then { code := cOk, resp := [s.isl.sweep.first], st := s } else failWith s cMemError)
  else runOpcode (entryCall b x) s

/-- The answer of a list: how many entries ended with OK, the stopping entry, the responses of the last (R339). -/
def listRes (n stop : Word) (r : Res) : Res := { r with resp := [n, stop] ++ r.resp.take 26 }

/-- The entries in order, from entry `n` on, until one does not end with OK, one waits or the length is used up; an entry that the
operand does not give is a read that failed. -/
def runList (b : Box) (left n : Nat) (last : Res) : List (Option ListEntry) → Res
  | [] => if left = 0 then listRes (w32 n) 0xFFFFFFFF last else listRes (w32 n) (w32 n) (failWith last.st cMemError)
  | e :: t =>
    if left = 0 then listRes (w32 n) 0xFFFFFFFF last
    else
      let r := runEntry b left e last.st
      match e with
      | none => listRes (w32 n) (w32 n) r
      | some x =>
        if r.code ≠ cOk then listRes (w32 n) (w32 n) r
        else if entryWaits b x r.st then { r with hold := some (n, left, x) }
        else runList b (left - entryBytes x) (n + 1) r t

/-- A list goes on at the entry at which it waits, which is not read again (R340). -/
def resumeList (b : Box) (entries : List (Option ListEntry)) (h : Nat × Nat × ListEntry) (s : State) : Res :=
  let r := if h.2.2.opcode = 0x90 ∧ entryWaits b h.2.2 s then { code := cOk, st := s } else resumeEntry b h.2.2 s
  if r.code ≠ cOk then listRes (w32 h.1) (w32 h.1) r
  else if entryWaits b h.2.2 r.st then { r with hold := some h }
  else runList b (h.2.1 - entryBytes h.2.2) (h.1 + 1) r (entries.drop (h.1 + 1))

/-- A command list (R338, R339), from the entry at which it waits on where it has begun. -/
def cmdList (entries : List (Option ListEntry)) (c : Call) (s : State) : Res :=
  let n := (c.arg 2).toNat
  checked c [0xFFFFFFC0, 0xFFFFFFFF, 0xFFFFFFFF]
    [ (decide ((s.mbx c.box).op ≠ 0), cBadArg), (decide (n % 16 ≠ 0) || decide (n < 16) || decide (n > 16777216), cBadArg) ] s fun _ =>
    match s.isl.listRun with
    | none => runList c.box n 0 { code := cOk, st := s } entries
    | some h => resumeList c.box entries h s

/-- COMMAND_LIST (R338 to R340): while an entry waits the list stays in progress, and the row issued again goes on with it (R339, R354). -/
def execCommandList (b : Box) (entries : List (Option ListEntry)) (s : State) : Ans :=
  if !boxTurn s b ∨ !(s.mbx b).list then .next s
  else
    let s1 := parityAll s (boxRegs b)
    let r := cmdList entries (callOf s1 b) s1
    match r.hold with
    | some x => .next (r.st.modIsl fun y => { y with turn := some b, listRun := some x })
    | none => .next (endCmd r.st b r.code r.resp)

end Sys2Proof.Machine
end

