-- ==== Sys2Proof/Machine/Dispatch.lean ====
section
/-! DEFINITION. The meaning of every command: one arm for each constructor of Instr. -/

namespace Sys2Proof.Machine

open Sys2Proof

-- Every command to its own meaning, in the order of the table.
def exec (i : Instr) (s : State) : Host.Outcome State Fault Refusal :=
  match i with
  | .wiredInputChange evid level heldTicks => Sys2Proof.Machine.execWiredInputChange evid level heldTicks s
  | .doorbellWrite d => Sys2Proof.Machine.execDoorbellWrite d s
  | .ledgerTake evid => Sys2Proof.Machine.execLedgerTake evid s
  | .fieldBookRelease evid => Sys2Proof.Machine.execFieldBookRelease evid s
  | .candidateArrival station evid => Sys2Proof.Machine.execCandidateArrival station evid s
  | .spreadCandidateArrival set evid => Sys2Proof.Machine.execSpreadCandidateArrival set evid s
  | .contextCandidateArrival ctx evid => Sys2Proof.Machine.execContextCandidateArrival ctx evid s
  | .gangFanOut gang evid => Sys2Proof.Machine.execGangFanOut gang evid s
  | .releaseTargetReached station evid => Sys2Proof.Machine.execReleaseTargetReached station evid s
  | .stnClaim station g a => Sys2Proof.Machine.execStnClaim station g a s
  | .stnComplete station g data a => Sys2Proof.Machine.execStnComplete station g data a s
  | .stnRunningRank station g data a => Sys2Proof.Machine.execStnRunningRank station g data a s
  | .stnMaskRank station g data a => Sys2Proof.Machine.execStnMaskRank station g data a s
  | .stnPreBits station g data a => Sys2Proof.Machine.execStnPreBits station g data a s
  | .stnSend station g data a => Sys2Proof.Machine.execStnSend station g data a s
  | .stnSendGang station g data a => Sys2Proof.Machine.execStnSendGang station g data a s
  | .stnSendStatus station g a => Sys2Proof.Machine.execStnSendStatus station g a s
  | .sendRejectionNotice p => Sys2Proof.Machine.execSendRejectionNotice p s
  | .vctxEnter station low a => Sys2Proof.Machine.execVctxEnter station low a s
  | .vctxLeave station low a => Sys2Proof.Machine.execVctxLeave station low a s
  | .vstClaim ctx a => Sys2Proof.Machine.execVstClaim ctx a s
  | .vstComplete ctx data a => Sys2Proof.Machine.execVstComplete ctx data a s
  | .vstRunningRank ctx data a => Sys2Proof.Machine.execVstRunningRank ctx data a s
  | .vstMaskRank ctx data a => Sys2Proof.Machine.execVstMaskRank ctx data a s
  | .vstPreBits ctx data a => Sys2Proof.Machine.execVstPreBits ctx data a s
  | .vstSend ctx data a => Sys2Proof.Machine.execVstSend ctx data a s
  | .vstSendGang ctx data a => Sys2Proof.Machine.execVstSendGang ctx data a s
  | .vstSendStatus ctx a => Sys2Proof.Machine.execVstSendStatus ctx a s
  | .vstCtxCapture ctx a => Sys2Proof.Machine.execVstCtxCapture ctx a s
  | .claimReport evid => Sys2Proof.Machine.execClaimReport evid s
  | .completionMessage evid => Sys2Proof.Machine.execCompletionMessage evid s
  | .gangMemberCompletion evid station => Sys2Proof.Machine.execGangMemberCompletion evid station s
  | .loadReport station g => Sys2Proof.Machine.execLoadReport station g s
  | .lease station => Sys2Proof.Machine.execLease station s
  | .leaseRevocation station => Sys2Proof.Machine.execLeaseRevocation station s
  | .reservationSplit => Sys2Proof.Machine.execReservationSplit s
  | .reservationWindowStart => Sys2Proof.Machine.execReservationWindowStart s
  | .reOffer d => Sys2Proof.Machine.execReOffer d s
  | .holderCheck evid => Sys2Proof.Machine.execHolderCheck evid s
  | .holderCheckAnswer evid => Sys2Proof.Machine.execHolderCheckAnswer evid s
  | .bookedCountReport evid => Sys2Proof.Machine.execBookedCountReport evid s
  | .ageScanVisit evid => Sys2Proof.Machine.execAgeScanVisit evid s
  | .seatAgeVisit p evid => Sys2Proof.Machine.execSeatAgeVisit p evid s
  | .replayRequest k f => Sys2Proof.Machine.execReplayRequest k f s
  | .flitAckTimeout k up => Sys2Proof.Machine.execFlitAckTimeout k up s
  | .retrainDone k failedWire => Sys2Proof.Machine.execRetrainDone k failedWire s
  | .retrainAttemptTimeout k => Sys2Proof.Machine.execRetrainAttemptTimeout k s
  | .returnToService k bist trained => Sys2Proof.Machine.execReturnToService k bist trained s
  | .alignSlot => Sys2Proof.Machine.execAlignSlot s
  | .align k t2 t3 => Sys2Proof.Machine.execAlign k t2 t3 s
  | .echo k t4 => Sys2Proof.Machine.execEcho k t4 s
  | .init k => Sys2Proof.Machine.execInit k s
  | .merCapture a => Sys2Proof.Machine.execMerCapture a s
  | .merSlew a => Sys2Proof.Machine.execMerSlew a s
  | .merStep a => Sys2Proof.Machine.execMerStep a s
  | .merCancel a => Sys2Proof.Machine.execMerCancel a s
  | .merAlarmArm alarm keepWake a => Sys2Proof.Machine.execMerAlarmArm alarm keepWake a s
  | .merAlarmFire alarm => Sys2Proof.Machine.execMerAlarmFire alarm s
  | .pllHoldover unit => Sys2Proof.Machine.execPllHoldover unit s
  | .pllRelock unit => Sys2Proof.Machine.execPllRelock unit s
  | .degradedClear => Sys2Proof.Machine.execDegradedClear s
  | .trainArmPoint train => Sys2Proof.Machine.execTrainArmPoint train s
  | .rodMeasurement cell ps => Sys2Proof.Machine.execRodMeasurement cell ps s
  | .speedReqRelease => Sys2Proof.Machine.execSpeedReqRelease s
  | .voltageMonitorCrossing d below => Sys2Proof.Machine.execVoltageMonitorCrossing d below s
  | .sensorSample x => Sys2Proof.Machine.execSensorSample x s
  | .datumLocalRecompute cell => Sys2Proof.Machine.execDatumLocalRecompute cell s
  | .datumSweep => Sys2Proof.Machine.execDatumSweep s
  | .cellEnable cell a => Sys2Proof.Machine.execCellEnable cell a s
  | .cellDisable cell a => Sys2Proof.Machine.execCellDisable cell a s
  | .cellDrainDone cell => Sys2Proof.Machine.execCellDrainDone cell s
  | .hubEnable a => Sys2Proof.Machine.execHubEnable a s
  | .hubDisable a => Sys2Proof.Machine.execHubDisable a s
  | .hubDbRejArm a => Sys2Proof.Machine.execHubDbRejArm a s
  | .hubAccCapArm a => Sys2Proof.Machine.execHubAccCapArm a s
  | .cellCtrCapture cell a => Sys2Proof.Machine.execCellCtrCapture cell a s
  | .wrGo cell data a => Sys2Proof.Machine.execWrGo cell data a s
  | .ovfClr cell data a => Sys2Proof.Machine.execOvfClr cell data a s
  | .swdtService data a => Sys2Proof.Machine.execSwdtService data a s
  | .rcRegisterRead offset a => Sys2Proof.Machine.execRcRegisterRead offset a s
  | .registerWrite offset data a => Sys2Proof.Machine.execRegisterWrite offset data a s
  | .tuningRewrite offset => Sys2Proof.Machine.execTuningRewrite offset s
  | .getInfo b => Sys2Proof.Machine.execGetInfo b s
  | .statusPeek b => Sys2Proof.Machine.execStatusPeek b s
  | .platLoad b => Sys2Proof.Machine.execPlatLoad b s
  | .datumCommit b => Sys2Proof.Machine.execDatumCommit b s
  | .enable b => Sys2Proof.Machine.execEnable b s
  | .disable b => Sys2Proof.Machine.execDisable b s
  | .queueBind b => Sys2Proof.Machine.execQueueBind b s
  | .queueUnbind b => Sys2Proof.Machine.execQueueUnbind b s
  | .queueSet b => Sys2Proof.Machine.execQueueSet b s
  | .routeSetQueue b => Sys2Proof.Machine.execRouteSetQueue b s
  | .routeSetDieFallback b => Sys2Proof.Machine.execRouteSetDieFallback b s
  | .routeSetReservation b => Sys2Proof.Machine.execRouteSetReservation b s
  | .spreadDefine b => Sys2Proof.Machine.execSpreadDefine b s
  | .gangDefine b => Sys2Proof.Machine.execGangDefine b s
  | .gangUndefine b => Sys2Proof.Machine.execGangUndefine b s
  | .gangReleaseAt b => Sys2Proof.Machine.execGangReleaseAt b s
  | .parcelCreate b => Sys2Proof.Machine.execParcelCreate b s
  | .parcelDestroy b => Sys2Proof.Machine.execParcelDestroy b s
  | .parcelReset b => Sys2Proof.Machine.execParcelReset b s
  | .parcelResize b => Sys2Proof.Machine.execParcelResize b s
  | .vctxBind b => Sys2Proof.Machine.execVctxBind b s
  | .vctxUnbind b => Sys2Proof.Machine.execVctxUnbind b s
  | .stakeTake b => Sys2Proof.Machine.execStakeTake b s
  | .stakeRelease b => Sys2Proof.Machine.execStakeRelease b s
  | .wakeConfig b => Sys2Proof.Machine.execWakeConfig b s
  | .benchmarkRead b => Sys2Proof.Machine.execBenchmarkRead b s
  | .benchmarkWrite b => Sys2Proof.Machine.execBenchmarkWrite b s
  | .benchmarkCapture b measured => Sys2Proof.Machine.execBenchmarkCapture b measured s
  | .logRead b => Sys2Proof.Machine.execLogRead b s
  | .fwStage b image => Sys2Proof.Machine.execFwStage b image s
  | .fwCommit b => Sys2Proof.Machine.execFwCommit b s
  | .fwActivate b => Sys2Proof.Machine.execFwActivate b s
  | .activationStartTimeout => Sys2Proof.Machine.execActivationStartTimeout s
  | .counterSweep b userMap memOk => Sys2Proof.Machine.execCounterSweep b userMap memOk s
  | .counterSweepStop b => Sys2Proof.Machine.execCounterSweepStop b s
  | .debugUnlock b => Sys2Proof.Machine.execDebugUnlock b s
  | .commandList b entries => Sys2Proof.Machine.execCommandList b entries s
  | .mailboxOfflineEnd => Sys2Proof.Machine.execMailboxOfflineEnd s
  | .poolAuditDone => Sys2Proof.Machine.execPoolAuditDone s
  | .easementStatusWrite parcel memOk => Sys2Proof.Machine.execEasementStatusWrite parcel memOk s
  | .fenceAckTimeout b cells => Sys2Proof.Machine.execFenceAckTimeout b cells s
  | .counterSweepDue busy lateNs userMap memOk => Sys2Proof.Machine.execCounterSweepDue busy lateNs userMap memOk s
  | .pkgRstAssert lowNs => Sys2Proof.Machine.execPkgRstAssert s lowNs
  | .pkgRstDeassert bist => Sys2Proof.Machine.execPkgRstDeassert bist s
  | .auxinApplied straps => Sys2Proof.Machine.execAuxinApplied straps s
  | .auxinLost => Sys2Proof.Machine.execAuxinLost s
  | .auxinSurgeLimit mv => Sys2Proof.Machine.execAuxinSurgeLimit mv s
  | .pdGood unit bist => Sys2Proof.Machine.execPdGood unit bist s
  | .powerStepTimeout unit => Sys2Proof.Machine.execPowerStepTimeout unit s
  | .quiesceGrant unit => Sys2Proof.Machine.execQuiesceGrant unit s
  | .quiesceRetry unit => Sys2Proof.Machine.execQuiesceRetry unit s
  | .saveBookWritten body memOk => Sys2Proof.Machine.execSaveBookWritten body memOk s
  | .isoReq k level => Sys2Proof.Machine.execIsoReq k level s
  | .wakeSource w => Sys2Proof.Machine.execWakeSource w s
  | .wakeChord k up => Sys2Proof.Machine.execWakeChord k up s
  | .wakeComplete book => Sys2Proof.Machine.execWakeComplete book s
  | .napWakeChordTimer k => Sys2Proof.Machine.execNapWakeChordTimer k s
  | .coldStakeRelease => Sys2Proof.Machine.execColdStakeRelease s
  | .wakeStakeRelease => Sys2Proof.Machine.execWakeStakeRelease s
  | .rcOscTimeout => Sys2Proof.Machine.execRcOscTimeout s
  | .securePowerCut d reference => Sys2Proof.Machine.execSecurePowerCut d reference s
  | .hubSecurePowerCut d reference => Sys2Proof.Machine.execHubSecurePowerCut d reference s
  | .swdtFirstExpiry => Sys2Proof.Machine.execSwdtFirstExpiry s
  | .swdtSecondExpiry => Sys2Proof.Machine.execSwdtSecondExpiry s
  | .chipResetReqRepeat => Sys2Proof.Machine.execChipResetReqRepeat s
  | .mgmtWatchdogExpiry pc => Sys2Proof.Machine.execMgmtWatchdogExpiry pc s
  | .logAggregateFlush code key => Sys2Proof.Machine.execLogAggregateFlush code key s
  | .sidebandReport => Sys2Proof.Machine.execSidebandReport s
  | .i3cCcc c => Sys2Proof.Machine.execI3cCcc c s
  | .mctpVendorRequest code m => Sys2Proof.Machine.execMctpVendorRequest code m s
  | .recoveryWrite args => Sys2Proof.Machine.execRecoveryWrite args s
  | .withdrawalArrival evid => Sys2Proof.Machine.execWithdrawalArrival evid s
  | .withdrawnCandidateReturn evid => Sys2Proof.Machine.execWithdrawnCandidateReturn evid s
  | .claimDataArrival evid => Sys2Proof.Machine.execClaimDataArrival evid s
  | .debugGateAccess op => Sys2Proof.Machine.execDebugGateAccess op s
  | .rcOscRetry ready => Sys2Proof.Machine.execRcOscRetry ready s
  | .ronuoBoot => Sys2Proof.Machine.execRonuoBoot s
  | .cutWithoutHandshake k => Sys2Proof.Machine.execCutWithoutHandshake k s
  | .quiesceRefused cell => Sys2Proof.Machine.execQuiesceRefused cell s
  | .pdGoodStillAsserted d => Sys2Proof.Machine.execPdGoodStillAsserted d s

end Sys2Proof.Machine
end

