-- ==== Sys2Proof/Machine/Step.lean ====
section
/-! DEFINITION. One step of the block: the command at the front of the queue, or one tick of the meridian where none waits. -/

namespace Sys2Proof.Machine

open Sys2Proof

/-- The command at the front of the queue is carried out on the state with the rest of the queue; with no command waiting
the meridian counts one tick, and accesses that wait for a link are tried again (R25, R218; log entries 2, 62). -/
def step (s : State) : Host.Outcome State Fault Refusal :=
  match s.pending with
  | [] => .next (idle s)
  | c :: rest => exec c { s with pending := rest }

/-- No row of the table has bits, so no word spells a command and the queue stays as it is (log entry 5). -/
def State.withFetchWord (s : State) (nbits w : Nat) : State :=
  match Sys2Proof.decodeTableWord nbits w with
  | some c => { s with pending := c :: s.pending }
  | none => s

end Sys2Proof.Machine
end

