-- ==== Sys2Proof/Safety.lean ====
section
/-! DEFINITION. The terms in which claims are stated: when the block serves an access, which pages answer, what a frame leaves alone. -/

namespace Sys2Proof.Machine

open Sys2Proof

/-! ## When an access is served -/

/-- The hub serves this access at the register target port now: its logic is on, PKG_RST_N is not asserted, no access waits, and no earlier
one of the same requester tag is held (R26, R424). -/
abbrev Serves (s : State) (a : Acc) : Prop := s.pwr.hubl = .on ∧ s.pwr.rst = false ∧ s.waits = [] ∧ ∀ h ∈ s.out.held, h.tag ≠ a.tag

/-- A page answers: its station, or its bound context, exists, its die and its delivery cell are on, and the link to its die is up (R25, R197,
R211, R212, R329). -/
abbrev PageReady (s : State) : Page → Prop
  | .stn n _ => stnExists s n = true ∧ dieAway s (n / 48) = false ∧ stnOn s n = true ∧ linkOpen s (n / 48) = true
  | .vst v => v < 16384 ∧ v < ctxCapacity s ∧ (s.ctx v).bound = true ∧ (s.ctx v).poisoned = false ∧
      ∀ n, (s.ctx v).station = some n → dieAway s (n / 48) = false ∧ stnOn s n = true ∧ linkOpen s (n / 48) = true

/-- A 32-bit access that may reach the page (R194, R281). -/
abbrev Reaches (a : Acc) (p : Page) : Prop := a.size = .b32 ∧ (pageSecure p = true → a.sec = true)

/-- The read of a claim of candidate `c` that waits for its data, as access `a` left it; `m` is its unit's copy of the meridian (R203, R205). -/
def heldClaim (s : State) (p : Page) (a : Acc) (c : Cand) (m : Stamp) : HeldRead :=
  { page := p, tag := a.tag, evid := c.evid, seq := (pageGroup s p).seq + 1, rank := c.rank, mode := c.mode.code, aged := c.aged, copy := m }

/-- The offset of a page's register. -/
def pageAt : Page → Nat → Nat
  | .stn n g, o => pageOffset n g o
  | .vst v, o => vstBase v + o

/-- No parity bit of the register disagrees (R82). -/
abbrev ParityOk (s : State) (off : Nat) : Prop := off ∉ s.parity

/-! ## Frames -/

/-- Of the cells, only event counters and their overflow bits differ. -/
def CountersOnly (s t : State) : Prop := ∀ c, t.cell c = { s.cell c with ctrs := (t.cell c).ctrs, ovf := (t.cell c).ovf }

/-- No page but `p` differs, and no other field of a station or of a context but the mark that shows a context as changed. -/
def OtherPages (s t : State) (p : Page) : Prop :=
  (∀ q, q ≠ p → pageGroup t q = pageGroup s q) ∧
  (∀ n, t.stn n = { s.stn n with norm := (t.stn n).norm, sec := (t.stn n).sec }) ∧
  (∀ v, t.ctx v = { s.ctx v with g := (t.ctx v).g, changed := (t.ctx v).changed })

/-- A packet without the marks of the links that it has crossed. -/
def Packet.content (p : Packet) : Packet := { p with upDone := false, downDone := false }

/-- Of the outposts, only the sending ends' pacers and the mark of a failed flit of an access differ, and of the pacers' gates, some are open
again: messages have started on the links (R33, R34, R260, R261). -/
def LinkStarts (s t : State) : Prop :=
  (∀ k, t.op k = { s.op k with secUp := (t.op k).secUp, secDown := (t.op k).secDown, accFail := (t.op k).accFail }) ∧ ∀ g ∈ t.gates, g ∈ s.gates

/-- Of the messages, the first has been served, and others have started on links ahead of it (R34). -/
def FirstServed (s t : State) : Prop := LinkStarts s t ∧ t.net.map Packet.content = s.net.tail.map Packet.content

/-- No send to a gang waits for its gang/timing cell (R214). -/
def NoGangSends (s : State) : Prop := ∀ p ∈ s.net, ∀ k, p.msg = .event k → k.gang = none

/-- What an access of a page leaves alone: everything but that page's group, event counters, the response, the parity bits, and on the link to
an outpost the messages that start there before the access does (R34). -/
def PageFrame (s t : State) (p : Page) : Prop :=
  t = { s with stns := t.stns, ctxs := t.ctxs, cells := t.cells, parity := t.parity, out := t.out, net := t.net, outs := t.outs, gates := t.gates } ∧
    OtherPages s t p ∧ CountersOnly s t ∧ LinkStarts s t ∧ t.net.map Packet.content = s.net.map Packet.content

/-! ## Commands of one shape -/

/-- The writes of a group's controls, on a station's page and on a virtual station page. -/
def maskRankCmd (p : Page) (data : Word) (a : Acc) : Instr :=
  match p with | .stn n g => .stnMaskRank n g data a | .vst v => .vstMaskRank v data a
def preBitsCmd (p : Page) (data : Word) (a : Acc) : Instr :=
  match p with | .stn n g => .stnPreBits n g data a | .vst v => .vstPreBits v data a
def runningRankCmd (p : Page) (data : Word) (a : Acc) : Instr :=
  match p with | .stn n g => .stnRunningRank n g data a | .vst v => .vstRunningRank v data a
def completeCmd (p : Page) (data : Word) (a : Acc) : Instr :=
  match p with | .stn n g => .stnComplete n g data a | .vst v => .vstComplete v data a
def sendCmd (p : Page) (data : Word) (a : Acc) : Instr :=
  match p with | .stn n g => .stnSend n g data a | .vst v => .vstSend v data a
def sendGangCmd (p : Page) (data : Word) (a : Acc) : Instr :=
  match p with | .stn n g => .stnSendGang n g data a | .vst v => .vstSendGang v data a
def sendStatusCmd (p : Page) (a : Acc) : Instr :=
  match p with | .stn n g => .stnSendStatus n g a | .vst v => .vstSendStatus v a
def claimCmd (p : Page) (a : Acc) : Instr :=
  match p with | .stn n g => .stnClaim n g a | .vst v => .vstClaim v a

/-- The cell that a send of the page leaves from, and the link that it crosses upward (R213, R377). -/
def sendCell (s : State) (p : Page) : Option (Nat × Option Nat) :=
  match p with
  | .stn n _ => (deliveryCell s n).map fun c => (c, some (n / 48))
  | .vst v => match (s.ctx v).station with
    | some n => (deliveryCell s n).map fun c => (c, some (n / 48))
    | none => (contextCell s v).map fun c => (c, none)

/-- An EVID that software may post (R10, R113). -/
abbrev Postable (e : Nat) : Prop := e ≠ 0 ∧ isWired e = false ∧ isInternal e = false

/-- The message is the next of the queue of messages, every link that it crosses carries it, no timed token is served ahead of it (R263), a
token is the first of its EVID (R43), and nothing is struck. -/
def Next (s : State) (m : Msg) : Prop :=
  (∃ k rest, s.net = k :: rest ∧ k.msg = m ∧ k.replay = false ∧ crossable s k = true ∧ timedAhead s k = false) ∧ s.ecc = [] ∧
  ∀ x, m = .event x → firstToken x.evid s.net = some x

/-- A message of this content is inside the device. -/
def Sent (t : State) (m : Msg) : Prop := ∃ k ∈ t.net, k.msg = m

/-- The state in which a cell serves the message at the front of the messages: the message has crossed its links, after those that go before it
there (R34), it is taken out, and its arrival is counted (R30, R462). -/
def taken (s : State) (c : Option Nat) (timed : Bool) : State :=
  match s.net with
  | [] => s
  | k :: _ =>
    let t := carry s 0 k
    bumpIn { t with net := t.net.eraseIdx 0 } c timed

/-- No queue but that of `e` differs. -/
def OtherQueues (s t : State) (e : Nat) : Prop := ∀ x, x ≠ e → t.queue x = s.queue x

/-- No ledger cell holds an occurrence in its input port (R152). -/
def NoHolds (s : State) : Prop := ∀ x ∈ s.cells, x.2.ledgerHold = none

/-- The owning ledger cell of `e` is enabled. -/
abbrev LedgerOn (s : State) (e : Nat) : Prop := onCell s (ledgerCell s e) = true

/-- Of the pages, only the REJECTED bits of those whose held status reads are answered differ (R216). -/
def OnlyAnswered (s t : State) : Prop :=
  (∀ p, pageGroup t p = { pageGroup s p with rejected := (pageGroup t p).rejected }) ∧
  ((∀ h ∈ s.out.held, h.status = false) → t.stns = s.stns ∧ t.ctxs = s.ctxs ∧ t.out = s.out)

/-- Outpost `k` after its self-test in a return: its stores are fresh and its stations reset (R483 step 2). -/
def returnTested (s : State) (k : Nat) (x : Bist) : State := selfTest (resetStations (freshStores s k) k) k (bistFailing s x)

/-- A return of outpost `k` as it stands after self-test, the restoring of its slots, training and the Datum sweep (R483). -/
def returnSwept (s : State) (k : Nat) (x : Bist) : State :=
  let u := restoreSlots (returnTested s k x) k
  sweep (u.modOp k fun x => { x with
    link := .up, copy := u.mer.now, align := .aligned, good := 16, bad := 0, missed := 0, phase := 0, hold := 0, gain := 0, corr := 0 })

/-- The block of a cell answers: the hub serves accesses, and the cell is the hub's or a populated outpost's (R23, R302). -/
abbrev CellReady (s : State) (c : Nat) (a : Acc) : Prop := Serves s a ∧ c < 1536 ∧ (c < 768 ∨ populated s (unitOf c) = true)

/-- The log writer takes an entry of this code and these arguments behind those that wait; where 64 wait it is dropped and counted (R455, R456). -/
def Logged (s t : State) (code : Nat) (a0 a1 a2 : Word) : Prop :=
  (s.isl.logQ.length < 64 → ∃ e, t.isl.logQ = s.isl.logQ ++ [e] ∧ e.code = BitVec.ofNat 8 code ∧ e.arg0 = a0 ∧ e.arg1 = a1 ∧ e.arg2 = a2) ∧
  (64 ≤ s.isl.logQ.length → t.isl.logQ = s.isl.logQ ∧ t.isl.logDrop = satInc s.isl.logDrop)

/-! ## Mailbox commands -/

/-- A command of opcode `op` waits on mailbox `b`, Wairo takes it now, and no register has a parity mismatch (R82, R330 to R333). -/
abbrev Waits (s : State) (b : Box) (op : Nat) : Prop := boxTurn s b = true ∧ (s.mbx b).list = false ∧ (s.mbx b).op.toNat = op ∧ s.parity = []

/-- An argument word of the waiting command. -/
def argOf (s : State) (b : Box) (i : Nat) : Word := getW (s.mbx b).args i

/-- The argument words of the waiting command are these; the others are zero. -/
abbrev ArgsAre (s : State) (b : Box) (ws : List Word) : Prop := ∀ i, i < 32 → argOf s b i = (ws[i]?).getD 0

/-- The command of this row ends with OK (R335): none of its checks fails. -/
abbrev EndsOk (f : Call → State → Res) (s : State) (b : Box) : Prop := (f (callOf s b) s).code = cOk

/-- No queue but that of `e` differs, but for over-quota flags that the freeing of pool slots clears (R147). -/
def OtherQueuesBut (s t : State) (e : Nat) : Prop := ∀ x, x ≠ e → t.queue x = { s.queue x with overQ := (t.queue x).overQ }

/-- No byte of system memory outside `n` bytes from `a` on differs. -/
def MemoryOutside (s t : State) (a n : Nat) : Prop := ∀ x, x < a ∨ a + n ≤ x → memByte t.mem x = memByte s.mem x

/-- Nothing is struck: no store word holds an error that has not been found (R155, R479), no arbiter overruns (R279), the ring answers (R152),
and no register has a parity mismatch (R82). -/
abbrev Clean (s : State) : Prop := s.ecc = [] ∧ s.parity = []

/-- What the ledgers and stores hold: queues, tally, pool, field book, inputs. -/
def SameQueues (s t : State) : Prop :=
  t.queues = s.queues ∧ t.tally = s.tally ∧ t.pool = s.pool ∧ t.fb = s.fb ∧ t.inputs = s.inputs

/-- The write is counted in HUB_DB_FORMAT_CNT, fills the capture where that is armed, and raises DB_FORMAT (R113, R114, R116, R117). -/
def DbRejected (s t : State) (d : DbWrite) (why : BitVec 4) : Prop :=
  t.hub.dbFormat = satInc s.hub.dbFormat ∧ tget 0 t.hub.faultCnt 0x12 = satInc (tget 0 s.hub.faultCnt 0x12) ∧ t.hub.seen = s.hub.seen ||| (1#22 <<< 0x12) ∧
  (s.hub.dbCap.valid = true → t.hub.dbCap = s.hub.dbCap) ∧
  (s.hub.dbCap.valid = false → t.hub.dbCap.valid = true ∧ t.hub.dbCap.reason = why ∧ t.hub.dbCap.port = BitVec.ofNat 3 d.port ∧ t.hub.dbCap.rid = d.rid) ∧
  SameQueues s t ∧ CountersOnly s t

/-- Nothing has been sent but the occurrence of the fault code's internal EVID (R476). -/
def OnlyFault (s t : State) (code : Nat) : Prop := ∀ m, Sent t m → Sent s m ∨ ∃ k, m = .event k ∧ k.evid = 0xFFFC0 + code

/-- No candidate of the tournament has been withdrawn by its ledger (R140). -/
def NoneRecalled (s : State) (n : Nat) (t : Tour) : Prop :=
  ∀ x ∈ seatsOf s n t, x.cand.gather = none → (s.queue x.cand.evid).recalled = false

/-- What the ledgers and stores hold, where a claim has taken the slot of a LATEST queue (R140). -/
def SameQueuesBut (s t : State) (e : Nat) : Prop :=
  (∀ x, t.queue x = { s.queue x with slotTaken := (s.queue x).slotTaken || (decide (x = e) && decide ((s.queue e).mode = .latest)) }) ∧
  t.tally = s.tally ∧ t.pool = s.pool ∧ t.fb = s.fb ∧ t.inputs = s.inputs

/-- What commands set up: gangs, spread sets, mailboxes, power, meridian, system memory, waiting commands. -/
def SameSetup (s t : State) : Prop :=
  t.gangs = s.gangs ∧ t.spreads = s.spreads ∧ t.mbxN = s.mbxN ∧ t.mbxS = s.mbxS ∧ t.mem = s.mem ∧ t.pending = s.pending

end Sys2Proof.Machine
end

