-- ==== Sys2Proof/Certificates/Slice0/Obligations.lean ====
section
/-! DEFINITION. The statements about the model, for the provers. -/

open Sys2Proof Sys2Proof.Machine

/-- A step takes the command at the front of the queue and carries it out on the state with the rest of the queue. With no command waiting
the meridian counts one tick, and the accesses that wait for a link are tried again, which is the model's choice (log entries 2, 62). -/
def Obligations.StepRunsTheFrontCommand : Prop :=
  (∀ (s : State) (c : Instr) (rest : List Instr), s.pending = c :: rest → step s = exec c { s with pending := rest }) ∧
  (∀ s : State, s.pending = [] → step s = .next (idle s))

/-- What the spec's Reset columns give: no command waits and system memory lists nothing; HUB_EN and every CELL_EN are 0, the guard's
thresholds are 0x3B6, 0x384 and 0x0A, the secure watchdog's period is 0x3E80, a group's PRE_BITS is 8, its stack empty, the counter
selectors are 0x04030201; parcel 0 is held and no other; only the internal queues are bound; SPEED_REQ, CHIP_RESET_REQ and the request
wires are deasserted. The model's own readings here: log entry 3. -/
def Obligations.ResetHoldsTheGivenValues : Prop :=
  State.reset.pending = [] ∧ State.reset.net = [] ∧ State.reset.mem = [] ∧ Memory.wf State.reset.mem ∧ State.reset.hub.en = false ∧
  State.reset.hub.assertPm = 0x3B6 ∧ State.reset.hub.releasePm = 0x384 ∧ State.reset.hub.holdUs = 0x0A ∧ State.reset.hub.speedReq = false ∧
  State.reset.pwr.swPeriod = 0x3E80 ∧ State.reset.pwr.chipRst = false ∧
  (∀ c, (State.reset.cell c).en = false ∧ (State.reset.cell c).ctrSel = 0x04030201 ∧ (State.reset.cell c).ctrs = []) ∧
  (∀ n g, (State.reset.grp n g).preBits = 8 ∧ (State.reset.grp n g).stack = [] ∧ (State.reset.grp n g).seats = [] ∧ reqLevel State.reset n g = false) ∧
  (∀ p, parcelHeld State.reset p = decide (p = 0)) ∧ (∀ e, (State.reset.queue e).bound = isInternal e) ∧
  (∀ b, (State.reset.mbx b).busy = false) ∧ (∀ v, (State.reset.ctx v).bound = false) ∧ (∀ g, (State.reset.gang g).defined = false)

/-- Every command answers a next state in every state, but AUXIN_SURGE_LIMIT above 60 V, which faults (R488); no command is refused. The
model's own readings here: log entries 1, 50. -/
def Obligations.EveryCommandAnswers : Prop :=
  ∀ (c : Instr) (s : State), ((∀ mv, c = .auxinSurgeLimit mv → mv ≤ 60000) → ∃ t, exec c s = .next t) ∧
    (∀ mv, c = .auxinSurgeLimit mv → 60000 < mv → exec c s = .fault .absoluteMaximum)

/-- A step keeps the canonical form of system memory, and takes one command out of the queue and puts none into it. The model's own
readings here: log entries 2, 4. -/
def Obligations.EveryStepKeepsTheMemoryForm : Prop :=
  ∀ s t : State, Memory.wf s.mem → step s = .next t → Memory.wf t.mem ∧ t.pending = s.pending.tail

/-- R440, R441: no command and no tick changes the device ID or the lock of the provisioning record, nor, once the lock is set, the two
verifying keys (R407). While the lock is clear the debug gate writes the keys, and that nothing sets the lock or writes the device ID is
the model's own choice. The model's own readings here: log entries 2, 3, 47. -/
def Obligations.TheLockedProvisioningRecordStays : Prop :=
  ∀ s t : State, Memory.wf s.mem → step s = .next t →
    t.isl.deviceId = s.isl.deviceId ∧ t.isl.provLock = s.isl.provLock ∧
      (s.isl.provLock = true → t.isl.fwKey = s.isl.fwKey ∧ t.isl.dbgKey = s.isl.dbgKey)

/-- R7, R8, R27: the hub owns cells 0 to 767 and outpost k cells 768 + 64 k to 831 + 64 k; station die x 48 + core x 2 + thread is served by
the outpost on its die; input i of outpost k is EVID 1 + 256 k + i, and hub input j is EVID 0xC01 + j, whatever the plat. -/
def Obligations.UnitsStationsAndInputsAreNumbered : Prop :=
  (∀ c, c < 768 → unitOf c = 12) ∧
  (∀ k c, k < 12 → 768 + 64 * k ≤ c → c ≤ 831 + 64 * k → unitOf c = k) ∧
  (∀ (s : State) (die core thread c : Nat), die < 12 → core < 24 → thread < 2 →
    (die * 48 + core * 2 + thread) / 48 = die ∧ (deliveryCell s (die * 48 + core * 2 + thread) = some c → unitOf c = die)) ∧
  (∀ (s : State) (k i : Nat), k < 12 → i < 256 → isWired (1 + 256 * k + i) = true ∧ ownerUnit (1 + 256 * k + i) = k ∧ evidInput (1 + 256 * k + i) = i ∧
    ∀ c, intakeCell s (1 + 256 * k + i) = some c → unitOf c = k) ∧
  (∀ (s : State) (j : Nat), j < 1024 → isWired (0xC01 + j) = true ∧ ownerUnit (0xC01 + j) = 12 ∧ evidInput (0xC01 + j) = j ∧
    ∀ c, intakeCell s (0xC01 + j) = some c → unitOf c = 12)

/-- R196, R200: STN_MASK_RANK and STN_PRE_BITS, and VST_MASK_RANK and VST_PRE_BITS (R327): the group takes the written fields, a BITS value
above 8 stores 8, and nothing else of any page changes. R199: STN_RUNNING_RANK and VST_RUNNING_RANK set the running value of the top entry
of the stack, and are ignored while it is empty. -/
def Obligations.PageControlsAndTheTopEntryTakeTheirValues : Prop :=
  (∀ (s : State) (p : Page) (data : Word) (a : Acc), Serves s a → PageReady s p → Reaches a p → Clean s →
     (∃ t, exec (maskRankCmd p data a) s = .next t ∧
       pageGroup t p = { pageGroup s p with maskRank := data.extractLsb' 0 8, maskOpen := data.getLsbD 8 } ∧ PageFrame s t p) ∧
     (∃ t, exec (preBitsCmd p data a) s = .next t ∧
       pageGroup t p = { pageGroup s p with preBits := if bits data 0 4 > 8 then 8 else data.extractLsb' 0 4 } ∧ PageFrame s t p)) ∧
  (∀ (s : State) (p : Page) (data : Word) (a : Acc), Serves s a → PageReady s p → Reaches a p → Clean s →
     ∃ t, exec (runningRankCmd p data a) s = .next t ∧ PageFrame s t p ∧
       pageGroup t p = { pageGroup s p with
         stack := match (pageGroup s p).stack with
           | [] => []
           | x :: rest => { x with running := data.extractLsb' 0 8 } :: rest })

/-- R213, R214, R377: a write of STN_SEND or VST_SEND posts one occurrence of the written EVID, and one of STN_SEND_GANG or VST_SEND_GANG one
for the gang: one token with the page's payload, the stamp of the sending unit, and the page's requester. R214, R235, R258: the gang/timing
cell resolves such a token to the gang's send EVID, and the ledger of that EVID takes the occurrence. R216, R294: a read of STN_SEND_STATUS or
VST_SEND_STATUS with no send of the page on its way answers LAST_REASON and REJECTED, and clears REJECTED; with one on its way the read is
held and nothing else changes. The model's own readings here: log entry 12. -/
def Obligations.SendsArePostedAndReported : Prop :=
  (∀ (s : State) (p : Page) (data : Word) (a : Acc) (c : Nat) (k : Option Nat) (i : Instr) (e : Nat) (g : Option Nat),
     Serves s a → PageReady s p → Reaches a p → Clean s → sendCell s p = some (c, k) →
     ((i = sendCmd p data a ∧ data.toNat < 2 ^ 20 ∧ e = data.toNat ∧ g = none ∧ Postable e) ∨
       (i = sendGangCmd p data a ∧ data.toNat < 1024 ∧ e = 0 ∧ g = some data.toNat)) →
     ∃ t tok, exec i s = .next t ∧ t.net.map (·.msg) = s.net.map (·.msg) ++ [.event tok] ∧
       tok.evid = e ∧ tok.gang = g ∧ tok.payload = (pageGroup s p).sendData ∧ tok.stamp = copyOf s (unitOf c) ∧ tok.rid = sendRid s p a ∧
       tok.sec = sendSec p a ∧ tok.src = .send p ∧ tok.lock = (match p with | .stn _ _ => .full | .vst _ => .virt) ∧ tok.edge = .occurrence ∧
       tok.cell = c ∧ tok.serial = s.nextId ∧
       t = { s with net := t.net, cells := t.cells, parity := t.parity, out := t.out, nextId := s.nextId + 1, outs := t.outs, gates := t.gates } ∧
       CountersOnly s t ∧ LinkStarts s t) ∧
  (∀ (s : State) (p : Packet) (k : Token) (g c : Nat), s.net = [p] → p.msg = .event k → k.gang = some g → k.edge = .occurrence → crossable s p = true →
     Clean s → NoHolds s → s.waits = [] → gangCell s g = some c → (s.cell c).en = true → joined s c = true → (s.gang g).defined = true →
     Postable (s.gang g).send → LedgerOn s (s.gang g).send → checkToken s { k with evid := (s.gang g).send, gang := none } = none →
     (s.queue (s.gang g).send).mode = .count → (s.queue (s.gang g).send).count ≠ 0xFFF → bookCause s (s.gang g).send = none →
     ∃ t, exec (.ledgerTake (s.gang g).send) s = .next t ∧ (t.queue (s.gang g).send).count = (s.queue (s.gang g).send).count + 1 ∧
       (t.queue (s.gang g).send).stampSet = true ∧
       ((s.queue (s.gang g).send).stampSet = false → (t.queue (s.gang g).send).stamp = stamp23 k.stamp) ∧
       OtherQueues s t (s.gang g).send ∧ t.gangs = s.gangs ∧ t.fb = s.fb ∧ t.pool = s.pool ∧ SameSetup s t) ∧
  (∀ (s : State) (p : Page) (a : Acc), Serves s a → PageReady s p → Reaches a p → Clean s →
     (unsettled s p s.nextId = false → ∃ t, exec (sendStatusCmd p a) s = .next t ∧
       t.out = { s.out with data := (sendStatusWord (pageGroup s p)).zeroExtend 64, err := false } ∧
       pageGroup t p = { pageGroup s p with rejected := false } ∧ PageFrame s t p) ∧
     (unsettled s p s.nextId = true → ∃ t, exec (sendStatusCmd p a) s = .next t ∧
       t.out = { s.out with held := s.out.held ++ [{ page := p, status := true, tag := a.tag, upTo := s.nextId }] } ∧
       (∀ q, pageGroup t q = pageGroup s q) ∧ PageFrame s t p))

/-- R198, R203, R205: a claim whose data stand on the die takes the presented candidate: its seat is emptied, its entry is pushed on the
stack, SEQ grows by 1, the window is latched, the response is valid and the claim report is on its way; queues, setup and other pages stay
as they are. R375, R376: a claim on the virtual station page of a resident vCPU takes the candidate that its tournament presents: its seat
is emptied, its entry is pushed on the vCPU's stack, SEQ grows by 1, and the claim report asks the owning ledger for the data that answer
the read. The model's own readings here: log entry 18. -/
def Obligations.ClaimTakesThePresentedCandidate : Prop :=
  (∀ (s : State) (n : Nat) (g : Grp) (a : Acc) (c : Cand), Serves s a → PageReady s (.stn n g) → Reaches a (.stn n g) →
    Clean s → NoneRecalled s n (tourOf g) → presented s n g = some c → c.evid ≠ 0 → c.gather = none → dataHere s n c.evid = true →
    ∃ t, exec (.stnClaim n g a) s = .next t ∧
      t.out.data = (packClaim true (.stn n g) false false ((s.grp n g).seq + 1) c.evid).zeroExtend 64 ∧ t.out.err = false ∧
      (t.grp n g).stack = { evid := c.evid, rank := c.rank, running := c.rank, mode := c.mode } :: (s.grp n g).stack ∧
      (t.grp n g).seats = (s.grp n g).seats.filter (fun x => decide (x.cand ≠ c)) ∧ (t.grp n g).seq = (s.grp n g).seq + 1 ∧
      (t.grp n g).win.valid = true ∧ (t.grp n g).win.evid = c.evid ∧ (t.grp n g).win.rank = c.rank ∧
      (t.grp n g).win.payload = (headOf s c.evid).1 ∧
      (∃ k ∈ t.net, ∃ st ovf, k.msg = .claimed c.evid (.station n g) false st ovf false) ∧
      SameQueuesBut s t c.evid ∧ SameSetup s t ∧ ∀ q, q ≠ .stn n g → pageGroup t q = pageGroup s q) ∧
  (∀ (s : State) (v n : Nat) (a : Acc) (c : Cand), Serves s a → PageReady s (.vst v) → Reaches a (.vst v) → Clean s →
    (s.ctx v).station = some n → (s.stn n).resident = some v → NoneRecalled s n .virt → presentedVirt s n v = some c →
    ∃ t, exec (.vstClaim v a) s = .next t ∧
      (t.ctx v).g.stack = { evid := c.evid, rank := c.rank, running := c.rank, mode := c.mode, gather := c.gather } :: (s.ctx v).g.stack ∧
      (t.ctx v).g.seats = (s.ctx v).g.seats.filter (fun x => decide (x.cand ≠ c)) ∧ (t.ctx v).g.seq = (s.ctx v).g.seq + 1 ∧
      (t.ctx v).g.win.valid = false ∧ Sent t (.claimed c.evid (.context v) true c.stamp false false) ∧
      t.out = { s.out with held := s.out.held ++ [heldClaim s (.vst v) a c (s.op (n / 48)).copy] } ∧
      SameQueues s t ∧ SameSetup s t ∧ ∀ q, q ≠ .vst v → pageGroup t q = pageGroup s q)

/-- R199, R207, R208: a completion removes the first entry of the EVID from the top of the stack, wherever it stands, clears the window and
sends the completion to the owning ledger. R208: a completion that names no entry of its stack leaves the stack as it is and is sent to the
ledger, which finds it stray. -/
def Obligations.CompleteRemovesTheEntryAndReportsIt : Prop :=
  (∀ (s : State) (p : Page) (data : Word) (a : Acc) (x : Entry) (rest : List Entry), Serves s a → PageReady s p → Reaches a p → Clean s →
     data.toNat < 2 ^ 20 → removeEntry data.toNat false (pageGroup s p).stack = some (x, rest) → x.orphan = false → x.gather = none →
     ∃ t, exec (completeCmd p data a) s = .next t ∧ (pageGroup t p).stack = rest ∧ (pageGroup t p).win.valid = false ∧
       (∃ k ∈ t.net, k.msg = .completed data.toNat (match p with | .stn n g => .station n g | .vst v => .context v)) ∧
       SameQueues s t ∧ SameSetup s t ∧ ∀ q, q ≠ p → pageGroup t q = pageGroup s q) ∧
  (∀ (s : State) (n : Nat) (g : Grp) (data : Word) (a : Acc), Serves s a → PageReady s (.stn n g) → Reaches a (.stn n g) → Clean s → bits data 21 11 = 0 →
     removeEntry (bits data 0 20) (data.getLsbD 20) (s.grp n g).stack = none →
     ∃ t, exec (.stnComplete n g data a) s = .next t ∧ (t.grp n g).stack = (s.grp n g).stack ∧ (t.grp n g).win.valid = false ∧
       (∃ k ∈ t.net, k.msg = .completed (bits data 0 20) (.station n g)) ∧ SameQueues s t ∧ SameSetup s t ∧ ∀ q, q ≠ .stn n g → pageGroup t q = pageGroup s q)

/-- R203: a claim that finds nothing presented answers VALID = 0 with SEQ as it stands, and takes nothing. R29, R61, R375: a claim whose
data come from the ledger is held: the entry is pushed and the claim report asks for the data. R206, R370: a claim whose winner is the
hypervisor doorbell answers with KIND = 1 and the announced context in the payload, pushes a doorbell entry and marks the context as
announced. R179, R203, R236: a claim of a gang's member candidate is answered at once from what the candidate carries; the first claim of
the gather record is reported to the ledger. R375, R376: a claim on a virtual station page of a vCPU that is not resident, or whose
tournament presents nothing, answers VALID = 0 and takes nothing. The model's own readings here: log entries 16, 18, 24, 71. -/
def Obligations.OtherClaimsAreAnsweredOrWait : Prop :=
  (∀ (s : State) (n : Nat) (g : Grp) (a : Acc), Serves s a → PageReady s (.stn n g) → Reaches a (.stn n g) →
     Clean s → NoneRecalled s n (tourOf g) → presented s n g = none →
     ∃ t, exec (.stnClaim n g a) s = .next t ∧
       t.out.data = (packClaim false (.stn n g) false (decide ((s.grp n g).stack.length ≥ stackLimit (tourOf g))) (s.grp n g).seq 0).zeroExtend 64 ∧
       t.grp n g = { s.grp n g with win := { (s.grp n g).win with valid := false, await := false } } ∧ PageFrame s t (.stn n g)) ∧
  (∀ (s : State) (p : Page) (n : Nat) (a : Acc) (c : Cand), Serves s a → PageReady s p → Reaches a p → Clean s →
     pageStation s p = some n → c.evid ≠ 0 →
     (match p with
       | .stn m g => NoneRecalled s m (tourOf g) ∧ presented s m g = some c ∧ c.gather = none ∧ dataHere s m c.evid = false
       | .vst v => NoneRecalled s n .virt ∧ presentedVirt s n v = some c ∧ (s.stn n).resident = some v) →
     ∃ t, exec (claimCmd p a) s = .next t ∧ t.out.data = s.out.data ∧
       t.out.held = s.out.held ++ [heldClaim s p a c (s.op (n / 48)).copy] ∧
       (pageGroup t p).win.valid = false ∧ (pageGroup t p).seq = (pageGroup s p).seq + 1 ∧
       (pageGroup t p).seats = (pageGroup s p).seats.filter (fun x => decide (x.cand ≠ c)) ∧
       ((pageGroup t p).stack.map (·.evid)) = c.evid :: (pageGroup s p).stack.map (·.evid) ∧
       (∃ k ∈ t.net, ∃ h st, k.msg = .claimed c.evid h true st false false) ∧
       SameQueues s t ∧ SameSetup s t ∧ ∀ q, q ≠ p → pageGroup t q = pageGroup s q) ∧
  (∀ (s : State) (n v : Nat) (a : Acc) (c : Cand), Serves s a → PageReady s (.stn n .normal) → Reaches a (.stn n .normal) →
     Clean s → NoneRecalled s n .normal → presented s n .normal = some c → c.evid = 0 → announced s n = some v →
     ∃ t, exec (.stnClaim n .normal a) s = .next t ∧
       t.out.data = (packClaim true (.stn n .normal) true false ((s.grp n .normal).seq + 1) 0).zeroExtend 64 ∧ t.out.err = false ∧
       (t.ctx v).announced = true ∧ (t.ctx v).counted = false ∧ (t.grp n .normal).win.valid = true ∧ (t.grp n .normal).win.payload = BitVec.ofNat 20 v ∧
       (∃ x, (t.grp n .normal).stack = x :: (s.grp n .normal).stack ∧ x.kind = true ∧ x.ctx = v) ∧
       (t.grp n .normal).seats = (s.grp n .normal).seats ∧ SameQueues s t ∧ SameSetup s t) ∧
  (∀ (s : State) (n id : Nat) (g : Grp) (a : Acc) (c : Cand), Serves s a → PageReady s (.stn n g) → Reaches a (.stn n g) →
     Clean s → NoneRecalled s n (tourOf g) → presented s n g = some c → c.evid ≠ 0 → c.gather = some id →
     ∃ t, exec (.stnClaim n g a) s = .next t ∧
       t.out.data = (packClaim true (.stn n g) false false ((s.grp n g).seq + 1) c.evid).zeroExtend 64 ∧ t.out.err = false ∧
       (t.grp n g).stack = { evid := c.evid, rank := c.rank, running := c.rank, mode := c.mode, gather := some id } :: (s.grp n g).stack ∧
       (t.grp n g).win.gang = true ∧
       (∀ r, s.gathers.find? (fun x => decide (x.id = id)) = some r → r.claimed = false → (t.grp n g).win.payload = (headOf s c.evid).1 ∧
         (∃ k ∈ t.net, ∃ st ovf, k.msg = .claimed c.evid (.gang r.gang) false st ovf false) ∧ (∀ y ∈ t.gathers, y.id = id → y.claimed = true) ∧
         SameQueuesBut s t c.evid) ∧
       (∀ r, s.gathers.find? (fun x => decide (x.id = id)) = some r → r.claimed = true →
         (t.grp n g).win.payload = r.payload ∧ t.gathers = s.gathers ∧ SameQueues s t) ∧
       (s.gathers.find? (fun x => decide (x.id = id)) = none → (t.grp n g).win.payload = c.payload ∧ t.gathers = s.gathers ∧ SameQueues s t) ∧
       SameSetup s t ∧ ∀ q, q ≠ .stn n g → pageGroup t q = pageGroup s q) ∧
  (∀ (s : State) (v : Nat) (a : Acc), Serves s a → PageReady s (.vst v) → Reaches a (.vst v) → Clean s →
     ((s.ctx v).station = none ∨ ∃ n, (s.ctx v).station = some n ∧ NoneRecalled s n .virt ∧ presentedVirt s n v = none) →
     ∃ t, exec (.vstClaim v a) s = .next t ∧
       t.out.data = (packClaim false (.vst v) false (decide ((s.ctx v).g.stack.length ≥ 16)) (s.ctx v).g.seq 0).zeroExtend 64 ∧
       pageGroup t (.vst v) = { (s.ctx v).g with win := { (s.ctx v).g.win with valid := false, await := false } } ∧ PageFrame s t (.vst v))

/-- R371, R372: an accepted write of ENTER = 1 makes the vCPU resident; its recorded candidates become the seats of its virtual
tournament. R373: a write of ENTER = 0 takes the resident vCPU off its station; the first 16 of its seats, in their order, become its
recorded candidates, and its record takes the live words. The model's own readings here: log entry 19. -/
def Obligations.EnterAndLeaveMoveTheContext : Prop :=
  (∀ (s : State) (n : Nat) (low : BitVec 31) (a : Acc), Serves s a → PageReady s (.stn n .normal) → a.size = .b32 → low.toNat < 16384 → Clean s →
     (s.ctx low.toNat).bound = true → (s.ctx low.toNat).poisoned = false → inSet s (s.ctx low.toNat).parcel n = true →
     (s.parcel (s.ctx low.toNat).parcel).st ≠ .fenced → (s.stn n).resident ≠ some low.toNat →
     ∃ t, exec (.vctxEnter n low a) s = .next t ∧ (t.stn n).resident = some low.toNat ∧ (t.ctx low.toNat).station = some n ∧
       (t.ctx low.toNat).cands = [] ∧ (t.ctx low.toNat).spill = false ∧ (t.ctx low.toNat).announced = false ∧
       ((s.ctx low.toNat).station = none → (s.stn n).resident = none → (t.ctx low.toNat).g.seats = (s.ctx low.toNat).cands) ∧
       SameQueues s t ∧ SameSetup { s with spreads := t.spreads } t) ∧
  (∀ (s : State) (n v : Nat) (low : BitVec 31) (a : Acc), Serves s a → PageReady s (.stn n .normal) → a.size = .b32 → low.toNat < 16384 → Clean s →
     (s.stn n).resident = some v →
     ∃ t, exec (.vctxLeave n low a) s = .next t ∧ (t.stn n).resident = none ∧ (t.ctx v).station = none ∧
       (t.ctx v).saved = recordOf (s.ctx v).g ∧ (t.ctx v).g.seats = [] ∧
       (t.ctx v).cands.map (·.cand) = (sortCands (s.op (n / 48)).copy ((s.ctx v).g.seats.map (·.cand))).take 16 ∧
       SameQueues s t ∧ SameSetup { s with spreads := t.spreads } t)

/-- R328: a read of VST_CTX_CAPTURE latches the selected section of the record into the window, adds 1 to its sequence, and clears the mark
that shows a change. -/
def Obligations.ContextCaptureLatchesTheSection : Prop :=
  ∀ (s : State) (v : Nat) (a : Acc), Serves s a → PageReady s (.vst v) → a.size = .b32 → Clean s →
    ∃ t, exec (.vstCtxCapture v a) s = .next t ∧
      t.ctx v = { s.ctx v with
        capSeq := (s.ctx v).capSeq + 1, changed := false, winValid := true, winSeq := (s.ctx v).capSeq + 1, winSect := (s.ctx v).ctxSel
        win := (List.range 8).map fun i => recordWord (s.ctx v) (8 * (s.ctx v).ctxSel.toNat + i) } ∧
      t.out.data.toNat % 256 = ((s.ctx v).capSeq + 1).toNat ∧ (∀ w, w ≠ v → t.ctx w = s.ctx w) ∧
      t = { s with ctxs := t.ctxs, cells := t.cells, out := t.out, net := t.net, outs := t.outs, gates := t.gates } ∧ CountersOnly s t ∧ LinkStarts s t ∧
      t.net.map Packet.content = s.net.map Packet.content

/-- R216: the notice of a deferred send sets REJECTED and LAST_REASON of its page. R375: the claim data answer the held claim read with that
claim's SEQ, and a 64-bit read (R285) with the window's state above it; R203, R204: they fill the window unless a later claim or completion has
been served. R146, R205, R477: where the data or the seat are marked aged the stamp is shown as it stands, and STAMP_AGED is raised. The model's
own readings here: log entries 12, 18. -/
def Obligations.AnswersReachTheirPage : Prop :=
  (∀ (s : State) (p : Page) (r : BitVec 4), Next s (.sendReject p r) →
     (match p with | .stn n _ => dieAway s (n / 48) = false | .vst _ => True) →
     ∃ t, exec (.sendRejectionNotice p) s = .next t ∧ pageGroup t p = { pageGroup s p with rejected := true, reason := r } ∧
       t = { s with net := t.net, stns := t.stns, ctxs := t.ctxs, cells := t.cells, outs := t.outs, gates := t.gates } ∧ OtherPages s t p ∧
       CountersOnly s t ∧ FirstServed s t) ∧
  (∀ (s : State) (p : Page) (e : Nat) (pl : Payload) (st : Stamp23) (old ovf rep lost grade : Bool) (h : HeldRead),
     Next s (.claimData e p pl st old ovf rep lost grade) → s.waits = [] →
     s.out.held.find? (fun x => decide (x.page = p) && decide (x.evid = e) && !x.status) = some h →
     ∃ t, exec (.claimDataArrival e) s = .next t ∧
       t.out = { s.out with
         data := if h.wide then mk64 (packWinState p (pageGroup t p).win) (packClaim true p false false h.seq e)
           else (packClaim true p false false h.seq e).zeroExtend 64
         err := false, held := s.out.held.erase h } ∧
       (pageGroup t p).stack = (pageGroup s p).stack ∧
       ((pageGroup s p).win.await = true → (pageGroup s p).seq = h.seq → (pageGroup t p).win.valid = true ∧ (pageGroup t p).win.evid = e ∧
         (pageGroup t p).win.payload = pl ∧ (pageGroup t p).win.seq = h.seq ∧ (pageGroup t p).win.rank = h.rank ∧ (pageGroup t p).win.mode = h.mode ∧
         (pageGroup t p).win.aged = (old || h.aged) ∧ ((old || h.aged) = true → (pageGroup t p).win.stamp = st.zeroExtend 64)) ∧
       ((pageGroup s p).win.await = false ∨ (pageGroup s p).seq ≠ h.seq → (pageGroup t p).win = (pageGroup s p).win) ∧
       ((old || h.aged) = false → t = { s with net := t.net, stns := t.stns, ctxs := t.ctxs, out := t.out, cells := t.cells, outs := t.outs, gates := t.gates } ∧
         FirstServed s t) ∧
       ((old || h.aged) = true → s.pwr.hubl = .on → s.pwr.rst = false →
         t.hub.seen = s.hub.seen ||| (1#22 <<< 9) ∧ tget 0 t.hub.faultCnt 9 = satInc (tget 0 s.hub.faultCnt 9)) ∧
       OtherPages s t p ∧ SameQueues s t ∧ CountersOnly s t)

/-- R118, R119, R130, R133, R139: an occurrence that passes its checks enters its COUNT queue: COUNT grows by 1, and the first since the
latest claim gives the queue its stamp and its grade. An occurrence whose intake found the meridian degraded, or that waited there, is
booked, and a booked one of a hub queue counts in its tally. R113, R114: a token that fails a check of its ledger enters nothing; the
counter of the first failing check grows, and a doorbell write fills the armed capture. R133, R138, R148, R149, R61: a LEVEL queue follows
its input; a LATEST queue takes the value over the one before; a PAYLOAD queue links a new slot at its tail; an occurrence that the queue
has no room for, or that finds its ledger cell disabled, is put behind the queue's records in the field book. The model's own readings
here: log entries 11, 17. -/
def Obligations.LedgerChecksAndEntersOccurrences : Prop :=
  (∀ (s : State) (k : Token), Next s (.event k) → NoGangSends s → Clean s → LedgerOn s k.evid →
     (∀ c, ledgerCell s k.evid = some c → (s.cell c).ledgerHold = none) → s.waits = [] → checkToken s k = none → k.edge = .occurrence →
     (s.queue k.evid).mode = .count → (s.queue k.evid).count ≠ 0xFFF → bookCause s k.evid = none →
     ∃ t, exec (.ledgerTake k.evid) s = .next t ∧ (t.queue k.evid).count = (s.queue k.evid).count + 1 ∧ (t.queue k.evid).stampSet = true ∧
       ((s.queue k.evid).stampSet = false → (t.queue k.evid).stamp = stamp23 k.stamp ∧
         (t.queue k.evid).grade = decide (gradeCause (taken s (ledgerCell s k.evid) (decide (k.pre = 0))) k false = 0)) ∧
       ((s.queue k.evid).stampSet = true →
         (t.queue k.evid).stamp = (s.queue k.evid).stamp ∧ (t.queue k.evid).grade = (s.queue k.evid).grade) ∧
       ((k.pre = 1 ∨ k.pre = 7) → ownerUnit k.evid = 12 → getW t.tally k.evid = satInc (getW s.tally k.evid)) ∧
       OtherQueues s t k.evid ∧ t.fb = s.fb ∧ t.pool = s.pool ∧ OnlyAnswered s t ∧ t.inputs = s.inputs ∧ SameSetup s t) ∧
  (∀ (s : State) (k : Token) (r : BitVec 4) (port : Nat) (win : Bool) (data : Word), Next s (.event k) → NoGangSends s → Clean s → LedgerOn s k.evid →
     (∀ c, ledgerCell s k.evid = some c → (s.cell c).ledgerHold = none) → s.waits = [] → checkToken s k = some r → k.src = .doorbell port win data →
     ∃ t, exec (.ledgerTake k.evid) s = .next t ∧ SameQueues s t ∧ OnlyAnswered s t ∧ SameSetup s t ∧
       t.hub.dbCap = (captureDb s.hub r port k.sec win k.rid k.evid data).dbCap ∧
       (t.hub.dbDiscard, t.hub.dbFormat, t.hub.dbLock, t.hub.dbRange, t.hub.dbState) =
         (let h := countReason s.hub r; (h.dbDiscard, h.dbFormat, h.dbLock, h.dbRange, h.dbState)) ∧
       CountersOnly s t) ∧
  (∀ (s : State) (k : Token), Next s (.event k) → NoGangSends s → Clean s → (∀ c, ledgerCell s k.evid = some c → (s.cell c).ledgerHold = none) → s.waits = [] →
     (LedgerOn s k.evid → checkToken s k = none →
       ((s.queue k.evid).mode = .level → ∃ t, exec (.ledgerTake k.evid) s = .next t ∧
         (k.edge = .deassert → (t.queue k.evid).count = 0 ∧ ((s.queue k.evid).state = .presented → (t.queue k.evid).recalled = true ∧ (t.queue k.evid).state = .idle)) ∧
         (k.edge ≠ .deassert → (t.queue k.evid).count = 1 ∧ (t.queue k.evid).stamp = stamp23 k.stamp) ∧ OtherQueues s t k.evid ∧ t.fb = s.fb ∧ t.pool = s.pool ∧ t.inputs = s.inputs) ∧
       ((s.queue k.evid).mode = .latest → k.edge = .occurrence → bookCause s k.evid = none → ∃ t, exec (.ledgerTake k.evid) s = .next t ∧
         (t.queue k.evid).count = 1 ∧ (t.slot (s.queue k.evid).tail).payload = k.payload ∧ (t.slot (s.queue k.evid).tail).stamp = stamp23 k.stamp ∧
         (∀ i, i ≠ (s.queue k.evid).tail → t.slot i = s.slot i) ∧ OtherQueues s t k.evid ∧ t.fb = s.fb) ∧
       ((s.queue k.evid).mode = .payload → k.edge = .occurrence → bookCause s k.evid = none → ∃ t, exec (.ledgerTake k.evid) s = .next t ∧
         (t.queue k.evid).count = (s.queue k.evid).count + 1 ∧ (t.slot (t.queue k.evid).tail).used = true ∧ (t.slot (t.queue k.evid).tail).payload = k.payload ∧
         (t.slot (t.queue k.evid).tail).stamp = stamp23 k.stamp ∧ OtherQueues s t k.evid ∧ t.fb = s.fb) ∧
       (∀ c, bookCause s k.evid = some c → k.edge = .occurrence → fbFull s = false → ∃ t, exec (.ledgerTake k.evid) s = .next t ∧
         fbOf t k.evid = fbOf s k.evid ++ [recOf k false c] ∧ (t.queue k.evid).fbw = true ∧ (t.queue k.evid).count = (s.queue k.evid).count ∧ OtherQueues s t k.evid ∧
         t.pool = s.pool)) ∧
     (onCell s (ledgerCell s k.evid) = false → k.edge = .occurrence → fbFull s = false → ∃ t, exec (.ledgerTake k.evid) s = .next t ∧
       fbOf t k.evid = fbOf s k.evid ++ [recOf k true 0] ∧ t.queues = s.queues ∧ t.pool = s.pool))

/-- R150: the oldest record of an EVID leaves the field book once its queue can take it, and enters the queue with the record's stamp,
ungraded: R133: a COUNT queue counts it, with OVF where its count is full, a PAYLOAD queue links a new slot at its tail, a LATEST queue
replaces its value. FBW stays while records wait. The model's own readings here: log entry 22. -/
def Obligations.ReleasedRecordEntersItsQueue : Prop :=
  ∀ (s : State) (e : Nat) (r : FbRec), (fbOf s e).head? = some r → r.dead = 0 → LedgerOn s e → Clean s → NoHolds s →
    (r.deferred = false ∨ checkToken s { evid := e, payload := r.payload, stamp := r.stamp, src := r.src, lock := r.lock, rid := r.rid, sec := r.sec } = none) →
    (s.queue e).bound = true → (s.queue e).poisoned = false → canTake s (s.queue e) = true → reportWaits s e = false → s.waits = [] →
    ∃ t, exec (.fieldBookRelease e) s = .next t ∧ fbOf t e = (fbOf s e).tail ∧ (∀ x, x ≠ e → fbOf t x = fbOf s x) ∧ (t.queue e).fbw = fbWaits t e ∧
      ((s.queue e).mode = .count → t.pool = s.pool ∧
        ((s.queue e).count ≠ 0xFFF → (t.queue e).count = (s.queue e).count + 1 ∧ (t.queue e).stampSet = true ∧
          ((s.queue e).stampSet = false → (t.queue e).stamp = stamp23 r.stamp ∧ (t.queue e).grade = false)) ∧
        ((s.queue e).count = 0xFFF → (t.queue e).count = 0xFFF ∧ (t.queue e).ovf = true)) ∧
      ((s.queue e).mode = .payload → (t.queue e).count = (s.queue e).count + 1 ∧ (t.slot (t.queue e).tail).used = true ∧
        (t.slot (t.queue e).tail).payload = r.payload ∧ (t.slot (t.queue e).tail).stamp = stamp23 r.stamp ∧ (t.slot (t.queue e).tail).grade = false) ∧
      ((s.queue e).mode = .latest → (t.queue e).count = 1 ∧ (t.slot (s.queue e).tail).payload = r.payload ∧
        (t.slot (s.queue e).tail).stamp = stamp23 r.stamp ∧ (t.slot (s.queue e).tail).grade = false ∧ ∀ i, i ≠ (s.queue e).tail → t.slot i = s.slot i) ∧
      OtherQueues s t e ∧ t.inputs = s.inputs ∧ OnlyAnswered s t ∧ SameSetup s t ∧ CountersOnly s t

/-- R138, R133, R134: a claim reaches the ledger: its holder is noted, the queue is active, a COUNT queue gives up one occurrence and its
stamp, a LATEST queue its occurrence where the claim took the value that stands in its slot (a value that came later stays, R140), a PAYLOAD queue
its head slot, which is free again. A claim that asks
for its data (R29, R375) has them sent. R138, R139, R208: a completion reaches the ledger: its holder is removed; with the last one the
queue is IDLE, or PENDING or PRESENTED where something waits; a LEVEL queue samples its input again. The model's own readings here: log
entry 18. -/
def Obligations.ClaimsAndCompletionsReachTheLedger : Prop :=
  (∀ (s : State) (e : Nat) (h : Holder) (want ovf : Bool) (st : Stamp23), Next s (.claimed e h want st ovf false) → e ≠ 0 → LedgerOn s e → Clean s →
     (s.queue e).bound = true → (s.queue e).poisoned = false →
     ∃ t, exec (.claimReport e) s = .next t ∧ (t.queue e).holders = (s.queue e).holders ++ [h] ∧ (t.queue e).recalled = false ∧
       ((t.queue e).state = .active ∨ (t.queue e).state = .activePresented) ∧ ((s.queue e).early = false → (t.queue e).state = .active) ∧
       ((s.queue e).mode = .level → (t.queue e).count = (s.queue e).count) ∧
       ((s.queue e).mode = .count → (t.queue e).count = (s.queue e).count - (if (s.queue e).count = 0 then 0 else 1) ∧
         (t.queue e).activeN = (s.queue e).activeN + 1 ∧ (t.queue e).stampSet = false) ∧
       ((s.queue e).mode = .payload → (s.queue e).count ≠ 0 →
         (t.queue e).count = (s.queue e).count - 1 ∧ (t.slot (headSlot s (s.queue e))).used = false) ∧
       ((s.queue e).mode = .latest → want = false →
         (t.queue e).count = if (s.queue e).slotTaken then 0 else (s.queue e).count) ∧
       (want = true → Sent t (.claimData e (holderPage h) (headOf s e).1 (headOf s e).2.1 (s.queue e).aged ((s.queue e).ovf && decide ((s.queue e).mode = .count))
         (decide ((s.queue e).mode = .count) && !(s.queue e).stampSet) false (headOf s e).2.2)) ∧
       ((s.queue e).mode ≠ .payload → OtherQueues s t e ∧ t.pool = s.pool) ∧
       t.tally = s.tally ∧ t.fb = s.fb ∧ t.inputs = s.inputs ∧ t.stns = s.stns ∧ t.ctxs = s.ctxs ∧ SameSetup s t ∧ CountersOnly s t) ∧
  (∀ (s : State) (e : Nat) (h : Holder), Next s (.completed e h) → e ≠ 0 → LedgerOn s e → Clean s → (s.queue e).bound = true →
     (s.queue e).poisoned = false → (s.queue e).recalled = false → h ∈ (s.queue e).holders → (s.queue e).state = .active →
     ∃ t, exec (.completionMessage e) s = .next t ∧ (t.queue e).holders = eraseHolder h (s.queue e).holders ∧
       ((s.queue e).mode = .count → (t.queue e).count = (s.queue e).count ∧ (t.queue e).activeN = (s.queue e).activeN - 1) ∧
       (eraseHolder h (s.queue e).holders ≠ [] → (t.queue e).state = .active ∨ (t.queue e).state = .activePresented) ∧
       (eraseHolder h (s.queue e).holders = [] → (s.queue e).mode = .level → (s.queue e).activeN = 0 →
         (t.queue e).count = (if asserted s e then 1 else 0) ∧
         (asserted s e = false → (t.queue e).state = .idle) ∧ (asserted s e = true → (t.queue e).state = .pending ∨ (t.queue e).state = .presented)) ∧
       (eraseHolder h (s.queue e).holders = [] → (s.queue e).mode ≠ .level →
         (waiting (s.queue e) = false → (t.queue e).state = .idle) ∧
         (waiting (s.queue e) = true → (t.queue e).state = .pending ∨ (t.queue e).state = .presented)) ∧
       OtherQueues s t e ∧ CountersOnly s t ∧
       t = { s with queues := t.queues, net := t.net, outs := t.outs, places := t.places, spreads := t.spreads, cells := t.cells, gates := t.gates } ∧ LinkStarts s t)

/-- R42, R130, R277: the booked count of an outpost grows the tally of its EVID and the counter of its cause; R175: a load report replaces
each enabled hub rank cell's view of one load, and waits for the others. R276: a lease reaches the hub for the next window, or for the one in progress; a revocation ends what is left
of both. The model's own readings here: log entry 14. -/
def Obligations.ReportsAndLeasesReachTheHub : Prop :=
  ((∀ (s : State) (e cause : Nat), Next s (.bookedReport e cause) →
     ∃ t, exec (.bookedCountReport e) s = .next t ∧ getW t.tally e = satInc (getW s.tally e) ∧ (∀ x, x ≠ e → getW t.tally x = getW s.tally x) ∧
       getW t.hub.bookCnt (cause - 1) = satInc (getW s.hub.bookCnt (cause - 1)) ∧
       t = { s with net := t.net, tally := t.tally, hub := { s.hub with bookCnt := t.hub.bookCnt }, cells := t.cells, outs := t.outs, gates := t.gates } ∧
       CountersOnly s t ∧ FirstServed s t) ∧
   (∀ (s : State) (n k : Nat) (g : Grp) (cs : List Nat), Next s (.loadReport n g k cs) → (cs = [] ∨ ∃ c ∈ cs, (s.cell c).en = true) →
     ∃ t, exec (.loadReport n g) s = .next t ∧ (∀ c ∈ cs, (s.cell c).en = true → tget 0 t.views (viewKey c n g) = k) ∧
       (∀ x, (∀ c ∈ cs, (s.cell c).en = true → x ≠ viewKey c n g) → tget 0 t.views x = tget 0 s.views x) ∧
       t.net.map (·.msg) = s.net.tail.map (·.msg) ++
         (if ∀ c ∈ cs, (s.cell c).en = true then [] else [.loadReport n g k (cs.filter fun c => !(s.cell c).en)]) ∧
       t = { s with net := t.net, views := t.views, cells := t.cells, outs := t.outs, gates := t.gates } ∧ CountersOnly s t ∧ LinkStarts s t)) ∧
  ((∀ (s : State) (n l : Nat) (w : Stamp), Next s (.lease n l w) →
     ∃ t, exec (.lease n) s = .next t ∧ t = { s with net := t.net, resv := t.resv, cells := t.cells, outs := t.outs, gates := t.gates } ∧
       CountersOnly s t ∧ FirstServed s t ∧ (∀ k, k ≠ n → t.res k = s.res k) ∧
       (w = s.mer.window → t.res n = { s.res n with lease := l }) ∧
       (w.toNat > s.mer.window.toNat → t.res n = { s.res n with leaseN := l }) ∧
       (w.toNat < s.mer.window.toNat → t.res n = s.res n)) ∧
   (∀ (s : State) (n : Nat), Next s (.leaseRevoke n) →
     ∃ t, exec (.leaseRevocation n) s = .next t ∧ t = { s with net := t.net, resv := t.resv, cells := t.cells, outs := t.outs, gates := t.gates } ∧
       CountersOnly s t ∧ FirstServed s t ∧ (∀ k, k ≠ n → t.res k = s.res k) ∧
       t.res n = { s.res n with lease := (s.res n).usedL, leaseN := 0 }))

/-- R480: the holder check answers whether a candidate and an active entry are held; the ledger then takes back a candidate that is held
nowhere, withdraws one whose holder alone has lost it, and completes every entry that is held nowhere, counting each such completion as forced. The model's own readings here: log entry
83. -/
def Obligations.HolderCheckRecoversWhatIsLost : Prop :=
  (∀ (s : State) (e : Nat), Next s (.holderAsk e) → onCell s (holderCell s e).1 = true →
    ∃ t, exec (.holderCheck e) s = .next t ∧ t = { s with net := t.net, cells := t.cells, outs := t.outs, gates := t.gates } ∧ CountersOnly s t ∧ LinkStarts s t ∧
      t.net.map (·.msg) = s.net.tail.map (·.msg) ++
        [.holderAnswer e (holdsCand { s with net := s.net.tail } e) (holdsEntry { s with net := s.net.tail } e)]) ∧
  (∀ (s : State) (e : Nat) (hc he : Bool), Next s (.holderAnswer e hc he) → LedgerOn s e → Clean s → (s.queue e).bound = true → (s.queue e).poisoned = false →
    ∃ t, exec (.holderCheckAnswer e) s = .next t ∧
      (hc = true → he = true → t = { s with net := t.net, cells := t.cells, outs := t.outs, gates := t.gates } ∧ FirstServed s t) ∧
      (hc = false → holdsCand { s with net := s.net.tail } e = false → candOut { s with net := s.net.tail } e = true → (s.queue e).state = .presented →
        (t.queue e).recalled = true ∧ Sent t (.withdrawal e (s.queue e).route)) ∧
      (hc = false → holdsCand { s with net := s.net.tail } e = false → candOut { s with net := s.net.tail } e = false → (s.queue e).state = .presented →
        (t.queue e).recalled = false ∧ ((t.queue e).state = .presented → ∃ m, Sent t m ∧ msgHas e m = true) ∧
        ∀ r, ¬ Sent t (.withdrawal e r)) ∧
      (he = false → hc = true → holdsEntry { s with net := s.net.tail } e = false → (s.queue e).busy = true → (t.queue e).holders = [] ∧
        t.hub.forced = s.hub.forced + (s.queue e).holders.length) ∧
      OtherQueues s t e ∧ CountersOnly s t ∧ t = { s with queues := t.queues, net := t.net, outs := t.outs, places := t.places, spreads := t.spreads, gates := t.gates, cells := t.cells, hub := { s.hub with forced := t.hub.forced } })

/-- R145: the age scan marks a queue whose oldest occurrence has reached the age limit. R170: it offers a PENDING queue to its route again,
unless its die holds it back (R186). R480: it asks after what the queue has handed out. R167: a visit of a seat marks a candidate that has
reached the limit. -/
def Obligations.ScansMarkWhatHasAged : Prop :=
  (∀ (s : State) (e : Nat), (s.queue e).bound = true → (s.queue e).poisoned = false → LedgerOn s e → Clean s →
    ∃ t, exec (.ageScanVisit e) s = .next t ∧
      (t.queue e).aged = ((s.queue e).aged || ((decide ((s.queue e).count ≠ 0) || ((s.queue e).busy && decide ((s.queue e).mode ≠ .payload))) &&
        decide (age23 (copyOf s (ownerUnit e)) (headOf s e).2.1 ≥ ageMark))) ∧
      (t.queue e).count = (s.queue e).count ∧ (((s.queue e).handed = true ∨ (s.queue e).busy = true) → Sent t (.holderAsk e)) ∧
      ((s.queue e).state = .pending → waiting (s.queue e) = true → (s.queue e).recalled = false →
        ((t.queue e).state = .presented ∧ ∃ m, Sent t m ∧ msgHas e m = true) ∨
        ((t.queue e).state = .pending ∧ ((∃ n, (s.queue e).route = .station n ∧ (t.queue e).heldFor = some (n / 48)) ∨
          ∃ n, (s.queue e).route = .spread n ∧ spreadHeld s n (s.queue e) = true))) ∧
      OtherQueues s t e ∧ CountersOnly s t ∧ t = { s with queues := t.queues, net := t.net, outs := t.outs, cells := t.cells }) ∧
  (∀ (s : State) (n e : Nat) (r : Tour), rankOn s n = true → Clean s →
    ∃ t, exec (.seatAgeVisit (.station n r) e) s = .next t ∧ seatsOf t n r = ageSeats (s.op (n / 48)).copy e (seatsOf s n r) ∧
      t = { s with stns := t.stns, ctxs := t.ctxs, cells := t.cells } ∧ CountersOnly s t) ∧
  (∀ (s : State) (v e : Nat), onCell s (contextCell s v) = true → Clean s →
    ∃ t, exec (.seatAgeVisit (.context v) e) s = .next t ∧ (t.ctx v).cands = ageSeats s.mer.now e (s.ctx v).cands ∧
      t = { s with ctxs := t.ctxs } ∧ ∀ w, w ≠ v → t.ctx w = s.ctx w)

/-- R170, R177: a re-offer that reaches a unit makes every queue on its route that the unit's enabled ledger cells own, that waits and may be
offered, hand its candidate out, unless its die holds it back (R186); R61: for the cells that are off it waits. At the hub a station that
re-offers is a parked destination of no spread set any more, and the members parked for it go there again. The model's own readings here: log
entry 9. -/
def Obligations.ReOfferHandsCandidatesOut : Prop :=
  ∀ (s : State) (d : Dest) (u : Nat) (left : Option (List Nat)), Next s (.reOffer d u left) → (∀ cs, left = some cs → ∃ c ∈ cs, (s.cell c).en = true) →
    ∃ t, exec (.reOffer d) s = .next t ∧
      (∀ e, routedTo s d (s.queue e) = true → (match left with | none => ownerUnit e = u | some cs => ∃ c ∈ cs, ledgerCell s e = some c) →
        (s.queue e).bound = true → (s.queue e).poisoned = false → (s.queue e).recalled = false →
        LedgerOn s e → (s.queue e).state = .pending → waiting (s.queue e) = true →
        (t.queue e).state = .presented ∨ ((t.queue e).state = .pending ∧ ((∃ n, (s.queue e).route = .station n ∧ (t.queue e).heldFor = some (n / 48)) ∨
          ∃ n, (s.queue e).route = .spread n ∧ spreadHeld s n (s.queue e) = true))) ∧
      (∀ e, (∀ x ∈ s.queues, x.1 = e → routedTo s d x.2 = false ∨ (match left with | none => ownerUnit e ≠ u | some cs => ∀ c ∈ cs, ledgerCell s e ≠ some c)) →
        t.queue e = s.queue e) ∧
      (∀ c, (match left with | none => c ∈ roleCells s u roleLedger | some cs => c ∈ cs) → (s.cell c).role = roleLedger → (s.cell c).en = false →
        ∃ cs, c ∈ cs ∧ Sent t (.reOffer d u (some cs))) ∧
      (∀ n, d = .station n → u = 12 → left = none → (∀ m, n ∉ (t.spread m).parkedD) ∧
        ∀ r ∈ s.gathers, ∀ c, (n, c) ∈ r.parked → Sent t (.candStation n (candTour c) c)) ∧
      t = { s with queues := t.queues, net := t.net, outs := t.outs, spreads := t.spreads, gathers := t.gathers, cells := t.cells, gates := t.gates } ∧
      CountersOnly s t ∧ LinkStarts s t

/-- R138, R140: a withdrawal finds the candidate on its way, or seated at a station, or in a context: it leaves its place and goes back to
its owner. R138, R169, R179: the owner takes its candidate back: the queue is PENDING or IDLE, a withdrawn one may be offered at once, a
parked one, unless it was withdrawn on its way, waits for its re-offer; a parked gang member stays with its gather record, and any other goes
to its station again. The model's own readings here: log entry 9. -/
def Obligations.WithdrawnCandidatesGoBack : Prop :=
  (∀ (s : State) (e : Nat) (r : Route), Next s (.withdrawal e r) → Clean s →
     (∀ p rest c, takeFirst (fun p => match p.msg with
         | .candStation _ _ c => decide (c.evid = e) && c.gather.isNone
         | .candSpread _ c | .candContext _ c | .candGang _ c => decide (c.evid = e)
         | _ => false) s.net.tail = some (p, rest) →
       ((∃ n q, p.msg = .candStation n q c) ∨ (∃ n, p.msg = .candSpread n c) ∨ (∃ n, p.msg = .candContext n c) ∨ ∃ n, p.msg = .candGang n c) →
       ∃ t, exec (.withdrawalArrival e) s = .next t ∧ t.net.map (·.msg) = rest.map (·.msg) ++ [.returned c false 576] ∧
         t = { s with net := t.net, cells := t.cells, outs := t.outs, gates := t.gates } ∧ CountersOnly s t ∧ LinkStarts s t) ∧
     ((∀ k ∈ s.net.tail, match k.msg with
         | .candStation _ _ c => c.evid ≠ e ∨ c.gather ≠ none
         | .candSpread _ c | .candContext _ c | .candGang _ c => c.evid ≠ e
         | _ => True) →
       (∀ n q c, findStation s e = some (n, q, c) →
         ∃ t, exec (.withdrawalArrival e) s = .next t ∧ Sent t (.returned c false n) ∧ seatsOf t n q = dropSeat e (seatsOf s n q) ∧
           t = { s with net := t.net, stns := t.stns, cells := t.cells, outs := t.outs, gates := t.gates } ∧ CountersOnly s t ∧ LinkStarts s t ∧
           ∀ m, m ≠ n → t.stn m = s.stn m) ∧
       (∀ v c, findStation s e = none → findCtx s e = some (v, c) →
         ∃ t, exec (.withdrawalArrival e) s = .next t ∧ Sent t (.returned c false ((s.ctx v).station.getD 576)) ∧ (t.ctx v).cands = dropSeat e (s.ctx v).cands ∧
           (t.ctx v).g.seats = dropSeat e (s.ctx v).g.seats ∧ t = { s with net := t.net, stns := t.stns, ctxs := t.ctxs, cells := t.cells, outs := t.outs, gates := t.gates } ∧
           CountersOnly s t ∧ LinkStarts s t ∧ ∀ w, w ≠ v → t.ctx w = s.ctx w))) ∧
  (∀ (s : State) (c : Cand) (parked : Bool) (n : Nat), Next s (.returned c parked n) → Clean s →
     (c.gather = none → LedgerOn s c.evid → (s.queue c.evid).state = .presented → ∃ t, exec (.withdrawnCandidateReturn c.evid) s = .next t ∧
       (t.queue c.evid).recalled = false ∧ (t.queue c.evid).count = (s.queue c.evid).count ∧
       (waiting (s.queue c.evid) = false → (t.queue c.evid).state = .idle) ∧
       (waiting (s.queue c.evid) = true → parked = true → (s.queue c.evid).recalled = false →
         (t.queue c.evid).state = .pending ∧ (t.queue c.evid).parked = true) ∧
       (waiting (s.queue c.evid) = true → parked = false ∨ (s.queue c.evid).recalled = true →
         (t.queue c.evid).state = .pending ∨ (t.queue c.evid).state = .presented) ∧
       (∀ g ∈ t.gates, g.2.2 ≠ c.evid) ∧ (c.grade = false ∨ (s.queue c.evid).sentTo ≠ none → ∀ p ∈ t.places, p.evid = c.evid → p.reserved = true) ∧ CountersOnly s t ∧ LinkStarts s t ∧
       OtherQueues s t c.evid ∧
       t = { s with queues := t.queues, net := t.net, gates := t.gates, places := t.places, spreads := t.spreads, outs := t.outs, cells := t.cells }) ∧
     (∀ id, c.gather = some id → onCell s (returnCell s c) = true → ∃ t, exec (.withdrawnCandidateReturn c.evid) s = .next t ∧
       (parked = true → ∀ r ∈ s.gathers, r.id = id → n ∈ r.pending → { r with parked := r.parked ++ [(n, c)] } ∈ t.gathers) ∧
       (parked = false → (∃ r ∈ s.gathers, r.id = id ∧ n ∈ r.pending) → Sent t (.candStation n (candTour c) c) ∧ t.gathers = s.gathers) ∧
       t = { s with net := t.net, gathers := t.gathers, outs := t.outs, cells := t.cells, gates := t.gates } ∧ CountersOnly s t ∧ LinkStarts s t))

/-- R165, R166, R168, R169, R177, R239, R240: a candidate that reaches its station's rank cell takes a seat; in a full tournament the seat
behind every other goes back parked, or the new candidate does; one with a target ahead waits in a release seat. R240: a release seat
whose target its copy has reached joins its tournament, and the release seat is empty. The model's own readings here: log entries 8, 57.
-/
def Obligations.CandidatesTakeTheirSeats : Prop :=
  (∀ (s : State) (n : Nat) (q : Tour) (c : Cand), Next s (.candStation n q c) → rankOn s n = true → stnOn s n = true → Clean s →
     (q = .virt → ∃ v, (s.queue c.evid).route = .context v ∧ (s.stn n).resident = some v) →
     ∃ t, exec (.candidateArrival n c.evid) s = .next t ∧
       (c.target = none → seatCount s n q < seatLimit q → seatsOf t n q = seatsOf s n q ++ [{ cand := c }]) ∧
       (∀ l, c.target = none → seatCount s n q ≥ seatLimit q → hindmost (s.op (n / 48)).copy ((seatsOf s n q).map (·.cand)) = some l →
         parkFlag t n q = true ∧
         (ahead (s.op (n / 48)).copy c l = true → Sent t (.returned l true n) ∧
           seatsOf t n q = (seatsOf s n q).filter (fun x => decide (x.cand ≠ l)) ++ [{ cand := c }]) ∧
         (ahead (s.op (n / 48)).copy c l = false → Sent t (.returned c true n) ∧ seatsOf t n q = seatsOf s n q)) ∧
       (∀ x, c.target = some x → (s.op (n / 48)).copy.toNat < x.toNat →
         (t.stn n).armed = (s.stn n).armed ++ [{ tour := q, cand := c, target := x }] ∧ seatsOf t n q = seatsOf s n q) ∧
       (∀ m, m ≠ n → t.stn m = s.stn m) ∧ SameQueues s t ∧ CountersOnly s t ∧
       t = { s with net := t.net, stns := t.stns, ctxs := t.ctxs, cells := t.cells, gates := t.gates, spreads := t.spreads, gathers := t.gathers, gangs := t.gangs, outs := t.outs } ∧
       LinkStarts s t) ∧
  (∀ (s : State) (n e : Nat) (a : Armed), (s.stn n).armed.find? (fun x => decide (x.cand.evid = e)) = some a → a.tour ≠ .virt →
     a.target.toNat ≤ (s.op (n / 48)).copy.toNat → seatCount s n a.tour < seatLimit a.tour → Clean s →
     ∃ t, exec (.releaseTargetReached n e) s = .next t ∧ seatsOf t n a.tour = seatsOf s n a.tour ++ [{ cand := { a.cand with target := none } }] ∧
       (t.stn n).armed = (s.stn n).armed.filter (fun x => decide (x.cand.evid ≠ e)) ∧ (∀ m, m ≠ n → t.stn m = s.stn m) ∧
       t = { s with net := t.net, stns := t.stns, cells := t.cells } ∧ CountersOnly s t)

/-- R174, R175, R176, R177: a hub rank cell sends a candidate of a spread set to the least-loaded eligible member, notes the choice in its
placement pool and adds 1 to that member's view; with a full pool the candidate goes back parked and the set's park flag is set. R178, R366,
R368, R369: a candidate of a bound vCPU that is not resident is recorded in its context, or goes back parked with SPILL where 16 are
recorded; one of a resident vCPU goes to the virtual tournament of its station. R206, R257: as the context comes to count, its doorbell event
goes to its home station or that station's fallback, and the doorbell entry there covers the context once the event has arrived. The model's
own readings here: log entry 89. -/
def Obligations.SpreadAndContextCandidatesGoOn : Prop :=
  (∀ (s : State) (n : Nat) (c : Cand), Next s (.candSpread n c) → onCell s (spreadCell s n) = true → Clean s → (∀ x ∈ s.places, x.evid ≠ c.evid) →
     ∃ t, exec (.spreadCandidateArrival n c.evid) s = .next t ∧
       (placesIn s ((spreadCell s n).getD 0) < 4096 →
         ∀ m, chooseMember (taken s (spreadCell s n) c.grade) n (candGrp c) (fun _ => true) = some m →
           Sent t (.candStation m (candTour c) c) ∧ t.places = s.places ++ [{ cell := (spreadCell s n).getD 0, evid := c.evid, station := m, set := n }] ∧
           tget 0 t.views (viewKey ((spreadCell s n).getD 0) m (candGrp c)) = tget 0 s.views (viewKey ((spreadCell s n).getD 0) m (candGrp c)) + 1) ∧
       (placesIn s ((spreadCell s n).getD 0) ≥ 4096 → Sent t (.returned c true 576) ∧ (t.spread n).park = true ∧ t.places = s.places) ∧
       CountersOnly s t ∧
       t = { s with net := t.net, places := t.places, views := t.views, cells := t.cells, queues := t.queues, spreads := t.spreads, outs := t.outs, gates := t.gates } ∧
       OtherQueues s t c.evid ∧ LinkStarts s t) ∧
  (∀ (s : State) (v : Nat) (c : Cand), Next s (.candContext v c) → onCell s (contextCell s v) = true → Clean s → (s.ctx v).bound = true →
     (s.ctx v).poisoned = false →
     ∃ t, exec (.contextCandidateArrival v c.evid) s = .next t ∧
       ((s.ctx v).station = none → (s.ctx v).cands.length < 16 → (t.ctx v).cands = (s.ctx v).cands ++ [{ cand := c }] ∧
         (t.ctx v).counted = ((s.ctx v).counted || !(s.ctx v).announced) ∧ (t.ctx v).changed = true) ∧
       ((s.ctx v).station = none → (s.ctx v).cands.length ≥ 16 → (t.ctx v).cands = (s.ctx v).cands ∧ (t.ctx v).spill = true ∧ Sent t (.returned c true 576)) ∧
       (∀ n, (s.ctx v).station = some n → Sent t (.candStation n .virt c) ∧ t.ctx v = s.ctx v) ∧
       ((s.ctx v).station = none → (s.ctx v).cands.length < 16 → (s.ctx v).counted = false → (s.ctx v).announced = false →
         (t.ctx v).dbIn = false ∧ ∀ n, resolve s (s.ctx v).home false = some n → (t.ctx v).dbAt = some n ∧ Sent t (.doorbell v n c)) ∧
       (∀ w, w ≠ v → t.ctx w = s.ctx w) ∧ CountersOnly s t ∧ LinkStarts s t ∧
       t = { s with net := t.net, ctxs := t.ctxs, cells := t.cells, gates := t.gates, outs := t.outs }) ∧
  (∀ (s : State) (v n : Nat) (c : Cand), Next s (.doorbell v n c) → rankOn s n = true → stnOn s n = true → Clean s →
     ∃ t, exec (.candidateArrival n 0) s = .next t ∧
       (t.ctx v).dbIn = ((s.ctx v).dbIn || ((s.ctx v).counted && decide ((s.ctx v).dbAt = some n))) ∧ (∀ w, w ≠ v → t.ctx w = s.ctx w) ∧
       (∀ m, m ≠ n → t.stn m = s.stn m) ∧ SameQueues s t ∧ CountersOnly s t)

/-- R236, R237, R239: a gang's candidate fans out: a gather record with a pending bit for each station reached is opened, each of these
stations is sent a member candidate, in OFFSET mode with the release target, RELEASES grows by 1 and SKIPPED by the members not reached.
R237, R238, R261: a member completion, with those merged into it, clears its pending bits; the last one frees the gather record, completes the
queue once, and posts the gang-done occurrence with the EVID as its payload; one that finds its bit clear counts in STRAY. The model's own readings here: log entry
24. -/
def Obligations.GangsFanOutAndGather : Prop :=
  (∀ (s : State) (g c0 : Nat) (c : Cand), Next s (.candGang g c) → gangCell s g = some c0 → (s.cell c0).en = true → Clean s → (s.gang g).defined = true →
     (∀ r ∈ s.gathers, r.evid = c.evid → r.opened = true) → (s.gathers.filter fun r => decide (r.cell = c0)).length < 256 →
     fanOut s (s.gang g).members c.secure ≠ [] →
     ∃ t r, exec (.gangFanOut g c.evid) s = .next t ∧ r ∈ t.gathers ∧ r.evid = c.evid ∧ r.gang = g ∧ r.cell = c0 ∧ r.opened = true ∧
       r.pending = fanOut s (s.gang g).members c.secure ∧ r.members = (s.gang g).members ∧ r.post = (s.gang g).post ∧
       r.done = (if (s.gang g).done = 0 then gangDefault s c0 else (s.gang g).done) ∧
       (∀ n ∈ r.pending, ∃ m, Sent t (.candStation n (candTour c) m) ∧ m.evid = c.evid ∧ m.rank = c.rank ∧ m.gather = some r.id ∧
         m.target = if (s.gang g).offset && !c.aged then some (extendStamp s.mer.now c.stamp + BitVec.ofNat 64 (s.gang g).offsetNs.toNat) else none) ∧
       (t.gang g).releases = satInc (s.gang g).releases ∧
       (t.gang g).skipped = satAdd (s.gang g).skipped ((s.gang g).members.length - r.pending.length) ∧
       (∀ x, x ≠ g → t.gang x = s.gang x) ∧ SameQueues s t ∧ CountersOnly s t ∧
       t = { s with net := t.net, gathers := t.gathers, gangs := t.gangs, cells := t.cells, gates := t.gates, nextId := t.nextId, outs := t.outs } ∧ LinkStarts s t) ∧
  (∀ (s : State) (id e n : Nat) (ns : List Nat) (late : Bool) (r : Gather), Next s (.memberDone id e ns late) → n ∈ ns → ns.Nodup → Clean s →
     s.gathers.find? (fun x => decide (x.id = id)) = some r → (s.cell r.cell).en = true →
     ∃ t, exec (.gangMemberCompletion e n) s = .next t ∧
       ((∀ m ∈ ns, m ∈ r.pending) → r.pending.filter (fun m => decide (m ∉ ns)) ≠ [] →
         t = { s with net := t.net, gathers := t.gathers, cells := t.cells, outs := t.outs, gates := t.gates } ∧ CountersOnly s t ∧ FirstServed s t ∧
         { r with pending := r.pending.filter (fun m => decide (m ∉ ns)), risky := late } ∈ t.gathers) ∧
       ((∀ m ∈ ns, m ∈ r.pending) → r.pending.filter (fun m => decide (m ∉ ns)) = [] → ∀ x ∈ t.gathers, x.id ≠ id) ∧
       ((∀ m ∈ ns, m ∈ r.pending) → r.pending.filter (fun m => decide (m ∉ ns)) = [] → r.claimed = true → Sent t (.completed r.evid (.gang r.gang)) ∧
         (r.post = true → r.done ≠ 0 → isWired r.done = false →
           ∃ k, Sent t (.event k) ∧ k.evid = r.done ∧ k.payload = BitVec.ofNat 20 r.evid ∧ k.stamp = s.mer.now ∧ k.src = .gangDone) ∧
         SameQueues s t ∧ t.gangs = s.gangs ∧ t.stns = s.stns ∧ t.ctxs = s.ctxs) ∧
       ((∀ m ∈ ns, m ∉ r.pending) → t = { s with net := t.net, gangs := t.gangs, cells := t.cells, outs := t.outs, gates := t.gates } ∧ CountersOnly s t ∧ FirstServed s t ∧
         (ns = [n] → (t.gang r.gang).stray = satInc (s.gang r.gang).stray) ∧ ∀ x, x ≠ r.gang → t.gang x = s.gang x))

/-- R120, R275, R276: at the 750th ns of a window the settings of the next are divided: a reservation that the hub routes to is shared
with it by the use of both in this window, and the hub's part is sent as a lease; at the window's start the divided counts begin and
nothing is used. The model's own readings here: log entry 14. -/
def Obligations.ReservationsAreDividedForEachWindow : Prop :=
  (∀ s : State, s.pwr.hubl = .on → s.mer.now.toNat % 1000 ≥ 750 →
    s.mer.splitFor ≠ some (BitVec.ofNat 64 ((s.mer.now.toNat / 1000 + 1) * 1000)) → s.parity = [] →
    ∃ t, exec .reservationSplit s = .next t ∧ t.mer = { s.mer with splitFor := some (BitVec.ofNat 64 ((s.mer.now.toNat / 1000 + 1) * 1000)) } ∧
      (∀ k, k ∉ resvAll s → t.res k = s.res k) ∧
      (∀ k ∈ resvAll s, (t.res k).leaseN = 0 ∧ (t.res k).home = (s.res k).home ∧ (t.res k).usedH = (s.res k).usedH ∧ (t.res k).usedL = (s.res k).usedL ∧
        (keyUnit k = 12 ∨ dieAway s (keyUnit k) = false → (t.res k).homeN = setting s k - (if keyUnit k ≠ 12 ∧ hubRoutes s k = true then setting s k * ((s.res k).usedL + 1) / ((s.res k).usedH + 1 + ((s.res k).usedL + 1)) else 0)) ∧
        (keyUnit k ≠ 12 → dieAway s (keyUnit k) = true → (t.res k).homeN = 0) ∧
        (keyUnit k ≠ 12 → dieAway s (keyUnit k) = false → hubRoutes s k = true →
          Sent t (.lease k (setting s k * ((s.res k).usedL + 1) / ((s.res k).usedH + 1 + ((s.res k).usedL + 1))) (BitVec.ofNat 64 ((s.mer.now.toNat / 1000 + 1) * 1000))))) ∧
      t = { s with mer := t.mer, resv := t.resv, net := t.net, cells := t.cells } ∧ CountersOnly s t) ∧
  (∀ s : State, s.pwr.hubl = .on → s.mer.window ≠ BitVec.ofNat 64 (s.mer.now.toNat / 1000 * 1000) →
    ∃ t, exec .reservationWindowStart s = .next t ∧ t.mer = { s.mer with window := BitVec.ofNat 64 (s.mer.now.toNat / 1000 * 1000) } ∧
      (∀ k, (t.res k).usedH = 0 ∧ (t.res k).usedL = 0) ∧
      (∀ k, (s.resv.map (·.1)).Nodup → s.mer.splitFor = some (BitVec.ofNat 64 (s.mer.now.toNat / 1000 * 1000)) →
        (t.res k).home = (s.res k).homeN ∧ (t.res k).lease = (s.res k).leaseN) ∧
      t = { s with mer := t.mer, resv := t.resv })

/-- R87, R91, R94, R95, R97, R98: a wired input that is present takes a level that it has held for its filter width; where that is an
event in its mode an enabled intake cell stamps it and sends it to the ledger, a disabled one keeps an occurrence for later; a shorter
pulse does nothing. The model's own readings here: log entry 20. -/
def Obligations.WiredInputIsStampedAndSent : Prop :=
  ∀ (s : State) (e c ticks : Nat) (level : Bool), isWired e = true → inputPresent s e = true → s.pwr.rst = false → Clean s → intakeCell s e = some c →
    (if ownerUnit e = 12 then s.pwr.hubl = .on else (s.op (ownerUnit e)).logic = .on) → level ≠ (s.input e).level → NoHolds s →
    (ticks < (s.input e).filterW.toNat → ∃ t, exec (.wiredInputChange e level ticks) s = .next t ∧
      t.input e = { s.input e with raw := (t.input e).raw } ∧ (∀ x, x ≠ e → t.input x = s.input x) ∧ t = { s with inputs := t.inputs }) ∧
    ((s.input e).filterW.toNat ≤ ticks → ∃ t, exec (.wiredInputChange e level ticks) s = .next t ∧ (t.input e).level = level ∧
      (∀ x, x ≠ e → t.input x = s.input x) ∧ CountersOnly s t ∧ t = { s with net := t.net, inputs := t.inputs, cells := t.cells } ∧
      ((s.input e).mode = .off → t.net = s.net) ∧
      (((s.input e).mode = .rise ∧ level = true ∨ (s.input e).mode = .fall ∧ level = false ∨ (s.input e).mode = .both) →
        ((s.cell c).en = true → ∃ k, t.net.map (·.msg) = s.net.map (·.msg) ++ [.event k] ∧ k.evid = e ∧ k.edge = .occurrence ∧ k.src = .wired ∧
          k.payload = (if level then 1 else 0) ∧ k.stamp = copyOf s (ownerUnit e)) ∧
        ((s.cell c).en = false → t.net = s.net ∧ ((s.input e).held = 0 → (t.input e).held = 1 ∧ (t.input e).heldAt = copyOf s (ownerUnit e)) ∧
          ((s.input e).held ≠ 0 → (s.input e).held ≠ 0xFFFFFFFF → (t.input e).held = (s.input e).held + 1))) ∧
      (((s.input e).mode = .levelHigh ∨ (s.input e).mode = .levelLow) →
        ((s.cell c).en = true → ∃ k, t.net.map (·.msg) = s.net.map (·.msg) ++ [.event k] ∧ k.evid = e ∧ k.stamp = copyOf s (ownerUnit e) ∧
          k.edge = if level = decide ((s.input e).mode = .levelHigh) then .assert else .deassert) ∧
        ((s.cell c).en = false → t.net = s.net)) ∧
      ((s.input e).mode = .tally → level = true →
        (t.input e).tally = (s.input e).tally + 1 ∧
        ((s.input e).rises < (s.input e).tallyN.toNat → (t.input e).rises = (s.input e).rises + 1 ∧ t.net = s.net) ∧
        ((s.input e).rises = (s.input e).tallyN.toNat → (t.input e).rises = 0 ∧
          ((s.cell c).en = true → ∃ k, t.net.map (·.msg) = s.net.map (·.msg) ++ [.event k] ∧ k.evid = e ∧ k.payload = (s.input e).tally + 1))))

/-- R102, R103, R104, R113, R114, R119: a whole posted write of a message EVID is taken by an intake cell of its port, stamped with the
master meridian and sent to its ledger with its requester and its payload; in the addressed window non-zero high bits are counted, and the event
goes on. A write that is not whole or not aligned (SIZE), or is poisoned, and one with high bits in the classic window is rejected, counted,
captured where the capture is armed, and raises DB_FORMAT; one of an EVID that is none, wired or internal is rejected and counted; while HUB_EN is
0 the write is discarded and counted. R106: a write that no intake cell takes yet, or that finds others held, is held at its port, up to 64. -/
def Obligations.DoorbellBecomesAnOccurrence : Prop :=
  ∀ (s : State) (d : DbWrite) (win : Bool), dbWindow s d.offset = some win → d.port < 8 → s.pwr.hubl = .on → s.pwr.rst = false → s.pwr.closing = false → Clean s → NoHolds s →
    (∀ c handed, s.hub.en = true → d.whole = true → d.offset % 4 = 0 → d.poisoned = false → tget [] s.hub.ports d.port = [] →
      portCell s d.port (dbEvid d win) = some (c, handed) →
      (Postable (dbEvid d win) → d.data.toNat < 2 ^ 20 →
        ∃ t k, exec (.doorbellWrite d) s = .next t ∧ t.net.map (·.msg) = s.net.map (·.msg) ++ [.event k] ∧ k.evid = dbEvid d win ∧
          k.payload = (if win then d.data.extractLsb' 0 20 else 0) ∧ k.stamp = s.mer.now ∧ k.rid = d.rid ∧ k.sec = d.sec ∧ k.lock = .full ∧
          k.src = .doorbell d.port win d.data ∧ CountersOnly s t ∧ t = { s with net := t.net, cells := t.cells }) ∧
      (Postable (dbEvid d win) → 2 ^ 20 ≤ d.data.toNat → win = true →
        ∃ t k, exec (.doorbellWrite d) s = .next t ∧ Sent t (.event k) ∧ k.evid = dbEvid d win ∧ k.payload = d.data.extractLsb' 0 20 ∧ k.stamp = s.mer.now ∧
          k.rid = d.rid ∧ k.sec = d.sec ∧ k.src = .doorbell d.port win d.data ∧ DbRejected s t d rHighAddressed) ∧
      (2 ^ 20 ≤ d.data.toNat → win = false → ∃ t, exec (.doorbellWrite d) s = .next t ∧ DbRejected s t d rHighClassic ∧ OnlyFault s t 0x12) ∧
      (¬ Postable (dbEvid d win) → d.data.toNat < 2 ^ 20 →
        ∃ t, exec (.doorbellWrite d) s = .next t ∧ t.hub.dbRange = satInc s.hub.dbRange ∧ t.net = s.net ∧ CountersOnly s t ∧
          t = { s with hub := { s.hub with dbRange := t.hub.dbRange, dbCap := t.hub.dbCap }, cells := t.cells })) ∧
    (s.hub.en = true → d.whole = false ∨ d.offset % 4 ≠ 0 → ∃ t, exec (.doorbellWrite d) s = .next t ∧ DbRejected s t d rSize ∧ OnlyFault s t 0x12) ∧
    (s.hub.en = true → d.whole = true → d.offset % 4 = 0 → d.poisoned = true →
      ∃ t, exec (.doorbellWrite d) s = .next t ∧ DbRejected s t d rPoisonedWrite ∧ OnlyFault s t 0x12) ∧
    (s.hub.en = true → d.whole = true → d.offset % 4 = 0 → d.poisoned = false →
      portCell s d.port (dbEvid d win) = none ∨ tget [] s.hub.ports d.port ≠ [] →
      ((tget [] s.hub.ports d.port).length < 64 → ∃ t, exec (.doorbellWrite d) s = .next t ∧ tget [] t.hub.ports d.port = tget [] s.hub.ports d.port ++ [d] ∧
        (∀ p, p ≠ d.port → tget [] t.hub.ports p = tget [] s.hub.ports p) ∧ t = { s with hub := { s.hub with ports := t.hub.ports } }) ∧
      (64 ≤ (tget [] s.hub.ports d.port).length → exec (.doorbellWrite d) s = .next s)) ∧
    (s.hub.en = false → ∃ t, exec (.doorbellWrite d) s = .next t ∧ t.hub.dbDiscard = satInc s.hub.dbDiscard ∧
      t = { s with hub := { s.hub with dbDiscard := t.hub.dbDiscard, dbCap := t.hub.dbCap } })

/-- R32, R33, R481, R482: a flit that fails its CRC is sent again and counted; a second failure of the same flit, a ninth replay within 1
us or a flit that is not acknowledged puts the link in error: LINK is raised, everything that has yet to cross the link is replayed, and
retraining starts; the 17th error within 1 s loses the outpost. The model's own readings here: log entries 8, 31, 53. -/
def Obligations.LinkErrorsAreRetried : Prop :=
  ∀ (s : State) (k : Nat) (up : Bool), k < 12 → linkUp s k = true → s.pwr.hubl = .on → s.pwr.rst = false →
    (∀ f : LinkFlit, failsAgain s k f = false → (recent s 1000 (s.op k).replayAt).length < 8 →
      ∃ t, exec (.replayRequest k f) s = .next t ∧ (t.op k).replays = satInc (s.op k).replays ∧
        (∀ m, f.msg = some m → t.net = (markReplay s k f.up m f.flit).net ∧ (t.op k).accFail = (s.op k).accFail) ∧
        (f.msg = none → t.net = s.net ∧ (t.op k).accFail = some (f.up, f.flit)) ∧
        (t.op k).link = .up ∧ (∀ j, j ≠ k → t.op j = s.op j) ∧ CountersOnly s t ∧ t = { s with net := t.net, outs := t.outs, cells := t.cells }) ∧
    (∀ i, (i = .flitAckTimeout k up ∨ ∃ f, i = .replayRequest k f ∧ (8 ≤ (recent s 1000 (s.op k).replayAt).length ∨ failsAgain s k f = true)) →
      (recent s 1000000000 (s.op k).errorAt).length < 16 →
      ∃ t, exec i s = .next t ∧ (t.op k).link = .error ∧ (t.op k).retrains = incByte (s.op k).retrains ∧ (t.op k).align = .training ∧
        (∀ p ∈ t.net, p.waitsAt k true = true ∨ p.waitsAt k false = true → p.replay = true) ∧ tget 0 t.hub.faultCnt 0x0D = satInc (tget 0 s.hub.faultCnt 0x0D) ∧
        (∀ j, j ≠ k → t.op j = s.op j) ∧ SameQueues s t ∧ CountersOnly s t ∧
        t = { s with net := t.net, outs := t.outs, cells := t.cells, hub := { s.hub with seen := t.hub.seen, faultCnt := t.hub.faultCnt }, isl := t.isl }) ∧
    (populated s k = true → (s.op k).lost = false → 16 ≤ (recent s 1000000000 (s.op k).errorAt).length →
      ∃ t, exec (.flitAckTimeout k up) s = .next t ∧ (t.op k).lost = true ∧ (t.op k).link = .lost)

/-- R187, R222, R481, R482, R483, R484: a retrained link is up and INIT is on its way; the third failed attempt in a row loses the
outpost, whose cells are disabled and whose stations hold nothing; an attempt to return of an outpost that is wanted and passes ends the
loss, one whose training fails is counted. The model's own readings here: log entries 28, 76. -/
def Obligations.RetrainingEndsInServiceOrLoss : Prop :=
  (∀ (s : State) (k : Nat) (w : Option Bool), ((s.op k).link = .error ∨ (s.op k).link = .training) →
    (w = some true → (s.op k).spareUp = false) → (w = some false → (s.op k).spareDown = false) →
    ∃ t, exec (.retrainDone k w) s = .next t ∧ (t.op k).link = .up ∧
      (t.op k).align = (if (s.op k).holdover then .unaligned else .training) ∧ (t.op k).fails = 0 ∧
      (t.op k).spareUp = ((s.op k).spareUp || decide (w = some true)) ∧ (t.op k).spareDown = ((s.op k).spareDown || decide (w = some false)) ∧
      t.net.map (·.msg) = s.net.map (·.msg) ++ [.init k s.mer.now] ∧ (∀ j, j ≠ k → t.op j = s.op j) ∧ t = { s with net := t.net, outs := t.outs }) ∧
  (∀ (s : State) (k : Nat), (s.op k).link = .error → (s.op k).fails < 2 →
    ∃ t, exec (.retrainAttemptTimeout k) s = .next t ∧ (t.op k).link = .error ∧ (t.op k).fails = (s.op k).fails + 1 ∧
      (t.op k).retrains = incByte (s.op k).retrains ∧ SameQueues s t ∧ (∀ j, j ≠ k → t.op j = s.op j)) ∧
  (∀ (s : State) (k : Nat), (s.op k).link = .error → populated s k = true → (s.op k).lost = false → 2 ≤ (s.op k).fails →
    ∃ t, exec (.retrainAttemptTimeout k) s = .next t ∧ (t.op k).lost = true ∧ (t.op k).link = .lost ∧
      (∀ c, unitOf c = k → (t.cell c).en = false) ∧
      ∀ n, n / 48 = k → (t.stn n).norm.seats = [] ∧ (t.stn n).sec.seats = [] ∧ (t.stn n).norm.stack = [] ∧ (t.stn n).sec.stack = [] ∧ (t.stn n).armed = []) ∧
  (∀ (s : State) (k : Nat) (x : Bist) (trained : Bool), (s.op k).lost = true → wantL s k = true → (s.op k).logic = .on → (s.op k).mem = .on →
    (s.op k).trav = .on → (s.op k).returns < 8 →
    ((trained = false ∨ (s.op k).holdover = true) → ∃ t, exec (.returnToService k x trained) s = .next t ∧ (t.op k).lost = true ∧ (t.op k).link = .lost ∧
      (t.op k).returns = (s.op k).returns + 1) ∧
    (trained = true → (s.op k).holdover = false → unitUnserved (returnTested s k x) k = false →
      (∀ y ∈ (returnSwept s k x).cells, unitOf y.1 = k → y.2.enKept = true → ((returnSwept s k x).cell y.1).datum = 1) →
      ∃ t, exec (.returnToService k x trained) s = .next t ∧ (t.op k).lost = false ∧ (t.op k).link = .up ∧ (t.op k).align = .aligned ∧
        (t.op k).copy = s.mer.now ∧ (t.op k).returns = 0))

/-- R219, R220, R222, R226, R227: at an exchange boundary the waiting slew order takes effect, a waiting STEP moves the master and every
copy at once, and an exchange starts on every link that is up; a copy whose link carries none is without ECHO, and at the third in a row it
leaves ALIGNED. -/
def Obligations.AlignmentSlotStartsTheExchanges : Prop :=
  ∀ s : State, s.pwr.hubl = .on → s.mer.slotAt ≠ some (s.mer.now.toNat / 4096) →
    (s.mer.step = none → ∃ t, exec .alignSlot s = .next t ∧
      t.mer = { slewBoundary s.mer with slotAt := some (s.mer.now.toNat / 4096) } ∧
      ∀ k ∈ outpostsOf s, (s.op k).logic = .on → linkUp s k = true →
        Sent t (.align k (fineNow s) (s.op k).corr) ∧ (t.op k).t1 = fineNow s ∧ (t.op k).corr = 0 ∧ (t.op k).missed = min 3 ((s.op k).missed + 1)) ∧
    (s.mer.step = none → ∃ t, exec .alignSlot s = .next t ∧ ∀ k ∈ outpostsOf s, exchanges s k = false → (s.op k).align = .aligned →
      (t.op k).missed = min 3 ((s.op k).missed + 1) ∧ ((s.op k).missed ≥ 3 → (t.op k).align = .unaligned ∧ (t.op k).lostSeen = true) ∧
      ((s.op k).missed < 3 → (t.op k).align = .aligned)) ∧
    (∀ d, s.mer.step = some d → d ≠ 0 → ∃ t, exec .alignSlot s = .next t ∧ t.mer.now = s.mer.now + d ∧ t.mer.step = none ∧ t.mer.stepped = true ∧
      t.mer.estim = false ∧ t.mer.uncert = 0 ∧ ∀ k, (s.op k).logic = .on → (t.op k).copy = (s.op k).copy + d)

/-- R220, R221, R222: ALIGN corrects the copy and answers ECHO; ECHO gives the hub the correction for the next exchange, and 16 exchanges
in a row within the limit align the outpost, 3 outside it end that; INIT loads the copy. The model's own readings here: log entries 6, 63.
-/
def Obligations.ExchangeAlignsTheCopy : Prop :=
  (∀ (s : State) (k : Nat) (t1 t2 t3 : BitVec 32) (d : Int), Next s (.align k t1 d) →
    ∃ t, exec (.align k t2 t3) s = .next t ∧ t.op k = movePhase (s.op k) (jumps (s.op k).align d) (-(applied (s.op k).align d)) ∧ (∀ j, j ≠ k → t.op j = s.op j) ∧
      t.net.map (·.msg) = s.net.tail.map (·.msg) ++ [.echo k t2 t3] ∧ CountersOnly s t ∧
      t = { s with net := t.net, outs := t.outs, cells := t.cells }) ∧
  (∀ (s : State) (k : Nat) (t2 t3 t4 : BitVec 32), Next s (.echo k t2 t3) →
    ∃ t, exec (.echo k t4) s = .next t ∧ (t.op k).missed = 0 ∧
      (t.op k).corr = (t2 - (s.op k).t1).toInt - (t4 - t3).toInt - wireA s k ∧
      (-44 ≤ (t.op k).corr → (t.op k).corr ≤ 44 → (s.op k).align ≠ .aligned → (s.op k).holdover = false → (s.op k).good ≥ 15 → (t.op k).align = .aligned) ∧
      (-44 ≤ (t.op k).corr → (t.op k).corr ≤ 44 → (s.op k).align = .aligned → (t.op k).align = .aligned ∧ (t.op k).bad = 0) ∧
      (((t.op k).corr < -44 ∨ 44 < (t.op k).corr) → (s.op k).align = .aligned → (s.op k).bad ≥ 2 → (t.op k).align = .unaligned ∧ (t.op k).lostSeen = true) ∧
      (((t.op k).corr < -44 ∨ 44 < (t.op k).corr) → (s.op k).align = .aligned → (s.op k).bad < 2 → (t.op k).align = .aligned ∧ (t.op k).bad = (s.op k).bad + 1) ∧
      SameQueues s t ∧ (∀ j, j ≠ k → t.op j = s.op j) ∧ CountersOnly s t ∧ t.mer = s.mer) ∧
  (∀ (s : State) (k : Nat) (v : Stamp), Next s (.init k v) →
    ∃ t, exec (.init k) s = .next t ∧ (s.isl.defaults = true → (t.op k).copy = v) ∧
      (s.isl.defaults = false → (t.op k).copy = v + BitVec.ofNat 64 (Config.seedDelay k (linkSeed s k))) ∧
      (t.op k).good = 0 ∧ (t.op k).bad = 0 ∧ (∀ j, j ≠ k → t.op j = s.op j) ∧ CountersOnly s t ∧
      t = { s with net := s.net.tail, outs := t.outs, cells := t.cells })

/-- R225, R226, R227, R228: a read of MER_CAPTURE latches the meridian into the window; writes of MER_ADJ_CTRL order a slew or its end, or a
step, which a negative offset refuses; arming an alarm takes its target, and one already passed fires at once. -/
def Obligations.MeridianRegistersAct : Prop :=
  ∀ (s : State) (a : Acc), Serves s a → a.size = .b32 →
    (0x20800 ∉ s.parity → ∃ t, exec (.merCapture a) s = .next t ∧
      t.mer = { s.mer with capSeq := s.mer.capSeq + 1, winValid := true, winSeq := s.mer.capSeq + 1, winDeg := s.mer.degraded, winEst := s.mer.estim, win := s.mer.now } ∧
      t.out.data.toNat % 256 = (s.mer.capSeq + 1).toNat ∧ t.out.err = false ∧ t = { s with mer := t.mer, out := t.out }) ∧
    (∃ t, exec (.merSlew a) s = .next t ∧ t = respond { s with mer := { s.mer with order := .start (adjOffset s).toInt } } 0 false) ∧
    (∃ t, exec (.merStep a) s = .next t ∧ t = respond { s with mer :=
      (if (adjOffset s).toInt < 0 then { s.mer with adjRej := true } else { s.mer with step := some (adjOffset s) }) } 0 false) ∧
    (∃ t, exec (.merCancel a) s = .next t ∧ t = respond { s with mer := { s.mer with order := .cancel } } 0 false) ∧
    (∀ n keep, n < 4 → ∃ t, exec (.merAlarmArm n keep a) s = .next t ∧ (∀ m, m ≠ n → t.alarm m = s.alarm m) ∧
      (s.mer.now.toNat ≤ (mk64 (s.alarm n).hi (s.alarm n).lo).toNat →
        t.alarm n = { s.alarm n with arm := true, keep := keep, target := mk64 (s.alarm n).hi (s.alarm n).lo } ∧ t = { s with mer := t.mer, out := t.out }) ∧
      ((mk64 (s.alarm n).hi (s.alarm n).lo).toNat < s.mer.now.toNat → (t.alarm n).arm = false ∧ t.mer.fired = (s.mer.fired ||| (1#4 <<< n)) ∧
        (Postable (s.alarm n).evid.toNat → ∃ k, Sent t (.event k) ∧ k.evid = (s.alarm n).evid.toNat ∧ k.stamp = s.mer.now ∧ k.src = .alarm n)))

/-- R228: an alarm whose target is reached fires once: it posts its EVID with its number as payload and its target as stamp; R243, R245: at
an arm point a train posts its gang's send EVID and goes on to its next target, or misses it while the meridian is degraded. -/
def Obligations.AlarmsAndTrainsFire : Prop :=
  (∀ (s : State) (n : Nat), n < 4 → s.pwr.hubl = .on → (s.alarm n).arm = true → (s.alarm n).target.toNat ≤ s.mer.now.toNat → Postable (s.alarm n).evid.toNat →
    ∃ t k, exec (.merAlarmFire n) s = .next t ∧ t.net.map (·.msg) = s.net.map (·.msg) ++ [.event k] ∧ k.evid = (s.alarm n).evid.toNat ∧
      k.payload = BitVec.ofNat 20 n ∧ k.stamp = (s.alarm n).target ∧ t.alarm n = { s.alarm n with arm := false } ∧ (∀ m, m ≠ n → t.alarm m = s.alarm m) ∧
      t.mer = { s.mer with alarms := t.mer.alarms, fired := s.mer.fired ||| (1#4 <<< n) } ∧ t = { s with mer := t.mer, net := t.net }) ∧
  (∀ (s : State) (i : Nat) (x : Train), s.trains[i]? = some x → s.pwr.hubl = .on → s.parity = [] → (armPoint s x).toNat ≤ s.mer.now.toNat →
    (s.mer.degraded = false → (s.gang x.gang).send ≠ 0 → isWired (s.gang x.gang).send = false →
      ∃ t k, exec (.trainArmPoint i) s = .next t ∧ t.net.map (·.msg) = s.net.map (·.msg) ++ [.event k] ∧ k.evid = (s.gang x.gang).send ∧ k.payload = x.payload ∧
        k.stamp = armPoint s x ∧ k.sec = x.secure ∧ t.trains = (advanceTrain s x 1).trains ∧ CountersOnly s t ∧
        t = { s with net := t.net, trains := t.trains, cells := t.cells }) ∧
    (s.mer.degraded = true → ∃ t, exec (.trainArmPoint i) s = .next t ∧ (t.gang x.gang).missed = satInc (s.gang x.gang).missed ∧
      t.trains = (advanceTrain s x 1).trains ∧ (∀ g, g ≠ x.gang → t.gang g = s.gang g) ∧ t = { s with trains := t.trains, gangs := t.gangs }))

/-- R230: loss of lock of the master raises MER_DEGRADED and degrades the meridian, which stays so until the PLL has been locked for 200 us; loss of lock of an
outpost's PLL puts it in holdover and out of alignment, until it relocks; armed releases of the units concerned lose their grade. -/
def Obligations.HoldoverDegradesTheMeridian : Prop :=
  (∀ s : State, s.mer.locked = true → ∃ t, exec (.pllHoldover 12) s = .next t ∧ t.mer = { s.mer with degraded := true, degSeen := true, locked := false } ∧
    (s.pwr.hubl = .on → s.pwr.rst = false → tget 0 t.hub.faultCnt 0x15 = satInc (tget 0 s.hub.faultCnt 0x15)) ∧
    (∀ e ∈ t.stns, ∀ a ∈ e.2.armed, a.cand.grade = false) ∧ SameQueues s t ∧ t.cells = s.cells ∧ t.outs = s.outs) ∧
  (∀ (s : State) (k : Nat), k < 12 → populated s k = true → (s.op k).holdover = false → ∃ t, exec (.pllHoldover k) s = .next t ∧ (t.op k).holdover = true ∧
    (t.op k).align = .unaligned ∧ (∀ e ∈ t.stns, ∀ a ∈ e.2.armed, e.1 / 48 = k ∨ releaseVia s k a = true → a.cand.grade = false) ∧
    (∀ j, j ≠ k → t.op j = s.op j) ∧
    SameQueues s t ∧ t.mer = s.mer) ∧
  (∀ s : State, s.mer.locked = false → ∃ t, exec (.pllRelock 12) s = .next t ∧ t = { s with mer := { s.mer with locked := true, lockedAt := s.mer.now } }) ∧
  (∀ (s : State) (k : Nat), k < 12 → (s.op k).holdover = true → ∃ t, exec (.pllRelock k) s = .next t ∧
    t.op k = { s.op k with holdover := false, align := .training, good := 0, bad := 0 } ∧ (∀ j, j ≠ k → t.op j = s.op j) ∧ t = { s with outs := t.outs }) ∧
  (∀ s : State, s.mer.degraded = true → s.mer.locked = true → ∃ t, exec .degradedClear s = .next t ∧
    t = { s with mer := { s.mer with degraded := decide ((s.mer.now - s.mer.lockedAt).toNat < 200000) } })

/-- R267, R269, R274: a rod measurement above the threshold trips the cell, the 16th in a row at or below 63/64 of it clears the trip; an
enabled cell whose guard ratio has reached ASSERT_PM asserts SPEED_REQ, as a monitor below 0.70 V does (R271); SPEED_REQ falls after
HOLD_US of calm; R321, R322, R448: a sample writes every register of the sensors with its corrected reading; a sensor whose unit is off
keeps its sample as INVALID. The model's own readings here: log entries 49, 78. -/
def Obligations.GuardWatchesRodsAndSupplies : Prop :=
  (∀ (s : State) (c : Nat) (ps : BitVec 16), c < 1536 → s.pwr.rst = false → unitOn s (unitOf c) = true → s.parity = [] →
    ∃ t, exec (.rodMeasurement c ps) s = .next t ∧ (t.cell c).rodPs = ps ∧
      (ps.toNat > (s.cell c).thresh → (t.cell c).tripped = true ∧ ((s.cell c).tripped = false →
        t.hub.tripSeen = true ∧ t.hub.tripCnt = satInc s.hub.tripCnt)) ∧
      (ps.toNat ≤ (s.cell c).thresh * 63 / 64 → (s.cell c).tripped = true → (t.cell c).tripped = decide ((s.cell c).clearRun + 1 < 16)) ∧
      ((s.cell c).en = true → (s.cell c).role ≠ 0 → ({ s.cell c with rodPs := ps } : Cell).ratio ≥ s.hub.assertPm.toNat →
        t.hub.speedReq = true ∧ t.hub.speedAt = s.mer.now) ∧
      (∀ d, d ≠ c → t.cell d = s.cell d) ∧ SameQueues s t ∧ t.stns = s.stns ∧ t.ctxs = s.ctxs ∧ t.mer = s.mer) ∧
  (∀ s : State, s.hub.speedReq = true → s.pwr.hubl = .on →
    s.parity = [] →
    (speedCalm s = true → s.hub.holdUs.toNat * 1000 ≤ (s.mer.now - s.hub.speedAt).toNat →
      ∃ t, exec .speedReqRelease s = .next t ∧ t = { s with hub := { s.hub with speedReq := false } }) ∧
    (speedCalm s = false → ∃ t, exec .speedReqRelease s = .next t ∧ t = { s with hub := { s.hub with speedAt := s.mer.now } })) ∧
  (∀ (s : State) (d : Dom) (below : Bool), (match d with | .hubl | .hubm => True | .outL k | .outM k | .trav k => k < 12) →
    ∃ t, exec (.voltageMonitorCrossing d below) s = .next t ∧
      (match d with
        | .hubl => t.pwr.lowHubl | .hubm => t.pwr.lowHubm | .outL k => (t.op k).lowLogic | .outM k => (t.op k).lowMem | .trav k => (t.op k).lowTrav) = below ∧
      (s.pwr.hubl = .on → s.pwr.rst = false → below = true → domSt s d = .on → t.hub.speedReq = true) ∧
      t = { s with hub := { s.hub with speedReq := t.hub.speedReq, speedAt := t.hub.speedAt }, pwr := { s.pwr with lowHubl := t.pwr.lowHubl, lowHubm := t.pwr.lowHubm }, outs := t.outs }) ∧
  (∀ (s : State) (x : Samples), s.parity = [] → ∃ t, exec (.sensorSample x) s = .next t ∧
      (∀ n, n < 20 → unitOn s (if n < 8 then 12 else n - 8) = false → tget {} t.pwr.temps n = { tget {} s.pwr.temps n with invalid := true }) ∧
      (∀ n, n < 20 → unitOn s (if n < 8 then 12 else n - 8) = true → (x.temps[n]?).getD none = none → tget {} t.pwr.temps n = tget {} s.pwr.temps n) ∧
      (∀ n v, n < 20 → unitOn s (if n < 8 then 12 else n - 8) = true → (x.temps[n]?).getD none = some v →
        tget {} t.pwr.temps n = tempOf (tget {} s.pwr.temps n) (some (readTemp s n v))) ∧
      (t.pwr.vhubl, t.pwr.vhubm, t.pwr.vaon) = (readMv s 1 x.hubl, readMv s 2 x.hubm, readMv s 0 x.vaon) ∧
      t.pwr.auxLow = decide (trimmed s 0x27 x.auxin < 4500) ∧ t.pwr.auxHigh = decide (trimmed s 0x27 x.auxin > 54000) ∧
      (s.isl.defaults = true → trimmed s 0x27 x.auxin = x.auxin ∧ readMv s 1 x.hubl = x.hubl) ∧
      (∀ k, k < 12 → (t.op k).vlogic = (if (s.op k).logic = .off then 0 else readMv s (4 + 3 * k) ((x.outs[k]?).getD (0, 0, 0)).1)) ∧
      t = { s with pwr := t.pwr, outs := t.outs, cells := t.cells, isl := t.isl, parity := t.parity, hub := { s.hub with speedAt := t.hub.speedAt } })

/-- R58, R60, R61, R62, R170: a cell that passes the test of R60 is enabled, and a delivery or rank cell then asks for re-offers; one that
does not keeps CELL_EN = 0 and sets EN_REFUSED. A disabled cell drains: the seats of a delivery cell's stations are empty. HUB_EN is set
where every non-spare hub cell is enabled. The model's own readings here: log entries 32, 73. -/
def Obligations.CellsAndHubAreEnabledAndDrained : Prop :=
  (∀ (s : State) (c : Nat) (a : Acc), CellReady s c a → a.size = .b32 →
    ((s.cell c).en = false → canEnable s c = true → ∃ t, exec (.cellEnable c a) s = .next t ∧ (t.cell c).en = true ∧ (t.cell c).quiet = true ∧
      t.out.err = false ∧ (∀ d, d ≠ c → (t.cell d).en = (s.cell d).en) ∧
      ((s.cell c).role = roleDelivery → ∀ n ∈ cellStations s c, ∀ u ∈ reOfferUnits s (.station n), Sent t (.reOffer (.station n) u none)) ∧
      ((s.cell c).role = roleRank → ∀ n ∈ rankStations (s.modCell c fun x => { x with en := true, quiet := true }) c,
        ∀ u ∈ reOfferUnits s (.station n), Sent t (.reOffer (.station n) u none))) ∧
    ((s.cell c).en = false → canEnable s c = false →
      ∃ t, exec (.cellEnable c a) s = .next t ∧ t = respond (s.modCell c fun x => { x with enRefused := true }) 0 false) ∧
    ((s.cell c).en = true → ∃ t, exec (.cellDisable c a) s = .next t ∧ (t.cell c).en = false ∧ (t.cell c).quiet = false ∧ (t.cell c).enKept = ((s.cell c).enKept && unitAway s (unitOf c)) ∧
      t.out.err = false ∧ (∀ d, d ≠ c → (t.cell d).en = (s.cell d).en) ∧ SameQueues s t ∧
      ((s.cell c).role = roleDelivery → ∀ n ∈ cellStations s c, (t.stn n).norm.seats = [] ∧ (t.stn n).sec.seats = [])) ∧
    ((s.cell c).en = false → tokenInside s c = false → ∃ t, exec (.cellDrainDone c) s = .next t ∧ t = s.modCell c fun x => { x with quiet := true })) ∧
  (∀ (s : State) (a : Acc), Serves s a → a.size = .b32 →
    (s.hub.en = false → (∀ c ∈ workCells s 12, (s.cell c).en = true) → NoHolds s → (∀ h ∈ s.out.held, h.status = false) →
      ∃ t, exec (.hubEnable a) s = .next t ∧ t.hub.en = true ∧ t.fb.ringBad = false ∧ (t.fb.wasFull = true → fbFull t = true) ∧
        t = respond { s with hub := { s.hub with en := true }, fb := { s.fb with ringBad := false, wasFull := t.fb.wasFull } } 0 false) ∧
    (s.hub.en = false → (∃ c ∈ workCells s 12, (s.cell c).en = false) →
      ∃ t, exec (.hubEnable a) s = .next t ∧ t = respond { s with hub := { s.hub with enRefused := true } } 0 false) ∧
    (∃ t, exec (.hubDisable a) s = .next t ∧ t = respond { s with hub := { s.hub with en := false } } 0 false))

/-- R20, R83, R116, R283, R287, R290, R294, R298, R305, R404, R464, R465: what single register accesses do: the captures are armed again,
a counter capture latches, counters are loaded and their overflow bits cleared, the secure watchdog is serviced, a read clears the flags
that it returns, a counter takes the value written, and an access that its size or its security refuses changes nothing but the access
counters; Wairo writes a tuning register back. The model's own readings here: log entry 35. -/
def Obligations.RegistersAnswer : Prop :=
  (∀ (s : State) (a : Acc), Serves s a → a.size = .b32 →
    (∃ t, exec (.hubDbRejArm a) s = .next t ∧ t = respond { s with hub := { s.hub with dbCap := { s.hub.dbCap with valid := false } } } 0 false) ∧
    (∃ t, exec (.hubAccCapArm a) s = .next t ∧ t = respond { s with hub := { s.hub with accCap := { s.hub.accCap with valid := false } } } 0 false) ∧
    (0x300 ∉ s.parity → ∃ t, exec (.rcRegisterRead 0x300 a) s = .next t ∧ t = respond { s with hub := { s.hub with seen := 0 } } (s.hub.seen.zeroExtend 64) false) ∧
    (0x404 ∉ s.parity → ∃ t, exec (.rcRegisterRead 0x404 a) s = .next t ∧ t = respond s (s.hub.dbFormat.zeroExtend 64) false) ∧
    (∀ d : BitVec 64, ∃ t, exec (.registerWrite 0x404 d a) s = .next t ∧ t = respond { s with hub := { s.hub with dbFormat := lo32 d } } 0 false) ∧
    (∀ d : Word, a.sec = true → d.extractLsb' 0 8 = 0xA5#8 → 0x20200 ∉ s.parity → ∃ t, exec (.swdtService d a) s = .next t ∧
      0x20204 ∉ t.parity ∧ t = respond { s with pwr := { s.pwr with swStage := false, swDone := false, swLeft := s.pwr.swPeriod, swNs := 0 }, parity := t.parity } 0 false) ∧
    (∀ d : Word, a.sec = false → ∃ t, exec (.swdtService d a) s = .next t ∧ t.out.err = true ∧ t.hub.accDenied = satInc s.hub.accDenied ∧
      t = { s with hub := { s.hub with accDenied := t.hub.accDenied, accSeen := t.hub.accSeen, accCap := t.hub.accCap }, out := t.out })) ∧
  (∀ (s : State) (c : Nat) (a : Acc), CellReady s c a → a.size = .b32 →
    (cellBase c + 0x1AC ∉ s.parity → ∃ t, exec (.cellCtrCapture c a) s = .next t ∧
      (t.cell c).ctrSeq = (s.cell c).ctrSeq + 1 ∧ (∀ i, i = (if (s.cell c).pair then 2 else 0) → (t.cell c).ctrWin =
        some ((s.cell c).pair, (s.cell c).ovf.getLsbD i, (s.cell c).ovf.getLsbD (i + 1), tget 0 (s.cell c).ctrs i, tget 0 (s.cell c).ctrs (i + 1))) ∧
      t.out.err = false ∧ t.out.data.toNat % 256 = (t.cell c).ctrSeq.toNat ∧ (∀ d, d ≠ c → t.cell d = s.cell d) ∧ t = { s with cells := t.cells, out := t.out }) ∧
    (∀ d : Word, ∃ t, exec (.wrGo c d a) s = .next t ∧
      tget 0 (t.cell c).ctrs (d.extractLsb' 1 2).toNat = d.extractLsb' 16 16 ++ (s.cell c).wrLo ∧
      (∀ n, n ≠ (d.extractLsb' 1 2).toNat → tget 0 (t.cell c).ctrs n = tget 0 (s.cell c).ctrs n) ∧
      (t.cell c).ovf = (s.cell c).ovf &&& ~~~(d.extractLsb' 4 4) ∧ (t.cell c).pair = d.getLsbD 0 ∧
      (∀ e, e ≠ c → t.cell e = s.cell e) ∧ t = { s with cells := t.cells, out := t.out }) ∧
    (∀ d : Word, ∃ t, exec (.ovfClr c d a) s = .next t ∧ (t.cell c).ovf = (s.cell c).ovf &&& ~~~(d.extractLsb' 4 4) ∧
      (d.getLsbD 3 = false → (t.cell c).ctrs = (s.cell c).ctrs) ∧ (∀ e, e ≠ c → t.cell e = s.cell e) ∧ t = { s with cells := t.cells, out := t.out })) ∧
  (∀ (s : State) (o : Nat) (d : BitVec 64) (a : Acc), Serves s a → a.size = .b8 → o < 0x1000 → hubImpl (o / 4 * 4) = true → needsSec (o / 4 * 4) = false →
    ∃ t, exec (.registerWrite o d a) s = .next t ∧ t.hub.accWidth = satInc s.hub.accWidth ∧ t.out.err = false ∧ t.hub.accSeen = s.hub.accSeen ||| 1 ∧
      t = { s with hub := { s.hub with accWidth := t.hub.accWidth, accSeen := t.hub.accSeen, accCap := t.hub.accCap, seen := t.hub.seen, faultCnt := t.hub.faultCnt },
                   net := t.net, isl := t.isl, out := t.out }) ∧
  (∀ (s : State) (c : Nat) (v : Word), c < 1536 → s.pwr.hubl = .on → wairoRuns s = true → (∀ d, tget d s.isl.journal (cellBase c + 0x100) = v) →
    (∀ x ∈ s.parity, x = cellBase c + 0x100) →
    ∃ t, exec (.tuningRewrite (cellBase c + 0x100)) s = .next t ∧ (t.cell c).coef = v.extractLsb' 0 16 ∧ cellBase c + 0x100 ∉ t.parity ∧
      Logged s t 0x86 (w32 c) 0x100 v ∧ (∀ d, d ≠ c → t.cell d = s.cell d))

/-- R73, R74, R76: a recompute takes the CRC-32C of the slot's plat region; a sweep marks a slot that agrees with its reference as MATCH, and one
that does not as MISMATCH. R78: an enabled one is then fenced, and the mismatch is noted. R79: a disabled one is not fenced, and the fence of a
disabled slot ends where it is MATCH. R80: where the value of the stream differs from the committed reference while every slot agrees with its
own, every slot of the stream is fenced, and DATUM_MISMATCH is raised. The model's own readings here: log entries 27, 58. -/
def Obligations.DatumChecksTheSlots : Prop :=
  (∀ (s : State) (c : Nat), c < 1536 → ∃ t, exec (.datumLocalRecompute c) s = .next t ∧
    t = s.modCell c fun x => { x with localCrc := crc32c ((List.range 64).flatMap fun i => wordBytes (getW x.plat i)) }) ∧
  (∀ s : State, s.pwr.hubl = .on → s.pwr.rst = false → s.parity = [] → ∃ t, exec .datumSweep s = .next t ∧ t.hub.datum.sweeps = s.hub.datum.sweeps + 1 ∧
    t.hub.datum.ref = s.hub.datum.ref ∧ t.hub.datum.committed = s.hub.datum.committed ∧
    (∀ c ∈ streamCells s, ∀ r, (s.cell c).refVal = some r → canRead s c = true → (s.cell c).refBad = false →
      ((s.cell c).localCrc = r → (t.cell c).datum = 1 ∧
        ((s.cell c).en = false → (s.cell c).quiet = true → t.hub.datum.global = false → (t.cell c).fenced = false)) ∧
      ((s.cell c).localCrc ≠ r → (t.cell c).datum = 2 ∧
        ((s.cell c).en = true → (s.cell c).datum ≠ 2 → (t.cell c).fenced = true ∧ t.hub.datum.seen = true) ∧
        ((s.cell c).en = false → t.hub.datum.global = s.hub.datum.global → (t.cell c).fenced = (s.cell c).fenced))) ∧
    (s.hub.datum.committed = true → s.hub.datum.global = false →
      (∀ c ∈ streamCells s, (s.cell c).refVal = some (s.cell c).localCrc ∧ canRead s c = true ∧ (s.cell c).refBad = false) →
      (t.hub.datum.last = s.hub.datum.ref → t.hub.datum.global = false) ∧
      (t.hub.datum.last ≠ s.hub.datum.ref → t.hub.datum.global = true ∧ t.hub.datum.seen = true ∧ (∀ c ∈ streamCells s, (t.cell c).fenced = true) ∧
        tget 0 t.hub.faultCnt 4 = satInc (tget 0 s.hub.faultCnt 4))))

/-- R318, R319, R330, R335: the update that ends a command shows its code and its response words, with DONE = 1 and BUSY = 0; with no notify
EVID it changes nothing else but whose turn it is. R334, R346, R347, R355, R356: GET_INFO, STATUS_PEEK, BENCHMARK_READ and LOG_READ answer with
what they read and change nothing, a GET_INFO of a section that does not exist ends with BAD_ARG, and a peek at a register clears no flag. -/
def Obligations.CommandsEndAndReadingOnesChangeNothing : Prop :=
  ((∀ (s : State) (b : Box) (code : Nat) (resp : List Word),
     ((endCmd s b code resp).mbx b).code = BitVec.ofNat 8 code ∧ ((endCmd s b code resp).mbx b).done = true ∧ ((endCmd s b code resp).mbx b).busy = false ∧
     (∀ i, i < 28 → getW ((endCmd s b code resp).mbx b).resp i = (resp[i]?).getD 0) ∧ (endCmd s b code resp).mbx (otherBox b) = s.mbx (otherBox b) ∧
     ((s.mbx b).notify = 0 → endCmd s b code resp = { s with mbxN := (endCmd s b code resp).mbxN, mbxS := (endCmd s b code resp).mbxS,
                                                             isl := { s.isl with turn := (endCmd s b code resp).isl.turn, listRun := none } }) ∧
     (Postable (s.mbx b).notify.toNat → ∃ k, Sent (endCmd s b code resp) (.event k) ∧ k.evid = (s.mbx b).notify.toNat ∧
       k.payload = (s.mbx b).seq.zeroExtend 20 ∧ k.stamp = s.mer.now ∧ k.src = .notify)) ∧
   (∀ (s : State) (b : Box) (w : Word), Waits s b 0x01 → ArgsAre s b [w] → 2 ≤ w.toNat → exec (.getInfo b) s = .next (endCmd s b cBadArg []))) ∧
  (∀ (s : State) (b : Box),
     (Waits s b 0x01 → ArgsAre s b [] → ∃ resp, exec (.getInfo b) s = .next (endCmd s b cOk resp) ∧ resp[0]? = some 0xC2880201 ∧ resp[3]? = some s.hub.platId ∧
       resp[5]? = some (lo32 s.isl.deviceId) ∧ resp[6]? = some (hi32 s.isl.deviceId) ∧ resp[7]? = some s.isl.rollback) ∧
     (Waits s b 0x01 → ArgsAre s b [1] → ∃ resp, exec (.getInfo b) s = .next (endCmd s b cOk resp) ∧
       ∀ op, op < 256 → ((resp[op / 32]?).getD 0).getLsbD (op % 32) = decide (op ∈ opcodes)) ∧
     (Waits s b 0x02 → ∃ code resp, exec (.statusPeek b) s = .next (endCmd s b code resp)) ∧
     (Waits s b 0x02 → ArgsAre s b [0, 0x300, 1] → exec (.statusPeek b) s = .next (endCmd s b cOk [s.hub.seen.zeroExtend 32])) ∧
     (∀ e, e < 2 ^ 20 → Waits s b 0x02 → ArgsAre s b [1, w32 e] → (b = .secure ∨ (s.queue e).secure = false) →
       ∃ d, d = descriptor (s.queue e) ∧ exec (.statusPeek b) s = .next (endCmd s b cOk
         [d.extractLsb' 0 32, d.extractLsb' 32 32, d.extractLsb' 64 32, d.extractLsb' 96 32, w32 (recsOf s e), getW s.tally e])) ∧
     (∀ e, e < 2 ^ 20 → Waits s b 0x02 → ArgsAre s b [1, w32 e] → b = .normal → (s.queue e).secure = true →
       exec (.statusPeek b) s = .next (endCmd s b cOk [flag 0 (s.queue e).bound ||| flag 3 true, 0, 0, 0, 0, 0])) ∧
     (∀ off n, off % 4 = 0 → 1 ≤ n → n ≤ 28 → off + 4 * n ≤ 0x10000 → Waits s b 0x60 → ArgsAre s b [at_ 0 off ||| at_ 16 n] →
       exec (.benchmarkRead b) s = .next (endCmd s b cOk ((List.range n).map fun j => getW s.isl.bench (off / 4 + j)))) ∧
     (∀ (first : Word) n, 1 ≤ n → n ≤ 3 → Waits s b 0x70 → ArgsAre s b [first, w32 n] →
       ∃ resp, exec (.logRead b) s = .next (endCmd s b cOk resp) ∧ resp[3]? = some s.isl.logNext ∧
         resp[1]? = some (w32 (((s.isl.log.filter fun e => decide (first.toNat ≤ e.no.toNat)).take n).length)) ∧
         (∀ e l, s.isl.log.filter (fun e => decide (first.toNat ≤ e.no.toNat)) = e :: l → resp[0]? = some e.no ∧
           (b = .secure ∨ e.secure = false → resp.drop 4 = (((e :: l).take n).flatMap fun x => logEntryWords (hideArgs x (!decide (b = .secure) && !s.isl.scope.getLsbD 4))) ∧
             hideArgs e (!decide (b = .secure) && !s.isl.scope.getLsbD 4) = e))))

/-- R70, R72, R77, R60, R61, R348: PLAT_LOAD writes the plat region of every selected slot from the image, and a running outpost that it
leaves with an UNSERVED slot is lost (R65); DATUM_COMMIT latches the reference and every readable slot's value, ENABLE enables the cells of its
range, and DISABLE drains them: those that hold no token are quiet when it ends, and it answers their number. The model's own readings here: log entries 25, 30, 58, 59, 75. -/
def Obligations.PlatCommandsTakeEffect : Prop :=
  (∀ (s : State) (b : Box) (p : PlatImage), Waits s b 0x10 → EndsOk cmdPlatLoad s b → platOf (callOf s b) s = some p → (argOf s b 0).getLsbD 6 = false →
    ∃ u resp, exec (.platLoad b) s = .next (endCmd u b cOk resp) ∧ resp[1]? = some p.datumRef ∧ resp[2]? = some p.platId ∧
      (∀ r ∈ p.records, (if (argOf s b 0).getLsbD 1 then r.1 = bits (argOf s b 1) 0 11 else unitOf r.1 < 13 ∧ (argOf s b 1).getLsbD (unitOf r.1) = true) →
        ∀ i, i < 64 → getW (u.cell r.1).plat i = recW r i ∧ getW (u.cell r.1).shadow i = recW r i) ∧
      ((argOf s b 0).getLsbD 1 = false → (argOf s b 1).getLsbD 12 = true → u.hub.platId = p.platId ∧ u.hub.compact = decide (p.decode = 1) ∧ u.hub.staged = true) ∧
      ((argOf s b 0).getLsbD 2 = true → storeEntry u ((argOf s b 0).getLsbD 5) = some p) ∧
      (∀ k, populated s k = true → (s.op k).logic = .on → unitUnserved u k = true → (u.op k).lost = true) ∧
      ((∀ k, populated s k = true → (s.op k).logic = .on → unitUnserved u k = false) → (∀ c, (u.cell c).en = (s.cell c).en) ∧
        SameQueues s u ∧ SameSetup s u ∧ u.stns = s.stns ∧ u.ctxs = s.ctxs ∧ u.outs = s.outs)) ∧
  (∀ (s : State) (b : Box), Waits s b 0x11 → EndsOk cmdDatumCommit s b →
    ∃ u, exec (.datumCommit b) s = .next (endCmd u b cOk [argOf s b 0]) ∧ u.hub.datum.ref = argOf s b 0 ∧ u.hub.datum.last = argOf s b 0 ∧
      u.hub.datum.committed = true ∧ u.hub.datum.global = false ∧
      (∀ c, (s.cell c).role ≠ 0 → (unitOf c = 12 ∨ populated s (unitOf c) = true) → (u.cell c).fenced = false ∧
        (canRead s c = true → (u.cell c).refVal = some (s.cell c).localCrc ∧ (u.cell c).datum = 1)) ∧
      u = { s with cells := u.cells, hub := { s.hub with datum := u.hub.datum }, parity := u.parity }) ∧
  (∀ (s : State) (b : Box), Waits s b 0x12 → EndsOk cmdEnable s b →
    ∃ u, exec (.enable b) s = .next (endCmd u b cOk [w32 (rangeCells s (callOf s b)).length, 0, 0x7FF]) ∧
      ∀ c ∈ rangeCells s (callOf s b), (u.cell c).en = true) ∧
  (∀ (s : State) (b : Box), Waits s b 0x13 → EndsOk cmdDisable s b →
    ∃ u, exec (.disable b) s = .next (endCmd u b cOk [w32 ((rangeCells s (callOf s b)).filter fun c => !tokenInside u c).length]) ∧
      (∀ c ∈ rangeCells s (callOf s b), (u.cell c).en = false ∧ (tokenInside u c = false → (u.cell c).quiet = true) ∧
        ((s.cell c).en = true → tokenInside u c = true → (u.cell c).quiet = false)) ∧ SameQueues s u)

/-- R129, R130, R132, R158, R349: QUEUE_BIND makes the descriptor that its words name, idle and empty, and starts the booked tally;
QUEUE_UNBIND takes it away, empties what held its candidate and marks its field-book records. No other queue changes, but for over-quota
flags. The model's own readings here: log entry 22. -/
def Obligations.QueuesAreBoundAndUnbound : Prop :=
  (∀ (s : State) (b : Box) (e : Nat), Waits s b 0x20 → EndsOk cmdQueueBind s b → e = bits (argOf s b 0) 0 20 →
    ∃ u, exec (.queueBind b) s = .next (endCmd u b cOk []) ∧ (s.queue e).bound = false ∧
      (∃ tail, u.queue e = {
        bound := true, mode := qmodeOf (bits (argOf s b 1) 0 2), secure := (argOf s b 1).getLsbD 2, rank := (argOf s b 1).extractLsb' 8 8,
        route := routeOf (argOf s b 1), parcel := bits (argOf s b 2) 0 10, lockEn := (argOf s b 2).getLsbD 10, lockId := (argOf s b 3).extractLsb' 0 16,
        lockMask := (argOf s b 3).extractLsb' 16 16, bookOnly := (argOf s b 1).getLsbD 3, early := (argOf s b 1).getLsbD 4,
        quota := (argOf s b 2).extractLsb' 16 12, tail := tail } ∧
        (qmodeOf (bits (argOf s b 1) 0 2) = .latest → (u.slot tail).used = true)) ∧
      OtherQueues s u e ∧ getW u.tally e = 0 ∧ (∀ x, x ≠ e → getW u.tally x = getW s.tally x) ∧
      (isWired e = true → (u.input e).mode = inModeOf (bits (argOf s b 4) 0 3) ∧ (u.input e).filterW = (argOf s b 4).extractLsb' 4 10 ∧ (u.input e).tally = 0) ∧
      u.fb = s.fb ∧ u.stns = s.stns ∧ u.ctxs = s.ctxs ∧ SameSetup s u) ∧
  (∀ (s : State) (b : Box) (e : Nat), Waits s b 0x21 → s.ecc = [] → EndsOk cmdQueueUnbind s b → e = bits (argOf s b 0) 0 20 →
    ∃ u resp, exec (.queueUnbind b) s = .next (endCmd u b cOk resp) ∧ resp[1]? = some (w32 (recsOf s e)) ∧ u.queue e = {} ∧ OtherQueuesBut s u e ∧
      (∀ r ∈ fbOf u e, r.dead ≠ 0) ∧ (∀ x ∈ u.stns, seatHas e x.2.norm.seats = false ∧ seatHas e x.2.sec.seats = false) ∧
      (∀ x ∈ u.ctxs, seatHas e x.2.g.seats = false ∧ seatHas e x.2.cands = false) ∧ (isWired e = true → (u.input e).mode = .off))

/-- R131, R180, R181, R186, R350, R351: QUEUE_SET changes the fields that its mask selects, COUNT_CLEAR empties the queue; ROUTE_SET
changes a route, a die's fallback, or the setting of a reservation, in the byte or nibble that it has in its home cell's tuning words (R164,
R233). The model's own readings here: log entry 26. -/
def Obligations.QueueSetAndRouteSetTakeEffect : Prop :=
  (∀ (s : State) (b : Box) (e : Nat), Waits s b 0x22 → s.ecc = [] → EndsOk cmdQueueSet s b → e = bits (argOf s b 0) 0 20 →
    ∃ u resp, exec (.queueSet b) s = .next (endCmd u b cOk resp) ∧
      (u.queue e).rank = (if (argOf s b 1).getLsbD 0 then (argOf s b 2).extractLsb' 8 8 else (s.queue e).rank) ∧
      (u.queue e).secure = (if (argOf s b 1).getLsbD 1 then (argOf s b 2).getLsbD 2 else (s.queue e).secure) ∧
      (u.queue e).bookOnly = (if (argOf s b 1).getLsbD 2 then (argOf s b 2).getLsbD 3 else (s.queue e).bookOnly) ∧
      (u.queue e).early = (if (argOf s b 1).getLsbD 3 then (argOf s b 2).getLsbD 4 else (s.queue e).early) ∧
      (u.queue e).mode = (if (argOf s b 1).getLsbD 4 then qmodeOf (bits (argOf s b 2) 0 2) else (s.queue e).mode) ∧
      ((argOf s b 1).getLsbD 5 = true → (u.queue e).quota = (argOf s b 3).extractLsb' 16 12) ∧
      (u.queue e).lockId = (if (argOf s b 1).getLsbD 6 then (argOf s b 4).extractLsb' 0 16 else (s.queue e).lockId) ∧
      (u.queue e).lockMask = (if (argOf s b 1).getLsbD 6 then (argOf s b 4).extractLsb' 16 16 else (s.queue e).lockMask) ∧
      (u.queue e).lockEn = (if (argOf s b 1).getLsbD 6 then (argOf s b 3).getLsbD 10 else (s.queue e).lockEn) ∧
      ((argOf s b 1).getLsbD 7 = true → isWired e = true → (u.input e).mode = inModeOf (bits (argOf s b 5) 0 3)) ∧
      ((argOf s b 1).getLsbD 8 = true → (u.input e).tally = 0) ∧
      ((argOf s b 1).getLsbD 9 = true → (u.queue e).count = 0 ∧ (u.queue e).ovf = false ∧ resp = [w32 (s.queue e).count.toNat]) ∧
      (u.queue e).route = (s.queue e).route ∧ OtherQueuesBut s u e ∧ u.fb = s.fb) ∧
  (∀ (s : State) (b : Box) (e : Nat), Waits s b 0x23 → s.ecc = [] → EndsOk cmdRouteQueue s b → bits (argOf s b 0) 30 2 = 0 → e = bits (argOf s b 0) 0 20 →
    ∃ u, exec (.routeSetQueue b) s = .next (endCmd u b cOk [0]) ∧ (u.queue e).route = routeOf (argOf s b 1) ∧ (u.queue e).count = (s.queue e).count ∧
      ((s.queue e).handed = true → (u.queue e).recalled = true) ∧ OtherQueues s u e ∧ u.fb = s.fb ∧ u.inputs = s.inputs) ∧
  (∀ (s : State) (b : Box) (k : Nat), Waits s b 0x23 → EndsOk cmdRouteDie s b → bits (argOf s b 0) 30 2 = 1 → k = bits (argOf s b 1) 0 4 →
    ∃ u, exec (.routeSetDieFallback b) s = .next (endCmd u b cOk [0]) ∧
      (∀ f, f = (if bits (argOf s b 1) 16 10 = 0x3FF then none else some (bits (argOf s b 1) 16 10)) →
        (u.op k).fallN = (if (argOf s b 1).getLsbD 8 then (s.op k).fallN else f) ∧ (u.op k).fallS = (if (argOf s b 1).getLsbD 8 then f else (s.op k).fallS)) ∧
      ∀ j, j ≠ k → (u.op j).fallN = (s.op j).fallN ∧ (u.op j).fallS = (s.op j).fallS) ∧
  (∀ (s : State) (b : Box) (n : Nat), Waits s b 0x23 → EndsOk cmdRouteResv s b → bits (argOf s b 0) 30 2 = 2 → n = bits (argOf s b 1) 0 10 →
    bits (argOf s b 1) 12 2 = 0 → ∃ u, exec (.routeSetReservation b) s = .next (endCmd u b cOk [w32 (min (bits (argOf s b 1) 16 8) 64)]) ∧
      tget 0 u.isl.policy n = min (bits (argOf s b 1) 16 8) 64 ∧
      (∀ d, rankCell s n = some d → rankPos s n < 16 → bits (tuneWord (u.cell d) (rankPos s n / 4)) (8 * (rankPos s n % 4)) 8 = min (bits (argOf s b 1) 16 8) 64 ∧
        (∀ c, c ≠ d → u.cell c = s.cell c)) ∧ SameQueues s u) ∧
  (∀ (s : State) (b : Box) (n : Nat), Waits s b 0x23 → EndsOk cmdRouteResv s b → bits (argOf s b 0) 30 2 = 2 → n = bits (argOf s b 1) 0 10 →
    bits (argOf s b 1) 12 2 = 1 → ∃ u, exec (.routeSetReservation b) s = .next (endCmd u b cOk [w32 (min (bits (argOf s b 1) 16 8) 64)]) ∧
      tget 0 u.isl.policy (1024 + n) = min (bits (argOf s b 1) 16 8) 64 ∧
      (∀ d, spreadCell s n = some d → spreadPos s n < 16 → bits (tuneWord (u.cell d) (spreadPos s n / 4)) (8 * (spreadPos s n % 4)) 8 = min (bits (argOf s b 1) 16 8) 64 ∧
        (∀ c, c ≠ d → u.cell c = s.cell c)) ∧ SameQueues s u) ∧
  (∀ (s : State) (b : Box) (g : Nat), Waits s b 0x23 → EndsOk cmdRouteResv s b → bits (argOf s b 0) 30 2 = 2 → g = bits (argOf s b 1) 0 10 →
    bits (argOf s b 1) 12 2 = 2 → ∃ u, exec (.routeSetReservation b) s = .next (endCmd u b cOk [w32 (4 * min (bits (argOf s b 1) 16 8 / 4) 15)]) ∧
      tget 0 u.isl.policy (2048 + g) = min (bits (argOf s b 1) 16 8 / 4) 15 ∧
      (∀ d, gangCell s g = some d → gangPos s g < 128 → bits (tuneWord (u.cell d) (gangPos s g / 8)) (4 * (gangPos s g % 8)) 4 = min (bits (argOf s b 1) 16 8 / 4) 15 ∧
        (∀ c, c ≠ d → u.cell c = s.cell c)) ∧ SameQueues s u)

/-- R173, R234, R243, R352, R354, R366: a definition command writes the whole of its record and no other, an undefinition clears it; a train
is held by its gang's cell; VCTX_BIND makes an empty record and asks for the candidates of its queues; WAKE_CONFIG writes its slot or the
enabled sources. -/
def Obligations.DefinitionsWriteTheirRecords : Prop :=
  (∀ (s : State) (b : Box), Waits s b 0x24 → EndsOk cmdSpreadDefine s b → ∃ resp, exec (.spreadDefine b) s = .next (endCmd
    (s.modSpread (bits (argOf s b 0) 0 8) fun y => { y with
      parcel := bits (argOf s b 1) 0 10,
      members := (List.range 576).filter fun n => (argOf s b (2 + n / 32)).getLsbD (n % 32) }) b cOk resp)) ∧
  (∀ (s : State) (b : Box), Waits s b 0x30 → EndsOk cmdGangDefine s b → (argOf s b 0).getLsbD 31 = false → ∃ resp, exec (.gangDefine b) s = .next (endCmd
    (s.modGang (bits (argOf s b 0) 0 10) fun y => { y with
      defined := true, parcel := bits (argOf s b 1) 0 10, send := bits (argOf s b 2) 0 20,
      done := bits (argOf s b 3) 0 20, offset := (argOf s b 0).getLsbD 16, offsetNs := (argOf s b 4).extractLsb' 0 20, post := (argOf s b 0).getLsbD 17,
      members := (List.range 576).filter fun n => (argOf s b (5 + n / 32)).getLsbD (n % 32) }) b cOk resp)) ∧
  (∀ (s : State) (b : Box), Waits s b 0x30 → EndsOk cmdGangUndefine s b → (argOf s b 0).getLsbD 31 = true →
    exec (.gangUndefine b) s = .next (endCmd { s with gangs := tdel (bits (argOf s b 0) 0 10) s.gangs } b cOk [])) ∧
  (∀ (s : State) (b : Box), Waits s b 0x31 → EndsOk cmdGangReleaseAt s b →
    (argOf s b 4 = 0 → exec (.gangReleaseAt b) s = .next (endCmd { s with trains := s.trains.filter fun t => decide (t.gang ≠ bits (argOf s b 0) 0 10) } b cOk [0])) ∧
    (argOf s b 4 ≠ 0 → ∃ x : Train, exec (.gangReleaseAt b) s = .next (endCmd { s with trains := s.trains ++ [x] } b cOk [w32 x.id]) ∧
      x.gang = bits (argOf s b 0) 0 10 ∧ gangCell s x.gang = some x.cell ∧ x.id < 16 ∧ (∀ t ∈ s.trains, t.cell = x.cell → t.id ≠ x.id) ∧
      x.target = mk64 (argOf s b 2) (argOf s b 1) ∧ x.period = (argOf s b 3).zeroExtend 64 ∧ x.left = (argOf s b 4).toNat ∧
      x.payload = (argOf s b 5).extractLsb' 0 20 ∧ x.secure = decide (b = .secure))) ∧
  (∀ (s : State) (b : Box) (v : Nat), Waits s b 0x44 → v = bits (argOf s b 0) 0 14 →
    (EndsOk cmdVctxBind s b → (argOf s b 0).getLsbD 31 = false → ∃ u, exec (.vctxBind b) s = .next (endCmd u b cOk []) ∧ (∀ w ∈ reOfferUnits s (.context v), Sent u (.reOffer (.context v) w none)) ∧
      u.ctx v = { bound := true, home := bits (argOf s b 2) 0 10, parcel := bits (argOf s b 1) 0 10, dbRank := (argOf s b 2).extractLsb' 16 8 } ∧
      (∀ x, x ≠ v → u.ctx x = s.ctx x) ∧ CountersOnly s u ∧ u = { s with net := u.net, cells := u.cells, ctxs := u.ctxs, isl := u.isl }) ∧
    (EndsOk cmdVctxUnbind s b → (argOf s b 0).getLsbD 31 = true → ∃ u, exec (.vctxUnbind b) s = .next (endCmd u b cOk []) ∧ u.ctx v = {} ∧
      (∀ x, x ≠ v → u.ctx x = s.ctx x) ∧ u = { s with ctxs := u.ctxs, isl := u.isl })) ∧
  (∀ (s : State) (b : Box), Waits s b 0x52 → EndsOk cmdWakeConfig s b →
    (bits (argOf s b 0) 0 2 = 0 → exec (.wakeConfig b) s = .next (endCmd { s with pwr := { s.pwr with watch := tset {} s.pwr.watch (bits (argOf s b 0) 8 6) {
      input := some (bits (argOf s b 1) 0 10), width := (argOf s b 2).extractLsb' 0 10 } } } b cOk [])) ∧
    (bits (argOf s b 0) 0 2 = 1 → exec (.wakeConfig b) s = .next (endCmd { s with pwr := { s.pwr with watch := tdel (bits (argOf s b 0) 8 6) s.pwr.watch } } b cOk [])) ∧
    (bits (argOf s b 0) 0 2 = 2 → exec (.wakeConfig b) s = .next (endCmd { s with pwr := { s.pwr with wakeEn := (argOf s b 1).extractLsb' 0 3 } } b cOk [])))

/-- R353, R362 to R364, R384 to R390: PARCEL_CREATE makes a LIVE parcel with the next deed tag, takes over the bound queues of its range
with their slots and writes its status block; PARCEL_RESIZE sets its shares; PARCEL_RESET empties its queues and contexts; PARCEL_DESTROY
frees all that it held; a fence that is not acknowledged ends with FENCE_TIMEOUT. The model's own readings here: log entries 22, 23, 29,
64, 80, 81. -/
def Obligations.ParcelsAreGrantedFencedAndTakenBack : Prop :=
  (∀ (s : State) (b : Box), Waits s b 0x40 → s.ecc = [] → EndsOk cmdParcelCreate s b → ∃ u p resp, exec (.parcelCreate b) s = .next (endCmd u b cOk resp) ∧
      resp[0]? = some (at_ 0 p ||| at_ 16 s.isl.createCnt.toNat) ∧ 0 < p ∧ p < 1024 ∧ (s.parcel p).st = .free ∧
      ((argOf s b 0).getLsbD 31 = false → p = bits (argOf s b 0) 0 10) ∧
      (u.parcel p).st = .live ∧ (u.parcel p).tag = s.isl.createCnt ∧ (u.parcel p).base = bits (argOf s b 1) 0 20 ∧ (u.parcel p).count = bits (argOf s b 2) 0 20 ∧
      (u.parcel p).slots = bits (argOf s b 3) 0 22 ∧ (u.parcel p).ctxs = bits (argOf s b 4) 0 15 ∧ (u.parcel p).resv = bits (argOf s b 5) 0 8 ∧
      (u.parcel p).page = mk64 (argOf s b 8) (argOf s b 7) ∧
      u.isl.createCnt = (if s.isl.createCnt + 1 = 0 then 1 else s.isl.createCnt + 1) ∧
      (∀ e, (s.queue e).bound = true → (u.queue e).parcel = (if bits (argOf s b 1) 0 20 ≤ e ∧ e < bits (argOf s b 1) 0 20 + bits (argOf s b 2) 0 20 then p else (s.queue e).parcel)) ∧
      (∀ q, q ≠ p → u.parcel q = { s.parcel q with used := (u.parcel q).used }) ∧ MemoryOutside s u (mk64 (argOf s b 8) (argOf s b 7)).toNat 256 ∧
      memByte u.mem (mk64 (argOf s b 8) (argOf s b 7)).toNat = some 2) ∧
  (∀ (s : State) (b : Box) (p : Nat), Waits s b 0x43 → EndsOk cmdParcelResize s b → p = bits (argOf s b 0) 0 10 →
    ∃ u resp, exec (.parcelResize b) s = .next (endCmd u b cOk resp) ∧ (u.parcel p).slots = bits (argOf s b 1) 0 22 ∧ (u.parcel p).resv = bits (argOf s b 2) 0 8 ∧
      (bits (argOf s b 1) 0 22 < (s.parcel p).used → (u.parcel p).overQ = true ∧
        ∀ e ∈ parcelQueues s p, (s.queue e).mode = .payload → (s.queue e).poisoned = false → (u.queue e).overQ = true) ∧
      (u.parcel p).tag = (s.parcel p).tag ∧ (u.parcel p).st = (s.parcel p).st ∧ (∀ q, q ≠ p → u.parcel q = s.parcel q) ∧ u.pool = s.pool ∧ u.fb = s.fb) ∧
  (∀ (s : State) (b : Box) (p : Nat), Waits s b 0x42 → s.ecc = [] → EndsOk cmdParcelReset s b → p = bits (argOf s b 0) 0 10 →
    ∃ u resp, exec (.parcelReset b) s = .next (endCmd u b cOk resp) ∧ (u.parcel p).st = .live ∧ (u.parcel p).timeout = false ∧
      (u.parcel p).resets = satInc (s.parcel p).resets ∧ (u.parcel p).tag = (s.parcel p).tag ∧
      (∀ e ∈ parcelQueues s p, (u.queue e).state = .idle ∧ (u.queue e).count = 0) ∧
      (∀ v ∈ parcelCtxs s p, (u.ctx v).cands = [] ∧ (u.ctx v).spill = false ∧ (u.ctx v).announced = false) ∧
      (∀ x ∈ u.trains, (u.gang x.gang).parcel ≠ p) ∧ MemoryOutside s u (s.parcel p).page.toNat 256) ∧
  (∀ (s : State) (b : Box) (p : Nat), Waits s b 0x41 → EndsOk cmdParcelDestroy s b → p = bits (argOf s b 0) 0 10 → Clean s →
    ∃ u resp, exec (.parcelDestroy b) s = .next (endCmd u b cOk resp) ∧ u.parcel p = {} ∧
      (∀ e ∈ parcelQueues s p, (s.queue e).poisoned = false → u.queue e = {}) ∧ (∀ x ∈ u.ctxs, x.2.parcel ≠ p) ∧ (∀ x ∈ u.gangs, x.2.parcel ≠ p) ∧
      (∀ x ∈ u.spreads, x.2.parcel ≠ p) ∧ MemoryOutside s u (s.parcel p).page.toNat 256) ∧
  (∀ (s : State) (b : Box) (p : Nat) (cs : List Nat), Waits s b 0x42 → s.ecc = [] → EndsOk cmdParcelReset s b → p = bits (argOf s b 0) 0 10 → (∃ c ∈ cs, fenceAsks s c = true) →
    ∃ u, exec (.fenceAckTimeout b cs) s = .next (endCmd u b cFenceTimeout []) ∧ (u.parcel p).st = .fenced ∧ (u.parcel p).timeout = true ∧
      tget 0 u.hub.faultCnt 0x0E = satInc (tget 0 s.hub.faultCnt 0x0E) ∧ MemoryOutside s u (s.parcel p).page.toNat 256)

/-- R272, R355, R357, R359, R407, R445, R446, R450: BENCHMARK_WRITE writes its words, the first that changes the set sending every cell to
the default coefficient (R273), BENCHMARK_CAPTURE puts the coefficients within range in force, unless the defaults are in use; FW_STAGE
fills the slot not booted, FW_COMMIT commits it and raises the anti-rollback counter, FW_ACTIVATE takes the mailboxes offline;
DEBUG_UNLOCK adds its scope and moves the debug counter. The model's own readings here: log entries 34, 38, 46, 86. -/
def Obligations.IslandCommandsTakeEffect : Prop :=
  (∀ (s : State) (b : Box), Waits s b 0x61 → EndsOk cmdBenchmarkWrite s b → (argOf s b 0).getLsbD 31 = false →
    ∃ u resp, exec (.benchmarkWrite b) s = .next (endCmd u b cOk resp) ∧ b = .secure ∧
      (∀ j, j < bits (argOf s b 0) 16 5 → benchOwn (bits (argOf s b 0) 0 16 / 4 + j) = false →
        getW u.isl.bench (bits (argOf s b 0) 0 16 / 4 + j) = argOf s b (1 + j)) ∧
      (∀ i, benchOwn i = false → (i < bits (argOf s b 0) 0 16 / 4 ∨ bits (argOf s b 0) 0 16 / 4 + bits (argOf s b 0) 16 5 ≤ i) → getW u.isl.bench i = getW s.isl.bench i) ∧
      SameQueues s u ∧ (s.isl.benchPend = true ∨ u.isl.bench = s.isl.bench → u.cells = s.cells) ∧
      (∀ c, u.cell c = { s.cell c with coef := (u.cell c).coef, margin := (u.cell c).margin, safeCoef := (u.cell c).safeCoef, safeMargin := (u.cell c).safeMargin }) ∧
      (s.isl.benchPend = false → u.isl.benchPend = true → u.isl.defaults = true ∧ ∀ c, c < 1536 → (u.cell c).coef = defaultCoef)) ∧
  (∀ (s : State) (b : Box) (ms : List (BitVec 16)), Waits s b 0x62 → EndsOk (cmdBenchmarkCapture ms) s b →
    ∃ u resp, exec (.benchmarkCapture b ms) s = .next (endCmd u b cOk resp) ∧ b = .secure ∧
      (∀ i, i < bits (argOf s b 1) 0 11 → captureOk ((ms[i]?).getD 0) = true →
        (u.cell (bits (argOf s b 0) 0 11 + i)).coef = if s.isl.defaults then defaultCoef else (ms[i]?).getD 0) ∧
      (∀ i, i < bits (argOf s b 1) 0 11 → captureOk ((ms[i]?).getD 0) = false → (u.cell (bits (argOf s b 0) 0 11 + i)).coef = (s.cell (bits (argOf s b 0) 0 11 + i)).coef) ∧
      Logged s u 0x8A 2 (w32 (bits (argOf s b 0) 0 11)) (w32 (bits (argOf s b 1) 0 11))) ∧
  (∀ (s : State) (b : Box) (x : FwImage), Waits s b 0x80 → EndsOk (cmdFwStage (some x)) s b →
    ∃ u, exec (.fwStage b (some x)) s = .next (endCmd u b cOk [at_ 0 x.version.toNat, x.secVersion]) ∧
      fwSlot u (!s.isl.slotB) = { st := .staged, version := x.version, secVer := x.secVersion, image := some x } ∧
      fwSlot u s.isl.slotB = fwSlot s s.isl.slotB ∧ fwSigned s x = true ∧ s.isl.rollback.toNat ≤ x.secVersion.toNat ∧
      Logged s u 0x81 (at_ 0 x.version.toNat) x.secVersion 0 ∧ u = { s with isl := u.isl }) ∧
  (∀ (s : State) (b : Box), Waits s b 0x81 → ArgsAre s b [] → (fwSlot s (!s.isl.slotB)).st = .staged →
    ∃ u, exec (.fwCommit b) s = .next (endCmd u b cOk [slotNo (!s.isl.slotB)]) ∧
      fwSlot u (!s.isl.slotB) = { fwSlot s (!s.isl.slotB) with st := .committed, seq := (fwSlot s s.isl.slotB).seq + 1 } ∧
      fwSlot u s.isl.slotB = fwSlot s s.isl.slotB ∧
      u.isl.rollback.toNat = max s.isl.rollback.toNat (fwSlot s (!s.isl.slotB)).secVer.toNat ∧ u = { s with isl := u.isl }) ∧
  (∀ (s : State) (b : Box), Waits s b 0x82 → ArgsAre s b [] → (fwSlot s (!s.isl.slotB)).st = .committed →
    ∃ t, exec (.fwActivate b) s = .next t ∧ t = { s with isl := { s.isl with fw := .activating, act := some (some b, activateTarget s) } }) ∧
  (∀ (s : State) (b : Box), Waits s b 0xA0 → EndsOk cmdDebugUnlock s b →
    ∃ u, exec (.debugUnlock b) s = .next (endCmd u b cOk [(s.isl.scope ||| (argOf s b 3).extractLsb' 0 5).zeroExtend 32]) ∧
      mk64 (argOf s b 1) (argOf s b 0) = s.isl.deviceId ∧ u.isl.scope = s.isl.scope ||| (argOf s b 3).extractLsb' 0 5 ∧
      (u.isl.dbgCount = 0xFFFFFFFF ∨ u.isl.dbgCount = argOf s b 2 + 1) ∧ (b = .normal → argOf s b 3 &&& ~~~2 = 0) ∧
      Logged s u 0x89 (Config.idResult true) (argOf s b 2) (argOf s b 3) ∧ u = { s with isl := u.isl })

/-- R338 to R340, R358, R468 to R471: COUNTER_SWEEP begins a sweep and stays in progress; the cells of a unit whose copy has reached Ts latch
their counters, and after the last of them the buffer is written, nothing outside it, and the command ends; a periodic sweep comes again after
its period, or is skipped while the earlier writes are in progress, until STOP; a command list carries its entries out in order and answers how
many ended with OK, and stays in progress where an entry waits. The model's own readings here: log entries 36, 37. -/
def Obligations.SweepsAndListsRun : Prop :=
  (∀ (s : State) (b : Box) (m : List Nat) (ok : Bool), Waits s b 0x90 → EndsOk (cmdCounterSweep m ok) s b → (argOf s b 3).getLsbD 31 = false →
    (sweepOf s (some b) = false → ∃ u, exec (.counterSweep b m ok) s = .next u ∧ u = { s with isl := { s.isl with turn := some b, sweep := u.isl.sweep } } ∧
      u.isl.sweep.seq = s.isl.sweep.seq + 1 ∧ u.isl.sweep.addr = mk64 (argOf s b 1) (argOf s b 0) ∧ u.isl.sweep.bytes = (argOf s b 2).toNat ∧
      u.isl.sweep.period = bits (argOf s b 3) 0 24 ∧ u.isl.sweep.active = decide (bits (argOf s b 3) 0 24 ≠ 0) ∧
      u.isl.sweep.first = s.isl.sweep.seq + 1 ∧ u.isl.sweep.owner = some b ∧
      u.isl.sweep.run = some { seq := s.isl.sweep.seq + 1, ts := s.mer.now + 1000, units := List.range 13, last := s.mer.now + 1000, late := 0, grants := (List.range 576).filter (granted s m), memOk := ok, box := some b }) ∧
    (sweepOf s (some b) = true → exec (.counterSweep b m ok) s = .next s)) ∧
  (∀ (s : State) (r : SweepRun), s.isl.sweep.run = some r → s.pwr.hubl = .on →
    (∀ u ∈ r.units, (u = 12 ∨ populated s u = true ∧ (s.op u).logic = .on) → r.ts.toNat + r.late ≤ (copyOf s u).toNat) →
    (sweepTurn s).isl.sweep.run = none ∧ SameQueues s (sweepTurn s) ∧
    (∀ c, (s.cell c).role ≠ 0 → unitOf c ∈ r.units → cellOn s c = true → ((sweepTurn s).cell c).ctrLatch = (List.range 4).map fun n => tget 0 (s.cell c).ctrs n) ∧
    (r.memOk = true → sweepLeast ≤ s.isl.sweep.bytes → MemoryOutside s (sweepTurn s) s.isl.sweep.addr.toNat s.isl.sweep.bytes ∧
      ∀ i, i < 4 → memByte (sweepTurn s).mem (s.isl.sweep.addr.toNat + i) = (wordBytes 0x53574543)[i]?) ∧
    (∀ b, r.box = some b → (s.mbx b).busy = true → (s.mbx b).cut = false → ((sweepTurn s).mbx b).busy = false ∧ ((sweepTurn s).mbx b).done = true ∧
      ((sweepTurn s).mbx b).code = BitVec.ofNat 8 (if r.memOk then cOk else cMemError))) ∧
  (∀ (s : State) (r : SweepRun) (u : Nat), s.isl.sweep.run = some r → s.pwr.hubl = .on → u ∈ r.units → populated s u = true → (s.op u).logic = .on →
    u < 12 → (s.op u).copy.toNat < r.ts.toNat + r.late → s.mer.now.toNat < r.ts.toNat + 2000 → ∃ x, (sweepTurn s).isl.sweep.run = some x ∧ u ∈ x.units ∧ (sweepTurn s).mem = s.mem) ∧
  (∀ (s : State) (b : Box), Waits s b 0x90 → ArgsAre s b [0, 0, 0, 0x80000000] →
    exec (.counterSweepStop b) s = .next (endCmd { s with isl := { s.isl with sweep := { s.isl.sweep with active := false } } } b cOk [0])) ∧
  (∀ (s : State) (n : Nat) (m : List Nat) (ok : Bool), s.isl.sweep.active = true → s.pwr.hubl = .on → s.pwr.rst = false → s.isl.sweep.due.toNat ≤ s.mer.now.toNat →
    (∀ busy, (busy = true ∨ s.isl.sweep.run ≠ none) → exec (.counterSweepDue busy n m ok) s = .next { s with isl := { s.isl with sweep := { s.isl.sweep with
        seq := s.isl.sweep.seq + 1, due := s.isl.sweep.due + BitVec.ofNat 64 (1000 * s.isl.sweep.period), skipped := satInc s.isl.sweep.skipped } } }) ∧
    (s.isl.sweep.run = none → exec (.counterSweepDue false n m ok) s = .next { s with isl := { s.isl with sweep := { s.isl.sweep with
        seq := s.isl.sweep.seq + 1, due := s.isl.sweep.due + BitVec.ofNat 64 (1000 * s.isl.sweep.period)
        run := some { seq := s.isl.sweep.seq + 1, ts := s.mer.now + 1000, units := List.range 13, last := s.mer.now + 1000, late := min n 2000, grants := (List.range 576).filter (granted s m), memOk := ok, box := none } } } })) ∧
  (∀ (s : State) (b : Box) (x : ListEntry), boxTurn s b = true → (s.mbx b).list = true → (s.mbx b).op = 0 → s.parity = [] → s.isl.listRun = none →
    bits (argOf s b 0) 0 6 = 0 → (argOf s b 2).toNat = entryBytes x → (∀ i, 3 ≤ i → i < 32 → argOf s b i = 0) → entryBad x (entryBytes x) = false →
    ((runOpcode (entryCall b x) s).code = cOk → entryWaits b x (runOpcode (entryCall b x) s).st = true → exec (.commandList b [some x]) s =
      .next ((runOpcode (entryCall b x) s).st.modIsl fun y => { y with turn := some b, listRun := some (0, entryBytes x, x) })) ∧
    ((runOpcode (entryCall b x) s).code = cOk → entryWaits b x (runOpcode (entryCall b x) s).st = false → exec (.commandList b [some x]) s =
      .next (endCmd (runOpcode (entryCall b x) s).st b cOk (1 :: 0xFFFFFFFF :: (runOpcode (entryCall b x) s).resp.take 26))) ∧
    ((runOpcode (entryCall b x) s).code ≠ cOk → exec (.commandList b [some x]) s =
      .next (endCmd (runOpcode (entryCall b x) s).st b (runOpcode (entryCall b x) s).code (0 :: 0 :: (runOpcode (entryCall b x) s).resp.take 26))))

/-- R341 to R343, R439, R443, R444, R446, R447, R486: the boot ROM starts the bootable slot of the higher COMMIT_SEQ, or Ronuo stays
halted; a watchdog expiry cuts the running command and restarts Ronuo, a slot that does not start in time, or expires too often, is
START_FAILED; at the end of the offline period FW_ACTIVATE ends with the new version and a command cut short with ABORTED; a recovery
write without FINISH stores its chunk. The model's own readings here: log entries 34, 45. -/
def Obligations.FirmwareStartsAndRestarts : Prop :=
  (∀ s : State, s.isl.fw = .restarting → s.isl.booting = some 0 → ¬ (s.pwr.cold = true ∧ s.pwr.hubl = .on) →
    (∀ x, bootSlot s = some x → ∃ t, exec .ronuoBoot s = .next t ∧ t.isl.fw = .running ∧ t.isl.slotB = x ∧ t.isl.fwVer = (fwSlot s x).version ∧ t.isl.booting = none ∧
      t.isl.rollback.toNat = max s.isl.rollback.toNat (fwSlot s x).secVer.toNat) ∧
    (bootSlot s = none → ∃ t, exec .ronuoBoot s = .next t ∧ t.isl.fw = .halted ∧ t.isl.booting = none ∧
      ∀ b, (s.mbx b).busy = true → (t.mbx b).busy = false ∧ (t.mbx b).code = 0x0D)) ∧
  (∀ (s : State) (pc : Word), s.isl.fw = .running → s.isl.ronuoHalt = false → s.pwr.mode ≠ .sleep → s.pwr.mode ≠ .off →
    ∃ t, exec (.mgmtWatchdogExpiry pc) s = .next t ∧ t.isl.fw = .restarting ∧ t.isl.booting = some 1 ∧ t.pwr.cause = s.pwr.cause ||| 8 ∧
      (∀ b, boxTurn s b = true → (t.mbx b).cut = true) ∧ (s.pwr.hubl = .on → s.pwr.rst = false → tget 0 t.hub.faultCnt 0x0F = satInc (tget 0 s.hub.faultCnt 0x0F)) ∧
      (3 ≤ (s.isl.expiries.filter fun x => decide ((meridian s - x).toNat < 10000000000)).length → (fwSlot t s.isl.slotB).st = .startFailed) ∧
      SameQueues s t ∧ t.cells = s.cells ∧ t.outs = s.outs) ∧
  (∀ (s : State) (a : Option Box) (x : Bool), s.isl.fw = .activating → s.isl.act = some (a, x) →
    (∃ t, exec .activationStartTimeout s = .next t ∧ (fwSlot t x).st = .startFailed ∧ t.isl.fw = .restarting ∧ t.isl.booting = some 1 ∧ SameQueues s t ∧ t.cells = s.cells) ∧
    (s.isl.ronuoHalt = false → bootable s x = true → ¬ (s.pwr.cold = true ∧ s.pwr.hubl = .on) → ∃ t, exec .mailboxOfflineEnd s = .next t ∧ t.isl.fw = .running ∧ t.isl.slotB = x ∧ t.isl.act = none ∧
      (∀ b, a = some b → (s.mbx b).busy = true → (t.mbx b).busy = false ∧ (t.mbx b).done = true ∧ (t.mbx b).code = 0 ∧ getW (t.mbx b).resp 0 = at_ 0 (fwSlot s x).version.toNat))) ∧
  (∀ s : State, s.isl.fw = .restarting → s.isl.booting = some 1 → bootable s s.isl.slotB = true → s.isl.act = none → s.isl.ronuoHalt = false →
    ¬ (s.pwr.cold = true ∧ s.pwr.hubl = .on) → ∃ t, exec .mailboxOfflineEnd s = .next t ∧ t.isl.fw = .running ∧ t.isl.slotB = s.isl.slotB ∧
      ∀ b, (s.mbx b).cut = true → (s.mbx b).busy = true → (t.mbx b).busy = false ∧ (t.mbx b).code = 0x0C) ∧
  (∀ (s : State) (off n : Nat) (d : List Word), s.isl.fw = .halted → s.pwr.mode ≠ .off → s.pwr.mode ≠ .sleep → off < 2 ^ 32 → 0 < n → n ≤ 48 → off + n ≤ 1048576 →
    (s.pwr.wakeEn.getLsbD 0 = false ∨ s.pwr.rst = true ∨ (s.pwr.hubl = .on ∧ s.pwr.closing = false)) →
    ∃ t, exec (.recoveryWrite (w32 off :: 0 :: w32 n :: d)) s = .next t ∧ t.out.mctp = [0] ∧ (fwSlot t (recoverySlot s)).st = .empty ∧
      (∀ i, i < n → tget 0 (fwSlot t (recoverySlot s)).chunks (off + i) = ((((List.range 12).flatMap fun j => wordBytes ((d[j]?).getD 0))[i]?).getD 0)) ∧
      (∀ i, (i < off ∨ off + n ≤ i) → tget 0 (fwSlot t (recoverySlot s)).chunks i = tget 0 (fwSlot s (recoverySlot s)).chunks i) ∧
      fwSlot t (!recoverySlot s) = fwSlot s (!recoverySlot s) ∧ t = { s with isl := t.isl, out := t.out }) ∧
  (∀ (s : State) (args : List Word), s.pwr.mode = .keep → s.pwr.toSleep = false → s.pwr.hubl ≠ .on → s.pwr.rst = false → s.pwr.bring = 0 → s.isl.fw = .running →
    s.pwr.wakeEn.getLsbD 0 = true → ∃ t, exec (.recoveryWrite args) s = .next t ∧ t.pwr.mode = .wakeKeep ∧ t.pwr.hubl = .ramping ∧ t.pwr.wakeSrc = 2 ∧
      (0, Dom.hubl) ∈ t.pwr.stakes ∧ t.isl.a = s.isl.a ∧ t.isl.b = s.isl.b)

/-- R354, R413 to R415, R417, R420, R437: STAKE_TAKE holds a stake on every domain that it names and begins the bring-up of a die that is
off, staying in progress while a named domain comes up; STAKE_RELEASE gives the stakes up, and a die that is not wanted any more closes;
Wairo's own stakes go when they are due. The model's own readings here: log entries 39, 46, 84. -/
def Obligations.StakesMoveTheDomains : Prop :=
  (∀ (s : State) (b : Box), Waits s b 0x50 → EndsOk cmdStakeTake s b →
    ∃ u resp, ((stakeWaits u (callOf s b) = false ∧ exec (.stakeTake b) s = .next (endCmd u b cOk resp)) ∨
        (stakeWaits u (callOf s b) = true ∧ exec (.stakeTake b) s = .next { u with isl := { u.isl with turn := some b } })) ∧
      (∀ d ∈ stakeDoms (callOf s b), ((argOf s b 0).toNat, d) ∈ u.pwr.stakes) ∧ (∀ x ∈ s.pwr.stakes, x.1 ≠ 0 → x ∈ u.pwr.stakes) ∧
      (∀ k, Dom.outL k ∈ stakeDoms (callOf s b) → (s.op k).noSupply = false → (s.op k).logic = .off → (s.op k).mem ≠ .failed → (u.op k).logic = .ramping ∧ (u.op k).mem = .ramping ∧ (u.op k).bring = 1) ∧
      (∀ k, Dom.outL k ∈ stakeDoms (callOf s b) → (s.op k).noSupply = false → (s.op k).logic = .on → (u.op k).closing = false)) ∧
  (∀ (s : State) (b : Box), Waits s b 0x51 → EndsOk cmdStakeRelease s b →
    ∃ u, exec (.stakeRelease b) s = .next (endCmd u b cOk []) ∧
      (∀ x, x ∈ u.pwr.stakes ↔ x ∈ s.pwr.stakes ∧ ¬ (x.1 = (argOf s b 0).toNat ∧ x.2 ∈ stakeDoms (callOf s b))) ∧
      (∀ k, populated s k = true → (s.op k).noSupply = false → (s.op k).logic = .on → (∀ x ∈ u.pwr.stakes, x.2 ≠ .outL k) → (u.op k).closing = true) ∧
      (∀ k, (u.op k).logic = (s.op k).logic ∨ (s.op k).logic = .off ∨ (s.op k).logic = .failed)) ∧
  (∀ s : State, s.pwr.coldStake = true → s.pwr.coldDue = true → s.pwr.rst = false → ∃ t, exec .coldStakeRelease s = .next t ∧ t.pwr.coldStake = false ∧ t.pwr.coldDue = false ∧
    (∀ x, x ∈ t.pwr.stakes ↔ x ∈ s.pwr.stakes ∧ (x.1 ≠ 0 ∨ (s.pwr.wakeStake = true ∧ x.2 = .hubl)))) ∧
  (∀ s : State, s.pwr.wakeStake = true → s.pwr.mode = .run → s.pwr.rst = false → ∃ t, exec .wakeStakeRelease s = .next t ∧ t.pwr.wakeStake = false ∧
    (∀ x, x ∈ t.pwr.stakes ↔ x ∈ s.pwr.stakes ∧ (s.pwr.coldStake = true ∨ x ≠ (0, .hubl))))

/-- R158, R381, R419, R435, R460, R477: the oscillator falls back to its backup and returns when it is ready; a late PD_GOOD is logged;
the pool audit returns the slots that no queue reaches; a status block is written whole, or its error is shown; an aggregation interval
ends; the oldest report is sent. The model's own readings here: log entries 6, 82. -/
def Obligations.IslandHousekeepingTakesEffect : Prop :=
  (∀ s : State, s.pwr.backup = false → (s.pwr.bring = 6 ∨ s.isl.booting = some 0) → ∃ t, exec .rcOscTimeout s = .next t ∧ t.pwr.backup = true ∧
    Logged s t 0x0B 0 12 0 ∧ SameQueues s t ∧ t.cells = s.cells ∧ t.outs = s.outs ∧ t.mer = s.mer) ∧
  (∀ s : State, s.pwr.backup = true → s.pwr.mode ≠ .sleep → exec (.rcOscRetry true) s = .next { s with pwr := { s.pwr with backup := false } }) ∧
  (∀ (s : State) (d : Dom), domSt s d = .off → ∃ t, exec (.pdGoodStillAsserted d) s = .next t ∧
    Logged s t (Config.logCode (Config.lateGood d).1) (Config.lateGood d).2.1 (Config.lateGood d).2.2.1 (Config.lateGood d).2.2.2 ∧ t = { s with isl := t.isl }) ∧
  (∀ (s : State) (p : Nat) (rest : List Nat), s.isl.auditFor = p :: rest → Clean s → ∃ t n, exec .poolAuditDone s = .next t ∧ t.isl.auditFor = rest ∧
    (∀ i, (s.slot i).used = true → (∀ q ∈ s.queues, i ∉ queueSlots s q.2) → t.slot i = {}) ∧
    (∀ i, (∃ q ∈ s.queues, i ∈ queueSlots s q.2) → t.slot i = s.slot i) ∧ Logged s t 0x87 (w32 p) n 0 ∧ t.fb = s.fb ∧ t.stns = s.stns ∧ t.cells = s.cells) ∧
  (∀ (s : State) (p : Nat), p ∈ s.isl.easement → s.pwr.hubl = .on → s.ecc = [] →
    (∃ t, exec (.easementStatusWrite p true) s = .next t ∧ (t.parcel p).seq = (s.parcel p).seq + 2 ∧ (t.parcel p).retry = false ∧ p ∉ t.isl.easement ∧
      MemoryOutside s t (s.parcel p).page.toNat 256 ∧ (∀ i, i < 4 → memByte t.mem ((s.parcel p).page.toNat + i) = (wordBytes ((s.parcel p).seq + 2))[i]?) ∧
      SameQueues s t ∧ ∀ q, q ≠ p → t.parcel q = s.parcel q) ∧
    (∃ t, exec (.easementStatusWrite p false) s = .next t ∧ (t.parcel p).retry = true ∧ (t.parcel p).seq = (s.parcel p).seq + 2 ∧ t.mem = s.mem ∧ SameQueues s t)) ∧
  (∀ (s : State) (a : Agg), s.isl.aggs.find? (fun x => decide (x.code = a.code) && decide (x.key = a.key)) = some a → aggSpan ≤ (meridian s - a.start).toNat →
    (∀ e n, a.more = some (e, n) → ∃ t, exec (.logAggregateFlush a.code a.key) s = .next t ∧ Logged s t e.code.toNat e.arg0 e.arg1 (BitVec.ofNat 32 n) ∧ t = { s with isl := t.isl }) ∧
    (a.more = none → ∃ t, exec (.logAggregateFlush a.code a.key) s = .next t ∧ (∀ x ∈ t.isl.aggs, ¬ (x.code = a.code ∧ x.key = a.key)) ∧
      t = { s with isl := { s.isl with aggs := t.isl.aggs } })) ∧
  (∀ (s : State) (e : LogEntry) (rest : List LogEntry), s.isl.reports = e :: rest → wairoRuns s = true → s.pwr.mode ≠ .sleep → ∃ t, exec .sidebandReport s = .next t ∧
    t.isl.reports = rest ∧ t.isl.repDrop = 0 ∧ t.isl.sent.getLast? = some (hideArgs e true) ∧ (s.isl.repDrop = 0 → t.isl.sent = [hideArgs e true]) ∧
    t = { s with isl := { s.isl with reports := t.isl.reports, repDrop := t.isl.repDrop, sent := t.isl.sent }, out := { s.out with vid := s.isl.straps.vid, ibi := true } })

/-- R310, R404, R439, R440, R461, R488, R497, R501, R503: a pulse of PKG_RST_N below 200 ns does nothing, one of 1 us is taken; PKG_RST_N
clears cells, stores and records and keeps the log, the MRAM and the meridian; its release clears the stakes of every client and starts
the cold start; AUXIN applied starts the island, and its loss, or a surge from 54 to 60 V, leaves the device Off with what stands in MRAM;
above 60 V the model stops. The model's own readings here: log entries 48, 50, 54, 79. -/
def Obligations.ResetAndSupplyTakeEffect : Prop :=
  (∀ (s : State) (ns : Nat), (ns < 200 → exec (.pkgRstAssert ns) s = .next s) ∧
    (200 ≤ ns → ns < 1000 → exec (.pkgRstAssert ns) s = .next { s with free := s.free + 1 } ∨ exec (.pkgRstAssert ns) s = exec (.pkgRstAssert 1000) { s with free := s.free + 1 })) ∧
  (∀ (s : State) (ns : Nat), 1000 ≤ ns → (s.pwr.rst = false ∨ s.pwr.cause.getLsbD 1 = false) → s.pwr.mode ≠ .off → 0x20200 ∉ s.parity → ∃ t, exec (.pkgRstAssert ns) s = .next t ∧ t.pwr.rst = true ∧ t.pwr.cause = s.pwr.cause ||| 2 ∧
    t.cells = [] ∧ t.net = [] ∧ t.parcels = [] ∧ t.pool = [] ∧ t.fb = {} ∧ (∀ e, isInternal e = false → t.queue e = {}) ∧ t.pwr.chipRst = false ∧ t.pwr.swStage = false ∧
    t.pwr.swLeft = s.pwr.swPeriod ∧ t.mer.now = s.mer.now ∧ t.isl.bench = s.isl.bench ∧ t.isl.rollback = s.isl.rollback ∧ t.isl.createCnt = s.isl.createCnt ∧ Logged s t 0x8C 0 0 0 ∧
    t.pwr.stakes = s.pwr.stakes ∧ t.hub.populated = s.hub.populated) ∧
  (∀ (s : State) (x : Bist), s.pwr.rst = true → 0x20200 ∉ s.parity →
    (wairoRuns s = false → ∃ t, exec (.pkgRstDeassert x) s = .next t ∧ t.pwr.rst = false ∧ t.pwr.stakes = [] ∧ t = { s with pwr := t.pwr }) ∧
    (wairoRuns s = true → ∃ t, exec (.pkgRstDeassert x) s = .next t ∧ t.pwr.rst = false ∧ (0, .hubl) ∈ t.pwr.stakes ∧ (∀ x ∈ t.pwr.stakes, x.1 = 0) ∧ t.pwr.coldStake = true ∧
      (s.pwr.hubl ≠ .on → t.pwr.hubl = .ramping ∧ t.pwr.hubm = .ramping ∧ t.pwr.bring = 1) ∧ (s.pwr.hubl = .on → t.pwr.hubl = .on ∧ t.pwr.cold = false))) ∧
  (∀ (s : State) (x : Straps), s.pwr.mode = .off → ∃ t, exec (.auxinApplied x) s = .next t ∧ t.pwr = { s.pwr with mode := .run, cause := 1, rst := true } ∧
    t.isl = { s.isl with straps := x, fw := .restarting, booting := some 0, createCnt := 1, slotB := false } ∧ t = { s with pwr := t.pwr, isl := t.isl, outs := t.outs } ∧
    ∀ k, t.op k = { s.op k with isoGnt := (t.op k).isoGnt }) ∧
  (∀ (s : State) (i : Instr), (i = .auxinLost ∨ ∃ mv, i = .auxinSurgeLimit mv ∧ 54000 < mv ∧ mv ≤ 60000) → ∃ t, exec i s = .next t ∧ t.pwr.mode = .off ∧ t.pwr.hubl = .off ∧ t.pwr.hubm = .off ∧
    t.cells = [] ∧ t.net = [] ∧ t.isl.bench = s.isl.bench ∧ t.isl.log = tornLog s.isl ∧ t.isl.logQ = [] ∧ t.isl.logNext = s.isl.logNext ∧ t.isl.rollback = s.isl.rollback ∧ t.isl.store0 = s.isl.store0 ∧
    t.isl.store1 = s.isl.store1 ∧ t.isl.dbgCount = s.isl.dbgCount ∧ t.mem = s.mem ∧
    (staging s .secure = false → staging s .normal = false → t.isl.a.image = s.isl.a.image ∧ t.isl.b.image = s.isl.b.image) ∧
    ((staging s .secure = true ∨ staging s .normal = true) → (fwSlot t (!s.isl.slotB)).st = .empty)) ∧
  (∀ (s : State) (mv : Nat), (mv ≤ 54000 → exec (.auxinSurgeLimit mv) s = .next s) ∧ (60000 < mv → exec (.auxinSurgeLimit mv) s = .fault .absoluteMaximum))

/-- R63, R271, R312, R417, R434, R435, R482: each ready signal takes the bring-up of its unit a step on, the last one makes its domains
ON; a step that misses its timeout is tried again twice and then fails the unit, which loses a wanted outpost, but a PLL that does not lock lets the bring-up go on in
holdover. The model's own readings here: log entry 40. -/
def Obligations.BringUpGoesByReadySignals : Prop :=
  (∀ (s : State) (k : Nat) (x : Bist), k < 12 → s.pwr.rst = false → populated s k = true →
    (∀ n, (s.op k).bring = n → 1 ≤ n → n ≤ 3 → ∃ t, exec (.pdGood k x) s = .next t ∧ (t.op k).bring = n + 1 ∧ (n = 1 → (t.op k).trav = .on) ∧ (n = 2 → (t.op k).holdover = false) ∧
      (∀ j, j ≠ k → t.op j = s.op j) ∧ t = { s with outs := t.outs }) ∧
    ((s.op k).bring = 0 → (s.op k).noSupply = true → wantL s k = true → ∃ t, exec (.pdGood k x) s = .next t ∧ (t.op k).noSupply = false ∧ (t.op k).logic = .ramping ∧
      (t.op k).mem = .ramping ∧ (t.op k).trav = .on ∧ (t.op k).bring = 2 ∧ (∀ j, j ≠ k → t.op j = s.op j) ∧ t = { s with outs := t.outs }) ∧
    ((s.op k).bring = 4 → ∃ t, exec (.pdGood k x) s = .next t ∧ (t.op k).logic = .on ∧ (t.op k).mem = .on ∧ (t.op k).iso = false ∧ (t.op k).bring = 0 ∧
      ((s.op k).fresh = true → ∀ c ∈ unitCells k, tget 0 t.hub.bistPhys c = if c ∈ bistFailing s x then 2 else 1))) ∧
  (∀ (s : State) (x : Bist), s.pwr.rst = false →
    (1 ≤ s.pwr.bring → s.pwr.bring ≤ 3 → ∃ t, exec (.pdGood 12 x) s = .next t ∧ t.pwr = { s.pwr with bring := s.pwr.bring + 1 } ∧ t = { s with pwr := t.pwr, mer := t.mer } ∧
      (s.pwr.bring = 2 → t.mer.locked = true)) ∧
    (s.pwr.bring = 6 → exec (.pdGood 12 x) s = .next { s with pwr := { s.pwr with hubl := .ramping, hubm := .ramping, bring := 2 } }) ∧
    (s.pwr.bring = 4 → s.pwr.mode = .run → s.pwr.toSleep = false → ∃ t, exec (.pdGood 12 x) s = .next t ∧ t.pwr.hubl = .on ∧ t.pwr.hubm = .on ∧ t.pwr.bring = 0 ∧ t.pwr.cold = false ∧ t.hub.populated = x.present.getD s.isl.straps.present) ∧
    (s.pwr.bring = 4 → (s.pwr.mode = .wakeKeep ∨ s.pwr.mode = .wakeSleep ∨ s.pwr.toSleep = true) → ∃ t, exec (.pdGood 12 x) s = .next t ∧ t.pwr.bring = 5 ∧
      t.hub.populated = x.present.getD s.isl.straps.present) ∧
    (∀ k, k < 12 → (s.op k).trav = .ramping → (s.op k).bring = 0 → exec (.pdGood (16 + k) x) s = .next (s.modOp k linkPower))) ∧
  (∀ (s : State) (k : Nat), k < 12 → s.pwr.rst = false → (s.op k).bring ≠ 0 →
    ((s.op k).bring ≠ 2 → (s.op k).tries < 2 → exec (.powerStepTimeout k) s = .next (s.modOp k fun o => { o with bring := 1, tries := o.tries + 1 })) ∧
    ((s.op k).bring = 2 → ∃ t, exec (.powerStepTimeout k) s = .next t ∧ (t.op k).bring = 3 ∧ (t.op k).holdover = true ∧ (t.op k).align = .unaligned ∧ (∀ j, j ≠ k → t.op j = s.op j) ∧ SameQueues s t) ∧
    ((s.op k).bring ≠ 2 → 2 ≤ (s.op k).tries → ∃ t, exec (.powerStepTimeout k) s = .next t ∧ (t.op k).iso = true ∧ (t.op k).bring = 0 ∧
      (wantL s k = true → (t.op k).logic = .failed ∧ (t.op k).mem = .failed) ∧
      (wantM s k = true → populated s k = true → (t.op k).lost = true ∧ (t.op k).mem = .failed) ∧
      (wantL s k = false → populated s k = true → (s.op k).noSupply = false → (t.op k).logic = .off) ∧
      (wantM s k = false → populated s k = true → (s.op k).noSupply = false → (t.op k).mem = .off ∧ (t.op k).lost = (s.op k).lost))) ∧
  (∀ s : State, s.pwr.rst = false → 1 ≤ s.pwr.bring → s.pwr.bring ≤ 4 →
    (s.pwr.bring = 2 → ∃ t, exec (.powerStepTimeout 12) s = .next t ∧ t.pwr.bring = 3 ∧ t.mer = { s.mer with degraded := true, degSeen := true, locked := false } ∧ SameQueues s t) ∧
    (s.pwr.bring ≠ 2 → s.pwr.tries < 2 → exec (.powerStepTimeout 12) s = .next { s with pwr := { s.pwr with bring := 1, tries := s.pwr.tries + 1 } }) ∧
    (s.pwr.bring ≠ 2 → 2 ≤ s.pwr.tries → ∃ t, exec (.powerStepTimeout 12) s = .next t ∧ t.pwr.hubl = .failed ∧ t.pwr.bring = 0 ∧ t.pwr.hubm = (if s.pwr.mode = .wakeKeep ∨ s.pwr.mode = .keep then .retained else .failed) ∧
      SameQueues s t))

/-- R419, R420, R422, R423, R427, R428, R437: when every cell of a closing die grants, the die goes off, its memory retained where it is
wanted; when the hub's do, it enters Keep and latches E, or writes the save book, header and body, and enters Sleep, unless its memory is
wanted again; a refusal keeps the unit closing, and a retry asks again. The model's own readings here: log entries 44, 84. -/
def Obligations.QuiescedUnitsGoDown : Prop :=
  (∀ (s : State) (k : Nat), k < 12 → s.pwr.rst = false → (s.op k).closing = true → dieQuiet s k = true → wantL s k = false →
    ∃ t, exec (.quiesceGrant k) s = .next t ∧ (t.op k).logic = .off ∧ (t.op k).iso = true ∧ (t.op k).closing = false ∧
      (t.op k).mem = (if staked s (.outM k) then .retained else .off) ∧ (∀ c, unitOf c = k → (t.cell c).en = false) ∧ (∀ g ∈ t.gates, g.1 ≠ k) ∧ t.pwr.stakes = s.pwr.stakes) ∧
  (∀ s : State, s.pwr.rst = false → s.pwr.closing = true → s.pwr.toSleep = false → s.pwr.mode = .run → hubQuiet s = true →
    (wantHubm s = true → ∃ t, exec (.quiesceGrant 12) s = .next t ∧ t.pwr.mode = .keep ∧ t.pwr.hubl = .off ∧ t.pwr.hubm = .retained ∧ t.pwr.entryE = s.mer.now ∧ t.pwr.slowNs = 0 ∧
      t.hub.en = false ∧ t.hub.enKept = s.hub.en ∧ (∀ c, unitOf c = 12 → (t.cell c).en = false) ∧ SameQueues s t) ∧
    (wantHubm s = false → exec (.quiesceGrant 12) s = .next { s with pwr := { s.pwr with toSleep := true } })) ∧
  (∀ (s : State) (c : Nat), c < 1536 → s.pwr.rst = false → unitOf c ≠ 12 → (s.op (unitOf c)).closing = true → dieQuiet s (unitOf c) = false →
    ∃ t, exec (.quiesceRefused c) s = .next t ∧ t.op (unitOf c) = { s.op (unitOf c) with stays := true } ∧ CountersOnly s t ∧ t = { s with outs := t.outs, cells := t.cells }) ∧
  (∀ (s : State) (k : Nat), k < 12 → s.pwr.rst = false → s.pwr.hubl = .on → ∃ t, exec (.quiesceRetry k) s = .next t ∧ (t.op k).stays = false ∧
    (populated s k = true → (s.op k).noSupply = false → (s.op k).logic = .on → (t.op k).closing = !wantL s k) ∧ t.mem = s.mem ∧ t.trains = s.trains ∧ t.pwr = s.pwr) ∧
  (∀ (s : State) (bs : List (BitVec 8)), bookTime s = true → s.ecc = [] →
    (wantHubm s = false → bs.length ≤ 33554368 → ∃ t, exec (.saveBookWritten bs true) s = .next t ∧ t.pwr.mode = .sleep ∧ t.pwr.hubl = .off ∧ t.pwr.hubm = .off ∧
      t.pwr.saveSeq = s.pwr.saveSeq + 1 ∧ t.pwr.bodyCrc = crc32c bs ∧ t.pwr.entryE = meridian s ∧ t.pwr.toSleep = false ∧ MemoryOutside s t (bookBase s) (64 + bs.length) ∧
      (∀ i, i < 4 → memByte t.mem (bookBase s + i) = (wordBytes 0x4B4F4F42)[i]?) ∧ (∀ i, i < bs.length → memByte t.mem (bookBase s + 64 + i) = bs[i]?) ∧ SameQueues s t) ∧
    (wantHubm s = true → ∀ ok, ∃ t, exec (.saveBookWritten bs ok) s = .next t ∧ t.pwr.mode = .keep ∧ t.pwr.hubm = .retained ∧ t.pwr.toSleep = false ∧ t.mem = s.mem ∧ SameQueues s t) ∧
    (wantHubm s = false → ∃ t, exec (.saveBookWritten bs false) s = .next t ∧ t.pwr.mode = .keep ∧ t.pwr.hubm = .retained ∧ t.pwr.toSleep = false ∧ t.mem = s.mem ∧ SameQueues s t))

/-- R421, R422, R425, R430, R432, R433, R436, R474: ISO_GNT answers ISO_REQ while the die is off; an enabled source wakes the hub from
Keep and Sleep and is recorded, or ends its closing; at the end of a wake the hub runs with the meridian restored as an estimate, what was
held is served, and its wake is reported; a save book that does not answer to what the island knows is lost (R431); a downward chord goes out on an
idle link for a die that holds a queue. The model's own readings here: log
entries 42, 44. -/
def Obligations.WakesRestoreTheHub : Prop :=
  (∀ (s : State) (k : Nat) (level : Bool), k < 12 → ∃ t, exec (.isoReq k level) s = .next t ∧ t = { s with outs := t.outs } ∧ (∀ j, j ≠ k → t.op j = s.op j) ∧
    t.op k = { s.op k with
      isoReq := level, isoGnt := level && !(s.op k).noSupply && decide ((s.op k).logic = .off) && decide ((s.op k).mem = .off) && decide ((s.op k).trav = .off) }) ∧
  (∀ (s : State) (w : WakeSrc) (i : Instr), (i = .wakeSource w ∨ ∃ k, w = .chord k ∧ i = .wakeChord k true ∧ linkIdle s k = true) → srcOn s w = true → s.pwr.rst = false → s.pwr.hubl ≠ .on →
    (s.pwr.mode = .keep → s.pwr.toSleep = true → exec i s = .next { s with pwr := { s.pwr with mode := .wakeKeep, toSleep := false } }) ∧
    (s.pwr.toSleep = false → s.pwr.bring = 0 →
    (s.pwr.mode = .keep ∨ s.pwr.mode = .sleep) → ∃ t, exec i s = .next t ∧ t.pwr.mode = (if s.pwr.mode = .keep then .wakeKeep else .wakeSleep) ∧
      (s.pwr.mode = .keep → t.pwr.hubl = .ramping ∧ t.pwr.hubm = .ramping ∧ t.pwr.bring = 1) ∧
      (s.pwr.mode = .sleep → t.pwr.hubl = s.pwr.hubl ∧ t.pwr.hubm = s.pwr.hubm ∧ t.pwr.bring = 6) ∧ t.pwr.wakeSrc = BitVec.ofNat 4 (srcCode w) ∧ t.pwr.wakeDet = BitVec.ofNat 6 (srcDetail w) ∧ t.pwr.wakeFrom = (if s.pwr.mode = .keep then 2 else 3) ∧ t.pwr.wakeNew = true ∧
      (0, .hubl) ∈ t.pwr.stakes ∧ t = { s with pwr := t.pwr })) ∧
  (∀ (s : State) (k : Nat) (up : Bool), (up = false ∨ linkIdle s k = false) → exec (.wakeChord k up) s = .next s) ∧
  (∀ (s : State) (bk : Option (List (BitVec 8))), s.pwr.bring = 5 → s.pwr.toSleep = false →
    (s.pwr.mode = .wakeKeep ∨ (s.pwr.mode = .wakeSleep ∧ ∃ bs, bk = some bs ∧ bookOk s bs = true)) → s.pwr.rst = false → s.pwr.closing = false →
    ∃ t k, exec (.wakeComplete bk) s = .next t ∧ t.pwr.mode = .run ∧ t.pwr.hubl = .on ∧ t.pwr.hubm = .on ∧ t.pwr.bring = 0 ∧ t.pwr.heldAcc = [] ∧ t.pwr.heldDb = [] ∧
      t.mer.now = s.pwr.entryE + BitVec.ofNat 64 (s.pwr.slowNs / 1000 * 1000) ∧ t.mer.estim = true ∧ t.pwr.wakeMer = t.mer.now ∧ Sent t (.event k) ∧ k.evid = 0xFFFD8) ∧
  (∀ (s : State) (bk : Option (List (BitVec 8))), s.pwr.bring = 5 → s.pwr.toSleep = false → s.pwr.mode = .wakeSleep → s.pwr.rst = false →
    (∀ bs, bk = some bs → bookOk s bs = false) → ∃ t k, exec (.wakeComplete bk) s = .next t ∧ t.pwr.mode = .run ∧ t.pwr.hubl = .on ∧ t.pwr.cold = false ∧
    (∀ e, isInternal e = false → (t.queue e).bound = false) ∧ Sent t (.event k) ∧ k.evid = 0xFFFD8) ∧
  (∀ (s : State) (k : Nat), s.pwr.hubl = .on → populated s k = true → (s.op k).logic = .off → (s.op k).noSupply = false → (s.op k).lost = false →
    linkIdle s k = true → (∃ q ∈ s.queues, q.2.heldFor = some k) →
    exec (.napWakeChordTimer k) s = .next (s.modOp k fun o => { o with chords := o.chords + 1 }))

/-- R397 to R405: a die in secure use that is cut without a grant is clamped, lost and marked SEC_CUT, and one not in secure use is lost
alone; a cut of a hub domain in secure use asserts CHIP_RESET_REQ; the secure watchdog's first expiry posts its occurrence and starts the
second stage, whose expiry asserts CHIP_RESET_REQ, which stays until it is answered. The model's own readings here: log entries 42, 43,
85. -/
def Obligations.CutsAndTheWatchdogProtect : Prop :=
  (∀ (s : State) (k : Nat), populated s k = true → (s.op k).isoGnt = false → s.pwr.rst = false → diePowered s k = true →
    (∀ (d : Dom) (r : Bool), dieOf d = some k → dieSecure s k = true → ∃ t, exec (.securePowerCut d r) s = .next t ∧ (t.op k).iso = true ∧ (t.op k).secCut = true ∧ (t.op k).logic = .off ∧
      (t.op k).mem = .off ∧ (t.op k).trav = .off ∧ (t.op k).lost = true ∧ (s.pwr.hubl = .on → tget 0 s.hub.faultCnt 0x0C ≠ 0xFFFFFFFF → tget 0 t.hub.faultCnt 0x0C = tget 0 s.hub.faultCnt 0x0C + 1)) ∧
    (dieSecure s k = false → ∃ t, exec (.cutWithoutHandshake k) s = .next t ∧ (t.op k).iso = true ∧ (t.op k).secCut = (s.op k).secCut ∧ (t.op k).logic = .off ∧ (t.op k).mem = .off ∧ (t.op k).trav = .off ∧
      (t.op k).lost = true)) ∧
  (∀ (s : State) (d : Dom) (r : Bool), (d = .hubl ∨ d = .hubm) → secureStake s d = true → domSt s d ≠ .off → ∃ t, exec (.hubSecurePowerCut d r) s = .next t ∧ t.pwr.chipRst = true ∧ t.pwr.hubl = .off ∧ t.net = s.net.filter (fun p => decide (standsIn s p ≠ 12)) ∧
    (∀ c, unitOf c = 12 → (t.cell c).en = false) ∧
    (s.pwr.mode ≠ .wakeSleep → (s.pwr.mode = .wakeKeep → d = .hubm) → t.pwr.cold = true ∧ (d = .hubm → (∀ e ∈ t.cells, unitOf e.1 ≠ 12) ∧ t.pool = [] ∧ t.parcels = [] ∧ t.outs = s.outs ∧ t.stns = s.stns)) ∧
    Logged s t 0x0C 12 (at_ 0 (domCode d) ||| flag 8 r) (clientOneHub s)) ∧
  (∀ s : State, swdtCounts s = true → s.pwr.swLeft = 0 → 0x20200 ∉ s.parity →
    (s.pwr.swStage = false → s.pwr.hubl = .on → ∃ t k, exec .swdtFirstExpiry s = .next t ∧ t.pwr = { s.pwr with swStage := true, swLeft := s.pwr.swPeriod, swNs := 0 } ∧
      t.net.map (·.msg) = s.net.map (·.msg) ++ [.event k] ∧ k.evid = 0xFFFD9 ∧ Logged s t 0x8D 0 0 0 ∧ t = { s with pwr := t.pwr, net := t.net, isl := t.isl }) ∧
    (s.pwr.swStage = false → s.pwr.hubl = .off → s.pwr.mode = .keep → s.pwr.toSleep = false → s.pwr.bring = 0 → ∃ t, exec .swdtFirstExpiry s = .next t ∧ t.pwr.swStage = true ∧ t.pwr.mode = .wakeKeep ∧ t.pwr.wakeSrc = 5 ∧ Logged s t 0x8D 0 0 0)) ∧
  (∀ s : State, swdtCounts s = true → s.pwr.swLeft = 0 → s.pwr.swStage = true → s.pwr.swDone = false → ∃ t, exec .swdtSecondExpiry s = .next t ∧ t.pwr.chipRst = true ∧ t.pwr.cause = s.pwr.cause ||| 4 ∧ t.pwr.swLeft = 0 ∧
    Logged s t 0x8D 1 0 0 ∧ t = { s with pwr := t.pwr, isl := t.isl }) ∧
  (∀ s : State, s.pwr.swLeft ≠ 0 → exec .swdtFirstExpiry s = .next s ∧ exec .swdtSecondExpiry s = .next s) ∧
  (∀ s : State, s.pwr.chipRst = true → s.pwr.rst = false → ∃ t, exec .chipResetReqRepeat s = .next t ∧ t.pwr = { s.pwr with chipRep := s.pwr.chipRep + 1 } ∧
    Logged s t 0x8D 1 (w32 (s.pwr.chipRep + 1)) 0 ∧ t = { s with pwr := t.pwr, isl := t.isl })

/-- R406 to R408, R457 to R459: I3C commands set and answer what R457 lists; in Sleep nothing is acknowledged, and the own address wakes
the device; of the vendor requests only the reading ones are served, others are DENIED, and another vendor identifier is not answered; the
debug gate answers IDCODE always, the rest only within the scope in force, and writes a verifying key only while the provisioning lock is
clear. The model's own readings here: log entries 47, 87. -/
def Obligations.SidebandAndDebugGateAnswer : Prop :=
  (∀ (s : State) (a : BitVec 8) (n : BitVec 16), s.pwr.mode ≠ .sleep → s.pwr.mode ≠ .off →
    (exec (.i3cCcc (.enec a)) s = .next { s with isl := { s.isl with i3cEvents := s.isl.i3cEvents ||| a }, out := { s.out with i3c := [], nack := false, ibi := false } }) ∧
    (exec (.i3cCcc .rstdaa) s = .next { s with isl := { s.isl with dynAddr := false }, out := { s.out with i3c := [], nack := false, ibi := false } }) ∧
    (exec (.i3cCcc .setaasa) s = .next { s with isl := { s.isl with dynAddr := true }, out := { s.out with i3c := [], nack := false, ibi := false } }) ∧
    (exec (.i3cCcc (.setmrl n)) s = .next { s with isl := { s.isl with mrl := n }, out := { s.out with i3c := [], nack := false, ibi := false } }) ∧
    (exec (.i3cCcc .getmrl) s = .next (wake { s with out := { s.out with i3c := [s.isl.mrl.extractLsb' 8 8, s.isl.mrl.extractLsb' 0 8], nack := false, ibi := false } } .i3c)) ∧
    (exec (.i3cCcc .getbcr) s = .next (wake { s with out := { s.out with i3c := [0x0E], nack := false, ibi := false } } .i3c))) ∧
  (∀ (s : State) (c : Ccc) (op : BitVec 16) (m : MctpReq), s.pwr.mode = .off →
    ∀ u, u = { s with out := { s.out with i3c := [], nack := true, ibi := false } } → exec (.i3cCcc c) s = .next u ∧ exec (.mctpVendorRequest op m) s = .next u) ∧
  (∀ (s : State) (c : Ccc) (op : BitVec 16) (m : MctpReq), s.pwr.mode = .sleep →
    (∀ u, u = { s with out := { s.out with i3c := [], nack := true, ibi := false } } →
      exec (.i3cCcc c) s = .next (if cccOwn s c then wake u .i3c else u) ∧ exec (.mctpVendorRequest op m) s = .next (wake u .i3c))) ∧
  (∀ (s : State) (op : BitVec 16) (ws : List Word), s.pwr.mode ≠ .sleep → s.pwr.mode ≠ .off → wairoRuns s = true → s.mbxN.busy = false → s.mbxS.busy = false →
    (op ≠ 0x01 → op ≠ 0x02 → op ≠ 0x70 → exec (.mctpVendorRequest op (.vendor s.isl.straps.vid ws)) s =
      .next (wake { s with out := { s.out with mctp := [w32 cDenied], vid := s.isl.straps.vid, nack := false, ibi := false } } .i3c)) ∧
    (∀ v, v ≠ s.isl.straps.vid → exec (.mctpVendorRequest op (.vendor v ws)) s = .next (wake { s with out := { s.out with nack := false, ibi := false } } .i3c)) ∧
    (op = 0x70 → ∀ n, n = bits ((ws[1]?).getD 0) 0 2 → (cmdLogRead { box := .normal, args := ws } s).code = cOk →
      ∃ t, exec (.mctpVendorRequest op (.vendor s.isl.straps.vid ws)) s = .next (wake t .i3c) ∧
        t = { s with out := { s.out with mctp := t.out.mctp, vid := s.isl.straps.vid, nack := false, ibi := false } } ∧ t.out.mctp[0]? = some 0 ∧ t.out.mctp[4]? = some s.isl.logNext ∧
        t.out.mctp[2]? = some (w32 ((s.isl.log.filter fun e => decide (((ws[0]?).getD 0).toNat ≤ e.no.toNat)).take n).length))) ∧
  (∀ s : State, s.pwr.mode ≠ .off → (∃ t, exec (.debugGateAccess .idcode) s = .next t ∧ t = { s with out := { s.out with gate := t.out.gate } } ∧ t.out.gate &&& 0xFFFFF001 = 0x2C288001) ∧
    (s.isl.scope.getLsbD 0 = false → exec (.debugGateAccess .halt) s = .next { s with out := { s.out with gate := 0 } }) ∧
    (s.isl.scope.getLsbD 0 = true → s.isl.ronuoHalt = false → ∃ t, exec (.debugGateAccess .halt) s = .next t ∧ t.isl.ronuoHalt = true ∧ (∀ b, (s.mbx b).busy = true → (t.mbx b).busy = false ∧ (t.mbx b).code = 0x0D) ∧ SameQueues s t) ∧
    (s.isl.scope.getLsbD 0 = true → s.isl.ronuoHalt = true → exec (.debugGateAccess .resume) s = .next { s with
      isl := { s.isl with ronuoHalt := false, ronuoMem := [], ronuoRan := s.free }, free := s.free + 1 }) ∧
    (∀ d k, s.isl.provLock = true → exec (.debugGateAccess (.provKey d k)) s = .next { s with out := { s.out with gate := 0 } }) ∧
    (∀ k, s.isl.provLock = false → s.isl.fwKey = none → exec (.debugGateAccess (.provKey false k)) s = .next { s with isl := { s.isl with fwKey := some k } }) ∧
    (∀ o, s.isl.scope.getLsbD 2 = false → exec (.debugGateAccess (.secureView o)) s = .next { s with out := { s.out with gate := 0 } }) ∧
    (∀ o, s.isl.scope.getLsbD 2 = true → s.pwr.hubl = .on → exec (.debugGateAccess (.secureView o)) s = .next { s with out := { s.out with gate := peekReg s o true } })) ∧
  (∀ (s : State) (op : GateOp), s.pwr.mode = .off → exec (.debugGateAccess op) s = .next s)

/-- R356: the first entry of the Monument log is number 0, each later entry takes the next number, and the ring holds the latest 8,192. -/
def Obligations.LogEntriesAreNumbered : Prop :=
  State.reset.isl.log = [] ∧ State.reset.isl.logNext = 0 ∧
  ∀ (s : State) (e : LogEntry), (logPut s e).isl.logNext = s.isl.logNext + 1 ∧
    (logPut s e).isl.log = ((s.isl.log ++ [{ e with no := s.isl.logNext }]).reverse.take 8192).reverse

/-- R466: a write to CELL_CTR_SEL changes the selectors and nothing else of the device, whether the cell is enabled or not: no counter, no
OVF, no word of the plat region, no value of the Datum stream; an occurrence counts under the codes that the selectors hold when it is
served. -/
def Obligations.CounterSelectorsChangeNoCount : Prop :=
  (∀ (s : State) (c : Nat) (d : BitVec 64) (a : Acc), CellReady s c a → a.size = .b32 →
    ∃ t, exec (.registerWrite (cellBase c + 0x1A0) d a) s = .next t ∧ t.cell c = { s.cell c with ctrSel := lo32 d } ∧
      (∀ e, e ≠ c → t.cell e = s.cell e) ∧ t.out.err = false ∧ t = { s with cells := t.cells, out := t.out }) ∧
  (∀ (x : Cell) (code n : Nat), n < 4 →
    tget 0 (bumpCell x code).ctrs n = (if bits x.ctrSel (8 * n) 8 = code ∧ code ≠ 0 then tget 0 x.ctrs n + 1 else tget 0 x.ctrs n) ∧
    bumpCell x code = { x with ctrs := (bumpCell x code).ctrs, ovf := (bumpCell x code).ovf })

/-- R343: while HUB_FW_STATE.STATE is HALTED the mailbox hardware ends every command rung at once with CODE = HALTED and every response word
zero, and so a command that is running when Ronuo halts. -/
def Obligations.HaltedMailboxesEndAtOnce : Prop :=
  (∀ (s : State) (b : Box) (d : BitVec 64) (a : Acc), Serves s a → a.size = .b32 → (b = .secure → a.sec = true) → fwCode s = 3 → (s.mbx b).busy = false → s.parity = [] →
    d.getLsbD 0 = true → ∃ t, exec (.registerWrite (boxBase b + 4) d a) s = .next t ∧ (t.mbx b).busy = false ∧ (t.mbx b).done = true ∧ (t.mbx b).code = 0x0D ∧
      (∀ i, i < 28 → getW (t.mbx b).resp i = 0) ∧ (t.mbx b).seq = (s.mbx b).seqIn) ∧
  (∀ (s : State) (i : Instr), ((i = .ronuoBoot ∧ s.isl.fw = .restarting ∧ s.isl.booting = some 0 ∧ bootSlot s = none) ∨
      (i = .debugGateAccess .halt ∧ s.pwr.mode ≠ .off ∧ s.isl.scope.getLsbD 0 = true ∧ s.isl.ronuoHalt = false)) →
    ∃ t, exec i s = .next t ∧ fwCode t = 3 ∧ ∀ b, (s.mbx b).busy = true → (t.mbx b).busy = false ∧ (t.mbx b).done = true ∧ (t.mbx b).code = 0x0D ∧
      ∀ i, i < 28 → getW (t.mbx b).resp i = 0)

/-- R199: a COMPLETE that names an entry on the stack removes the topmost entry with that EVID and kind. The running value is then that of
the new top, or the group is idle; an entry below the top leaves it as it was. -/
def Obligations.CompleteRemovesTheTopmostEntry : Prop :=
  ∀ (s : State) (p : Page) (data : Word) (a : Acc) (above below : List Entry) (x : Entry), Clean s → Serves s a → PageReady s p → Reaches a p →
    bits data 21 11 = 0 → (data.getLsbD 20 = true → ∃ n g, p = .stn n g) → (pageGroup s p).stack = above ++ x :: below →
    x.evid = bits data 0 20 → x.kind = data.getLsbD 20 → (∀ y ∈ above, ¬(y.evid = x.evid ∧ y.kind = x.kind)) →
    ∃ t, exec (completeCmd p data a) s = .next t ∧ (pageGroup t p).stack = above ++ below ∧
      (above = [] → below = [] → (pageGroup t p).running = none) ∧
      (∀ y rest, above = [] → below = y :: rest → (pageGroup t p).running = some y.running) ∧
      (above ≠ [] → (pageGroup t p).running = (pageGroup s p).running)
end

