-- ==== Sys2Proof/Laws/Rest.lean ====
section
/-! SUPPORT. What every command keeps: the canonical form of system memory, the queue of waiting commands and the provisioning record. One lemma for each
function of the machine, each proved from those of the functions it calls. -/

set_option linter.unusedTactic false
set_option linter.unnecessarySeqFocus false
set_option linter.unreachableTactic false

namespace Sys2Proof.Machine

open Sys2Proof

set_option linter.unusedSimpArgs false

/-- What stands of the provisioning record: device ID, lock, and the verifying keys once the lock is set (R407, R440, R441). -/
abbrev Prov := BitVec 64 × Bool × Option (Option (BitVec 768) × Option (BitVec 768))
def provOf (d : BitVec 64) (f g : Option (BitVec 768)) (l : Bool) : Prov := (d, l, if l then some (f, g) else none)
def Isl.prov (x : Isl) : Prov := provOf x.deviceId x.fwKey x.dbgKey x.provLock

/-- Whether system memory has its canonical form, the queue of waiting commands, and the provisioning record. -/
abbrev Rest := Prop × List Instr × Prov
def State.rest (s : State) : Rest := (Memory.wf s.mem, s.pending, s.isl.prov)

/-- A next state has this form of memory and this queue. -/
def Kept (a : Ans) (r : Rest) : Prop :=
  match a with
  | .next t => t.rest = r
  | .fault _ => True
  | .refused _ => True

@[simp ↓] theorem rest_mk (x0 x1 x2 x3 x4 x5 x6 x7 x8 x9 x10 x11 x12 x13 x14 x15 x16 x17 x18 x19 x20 x21 x22 x23 x24 x25 x26 x27 x28 x29 x30 x31 x32 x33 x34) :
    State.rest ⟨x0, x1, x2, x3, x4, x5, x6, x7, x8, x9, x10, x11, x12, x13, x14, x15, x16, x17, x18, x19, x20, x21, x22, x23, x24, x25, x26, x27, x28, x29, x30, x31, x32, x33, x34⟩ = (Memory.wf x32, x0, x27.prov) := rfl
@[simp ↓] theorem mk_rest (s : State) : (Memory.wf s.mem, s.pending, s.isl.prov) = s.rest := rfl
@[simp ↓] theorem prov_mk (i0 i1 i2 i3 i4 i5 i6 i7 i8 i9 i10 i11 i12 i13 i14 i15 i16 i17 i18 i19 i20 i21 i22 i23 i24 i25 i26 i27 i28 i29 i30 i31 i32 i33 i34 i35 i36 i37 i38 i39 i40 i41 i42 i43 i44) :
    Isl.prov ⟨i0, i1, i2, i3, i4, i5, i6, i7, i8, i9, i10, i11, i12, i13, i14, i15, i16, i17, i18, i19, i20, i21, i22, i23, i24, i25, i26, i27, i28, i29, i30, i31, i32, i33, i34, i35, i36, i37, i38, i39, i40, i41, i42, i43, i44⟩ = provOf i17 i18 i19 i20 := (rfl : _ = _).trans rfl
@[simp ↓] theorem mk_prov (x : Isl) : provOf x.deviceId x.fwKey x.dbgKey x.provLock = x.prov := (rfl : _ = _).trans rfl
@[simp ↓] theorem prov_ite (c : Prop) [Decidable c] (a b : Isl) : (if c then a else b).prov = if c then a.prov else b.prov := by split <;> rfl
@[simp ↓] theorem prov_queueReport (x : Isl) (e : LogEntry) : (queueReport x e).prov = x.prov := by
  unfold queueReport; split <;> (try split) <;> rfl
@[simp ↓] theorem wf_rest (s : State) : Memory.wf s.mem ↔ s.rest.1 := Iff.rfl
@[simp ↓] theorem rest_ite (c : Prop) [Decidable c] (a b : State) : (if c then a else b).rest = if c then a.rest else b.rest := by split <;> rfl
@[simp ↓] theorem kept_next (t : State) (r : Rest) : Kept (.next t) r ↔ t.rest = r := Iff.rfl
@[simp ↓] theorem kept_fault (f : Fault) (r : Rest) : Kept (.fault f) r ↔ True := Iff.rfl
@[simp ↓] theorem kept_ite (c : Prop) [Decidable c] (a b : Ans) (r : Rest) : Kept (if c then a else b) r ↔ (if c then Kept a r else Kept b r) := by split <;> rfl
@[simp ↓] theorem st_ite (c : Prop) [Decidable c] (a b : Res) : (if c then a else b).st = if c then a.st else b.st := by split <;> rfl

@[simp ↓] theorem keep_forAll {α : Type} (s : State) (xs : List α) (f : State → α → State) (h : ∀ t a, (f t a).rest = t.rest) : (forAll s xs f).rest = s.rest := by
  unfold forAll
  induction xs generalizing s with
  | nil => rfl
  | cons a t ih => simp only [List.foldl_cons]; rw [ih, h]

/-- The same where each part asks for the canonical form. -/
@[simp ↓] theorem keep_forAll_wf {α : Type} (s : State) (xs : List α) (f : State → α → State) (hw : s.rest.1)
    (h : ∀ t a, t.rest.1 → (f t a).rest = t.rest) : (forAll s xs f).rest = s.rest := by
  unfold forAll
  induction xs generalizing s with
  | nil => rfl
  | cons a t ih =>
    have e := h s a hw
    simp only [List.foldl_cons]; rw [ih _ (by rw [e]; exact hw), e]

/-- Writing bytes keeps the canonical form of system memory. -/
theorem memWrite_wf (m : List Host.Cell) (a : Nat) (bs : List (BitVec 8)) (h : Memory.wf m) : Memory.wf (memWrite m a bs) := by
  have hz : ∀ x ∈ List.zip (List.range' a bs.length) bs, a ≤ x.1 ∧ x.1 < a + bs.length := by
    intro x hx
    have := (List.of_mem_zip hx).1
    rw [List.mem_range'_1] at this
    exact this
  unfold memWrite Memory.wf
  rw [List.pairwise_append, List.pairwise_append]
  refine ⟨h.filter _, ⟨?_, h.filter _, ?_⟩, ?_⟩
  · have hr : (List.range' a bs.length).Pairwise (· < ·) := List.pairwise_lt_range'
    have : ((List.zip (List.range' a bs.length) bs).map (·.1)).Pairwise (· < ·) := by
      rw [List.map_fst_zip (by simp)]; exact hr
    exact List.pairwise_map.mp this
  · intro x hx y hy
    have := hz x hx
    have := (List.mem_filter.mp hy).2
    simp only [decide_eq_true_eq] at this
    omega
  · intro x hx y hy
    have hx' := (List.mem_filter.mp hx).2
    simp only [decide_eq_true_eq] at hx'
    rcases List.mem_append.mp hy with hy | hy
    · have := hz y hy; omega
    · have := (List.mem_filter.mp hy).2
      simp only [decide_eq_true_eq] at this
      omega
@[simp ↓] theorem memWrite_rest (s : State) (hw : s.rest.1) (a : Nat) (bs : List (BitVec 8)) :
    (Memory.wf (memWrite s.mem a bs), s.pending, s.isl.prov) = s.rest := by
  have := memWrite_wf s.mem a bs hw
  have h2 : Memory.wf s.mem := hw
  simp only [State.rest, this, h2]

/-! ## Ops -/

@[simp ↓] theorem keep_setCell (s : State) (c : Nat) (x : Cell) : (State.setCell s c x).rest = s.rest := by
  unfold State.setCell; (try simp) <;> repeat' (split <;> try simp_all)

@[simp ↓] theorem keep_modCell (s : State) (c : Nat) (f : Cell → Cell) : (State.modCell s c f).rest = s.rest := by
  unfold State.modCell; (try simp) <;> repeat' (split <;> try simp_all)

@[simp ↓] theorem keep_setOp (s : State) (k : Nat) (x : Outpost) : (State.setOp s k x).rest = s.rest := by
  unfold State.setOp; (try simp) <;> repeat' (split <;> try simp_all)

@[simp ↓] theorem keep_modOp (s : State) (k : Nat) (f : Outpost → Outpost) : (State.modOp s k f).rest = s.rest := by
  unfold State.modOp; (try simp) <;> repeat' (split <;> try simp_all)

@[simp ↓] theorem keep_modInput (s : State) (e : Nat) (f : Input → Input) : (State.modInput s e f).rest = s.rest := by
  unfold State.modInput; (try simp) <;> repeat' (split <;> try simp_all)

@[simp ↓] theorem keep_setQueue (s : State) (e : Nat) (q : Queue) : (State.setQueue s e q).rest = s.rest := by
  unfold State.setQueue; (try simp) <;> repeat' (split <;> try simp_all)

@[simp ↓] theorem keep_modQueue (s : State) (e : Nat) (f : Queue → Queue) : (State.modQueue s e f).rest = s.rest := by
  unfold State.modQueue; (try simp) <;> repeat' (split <;> try simp_all)

@[simp ↓] theorem keep_setSlot (s : State) (n : Nat) (x : Slot) : (State.setSlot s n x).rest = s.rest := by
  unfold State.setSlot; (try simp) <;> repeat' (split <;> try simp_all)

@[simp ↓] theorem keep_setStn (s : State) (n : Nat) (x : Station) : (State.setStn s n x).rest = s.rest := by
  unfold State.setStn; (try simp) <;> repeat' (split <;> try simp_all)

@[simp ↓] theorem keep_modStn (s : State) (n : Nat) (f : Station → Station) : (State.modStn s n f).rest = s.rest := by
  unfold State.modStn; (try simp) <;> repeat' (split <;> try simp_all)

@[simp ↓] theorem keep_setCtx (s : State) (v : Nat) (x : Ctx) : (State.setCtx s v x).rest = s.rest := by
  unfold State.setCtx; (try simp) <;> repeat' (split <;> try simp_all)

@[simp ↓] theorem keep_modCtx (s : State) (v : Nat) (f : Ctx → Ctx) : (State.modCtx s v f).rest = s.rest := by
  unfold State.modCtx; (try simp) <;> repeat' (split <;> try simp_all)

@[simp ↓] theorem keep_modSpread (s : State) (n : Nat) (f : Spread → Spread) : (State.modSpread s n f).rest = s.rest := by
  unfold State.modSpread; (try simp) <;> repeat' (split <;> try simp_all)

@[simp ↓] theorem keep_modGang (s : State) (g : Nat) (f : Gang → Gang) : (State.modGang s g f).rest = s.rest := by
  unfold State.modGang; (try simp) <;> repeat' (split <;> try simp_all)

@[simp ↓] theorem keep_setRes (s : State) (r : Nat) (x : Resv) : (State.setRes s r x).rest = s.rest := by
  unfold State.setRes; (try simp) <;> repeat' (split <;> try simp_all)

@[simp ↓] theorem keep_modAlarm (s : State) (a : Nat) (f : Alarm → Alarm) : (State.modAlarm s a f).rest = s.rest := by
  unfold State.modAlarm; (try simp) <;> repeat' (split <;> try simp_all)

@[simp ↓] theorem keep_modParcel (s : State) (p : Nat) (f : Parcel → Parcel) : (State.modParcel s p f).rest = s.rest := by
  unfold State.modParcel; (try simp) <;> repeat' (split <;> try simp_all)

@[simp ↓] theorem keep_modHub (s : State) (f : Hub → Hub) : (State.modHub s f).rest = s.rest := by
  unfold State.modHub; (try simp) <;> repeat' (split <;> try simp_all)

@[simp ↓] theorem keep_modMer (s : State) (f : Mer → Mer) : (State.modMer s f).rest = s.rest := by
  unfold State.modMer; (try simp) <;> repeat' (split <;> try simp_all)

@[simp ↓] theorem keep_modPwr (s : State) (f : Pwr → Pwr) : (State.modPwr s f).rest = s.rest := by
  unfold State.modPwr; (try simp) <;> repeat' (split <;> try simp_all)

@[simp ↓] theorem keep_modIsl (s : State) (f : Isl → Isl) (h : (f s.isl).prov = s.isl.prov) : (State.modIsl s f).rest = s.rest := by
  unfold State.rest State.modIsl; simp only [h]

@[simp ↓] theorem keep_modMbx (s : State) (b : Box) (f : Mbx → Mbx) : (State.modMbx s b f).rest = s.rest := by
  unfold State.modMbx; (try simp) <;> repeat' (split <;> try simp_all)

@[simp ↓] theorem keep_modGrp (s : State) (n : Nat) (g : Grp) (f : Group → Group) : (State.modGrp s n g f).rest = s.rest := by
  unfold State.modGrp; (try simp) <;> repeat' (split <;> try simp_all)

@[simp ↓] theorem keep_bump (s : State) (c : Option Nat) (code : Nat) : (bump s c code).rest = s.rest := by
  unfold bump; (try simp) <;> repeat' (split <;> try simp_all)

@[simp ↓] theorem keep_bumpBy (s : State) (c : Option Nat) (code n : Nat) : (bumpBy s c code n).rest = s.rest := by
  induction n with
  | zero => rfl
  | succ n ih => unfold bumpBy; simp [ih]

@[simp ↓] theorem keep_bumpIn (s : State) (c : Option Nat) (timed : Bool) : (bumpIn s c timed).rest = s.rest := by
  unfold bumpIn; (try simp) <;> repeat' (split <;> try simp_all)

@[simp ↓] theorem keep_send (s : State) (m : Msg) (up : Option Nat) (down : Option Nat) (c : Option Nat := none) : (send s m up down c).rest = s.rest := by
  unfold send; (try simp) <;> repeat' (split <;> try simp_all)

@[simp ↓] theorem keep_sendFrom (s : State) (c : Option Nat) (m : Msg) (up : Option Nat) (down : Option Nat) : (sendFrom s c m up down).rest = s.rest := by
  unfold sendFrom; (try simp) <;> repeat' (split <;> try simp_all)

@[simp ↓] theorem keep_dropMsgs (s : State) (f : Msg → Bool) : (dropMsgs s f).rest = s.rest := rfl

@[simp ↓] theorem keep_logPut (s : State) (e : LogEntry) : (logPut s e).rest = s.rest := by
  unfold logPut; (try simp) <;> repeat' (split <;> try simp_all)

@[simp ↓] theorem keep_logTake (s : State) (e : LogEntry) : (logTake s e).rest = s.rest := by
  unfold logTake; (try simp) <;> repeat' (split <;> try simp_all)

@[simp ↓] theorem keep_logWrite (s : State) : (logWrite s).rest = s.rest := by
  unfold logWrite; (try simp) <;> repeat' (split <;> try simp_all)

@[simp ↓] theorem keep_log (s : State) (code : Nat) (unit : Nat) (sec : Bool) (a0 : Word) (a1 : Word) (a2 : Word) : (log s code unit sec a0 a1 a2).rest = s.rest := by
  unfold log; (try simp) <;> repeat' (split <;> try simp_all)

@[simp ↓] theorem keep_aggFlush (s : State) (code : Nat) (key : Nat) : (aggFlush s code key).rest = s.rest := by
  unfold aggFlush; (try simp) <;> repeat' (split <;> try simp_all)

@[simp ↓] theorem keep_logAgg (s : State) (code : Nat) (unit : Nat) (sec : Bool) (a0 : Word) (a1 : Word) (key : Nat) : (logAgg s code unit sec a0 a1 key).rest = s.rest := by
  unfold logAgg; (try simp) <;> repeat' (split <;> try simp_all)

@[simp ↓] theorem keep_touch (s : State) (p : Nat) : (touch s p).rest = s.rest := by
  unfold touch; (try simp) <;> repeat' (split <;> try simp_all)

@[simp ↓] theorem keep_perfAdd (s : State) (p : Nat) (off : Nat) (n : Nat) : (perfAdd s p off n).rest = s.rest := by
  unfold perfAdd; (try simp) <;> repeat' (split <;> try simp_all)

@[simp ↓] theorem keep_intakeHub (s : State) (e : Nat) (pl : Payload) (st : Stamp) (pre : Nat) (src : Source) (lock : Lock) (sec : Bool) : (intakeHub s e pl st pre src lock sec).rest = s.rest := by
  unfold intakeHub; (try simp) <;> repeat' (split <;> try simp_all)

@[simp ↓] theorem keep_raiseHub (s : State) (code : Nat) (pre : Nat) : (raiseHub s code pre).rest = s.rest := by
  unfold raiseHub; (try simp) <;> repeat' (split <;> try simp_all)

@[simp ↓] theorem keep_raise (s : State) (code : Nat) (unit : Nat) (sec : Bool) (a0 : Word) (a1 : Word) (a2 : Word) (key : Option Nat) : (raise s code unit sec a0 a1 a2 key).rest = s.rest := by
  unfold raise; (try simp) <;> repeat' (split <;> try simp_all)

@[simp ↓] theorem keep_overrun (s : State) (c : Option Nat) : (overrun s c).rest = s.rest := by
  unfold overrun; (try simp) <;> repeat' (split <;> try simp_all)

@[simp ↓] theorem keep_overrunAll (s : State) (cs : List Nat) : (overrunAll s cs).rest = s.rest := by
  unfold overrunAll; (try simp) <;> repeat' (split <;> try simp_all)

@[simp ↓] theorem keep_serveToken (s : State) (c : Option Nat) : (serveToken s c).rest = s.rest := by
  unfold serveToken; (try simp) <;> repeat' (split <;> try simp_all)

@[simp ↓] theorem keep_openGate (s : State) (k : Nat) (up : Bool) (p : Packet) : (openGate s k up p).rest = s.rest := by
  unfold openGate; (try simp) <;> repeat' (split <;> try simp_all)

@[simp ↓] theorem keep_linkToken (s : State) (k : Nat) (m : Msg) : (linkToken s k m).rest = s.rest := by
  unfold linkToken; (try simp) <;> repeat' (split <;> try simp_all)

@[simp ↓] theorem keep_crossCount (s : State) (k : Nat) (up : Bool) (p : Packet) : (crossCount s k up p).rest = s.rest := by
  unfold crossCount; (try simp) <;> repeat' (split <;> try simp_all)

@[simp ↓] theorem keep_startAt (s : State) (k : Nat) (up : Bool) (i : Nat) : (startAt s k up i).rest = s.rest := by
  unfold startAt; (try simp) <;> repeat' (split <;> try simp_all)

@[simp ↓] theorem keep_runLink (s : State) (k : Nat) (up : Bool) (i n : Nat) : (runLink s k up i n).rest = s.rest := by
  induction n generalizing s with
  | zero => simp [runLink]
  | succ n ih =>
    unfold runLink
    split
    · simp
    · split
      · simp
      · rw [ih]; simp

@[simp ↓] theorem keep_runClass (s : State) (k : Nat) (up : Bool) (c n : Nat) : (runClass s k up c n).rest = s.rest := by
  induction n generalizing s with
  | zero => simp [runClass]
  | succ n ih =>
    unfold runClass
    split
    · rfl
    · split
      · rw [ih]; simp
      · rfl

@[simp ↓] theorem keep_carry (s : State) (i : Nat) (p : Packet) : (carry s i p).rest = s.rest := by
  unfold carry; (try simp) <;> repeat' (split <;> try simp_all)

theorem arrive_rest {s t : State} {f : Msg → Bool} {p : Packet} (h : arrive s f = some (p, t)) : t.rest = s.rest := by
  unfold arrive at h
  split at h
  · cases h
  · simp only [Option.some.injEq, Prod.mk.injEq] at h
    obtain ⟨-, rfl⟩ := h
    exact keep_carry s _ _

@[simp ↓] theorem keep_turnOf (s : State) (k : Nat) (up : Bool) : (turnOf s k up).rest = s.rest := by
  unfold turnOf; (try simp) <;> repeat' (split <;> try simp_all)

@[simp ↓] theorem keep_linkTurn (s : State) : (linkTurn s).rest = s.rest := by
  unfold linkTurn; (try simp) <;> repeat' (split <;> try simp_all)

/-! ## Flags -/

@[simp ↓] theorem keep_speedNote (s0 : State) (s : State) : (speedNote s0 s).rest = s.rest := by
  unfold speedNote; (try simp) <;> repeat' (split <;> try simp_all)

@[simp ↓] theorem keep_reqWatch (n : Nat) (s0 : State) (s1 : State) : (reqWatch n s0 s1).rest = s1.rest := by
  unfold reqWatch; (try simp) <;> repeat' (split <;> try simp_all)

/-! ## Reject -/

@[simp ↓] theorem keep_faultReason (s : State) (r : BitVec 4) (word : Word) (arg1 : Word) (sec : Bool) : (faultReason s r word arg1 sec).rest = s.rest := by
  unfold faultReason; (try simp) <;> repeat' (split <;> try simp_all)

@[simp ↓] theorem keep_rejectDb (s : State) (r : BitVec 4) (port : Nat) (win : Bool) (data : Word) (rid : BitVec 16) (sec : Bool) (e : Nat) : (rejectDb s r port win data rid sec e).rest = s.rest := by
  unfold rejectDb; (try simp) <;> repeat' (split <;> try simp_all)

@[simp ↓] theorem keep_pageReject (s : State) (p : Page) (r : BitVec 4) : (pageReject s p r).rest = s.rest := by
  unfold pageReject; (try simp) <;> repeat' (split <;> try simp_all)

@[simp ↓] theorem keep_rejectSend (s : State) (p : Page) (r : BitVec 4) (rid : BitVec 16) (sec : Bool) (e : Nat) (data : Word) : (rejectSend s p r rid sec e data).rest = s.rest := by
  unfold rejectSend; (try simp) <;> repeat' (split <;> try simp_all)

@[simp ↓] theorem keep_rejectParcel (s : State) (e : Nat) (r : BitVec 4) (bySource : Bool) : (rejectParcel s e r bySource).rest = s.rest := by
  unfold rejectParcel; (try simp) <;> repeat' (split <;> try simp_all)

@[simp ↓] theorem keep_rejectToken (s : State) (c : Option Nat) (t : Token) (r : BitVec 4) (late : Bool) : (rejectToken s c t r late).rest = s.rest := by
  unfold rejectToken; (try simp) <;> repeat' (split <;> try simp_all)

@[simp ↓] theorem keep_strike (s : State) (x : Store) (e : Nat) (c : Option Nat) : (strike s x e c).2.rest = s.rest := by
  unfold strike; (try simp) <;> repeat' (split <;> try simp_all)

@[simp ↓] theorem keep_arbitrate (s : State) (c : Option Nat) (timed : Bool) : (arbitrate s c timed).rest = s.rest := by
  unfold arbitrate; (try simp) <;> repeat' (split <;> try simp_all)

@[simp ↓] theorem keep_poolTake (s : State) (p : Nat) : (poolTake s p).2.rest = s.rest := by
  unfold poolTake; (try simp) <;> repeat' (split <;> try simp_all)

@[simp ↓] theorem keep_quotaCheck (s : State) (p : Nat) : (quotaCheck s p).rest = s.rest := by
  unfold quotaCheck; (try simp) <;> repeat' (split <;> try simp_all)

@[simp ↓] theorem keep_poolFreeSlot (s : State) (n : Nat) : (poolFreeSlot s n).rest = s.rest := by
  unfold poolFreeSlot; (try simp) <;> repeat' (split <;> try simp_all)

@[simp ↓] theorem keep_linkTail (s : State) (e : Nat) (pl : Payload) (st : Stamp23) (g : Bool) : (linkTail s e pl st g).rest = s.rest := by
  unfold linkTail; (try simp) <;> repeat' (split <;> try simp_all)

@[simp ↓] theorem keep_unlinkHead (s : State) (e : Nat) : (unlinkHead s e).rest = s.rest := by
  unfold unlinkHead; (try simp) <;> repeat' (split <;> try simp_all)

@[simp ↓] theorem keep_unlinkAll (s : State) (e n : Nat) : (unlinkAll s e n).rest = s.rest := by
  induction n generalizing s with
  | zero => rfl
  | succ n ih => simp only [unlinkAll]; rw [ih]; simp

@[simp ↓] theorem keep_fbNote (s : State) (e : Nat) : (fbNote s e).rest = s.rest := by
  unfold fbNote; (try simp) <;> repeat' (split <;> try simp_all)

@[simp ↓] theorem keep_fbPut (s : State) (r : FbRec) (hw : s.rest.1) : (fbPut s r).rest = s.rest := by
  unfold fbPut; (try simp +contextual (maxDischargeDepth := 12) [hw]) <;> repeat' (split <;> try simp_all +contextual (maxDischargeDepth := 12))

@[simp ↓] theorem keep_ringError (s : State) (lost : Nat) : (ringError s lost).rest = s.rest := by
  unfold ringError; (try simp) <;> repeat' (split <;> try simp_all)

@[simp ↓] theorem keep_ringProbe (s : State) : (ringProbe s).rest = s.rest := by
  unfold ringProbe; (try simp) <;> repeat' (split <;> try simp_all)

@[simp ↓] theorem keep_fbRefill (s : State) : (fbRefill s).rest = s.rest := by
  unfold fbRefill; (try simp) <;> repeat' (split <;> try simp_all)

@[simp ↓] theorem keep_fbTake (s : State) (e : Nat) : (fbTake s e).rest = s.rest := by
  unfold fbTake; (try simp) <;> repeat' (split <;> try simp_all)

@[simp ↓] theorem keep_fbRead (s : State) (e : Nat) (c : Option Nat) : (fbRead s e c).2.rest = s.rest := by
  unfold fbRead; (try simp) <;> repeat' (split <;> try simp_all)

/-! ## Routing -/

@[simp ↓] theorem keep_keepGates (s : State) (e : Nat) (ks : List Nat) : (keepGates s e ks).rest = s.rest := by
  unfold keepGates; (try simp) <;> repeat' (split <;> try simp_all)

@[simp ↓] theorem keep_dropGates (s : State) (e : Nat) : (dropGates s e).rest = s.rest := by
  unfold dropGates; (try simp) <;> repeat' (split <;> try simp_all)

@[simp ↓] theorem keep_viewAdd (s : State) (c : Nat) (n : Nat) (g : Grp) : (viewAdd s c n g).rest = s.rest := by
  unfold viewAdd; (try simp) <;> repeat' (split <;> try simp_all)

@[simp ↓] theorem keep_sendReOffer (s : State) (u : Nat) (c : Option Nat) (d : Dest) : (sendReOffer s u c d).rest = s.rest := by
  unfold sendReOffer; (try simp) <;> repeat' (split <;> try simp_all)

@[simp ↓] theorem keep_placeOffers (s : State) (c : Nat) : (placeOffers s c).rest = s.rest := by
  unfold placeOffers; (try simp) <;> repeat' (split <;> try simp_all)

@[simp ↓] theorem keep_dropPlaces (s : State) (e : Nat) (f : Place → Bool) : (dropPlaces s e f).rest = s.rest := by
  unfold dropPlaces; (try simp) <;> repeat' (split <;> try simp_all)

@[simp ↓] theorem keep_freePlace (s : State) (e : Nat) : (freePlace s e).rest = s.rest := by
  unfold freePlace; (try simp) <;> repeat' (split <;> try simp_all)

@[simp ↓] theorem keep_unplace (s : State) (e : Nat) (timed : Bool) : (unplace s e timed).rest = s.rest := by
  unfold unplace; (try simp) <;> repeat' (split <;> try simp_all)

@[simp ↓] theorem keep_handOut (s : State) (e : Nat) (st : QState) : (handOut s e st).rest = s.rest := by
  unfold handOut; (try simp) <;> repeat' (split <;> try simp_all)

@[simp ↓] theorem keep_withdraw (s : State) (e : Nat) : (withdraw s e).rest = s.rest := by
  unfold withdraw; (try simp) <;> repeat' (split <;> try simp_all)

@[simp ↓] theorem keep_orphan (s : State) (e : Nat) : (orphan s e).rest = s.rest := by
  unfold orphan; (try simp) <;> repeat' (split <;> try simp_all)

@[simp ↓] theorem keep_killRecs (s : State) (e : Nat) (why : BitVec 4) : (killRecs s e why).rest = s.rest := by
  unfold killRecs; (try simp) <;> repeat' (split <;> try simp_all)

@[simp ↓] theorem keep_poison (s : State) (e : Nat) : (poison s e).rest = s.rest := by
  unfold poison; (try simp) <;> repeat' (split <;> try simp_all)

@[simp ↓] theorem keep_descRead (s : State) (e : Nat) : (descRead s e).rest = s.rest := by
  unfold descRead; (try simp) <;> repeat' (split <;> try simp_all)

@[simp ↓] theorem keep_offer (s' : State) (e : Nat) : (offer s' e).rest = s'.rest := by
  unfold offer; (try simp) <;> repeat' (split <;> try simp_all)

@[simp ↓] theorem keep_offerAgain (s : State) (e : Nat) : (offerAgain s e).rest = s.rest := by
  unfold offerAgain; (try simp) <;> repeat' (split <;> try simp_all)

@[simp ↓] theorem keep_settle (s : State) (e : Nat) : (settle s e).rest = s.rest := by
  unfold settle; (try simp) <;> repeat' (split <;> try simp_all)

@[simp ↓] theorem keep_resvTake (s : State) (u : Nat) (key : Nat) : (resvTake s u key).rest = s.rest := by
  unfold resvTake; (try simp) <;> repeat' (split <;> try simp_all)

@[simp ↓] theorem keep_takePlan (s : State) (e : Nat) (plan : List Nat × Option Nat) : (takePlan s e plan).rest = s.rest := by
  unfold takePlan; (try simp) <;> repeat' (split <;> try simp_all)

@[simp ↓] theorem keep_grant (s : State) (t : Token) : (grant s t).rest = s.rest := by
  unfold grant; (try simp) <;> repeat' (split <;> try simp_all)

@[simp ↓] theorem keep_parcelBooked (s : State) (p : Nat) : (parcelBooked s p).rest = s.rest := by
  unfold parcelBooked; (try simp) <;> repeat' (split <;> try simp_all)

@[simp ↓] theorem keep_countBooked (s : State) (e : Nat) (cause : Nat) (deferred : Bool) : (countBooked s e cause deferred).rest = s.rest := by
  unfold countBooked; (try simp) <;> repeat' (split <;> try simp_all)

/-! ## Parity -/

@[simp ↓] theorem keep_revokeWord (s : State) (c : Nat) (w : Nat) : (revokeWord s c w).rest = s.rest := by
  unfold revokeWord; (try simp) <;> repeat' (split <;> try simp_all)

@[simp ↓] theorem keep_takeSafe (s : State) (off : Nat) : (takeSafe s off).2.rest = s.rest := by
  unfold takeSafe
  simp only
  repeat' split
  all_goals first
    | rfl
    | simp only [keep_modCell, keep_revokeWord, keep_modHub, keep_modPwr, keep_modMbx, keep_modGrp]

@[simp ↓] theorem keep_parityCheck (s : State) (off : Nat) : (parityCheck s off).rest = s.rest := by
  unfold parityCheck; (try simp) <;> repeat' (split <;> try simp_all)

@[simp ↓] theorem keep_parityClear (s : State) (off : Nat) : (parityClear s off).rest = s.rest := by
  unfold parityClear; (try simp) <;> repeat' (split <;> try simp_all)

@[simp ↓] theorem keep_parityAll (s : State) (offs : List Nat) : (parityAll s offs).rest = s.rest := by
  unfold parityAll; (try simp) <;> repeat' (split <;> try simp_all)

@[simp ↓] theorem keep_gradeParity (s : State) (e : Nat) : (gradeParity s e).rest = s.rest := by
  unfold gradeParity; (try simp) <;> repeat' (split <;> try simp_all)

@[simp ↓] theorem keep_secureParity (s : State) (n : Nat) : (secureParity s n).rest = s.rest := by
  unfold secureParity; (try simp) <;> repeat' (split <;> try simp_all)

@[simp ↓] theorem keep_rodParityAll (s : State) (cs : List Nat) : (rodParityAll s cs).rest = s.rest := by
  unfold rodParityAll; (try simp) <;> repeat' (split <;> try simp_all)

@[simp ↓] theorem keep_rodParity (s : State) (c : Nat) : (rodParity s c).rest = s.rest := by
  unfold rodParity; (try simp) <;> repeat' (split <;> try simp_all)

@[simp ↓] theorem keep_secureParityAll (s : State) : (secureParityAll s).rest = s.rest := by
  unfold secureParityAll; (try simp) <;> repeat' (split <;> try simp_all)

@[simp ↓] theorem keep_reqWatchAll (s0 : State) (s1 : State) : (reqWatchAll s0 s1).rest = s1.rest := by
  unfold reqWatchAll; (try simp) <;> repeat' (split <;> try simp_all)

@[simp ↓] theorem keep_speedJudge (s0 : State) (s : State) : (speedJudge s0 s).rest = s.rest := by
  unfold speedJudge; (try simp) <;> repeat' (split <;> try simp_all)

/-! ## Ledger -/

@[simp ↓] theorem keep_enter (s : State) (e : Nat) (edge : Edge) (pl : Payload) (st : Stamp) (g : Bool) (deferred : Bool) : (enter s e edge pl st g deferred).rest = s.rest := by
  unfold enter; (try simp) <;> repeat' (split <;> try simp_all)

@[simp ↓] theorem keep_acceptToken (s : State) (t : Token) (replayed : Bool) (hw : s.rest.1) : (acceptToken s t replayed).rest = s.rest := by
  unfold acceptToken; (try simp +contextual (maxDischargeDepth := 12) [hw]) <;> repeat' (split <;> try simp_all +contextual (maxDischargeDepth := 12))

@[simp ↓] theorem keep_gangLost (s : State) (g : Nat) : (gangLost s g).rest = s.rest := by
  unfold gangLost; (try simp) <;> repeat' (split <;> try simp_all)

@[simp ↓] theorem keep_holdToken (s : State) (lc : Option Nat) (t : Token) (replayed : Bool) : (holdToken s lc t replayed).rest = s.rest := by
  unfold holdToken; (try simp) <;> repeat' (split <;> try simp_all)

@[simp ↓] theorem keep_placeToken (s : State) (t : Token) (replayed : Bool) (hw : s.rest.1) : (placeToken s t replayed).rest = s.rest := by
  unfold placeToken; (try simp +contextual (maxDischargeDepth := 12) [hw]) <;> repeat' (split <;> try simp_all +contextual (maxDischargeDepth := 12))

@[simp ↓] theorem keep_takeToken (s : State) (t : Token) (replayed : Bool) (hw : s.rest.1) : (takeToken s t replayed).rest = s.rest := by
  unfold takeToken; (try simp +contextual (maxDischargeDepth := 12) [hw]) <;> repeat' (split <;> try simp_all +contextual (maxDischargeDepth := 12))

@[simp ↓] theorem keep_retryHolds (s : State) (hw : s.rest.1) : (retryHolds s).rest = s.rest := by
  unfold retryHolds
  refine keep_forAll_wf _ _ _ hw fun t c ht => ?_
  split
  · rfl
  · split
    · rfl
    · rw [keep_placeToken] <;> simp [ht]

@[simp ↓] theorem keep_gangPass (s : State) (want : Option Nat) : (gangPass s want).rest = s.rest := by
  unfold gangPass
  split
  · rfl
  · have ha := arrive_rest ‹arrive _ _ = some (_, _)›
    split
    · simp only
      repeat' split
      all_goals simp_all
    · rfl

@[simp ↓] theorem keep_gangTurn (s : State) (want : Option Nat) : (gangTurn s want).rest = s.rest := by
  unfold gangTurn; (try simp) <;> repeat' (split <;> try simp_all)

@[simp ↓] theorem keep_ledgerTake (s' : State) (evid : Nat) (hw : s'.rest.1) : (ledgerTake s' evid).rest = s'.rest := by
  unfold ledgerTake
  have hg := keep_gangTurn s' (some evid)
  simp only
  repeat' split
  all_goals first
    | exact hg
    | (have ha := arrive_rest ‹arrive _ _ = some (_, _)›
       rw [keep_takeToken _ _ _ ((ha.trans hg) ▸ hw), ha, hg])

@[simp ↓] theorem keep_fieldBookRelease (s' : State) (evid : Nat) (hw : s'.rest.1) : (fieldBookRelease s' evid).rest = s'.rest := by
  unfold fieldBookRelease; (try simp +contextual (maxDischargeDepth := 12) [hw]) <;> repeat' (split <;> try simp_all +contextual (maxDischargeDepth := 12))

@[simp ↓] theorem keep_dueCount (s : State) (e : Nat) : (dueCount s e).rest = s.rest := by
  unfold dueCount; (try simp) <;> repeat' (split <;> try simp_all)

@[simp ↓] theorem keep_claimApply (s' : State) (e : Nat) (h : Holder) (ovf : Bool) (lost : Bool) : (claimApply s' e h ovf lost).rest = s'.rest := by
  unfold claimApply; (try simp) <;> repeat' (split <;> try simp_all)

@[simp ↓] theorem keep_completeApply (s' : State) (e : Nat) (h : Holder) : (completeApply s' e h).rest = s'.rest := by
  unfold completeApply; (try simp) <;> repeat' (split <;> try simp_all)

@[simp ↓] theorem keep_takeSlot (s : State) (e : Nat) : (takeSlot s e).rest = s.rest := by
  unfold takeSlot; (try simp) <;> repeat' (split <;> try simp_all)

@[simp ↓] theorem keep_ledgerClaim (s : State) (e : Nat) (h : Holder) : (ledgerClaim s e h).rest = s.rest := by
  unfold ledgerClaim; (try simp) <;> repeat' (split <;> try simp_all)

theorem serveDbReport_rest {s t : State} {d : Bool} (h : serveDbReport s d = some t) : t.rest = s.rest := by
  unfold serveDbReport at h
  split at h
  · have ha := arrive_rest ‹arrive _ _ = some (_, _)›
    split at h
    · simp only [Option.some.injEq] at h
      subst h
      simp [ha]
    · cases h
  · cases h
@[simp ↓] theorem keep_execClaimReport (evid : Nat) (s : State) (r : Rest) (h : s.rest = r) : Kept (execClaimReport evid s) r := by
  unfold execClaimReport; subst h
  split
  · next t ht =>
    by_cases he : evid = 0
    · rw [if_pos he] at ht; simp [serveDbReport_rest ht]
    · rw [if_neg he] at ht; cases ht
  · repeat' (split <;> (try have ha := arrive_rest ‹arrive _ _ = some (_, _)›) <;> try simp_all)

@[simp ↓] theorem keep_execCompletionMessage (evid : Nat) (s : State) (r : Rest) (h : s.rest = r) : Kept (execCompletionMessage evid s) r := by
  unfold execCompletionMessage; subst h
  split
  · next t ht =>
    by_cases he : evid = 0
    · rw [if_pos he] at ht; simp [serveDbReport_rest ht]
    · rw [if_neg he] at ht; cases ht
  · repeat' (split <;> (try have ha := arrive_rest ‹arrive _ _ = some (_, _)›) <;> try simp_all)

@[simp ↓] theorem keep_execBookedCountReport (evid : Nat) (s : State) (r : Rest) (h : s.rest = r) : Kept (execBookedCountReport evid s) r := by
  unfold execBookedCountReport; subst h; (try simp) <;> repeat' (split <;> (try have ha := arrive_rest ‹arrive _ _ = some (_, _)›) <;> try simp_all)

@[simp ↓] theorem keep_offerRoute (s : State) (d : Dest) (cs : List Nat) : (offerRoute s d cs).rest = s.rest := by
  unfold offerRoute; (try simp) <;> repeat' (split <;> try simp_all)

@[simp ↓] theorem keep_unpark (s : State) (n : Nat) : (unpark s n).rest = s.rest := by
  unfold unpark; (try simp) <;> repeat' (split <;> try simp_all)

@[simp ↓] theorem keep_execReOffer (d : Dest) (s : State) (r : Rest) (h : s.rest = r) : Kept (execReOffer d s) r := by
  unfold execReOffer; subst h; (try simp) <;> repeat' (split <;> (try have ha := arrive_rest ‹arrive _ _ = some (_, _)›) <;> try simp_all)

@[simp ↓] theorem keep_execHolderCheck (evid : Nat) (s : State) (r : Rest) (h : s.rest = r) : Kept (execHolderCheck evid s) r := by
  unfold execHolderCheck; subst h; (try simp) <;> repeat' (split <;> (try have ha := arrive_rest ‹arrive _ _ = some (_, _)›) <;> try simp_all)

@[simp ↓] theorem keep_recallLost (s : State) (e : Nat) : (recallLost s e).rest = s.rest := by
  unfold recallLost; (try simp) <;> repeat' (split <;> try simp_all)

@[simp ↓] theorem keep_holderAnswer (s : State) (evid : Nat) (hc : Bool) (he : Bool) : (holderAnswer s evid hc he).rest = s.rest := by
  unfold holderAnswer; (try simp) <;> repeat' (split <;> try simp_all)

@[simp ↓] theorem keep_execAgeScanVisit (evid : Nat) (s : State) (r : Rest) (h : s.rest = r) : Kept (execAgeScanVisit evid s) r := by
  unfold execAgeScanVisit; subst h; (try simp) <;> repeat' (split <;> (try have ha := arrive_rest ‹arrive _ _ = some (_, _)›) <;> try simp_all)

/-! ## Intake -/

@[simp ↓] theorem keep_stampSend (s' : State) (c : Nat) (t : Token) (held : Bool) : (stampSend s' c t held).rest = s'.rest := by
  unfold stampSend; (try simp) <;> repeat' (split <;> try simp_all)

@[simp ↓] theorem keep_watchWake (s : State) (w : Nat) : (watchWake s w).rest = s.rest := by
  unfold watchWake; (try simp) <;> repeat' (split <;> try simp_all)

@[simp ↓] theorem keep_watchHold (s : State) (w : Nat) (rise : Bool) : (watchHold s w rise).rest = s.rest := by
  unfold watchHold; (try simp) <;> repeat' (split <;> try simp_all)

@[simp ↓] theorem keep_execWiredInputChange (evid : Nat) (level : Bool) (heldTicks : Nat) (s' : State) (r : Rest) (h : s'.rest = r) : Kept (execWiredInputChange evid level heldTicks s') r := by
  unfold execWiredInputChange; subst h; (try simp) <;> repeat' (split <;> (try have ha := arrive_rest ‹arrive _ _ = some (_, _)›) <;> try simp_all)

@[simp ↓] theorem keep_sendLevel (s' : State) (e : Nat) : (sendLevel s' e).rest = s'.rest := by
  unfold sendLevel; (try simp) <;> repeat' (split <;> try simp_all)

@[simp ↓] theorem keep_releaseHeld (s : State) (c : Nat) (e : Nat) : (releaseHeld s c e).rest = s.rest := by
  unfold releaseHeld; (try simp) <;> repeat' (split <;> try simp_all)

@[simp ↓] theorem keep_takeDoorbell (s : State) (c : Nat) (d : DbWrite) (win : Bool) (handed : Bool) : (takeDoorbell s c d win handed).rest = s.rest := by
  unfold takeDoorbell; (try simp) <;> repeat' (split <;> try simp_all)

@[simp ↓] theorem keep_portWrite (s : State) (d : DbWrite) (win : Bool) : (portWrite s d win).rest = s.rest := by
  unfold portWrite; (try simp) <;> repeat' (split <;> try simp_all)

@[simp ↓] theorem keep_portTake (s : State) (d : DbWrite) (win : Bool) : (portTake s d win).rest = s.rest := by
  unfold portTake; (try simp) <;> repeat' (split <;> try simp_all)

@[simp ↓] theorem keep_drainPorts (s : State) : (drainPorts s).rest = s.rest := by
  unfold drainPorts; (try simp) <;> repeat' (split <;> try simp_all)

@[simp ↓] theorem keep_doorbell (s : State) (d : DbWrite) : (doorbell s d).rest = s.rest := by
  unfold doorbell; (try simp) <;> repeat' (split <;> try simp_all)

@[simp ↓] theorem keep_freeIntakes (s0 : State) (s : State) : (freeIntakes s0 s).rest = s.rest := by
  unfold freeIntakes; (try simp) <;> repeat' (split <;> try simp_all)

@[simp ↓] theorem keep_execDoorbellWrite (d : DbWrite) (s : State) (r : Rest) (h : s.rest = r) : Kept (execDoorbellWrite d s) r := by
  unfold execDoorbellWrite; subst h; (try simp) <;> repeat' (split <;> (try have ha := arrive_rest ‹arrive _ _ = some (_, _)›) <;> try simp_all)

/-! ## Rank -/

@[simp ↓] theorem keep_putSeats (s : State) (n : Nat) (t : Tour) (xs : List Seat) : (putSeats s n t xs).rest = s.rest := by
  unfold putSeats; (try simp) <;> repeat' (split <;> try simp_all)

@[simp ↓] theorem keep_setPark (s : State) (n : Nat) (t : Tour) (b : Bool) : (setPark s n t b).rest = s.rest := by
  unfold setPark; (try simp) <;> repeat' (split <;> try simp_all)

@[simp ↓] theorem keep_reportLoad (s : State) (n : Nat) (g : Grp) : (reportLoad s n g).rest = s.rest := by
  unfold reportLoad; (try simp) <;> repeat' (split <;> try simp_all)

@[simp ↓] theorem keep_reportTour (s : State) (n : Nat) (t : Tour) : (reportTour s n t).rest = s.rest := by
  unfold reportTour; split <;> simp

@[simp ↓] theorem keep_checkPark (s : State) (n : Nat) (t : Tour) : (checkPark s n t).rest = s.rest := by
  unfold checkPark; (try simp) <;> repeat' (split <;> try simp_all)

@[simp ↓] theorem keep_giveBack (s : State) (c : Cand) (parked : Bool) (n : Nat) : (giveBack s c parked n).rest = s.rest := by
  unfold giveBack; (try simp) <;> repeat' (split <;> try simp_all)

@[simp ↓] theorem keep_giveBackHub (s : State) (c : Cand) (parked : Bool) (cell : Option Nat) : (giveBackHub s c parked cell).rest = s.rest := by
  unfold giveBackHub; (try simp) <;> repeat' (split <;> try simp_all)

@[simp ↓] theorem keep_parkAt (s : State) (n : Nat) (t : Tour) (c : Cand) : (parkAt s n t c).rest = s.rest := by
  unfold parkAt; (try simp) <;> repeat' (split <;> try simp_all)

@[simp ↓] theorem keep_settleStation (s0 : State) (s : State) (n : Nat) : (settleStation s0 s n).rest = s.rest := by
  unfold settleStation; (try simp) <;> repeat' (split <;> try simp_all)

@[simp ↓] theorem keep_settleStations (s0 : State) (s : State) (ns : List Nat) : (settleStations s0 s ns).rest = s.rest := by
  unfold settleStations; (try simp) <;> repeat' (split <;> try simp_all)

@[simp ↓] theorem keep_countCtx (s : State) (v : Nat) (c : Cand) : (countCtx s v c).rest = s.rest := by
  unfold countCtx; (try simp) <;> repeat' (split <;> try simp_all)

@[simp ↓] theorem keep_countHeld (s : State) (v : Nat) : (countHeld s v).rest = s.rest := by
  unfold countHeld; (try simp) <;> repeat' (split <;> try simp_all)

@[simp ↓] theorem keep_moveDoorbells (s : State) : (moveDoorbells s).rest = s.rest := by
  unfold moveDoorbells; (try simp) <;> repeat' (split <;> try simp_all)

@[simp ↓] theorem keep_reachDoorbell (s : State) (v : Nat) (n : Nat) (c : Cand) : (reachDoorbell s v n c).rest = s.rest := by
  unfold reachDoorbell; (try simp) <;> repeat' (split <;> try simp_all)

@[simp ↓] theorem keep_seat (s : State) (n : Nat) (t : Tour) (c : Cand) : (seat s n t c).rest = s.rest := by
  unfold seat; (try simp) <;> repeat' (split <;> try simp_all)

@[simp ↓] theorem keep_reachStation (s : State) (n : Nat) (t : Tour) (c : Cand) : (reachStation s n t c).rest = s.rest := by
  unfold reachStation; (try simp) <;> repeat' (split <;> try simp_all)

@[simp ↓] theorem keep_execCandidateArrival (station : Nat) (evid : Nat) (s : State) (r : Rest) (h : s.rest = r) : Kept (execCandidateArrival station evid s) r := by
  unfold execCandidateArrival; subst h; (try simp) <;> repeat' (split <;> (try have ha := arrive_rest ‹arrive _ _ = some (_, _)›) <;> try simp_all)

@[simp ↓] theorem keep_execReleaseTargetReached (station : Nat) (evid : Nat) (s : State) (r : Rest) (h : s.rest = r) : Kept (execReleaseTargetReached station evid s) r := by
  unfold execReleaseTargetReached; subst h; (try simp) <;> repeat' (split <;> (try have ha := arrive_rest ‹arrive _ _ = some (_, _)›) <;> try simp_all)

@[simp ↓] theorem keep_unhand (s : State) (e : Nat) : (unhand s e).rest = s.rest := by
  unfold unhand; (try simp) <;> repeat' (split <;> try simp_all)

@[simp ↓] theorem keep_holdBack (s : State) (e : Nat) (k : Nat) : (holdBack s e k).rest = s.rest := by
  unfold holdBack; (try simp) <;> repeat' (split <;> try simp_all)

@[simp ↓] theorem keep_execLoadReport (station : Nat) (g : Grp) (s : State) (r : Rest) (h : s.rest = r) : Kept (execLoadReport station g s) r := by
  unfold execLoadReport; subst h; (try simp) <;> repeat' (split <;> (try have ha := arrive_rest ‹arrive _ _ = some (_, _)›) <;> try simp_all)

@[simp ↓] theorem keep_toMember (s : State) (c : Cand) (m : Nat) : (toMember s c m).rest = s.rest := by
  unfold toMember; (try simp) <;> repeat' (split <;> try simp_all)

@[simp ↓] theorem keep_spreadBack (s : State) (c : Cand) (rc : Option Nat) : (spreadBack s c rc).rest = s.rest := by
  unfold spreadBack; (try simp) <;> repeat' (split <;> try simp_all)

@[simp ↓] theorem keep_keptPlace (s : State) (c : Cand) : (keptPlace s c).2.rest = s.rest := by
  unfold keptPlace; (try simp) <;> repeat' (split <;> try simp_all)

@[simp ↓] theorem keep_execSpreadCandidateArrival (set : Nat) (evid : Nat) (s : State) (r : Rest) (h : s.rest = r) : Kept (execSpreadCandidateArrival set evid s) r := by
  unfold execSpreadCandidateArrival; subst h; (try simp) <;> repeat' (split <;> (try have ha := arrive_rest ‹arrive _ _ = some (_, _)›) <;> try simp_all)

@[simp ↓] theorem keep_vctxLeave (s : State) (n : Nat) : (vctxLeave s n).rest = s.rest := by
  unfold vctxLeave; (try simp) <;> repeat' (split <;> try simp_all)

@[simp ↓] theorem keep_poisonCtx (s : State) (v : Nat) : (poisonCtx s v).rest = s.rest := by
  unfold poisonCtx; (try simp) <;> repeat' (split <;> try simp_all)

@[simp ↓] theorem keep_recordCand (s : State) (v : Nat) (c : Cand) : (recordCand s v c).rest = s.rest := by
  unfold recordCand; (try simp) <;> repeat' (split <;> try simp_all)

@[simp ↓] theorem keep_execContextCandidateArrival (ctx : Nat) (evid : Nat) (s : State) (r : Rest) (h : s.rest = r) : Kept (execContextCandidateArrival ctx evid s) r := by
  unfold execContextCandidateArrival; subst h; (try simp) <;> repeat' (split <;> (try have ha := arrive_rest ‹arrive _ _ = some (_, _)›) <;> try simp_all)

@[simp ↓] theorem keep_intakeGang (s' : State) (c : Nat) (e : Nat) (pl : Payload) (st : Stamp) (risky : Bool) (src : Source) (lock : Lock) (sec : Bool) : (intakeGang s' c e pl st risky src lock sec).rest = s'.rest := by
  unfold intakeGang; (try simp) <;> repeat' (split <;> try simp_all)

@[simp ↓] theorem keep_gatherOffers (s0 : State) (s : State) : (gatherOffers s0 s).rest = s.rest := by
  unfold gatherOffers; (try simp) <;> repeat' (split <;> try simp_all)

@[simp ↓] theorem keep_gatherFree (s : State) (r : Gather) (risky : Bool) (post : Bool) : (gatherFree s r risky post).rest = s.rest := by
  unfold gatherFree; (try simp) <;> repeat' (split <;> try simp_all)

@[simp ↓] theorem keep_claimWhole (s : State) (e : Nat) (g : Nat) : (claimWhole s e g).rest = s.rest := by
  unfold claimWhole; (try simp) <;> repeat' (split <;> try simp_all)

@[simp ↓] theorem keep_gatherEnd (s : State) (r : Gather) (risky : Bool) (post : Bool) : (gatherEnd s r risky post).rest = s.rest := by
  unfold gatherEnd; (try simp) <;> repeat' (split <;> try simp_all)

@[simp ↓] theorem keep_memberClear (s : State) (r : Gather) (n : Nat) (risky : Bool) (post : Bool := true) : (memberClear s r n risky post).rest = s.rest := by
  unfold memberClear; (try simp) <;> repeat' (split <;> try simp_all)

@[simp ↓] theorem keep_memberServe (s : State) (id : Nat) (evid : Nat) (risky : Bool) (n : Nat) : (memberServe s id evid risky n).rest = s.rest := by
  unfold memberServe; (try simp) <;> repeat' (split <;> try simp_all)

@[simp ↓] theorem keep_execGangMemberCompletion (evid : Nat) (station : Nat) (s : State) (r : Rest) (h : s.rest = r) : Kept (execGangMemberCompletion evid station s) r := by
  unfold execGangMemberCompletion; subst h; (try simp) <;> repeat' (split <;> (try have ha := arrive_rest ‹arrive _ _ = some (_, _)›) <;> try simp_all)

@[simp ↓] theorem keep_execGangFanOut (gang : Nat) (evid : Nat) (s : State) (r : Rest) (h : s.rest = r) : Kept (execGangFanOut gang evid s) r := by
  unfold execGangFanOut; subst h; (try simp) <;> repeat' (split <;> (try have ha := arrive_rest ‹arrive _ _ = some (_, _)›) <;> try simp_all)

@[simp ↓] theorem keep_forceMembers (s : State) (evid : Nat) : (forceMembers s evid).rest = s.rest := by
  unfold forceMembers
  refine keep_forAll _ _ _ fun t y => ?_
  split <;> simp

@[simp ↓] theorem keep_execHolderCheckAnswer (evid : Nat) (s : State) (r : Rest) (h : s.rest = r) : Kept (execHolderCheckAnswer evid s) r := by
  unfold execHolderCheckAnswer; subst h; (try simp) <;> repeat' (split <;> (try have ha := arrive_rest ‹arrive _ _ = some (_, _)›) <;> try simp_all)

@[simp ↓] theorem keep_emptyCtx (s : State) (v : Nat) (e : Nat) : (emptyCtx s v e).rest = s.rest := by
  unfold emptyCtx; (try simp) <;> repeat' (split <;> try simp_all)

@[simp ↓] theorem keep_dropMembers (s : State) (id : Nat) : (dropMembers s id).rest = s.rest := by
  unfold dropMembers; (try simp) <;> repeat' (split <;> try simp_all)

@[simp ↓] theorem keep_execWithdrawalArrival (evid : Nat) (s : State) (r : Rest) (h : s.rest = r) : Kept (execWithdrawalArrival evid s) r := by
  unfold execWithdrawalArrival; subst h; (try simp) <;> repeat' (split <;> (try have ha := arrive_rest ‹arrive _ _ = some (_, _)›) <;> try simp_all)

@[simp ↓] theorem keep_execWithdrawnCandidateReturn (evid : Nat) (s : State) (r : Rest) (h : s.rest = r) : Kept (execWithdrawnCandidateReturn evid s) r := by
  unfold execWithdrawnCandidateReturn; subst h; (try simp) <;> repeat' (split <;> (try have ha := arrive_rest ‹arrive _ _ = some (_, _)›) <;> try simp_all)

@[simp ↓] theorem keep_execSeatAgeVisit (p : SeatPlace) (evid : Nat) (s : State) (r : Rest) (h : s.rest = r) : Kept (execSeatAgeVisit p evid s) r := by
  unfold execSeatAgeVisit; subst h; (try simp) <;> repeat' (split <;> (try have ha := arrive_rest ‹arrive _ _ = some (_, _)›) <;> try simp_all)

/-! ## Station -/

@[simp ↓] theorem keep_modPage (s : State) (p : Page) (f : Group → Group) : (modPage s p f).rest = s.rest := by
  unfold modPage; (try simp) <;> repeat' (split <;> try simp_all)

@[simp ↓] theorem keep_agedClaim (s : State) (aged : Bool) (e : Nat) (p : Page) : (agedClaim s aged e p).rest = s.rest := by
  unfold agedClaim; (try simp) <;> repeat' (split <;> try simp_all)

@[simp ↓] theorem keep_countClaim (s : State) (n : Nat) (parcel : Nat) : (countClaim s n parcel).rest = s.rest := by
  unfold countClaim; (try simp) <;> repeat' (split <;> try simp_all)

@[simp ↓] theorem keep_countGrade (s : State) (p : Page) (grade : Bool) : (countGrade s p grade).rest = s.rest := by
  unfold countGrade; (try simp) <;> repeat' (split <;> try simp_all)

@[simp ↓] theorem keep_pushEntry (s : State) (p : Page) (c : Cand) (kind : Bool) (ctx : Nat) : (pushEntry s p c kind ctx).rest = s.rest := by
  unfold pushEntry; (try simp) <;> repeat' (split <;> try simp_all)

@[simp ↓] theorem keep_pushClaim (s : State) (p : Page) (c : Cand) (kind : Bool) (ctx : Nat) (gang : Bool) : (pushClaim s p c kind ctx gang).rest = s.rest := by
  unfold pushClaim; (try simp) <;> repeat' (split <;> try simp_all)

@[simp ↓] theorem keep_holdClaim (s : State) (p : Page) (c : Cand) (m : Stamp) : (holdClaim s p c m).rest = s.rest := by
  unfold holdClaim; (try simp) <;> repeat' (split <;> try simp_all)

@[simp ↓] theorem keep_claimNone (s : State) (p : Page) (n : Option Nat) : (claimNone s p n).2.rest = s.rest := by
  unfold claimNone; (try simp) <;> repeat' (split <;> try simp_all)

@[simp ↓] theorem keep_claimDoorbell (s : State) (n : Nat) (c : Cand) : (claimDoorbell s n c).2.rest = s.rest := by
  unfold claimDoorbell; (try simp) <;> repeat' (split <;> try simp_all)

@[simp ↓] theorem keep_claimSeat (s : State) (n : Nat) (g : Grp) (c : Cand) : (claimSeat s n g c).2.rest = s.rest := by
  unfold claimSeat; (try simp) <;> repeat' (split <;> try simp_all)

@[simp ↓] theorem keep_sweepRecalled (s : State) (n : Nat) (t : Tour) : (sweepRecalled s n t).rest = s.rest := by
  unfold sweepRecalled; (try simp) <;> repeat' (split <;> try simp_all)

@[simp ↓] theorem keep_strikeSeat (s : State) (n : Nat) (t : Tour) (c : Cand) : (strikeSeat s n t c).2.rest = s.rest := by
  unfold strikeSeat; (try simp) <;> repeat' (split <;> try simp_all)

@[simp ↓] theorem keep_claimStation (s' : State) (n : Nat) (g : Grp) : (claimStation s' n g).2.rest = s'.rest := by
  unfold claimStation; (try simp) <;> repeat' (split <;> try simp_all)

@[simp ↓] theorem keep_claimVirt (s' : State) (v : Nat) : (claimVirt s' v).2.rest = s'.rest := by
  unfold claimVirt; (try simp) <;> repeat' (split <;> try simp_all)

@[simp ↓] theorem keep_claimDataArrival (s : State) (evid : Nat) : (claimDataArrival s evid).rest = s.rest := by
  unfold claimDataArrival
  split
  · rfl
  · have ha := arrive_rest ‹arrive _ _ = some (_, _)›
    split
    · split
      · exact ha
      · simpa using ha
    · rfl

@[simp ↓] theorem keep_sendMember (s : State) (id : Nat) (e : Nat) (n : Nat) : (sendMember s id e n).rest = s.rest := by
  unfold sendMember; (try simp) <;> repeat' (split <;> try simp_all)

@[simp ↓] theorem keep_complete (s' : State) (p : Page) (data : Word) : (complete s' p data).rest = s'.rest := by
  unfold complete; (try simp) <;> repeat' (split <;> try simp_all)

@[simp ↓] theorem keep_pageParity (s : State) (p : Page) : (pageParity s p).rest = s.rest := by
  unfold pageParity; (try simp) <;> repeat' (split <;> try simp_all)

@[simp ↓] theorem keep_watchPage (s0 : State) (s1 : State) (p : Page) : (watchPage s0 s1 p).rest = s1.rest := by
  unfold watchPage; (try simp) <;> repeat' (split <;> try simp_all)

@[simp ↓] theorem keep_writeRunning (s' : State) (p : Page) (data : Word) : (writeRunning s' p data).rest = s'.rest := by
  unfold writeRunning; (try simp) <;> repeat' (split <;> try simp_all)

@[simp ↓] theorem keep_writeMask (s' : State) (p : Page) (data : Word) : (writeMask s' p data).rest = s'.rest := by
  unfold writeMask; (try simp) <;> repeat' (split <;> try simp_all)

@[simp ↓] theorem keep_writePreBits (s' : State) (p : Page) (data : Word) : (writePreBits s' p data).rest = s'.rest := by
  unfold writePreBits; (try simp) <;> repeat' (split <;> try simp_all)

@[simp ↓] theorem keep_sendServe (s : State) (c : Nat) (k : Option Nat) : (sendServe s c k).rest = s.rest := by
  unfold sendServe; (try simp) <;> repeat' (split <;> try simp_all)

@[simp ↓] theorem keep_sendToken (s : State) (p : Page) (c : Nat) (k : Option Nat) (key : Nat) (t : Token) : (sendToken s p c k key t).rest = s.rest := by
  unfold sendToken; (try simp) <;> repeat' (split <;> try simp_all)

@[simp ↓] theorem keep_writeSend (s : State) (p : Page) (data : Word) (a : Acc) : (writeSend s p data a).rest = s.rest := by
  unfold writeSend; (try simp) <;> repeat' (split <;> try simp_all)

@[simp ↓] theorem keep_writeSendGang (s : State) (p : Page) (data : Word) (a : Acc) : (writeSendGang s p data a).rest = s.rest := by
  unfold writeSendGang; (try simp) <;> repeat' (split <;> try simp_all)

@[simp ↓] theorem keep_takeSendStatus (s : State) (p : Page) : (takeSendStatus s p).2.rest = s.rest := by
  unfold takeSendStatus; (try simp) <;> repeat' (split <;> try simp_all)

@[simp ↓] theorem keep_answerHeld (s : State) : (answerHeld s).rest = s.rest := by
  unfold answerHeld; (try simp) <;> repeat' (split <;> try simp_all)

@[simp ↓] theorem keep_execSendRejectionNotice (p : Page) (s : State) (r : Rest) (h : s.rest = r) : Kept (execSendRejectionNotice p s) r := by
  unfold execSendRejectionNotice; subst h; (try simp) <;> repeat' (split <;> (try have ha := arrive_rest ‹arrive _ _ = some (_, _)›) <;> try simp_all)

@[simp ↓] theorem keep_ctxRead (s : State) (v : Nat) : (ctxRead s v).rest = s.rest := by
  unfold ctxRead; (try simp) <;> repeat' (split <;> try simp_all)

@[simp ↓] theorem keep_vctxEnter (s' : State) (n : Nat) (low : BitVec 31) : (vctxEnter s' n low).rest = s'.rest := by
  unfold vctxEnter; (try simp) <;> repeat' (split <;> try simp_all)

@[simp ↓] theorem keep_ctxCapture (s' : State) (v : Nat) : (ctxCapture s' v).2.rest = s'.rest := by
  unfold ctxCapture; (try simp) <;> repeat' (split <;> try simp_all)

/-! ## StnRegs -/

@[simp ↓] theorem keep_claimRead (s : State) (p : Page) : (claimRead s p).2.rest = s.rest := by
  unfold claimRead; (try simp) <;> repeat' (split <;> try simp_all)

@[simp ↓] theorem keep_sendStatusRead (s : State) (p : Page) : (sendStatusRead s p).2.rest = s.rest := by
  unfold sendStatusRead; (try simp) <;> repeat' (split <;> try simp_all)

@[simp ↓] theorem keep_pageUse (s : State) (off : Nat) : (pageUse s off).rest = s.rest := by
  unfold pageUse; (try simp) <;> repeat' (split <;> try simp_all)

@[simp ↓] theorem keep_pageRead (s : State) (off : Nat) : (pageRead s off).2.rest = s.rest := by
  unfold pageRead; (try simp) <;> repeat' (split <;> try simp_all)

@[simp ↓] theorem keep_groupWrite (s : State) (p : Page) (o : Nat) (data : Word) (a : Acc) : (groupWrite s p o data a).rest = s.rest := by
  unfold groupWrite; (try simp) <;> repeat' (split <;> try simp_all)

@[simp ↓] theorem keep_vctxSwitch (s : State) (n : Nat) (data : Word) : (vctxSwitch s n data).rest = s.rest := by
  unfold vctxSwitch; (try simp) <;> repeat' (split <;> try simp_all)

@[simp ↓] theorem keep_pageWriteNow (s : State) (off : Nat) (data : Word) (a : Acc) : (pageWriteNow s off data a).rest = s.rest := by
  unfold pageWriteNow; (try simp) <;> repeat' (split <;> try simp_all)

@[simp ↓] theorem keep_pageWrite (s : State) (off : Nat) (data : Word) (a : Acc) : (pageWrite s off data a).rest = s.rest := by
  unfold pageWrite; (try simp) <;> repeat' (split <;> try simp_all)

@[simp ↓] theorem keep_applyHeld (s : State) (n : Nat) : (applyHeld s n).rest = s.rest := by
  unfold applyHeld; (try simp) <;> repeat' (split <;> try simp_all)

/-! ## CellCtl -/

@[simp ↓] theorem keep_journalPut (s : State) (off : Nat) (w : Word) : (journalPut s off w).rest = s.rest := by
  unfold journalPut; (try simp) <;> repeat' (split <;> try simp_all)

@[simp ↓] theorem keep_writeRod (s : State) (c : Nat) : (writeRod s c).rest = s.rest := by
  unfold writeRod; (try simp) <;> repeat' (split <;> try simp_all)

@[simp ↓] theorem keep_drainSeats (s : State) (n : Nat) (t : Tour) : (drainSeats s n t).rest = s.rest := by
  unfold drainSeats; (try simp) <;> repeat' (split <;> try simp_all)

@[simp ↓] theorem keep_disableCell (s : State) (c : Nat) : (disableCell s c).rest = s.rest := by
  unfold disableCell; (try simp) <;> repeat' (split <;> try simp_all)

@[simp ↓] theorem keep_enableCell (s : State) (c : Nat) : (enableCell s c).rest = s.rest := by
  unfold enableCell; (try simp) <;> repeat' (split <;> try simp_all)

@[simp ↓] theorem keep_writeCellEn (s : State) (c : Nat) (on : Bool) : (writeCellEn s c on).rest = s.rest := by
  unfold writeCellEn; (try simp) <;> repeat' (split <;> try simp_all)

@[simp ↓] theorem keep_execCellDrainDone (cell : Nat) (s : State) (r : Rest) (h : s.rest = r) : Kept (execCellDrainDone cell s) r := by
  unfold execCellDrainDone; subst h; (try simp) <;> repeat' (split <;> (try have ha := arrive_rest ‹arrive _ _ = some (_, _)›) <;> try simp_all)

@[simp ↓] theorem keep_writeHubEn (s : State) (on : Bool) (hw : s.rest.1) : (writeHubEn s on).rest = s.rest := by
  unfold writeHubEn
  simp only
  repeat' split
  all_goals first
    | rfl
    | (rw [keep_answerHeld, keep_freeIntakes, keep_retryHolds]; rfl; exact hw)
    | simp

@[simp ↓] theorem keep_execDatumLocalRecompute (cell : Nat) (s : State) (r : Rest) (h : s.rest = r) : Kept (execDatumLocalRecompute cell s) r := by
  unfold execDatumLocalRecompute; subst h; (try simp) <;> repeat' (split <;> (try have ha := arrive_rest ‹arrive _ _ = some (_, _)›) <;> try simp_all)

@[simp ↓] theorem keep_sweepSlot (s : State) (c : Nat) : (sweepSlot s c).rest = s.rest := by
  unfold sweepSlot; (try simp) <;> repeat' (split <;> try simp_all)

@[simp ↓] theorem keep_reEnable (s : State) (cs : List Nat) : (reEnable s cs).rest = s.rest := by
  unfold reEnable; (try simp) <;> repeat' (split <;> try simp_all)

@[simp ↓] theorem keep_sweep (s : State) : (sweep s).rest = s.rest := by
  unfold sweep; (try simp) <;> repeat' (split <;> try simp_all)

@[simp ↓] theorem keep_datumCommit (s' : State) (arg : Word) : (datumCommit s' arg).2.2.rest = s'.rest := by
  unfold datumCommit; (try simp) <;> repeat' (split <;> try simp_all)

@[simp ↓] theorem keep_swapPhys (s : State) (a : Nat) (b : Nat) : (swapPhys s a b).rest = s.rest := by
  unfold swapPhys; (try simp) <;> repeat' (split <;> try simp_all)

@[simp ↓] theorem keep_unswap (s : State) (u : Nat) : (unswap s u).rest = s.rest := by
  unfold unswap; (try simp) <;> repeat' (split <;> try simp_all)

@[simp ↓] theorem keep_substWith (spare : Nat → Bool) (s : State) (c : Nat) : (substWith spare s c).rest = s.rest := by
  unfold substWith; (try simp) <;> repeat' (split <;> try simp_all)

@[simp ↓] theorem keep_substitute (s : State) (c : Nat) : (substitute s c).rest = s.rest := by
  unfold substitute; (try simp) <;> repeat' (split <;> try simp_all)

@[simp ↓] theorem keep_selfTest (s : State) (u : Nat) (fails : List Nat) : (selfTest s u fails).rest = s.rest := by
  unfold selfTest; (try simp) <;> repeat' (split <;> try simp_all)

/-! ## Plat -/

@[simp ↓] theorem keep_writeTune (s : State) (c : Nat) : (writeTune s c).rest = s.rest := by
  unfold writeTune; (try simp) <;> repeat' (split <;> try simp_all)

@[simp ↓] theorem keep_writeSlot (p : PlatImage) (s : State) (r : Nat × List Word) : (writeSlot p s r).rest = s.rest := by
  unfold writeSlot; (try simp) <;> repeat' (split <;> try simp_all)

@[simp ↓] theorem keep_platWrite (s : State) (p : PlatImage) (cs : Nat → Bool) (hub : Bool) : (platWrite s p cs hub).rest = s.rest := by
  unfold platWrite; (try simp) <;> repeat' (split <;> try simp_all)

@[simp ↓] theorem keep_storePut (s : State) (one : Bool) (p : PlatImage) (mark : Bool) : (storePut s one p mark).rest = s.rest := by
  unfold storePut; (try simp) <;> repeat' (split <;> try simp_all)

@[simp ↓] theorem keep_bootPlat (s : State) (us : List Nat) : (bootPlat s us).rest = s.rest := by
  unfold bootPlat; (try simp) <;> repeat' (split <;> try simp_all)

/-! ## Loss -/

@[simp ↓] theorem keep_takeBack (s : State) (e : Nat) : (takeBack s e).rest = s.rest := by
  unfold takeBack; (try simp) <;> repeat' (split <;> try simp_all)

@[simp ↓] theorem keep_skipMember (s : State) (r : Gather) (n : Nat) : (skipMember s r n).rest = s.rest := by
  unfold skipMember; (try simp) <;> repeat' (split <;> try simp_all)

@[simp ↓] theorem keep_moveMember (s : State) (c : Cand) (n : Nat) : (moveMember s c n).rest = s.rest := by
  unfold moveMember; (try simp) <;> repeat' (split <;> try simp_all)

@[simp ↓] theorem keep_moveParked (s : State) (k : Nat) : (moveParked s k).rest = s.rest := by
  unfold moveParked; (try simp) <;> repeat' (split <;> try simp_all)

@[simp ↓] theorem keep_clearStation (s : State) (n : Nat) : (clearStation s n).rest = s.rest := by
  unfold clearStation; (try simp) <;> repeat' (split <;> try simp_all)

@[simp ↓] theorem keep_clearFlight (s : State) (k : Nat) : (clearFlight s k).rest = s.rest := by
  unfold clearFlight; (try simp) <;> repeat' (split <;> try simp_all)

@[simp ↓] theorem keep_giveUpDie (s : State) (k : Nat) : (giveUpDie s k).rest = s.rest := by
  unfold giveUpDie; (try simp) <;> repeat' (split <;> try simp_all)

@[simp ↓] theorem keep_settleUp (s : State) (k : Nat) : (settleUp s k).rest = s.rest := by
  unfold settleUp
  refine (keep_forAll _ _ _ fun t m => ?_).trans rfl
  (try simp) <;> repeat' (split <;> try simp_all)
  refine keep_forAll _ _ _ fun t n => ?_
  split
  · simp only [keep_modGang]; split <;> simp
  · rfl

@[simp ↓] theorem keep_forceEntry (n : Nat) (g : Grp) (k : Nat) (s : State) (x : Entry) : (forceEntry n g k s x).rest = s.rest := by
  unfold forceEntry; (try simp) <;> repeat' (split <;> try simp_all)

@[simp ↓] theorem keep_forceStation (k : Nat) (s : State) (n : Nat) : (forceStation k s n).rest = s.rest := by
  unfold forceStation; (try simp) <;> repeat' (split <;> try simp_all)

@[simp ↓] theorem keep_resetWired (s : State) (e : Nat) : (resetWired s e).rest = s.rest := by
  unfold resetWired; (try simp) <;> repeat' (split <;> try simp_all)

@[simp ↓] theorem keep_declareLost (s : State) (k : Nat) : (declareLost s k).rest = s.rest := by
  unfold declareLost; (try simp) <;> repeat' (split <;> try simp_all)

@[simp ↓] theorem keep_routesReturn (s' : State) : (routesReturn s').rest = s'.rest := by
  unfold routesReturn; (try simp) <;> repeat' (split <;> try simp_all)

@[simp ↓] theorem keep_execDatumSweep (s : State) (r : Rest) (h : s.rest = r) : Kept (execDatumSweep s) r := by
  unfold execDatumSweep; subst h; (try simp) <;> repeat' (split <;> (try have ha := arrive_rest ‹arrive _ _ = some (_, _)›) <;> try simp_all)

@[simp ↓] theorem keep_startRetrain (s : State) (k : Nat) : (startRetrain s k).rest = s.rest := by
  unfold startRetrain; (try simp) <;> repeat' (split <;> try simp_all)

@[simp ↓] theorem keep_linkError (s : State) (k : Nat) (cause : Nat) (up : Bool) : (linkError s k cause up).rest = s.rest := by
  unfold linkError; (try simp) <;> repeat' (split <;> try simp_all)

@[simp ↓] theorem keep_markReplay (s : State) (k : Nat) (up : Bool) (m : Nat) (n : Nat) : (markReplay s k up m n).rest = s.rest := by
  unfold markReplay; (try simp) <;> repeat' (split <;> try simp_all)

@[simp ↓] theorem keep_execReplayRequest (k : Nat) (f : LinkFlit) (s : State) (r : Rest) (h : s.rest = r) : Kept (execReplayRequest k f s) r := by
  unfold execReplayRequest; subst h; (try simp) <;> repeat' (split <;> (try have ha := arrive_rest ‹arrive _ _ = some (_, _)›) <;> try simp_all)

@[simp ↓] theorem keep_execFlitAckTimeout (k : Nat) (up : Bool) (s : State) (r : Rest) (h : s.rest = r) : Kept (execFlitAckTimeout k up s) r := by
  unfold execFlitAckTimeout; subst h; (try simp) <;> repeat' (split <;> (try have ha := arrive_rest ‹arrive _ _ = some (_, _)›) <;> try simp_all)

@[simp ↓] theorem keep_retrainFail (s : State) (k : Nat) : (retrainFail s k).rest = s.rest := by
  unfold retrainFail; (try simp) <;> repeat' (split <;> try simp_all)

@[simp ↓] theorem keep_execRetrainDone (k : Nat) (failedWire : Option Bool) (s : State) (r : Rest) (h : s.rest = r) : Kept (execRetrainDone k failedWire s) r := by
  unfold execRetrainDone; subst h; (try simp) <;> repeat' (split <;> (try have ha := arrive_rest ‹arrive _ _ = some (_, _)›) <;> try simp_all)

@[simp ↓] theorem keep_execRetrainAttemptTimeout (k : Nat) (s : State) (r : Rest) (h : s.rest = r) : Kept (execRetrainAttemptTimeout k s) r := by
  unfold execRetrainAttemptTimeout; subst h; (try simp) <;> repeat' (split <;> (try have ha := arrive_rest ‹arrive _ _ = some (_, _)›) <;> try simp_all)

@[simp ↓] theorem keep_resetStations (s : State) (k : Nat) : (resetStations s k).rest = s.rest := by
  unfold resetStations; (try simp) <;> repeat' (split <;> try simp_all)

@[simp ↓] theorem keep_takeShadow (s : State) (c : Nat) : (takeShadow s c).rest = s.rest := by
  unfold takeShadow; (try simp) <;> repeat' (split <;> try simp_all)

@[simp ↓] theorem keep_restoreSlots (s : State) (k : Nat) : (restoreSlots s k).rest = s.rest := by
  unfold restoreSlots; (try simp) <;> repeat' (split <;> try simp_all)

@[simp ↓] theorem keep_returnFail (s : State) (k : Nat) : (returnFail s k).rest = s.rest := by
  unfold returnFail; (try simp) <;> repeat' (split <;> try simp_all)

@[simp ↓] theorem keep_freshStores (s : State) (k : Nat) : (freshStores s k).rest = s.rest := by
  unfold freshStores; (try simp) <;> repeat' (split <;> try simp_all)

@[simp ↓] theorem keep_execReturnToService (k : Nat) (bist : Bist) (trained : Bool) (s : State) (r : Rest) (h : s.rest = r) : Kept (execReturnToService k bist trained s) r := by
  unfold execReturnToService; subst h; (try simp) <;> repeat' (split <;> (try have ha := arrive_rest ‹arrive _ _ = some (_, _)›) <;> try simp_all)

/-! ## Meridian -/

@[simp ↓] theorem keep_busyCells (s : State) (n : Nat) : (busyCells s n).rest = s.rest := by
  unfold busyCells; (try simp) <;> repeat' (split <;> try simp_all)

@[simp ↓] theorem keep_swdtTick (s : State) : (swdtTick s).rest = s.rest := by
  unfold swdtTick; (try simp) <;> repeat' (split <;> try simp_all)

@[simp ↓] theorem keep_tick (s0 : State) : (tick s0).rest = s0.rest := by
  unfold tick; (try simp) <;> repeat' (split <;> try simp_all)

@[simp ↓] theorem keep_fireAlarm (s : State) (a : Nat) (t : Stamp) (pre : Nat) : (fireAlarm s a t pre).rest = s.rest := by
  unfold fireAlarm; (try simp) <;> repeat' (split <;> try simp_all)

@[simp ↓] theorem keep_execMerAlarmFire (alarm : Nat) (s : State) (r : Rest) (h : s.rest = r) : Kept (execMerAlarmFire alarm s) r := by
  unfold execMerAlarmFire; subst h; (try simp) <;> repeat' (split <;> (try have ha := arrive_rest ‹arrive _ _ = some (_, _)›) <;> try simp_all)

@[simp ↓] theorem keep_writeAlarmCtrl (s : State) (a : Nat) (arm : Bool) (keep : Bool) : (writeAlarmCtrl s a arm keep).rest = s.rest := by
  unfold writeAlarmCtrl; (try simp) <;> repeat' (split <;> try simp_all)

@[simp ↓] theorem keep_writeAdj (s : State) (op : Nat) (hw : s.rest.1) : (writeAdj s op).rest = s.rest := by
  unfold writeAdj; (try simp +contextual (maxDischargeDepth := 12) [hw]) <;> repeat' (split <;> try simp_all +contextual (maxDischargeDepth := 12))

@[simp ↓] theorem keep_lateGather (s : State) (id : Option Nat) : (lateGather s id).rest = s.rest := by
  unfold lateGather; (try simp) <;> repeat' (split <;> try simp_all)

@[simp ↓] theorem keep_regradeArmed (s : State) (f : Nat → Armed → Bool) : (regradeArmed s f).rest = s.rest := by
  unfold regradeArmed; (try simp) <;> repeat' (split <;> try simp_all)

@[simp ↓] theorem keep_releasePassed (s : State) (n : Nat) : (releasePassed s n).rest = s.rest := by
  unfold releasePassed; (try simp) <;> repeat' (split <;> try simp_all)

@[simp ↓] theorem keep_advanceTrain (s : State) (t : Train) (n : Nat) : (advanceTrain s t n).rest = s.rest := by
  unfold advanceTrain; (try simp) <;> repeat' (split <;> try simp_all)

@[simp ↓] theorem keep_missTrain (s : State) (t : Train) : (missTrain s t).rest = s.rest := by
  unfold missTrain; (try simp) <;> repeat' (split <;> try simp_all)

@[simp ↓] theorem keep_missTrains (s : State) : (missTrains s).rest = s.rest := by
  unfold missTrains; (try simp) <;> repeat' (split <;> try simp_all)

@[simp ↓] theorem keep_stepAge (s : State) : (stepAge s).rest = s.rest := by
  unfold stepAge; (try simp) <;> repeat' (split <;> try simp_all)

@[simp ↓] theorem keep_applyStep (s : State) (hw : s.rest.1) : (applyStep s).rest = s.rest := by
  unfold applyStep; (try simp +contextual (maxDischargeDepth := 12) [hw]) <;> repeat' (split <;> try simp_all +contextual (maxDischargeDepth := 12))

@[simp ↓] theorem keep_unalign (s : State) (k : Nat) (arg1 : Word) : (unalign s k arg1).rest = s.rest := by
  unfold unalign; (try simp) <;> repeat' (split <;> try simp_all)

@[simp ↓] theorem keep_missEcho (s : State) (k : Nat) : (missEcho s k).rest = s.rest := by
  unfold missEcho; (try simp) <;> repeat' (split <;> try simp_all)

@[simp ↓] theorem keep_alignOne (s : State) (k : Nat) : (alignOne s k).rest = s.rest := by
  unfold alignOne; (try simp) <;> repeat' (split <;> try simp_all)

@[simp ↓] theorem keep_execAlignSlot (s : State) (r : Rest) (h : s.rest = r) (hw : r.1) : Kept (execAlignSlot s) r := by
  unfold execAlignSlot; subst h; (try simp +contextual (maxDischargeDepth := 12) [hw]) <;> repeat' (split <;> (try have ha := arrive_rest ‹arrive _ _ = some (_, _)›) <;> try simp_all +contextual (maxDischargeDepth := 12))

@[simp ↓] theorem keep_execAlign (k : Nat) (t2 : BitVec 32) (t3 : BitVec 32) (s : State) (r : Rest) (h : s.rest = r) : Kept (execAlign k t2 t3 s) r := by
  unfold execAlign; subst h; (try simp) <;> repeat' (split <;> (try have ha := arrive_rest ‹arrive _ _ = some (_, _)›) <;> try simp_all)

@[simp ↓] theorem keep_execEcho (k : Nat) (t4 : BitVec 32) (s : State) (r : Rest) (h : s.rest = r) : Kept (execEcho k t4 s) r := by
  unfold execEcho; subst h; (try simp) <;> repeat' (split <;> (try have ha := arrive_rest ‹arrive _ _ = some (_, _)›) <;> try simp_all)

@[simp ↓] theorem keep_execInit (k : Nat) (s : State) (r : Rest) (h : s.rest = r) : Kept (execInit k s) r := by
  unfold execInit; subst h; (try simp) <;> repeat' (split <;> (try have ha := arrive_rest ‹arrive _ _ = some (_, _)›) <;> try simp_all)

@[simp ↓] theorem keep_masterHoldover (s : State) : (masterHoldover s).rest = s.rest := by
  unfold masterHoldover; (try simp) <;> repeat' (split <;> try simp_all)

@[simp ↓] theorem keep_execPllHoldover (unit : Nat) (s : State) (r : Rest) (h : s.rest = r) : Kept (execPllHoldover unit s) r := by
  unfold execPllHoldover; subst h; (try simp) <;> repeat' (split <;> (try have ha := arrive_rest ‹arrive _ _ = some (_, _)›) <;> try simp_all)

@[simp ↓] theorem keep_execPllRelock (unit : Nat) (s : State) (r : Rest) (h : s.rest = r) : Kept (execPllRelock unit s) r := by
  unfold execPllRelock; subst h; (try simp) <;> repeat' (split <;> (try have ha := arrive_rest ‹arrive _ _ = some (_, _)›) <;> try simp_all)

@[simp ↓] theorem keep_execDegradedClear (s : State) (r : Rest) (h : s.rest = r) : Kept (execDegradedClear s) r := by
  unfold execDegradedClear; subst h; (try simp) <;> repeat' (split <;> (try have ha := arrive_rest ‹arrive _ _ = some (_, _)›) <;> try simp_all)

@[simp ↓] theorem keep_execTrainArmPoint (train : Nat) (s : State) (r : Rest) (h : s.rest = r) : Kept (execTrainArmPoint train s) r := by
  unfold execTrainArmPoint; subst h; (try simp) <;> repeat' (split <;> (try have ha := arrive_rest ‹arrive _ _ = some (_, _)›) <;> try simp_all)

@[simp ↓] theorem keep_splitOne (s : State) (win : Stamp) (key : Nat) : (splitOne s win key).rest = s.rest := by
  unfold splitOne; (try simp) <;> repeat' (split <;> try simp_all)

@[simp ↓] theorem keep_execReservationSplit (s : State) (r : Rest) (h : s.rest = r) : Kept (execReservationSplit s) r := by
  unfold execReservationSplit; subst h; (try simp) <;> repeat' (split <;> (try have ha := arrive_rest ‹arrive _ _ = some (_, _)›) <;> try simp_all)

@[simp ↓] theorem keep_execLease (station : Nat) (s : State) (r : Rest) (h : s.rest = r) : Kept (execLease station s) r := by
  unfold execLease; subst h; (try simp) <;> repeat' (split <;> (try have ha := arrive_rest ‹arrive _ _ = some (_, _)›) <;> try simp_all)

@[simp ↓] theorem keep_execLeaseRevocation (station : Nat) (s : State) (r : Rest) (h : s.rest = r) : Kept (execLeaseRevocation station s) r := by
  unfold execLeaseRevocation; subst h; (try simp) <;> repeat' (split <;> (try have ha := arrive_rest ‹arrive _ _ = some (_, _)›) <;> try simp_all)

@[simp ↓] theorem keep_execReservationWindowStart (s : State) (r : Rest) (h : s.rest = r) : Kept (execReservationWindowStart s) r := by
  unfold execReservationWindowStart; subst h; (try simp) <;> repeat' (split <;> (try have ha := arrive_rest ‹arrive _ _ = some (_, _)›) <;> try simp_all)

/-! ## Guard -/

@[simp ↓] theorem keep_speedAssert (s : State) : (speedAssert s).rest = s.rest := by
  unfold speedAssert; (try simp) <;> repeat' (split <;> try simp_all)

@[simp ↓] theorem keep_guardParity (s : State) : (guardParity s).rest = s.rest := by
  unfold guardParity; (try simp) <;> repeat' (split <;> try simp_all)

@[simp ↓] theorem keep_execSpeedReqRelease (s : State) (r : Rest) (h : s.rest = r) : Kept (execSpeedReqRelease s) r := by
  unfold execSpeedReqRelease; subst h; (try simp) <;> repeat' (split <;> (try have ha := arrive_rest ‹arrive _ _ = some (_, _)›) <;> try simp_all)

@[simp ↓] theorem keep_rodTrip (s : State) (c : Nat) (ps : BitVec 16) (thresh : Nat) : (rodTrip s c ps thresh).rest = s.rest := by
  unfold rodTrip; (try simp) <;> repeat' (split <;> try simp_all)

@[simp ↓] theorem keep_execRodMeasurement (cell : Nat) (ps : BitVec 16) (s : State) (r : Rest) (h : s.rest = r) : Kept (execRodMeasurement cell ps s) r := by
  unfold execRodMeasurement; subst h; (try simp) <;> repeat' (split <;> (try have ha := arrive_rest ‹arrive _ _ = some (_, _)›) <;> try simp_all)

@[simp ↓] theorem keep_execVoltageMonitorCrossing (d : Dom) (below : Bool) (s : State) (r : Rest) (h : s.rest = r) : Kept (execVoltageMonitorCrossing d below s) r := by
  unfold execVoltageMonitorCrossing; subst h; (try simp) <;> repeat' (split <;> (try have ha := arrive_rest ‹arrive _ _ = some (_, _)›) <;> try simp_all)

@[simp ↓] theorem keep_writeMargin (s : State) (c : Nat) (hot : Bool) : (writeMargin s c hot).rest = s.rest := by
  unfold writeMargin; (try simp) <;> repeat' (split <;> try simp_all)

@[simp ↓] theorem keep_marginPolicy (s : State) : (marginPolicy s).rest = s.rest := by
  unfold marginPolicy; (try simp) <;> repeat' (split <;> try simp_all)

@[simp ↓] theorem keep_execSensorSample (x : Samples) (s : State) (r : Rest) (h : s.rest = r) : Kept (execSensorSample x s) r := by
  unfold execSensorSample; subst h; (try simp) <;> repeat' (split <;> (try have ha := arrive_rest ‹arrive _ _ = some (_, _)›) <;> try simp_all)

/-! ## HubRegs -/

@[simp ↓] theorem keep_notifyPost (s : State) (b : Box) : (notifyPost s b).rest = s.rest := by
  unfold notifyPost; (try simp) <;> repeat' (split <;> try simp_all)

@[simp ↓] theorem keep_mbxEnd (s : State) (b : Box) (code : Nat) (resp : List Word) : (mbxEnd s b code resp).rest = s.rest := by
  unfold mbxEnd; (try simp) <;> repeat' (split <;> try simp_all)

@[simp ↓] theorem keep_notifyParity (s : State) (b : Box) : (notifyParity s b).rest = s.rest := by
  unfold notifyParity; (try simp) <;> repeat' (split <;> try simp_all)

@[simp ↓] theorem keep_mbxRing (s : State) (b : Box) : (mbxRing s b).rest = s.rest := by
  unfold mbxRing; (try simp) <;> repeat' (split <;> try simp_all)

@[simp ↓] theorem keep_mbxClear (s : State) (b : Box) (o : Nat) : (mbxClear s b o).rest = s.rest := by
  unfold mbxClear; (try simp) <;> repeat' (split <;> try simp_all)

@[simp ↓] theorem keep_mbxWrite (s : State) (b : Box) (o : Nat) (data : Word) : (mbxWrite s b o data).rest = s.rest := by
  unfold mbxWrite; (try simp) <;> repeat' (split <;> try simp_all)

@[simp ↓] theorem keep_hubClear (s : State) (o : Nat) : (hubClear s o).rest = s.rest := by
  unfold hubClear; (try simp) <;> repeat' (split <;> try simp_all)

@[simp ↓] theorem keep_hubCfgWhileEn (s : State) (o : Nat) : (hubCfgWhileEn s o).rest = s.rest := by
  unfold hubCfgWhileEn; (try simp) <;> repeat' (split <;> try simp_all)

@[simp ↓] theorem keep_writeSpeedCfg (s : State) (data : Word) : (writeSpeedCfg s data).rest = s.rest := by
  unfold writeSpeedCfg; (try simp) <;> repeat' (split <;> try simp_all)

@[simp ↓] theorem keep_hubWrite (s : State) (o : Nat) (data : Word) (hw : s.rest.1) : (hubWrite s o data).rest = s.rest := by
  unfold hubWrite
  split
  all_goals first
    | rfl
    | exact keep_writeHubEn _ _ hw
    | simp
    | (repeat' split) <;> first | rfl | simp

@[simp ↓] theorem keep_pwrClear (s : State) (o : Nat) : (pwrClear s o).rest = s.rest := by
  unfold pwrClear; (try simp) <;> repeat' (split <;> try simp_all)

@[simp ↓] theorem keep_merCapture (s : State) : (merCapture s).2.rest = s.rest := by
  unfold merCapture; (try simp) <;> repeat' (split <;> try simp_all)

@[simp ↓] theorem keep_swdtService (s : State) : (swdtService s).rest = s.rest := by
  unfold swdtService; (try simp) <;> repeat' (split <;> try simp_all)

@[simp ↓] theorem keep_pwrWrite (s : State) (o : Nat) (data : Word) (hw : s.rest.1) : (pwrWrite s o data).rest = s.rest := by
  unfold pwrWrite; (try simp +contextual (maxDischargeDepth := 12) [hw]) <;> repeat' (split <;> try simp_all +contextual (maxDischargeDepth := 12))

/-! ## CellRegs -/

@[simp ↓] theorem keep_cellClear184 (s : State) (c : Nat) : (cellClear184 s c).rest = s.rest := by
  unfold cellClear184; (try simp) <;> repeat' (split <;> try simp_all)

@[simp ↓] theorem keep_ctrCapture (s : State) (c : Nat) : (ctrCapture s c).2.rest = s.rest := by
  unfold ctrCapture; (try simp) <;> repeat' (split <;> try simp_all)

@[simp ↓] theorem keep_cellCfgWhileEn (s : State) (c : Nat) (o : Nat) : (cellCfgWhileEn s c o).rest = s.rest := by
  unfold cellCfgWhileEn; (try simp) <;> repeat' (split <;> try simp_all)

@[simp ↓] theorem keep_writePlatWord (s : State) (c : Nat) (i : Nat) (data : Word) : (writePlatWord s c i data).rest = s.rest := by
  unfold writePlatWord; (try simp) <;> repeat' (split <;> try simp_all)

@[simp ↓] theorem keep_writeTuneWord (s : State) (off : Nat) (data : Word) : (writeTuneWord s off data).rest = s.rest := by
  unfold writeTuneWord; (try simp) <;> repeat' (split <;> try simp_all)

@[simp ↓] theorem keep_writeTest (s : State) (off : Nat) (data : Word) (cap : State → State) (hcap : ∀ t, (cap t).rest = t.rest) : (writeTest s off data cap).rest = s.rest := by
  unfold writeTest; (try simp [hcap]) <;> repeat' (split <;> try simp_all)

@[simp ↓] theorem keep_writeTestCtl (s : State) (off : Nat) (issued : Nat) (data : Word) (cap : State → State) (hcap : ∀ t, (cap t).rest = t.rest) : (writeTestCtl s off issued data cap).rest = s.rest := by
  unfold writeTestCtl; (try simp [hcap]) <;> repeat' (split <;> try simp_all)

@[simp ↓] theorem keep_cellWrite (s : State) (off : Nat) (data : Word) (cap : State → State) (hcap : ∀ t, (cap t).rest = t.rest) : (cellWrite s off data cap).rest = s.rest := by
  unfold cellWrite; (try simp [hcap]) <;> repeat' (split <;> try simp_all)

/-! ## Operands -/

@[simp ↓] theorem keep_accNote (s : State) (r : HeldAcc) (reason : Nat) : (accNote s r reason).rest = s.rest := by
  unfold accNote; (try simp) <;> repeat' (split <;> try simp_all)

@[simp ↓] theorem keep_accRaise (s : State) (r : HeldAcc) (code : Nat) : (accRaise s r code).rest = s.rest := by
  unfold accRaise; (try simp) <;> repeat' (split <;> try simp_all)

@[simp ↓] theorem keep_widthFault (s : State) (r : HeldAcc) (reason : Nat) : (widthFault s r reason).rest = s.rest := by
  unfold widthFault; (try simp) <;> repeat' (split <;> try simp_all)

@[simp ↓] theorem keep_alignFault (s : State) (r : HeldAcc) : (alignFault s r).rest = s.rest := by
  unfold alignFault; (try simp) <;> repeat' (split <;> try simp_all)

@[simp ↓] theorem keep_unimplWrite (s : State) (r : HeldAcc) : (unimplWrite s r).rest = s.rest := by
  unfold unimplWrite; (try simp) <;> repeat' (split <;> try simp_all)

@[simp ↓] theorem keep_refuse (s : State) (r : HeldAcc) (off : Nat) : (refuse s r off).rest = s.rest := by
  unfold refuse; (try simp) <;> repeat' (split <;> try simp_all)

@[simp ↓] theorem keep_readParity (s : State) (off : Nat) : (readParity s off).rest = s.rest := by
  unfold readParity; (try simp) <;> repeat' (split <;> try simp_all)

@[simp ↓] theorem keep_readWord (s : State) (off : Nat) : (readWord s off).2.rest = s.rest := by
  unfold readWord; (try simp) <;> repeat' (split <;> try simp_all)

@[simp ↓] theorem keep_writeWord (s : State) (r : HeldAcc) (off : Nat) (data : Word) (hw : s.rest.1) : (writeWord s r off data).rest = s.rest := by
  unfold writeWord; (try simp +contextual (maxDischargeDepth := 12) [hw]) <;> repeat' (split <;> try simp_all +contextual (maxDischargeDepth := 12))

@[simp ↓] theorem keep_serveWord (s : State) (r : HeldAcc) (sz : Size) (off : Nat) (data : Word) (hw : s.rest.1) : (serveWord s r sz off data).2.rest = s.rest := by
  unfold serveWord; (try simp +contextual (maxDischargeDepth := 12) [hw]) <;> repeat' (split <;> try simp_all +contextual (maxDischargeDepth := 12))

@[simp ↓] theorem keep_respond (s : State) (data : BitVec 64) (err : Bool) : (respond s data err).rest = s.rest := by
  unfold respond; (try simp) <;> repeat' (split <;> try simp_all)

@[simp ↓] theorem keep_tagHeld (s : State) (tag : BitVec 16) (wide : Bool) : (tagHeld s tag wide).rest = s.rest := by
  unfold tagHeld; (try simp) <;> repeat' (split <;> try simp_all)

@[simp ↓] theorem keep_serveWide (s : State) (r : HeldAcc) (off : Nat) (hw : s.rest.1) : (serveWide s r off).rest = s.rest := by
  unfold serveWide; (try simp +contextual (maxDischargeDepth := 12) [hw]) <;> repeat' (split <;> try simp_all +contextual (maxDischargeDepth := 12))

@[simp ↓] theorem keep_serveReg (s : State) (r : HeldAcc) (hw : s.rest.1) : (serveReg s r).rest = s.rest := by
  unfold serveReg; (try simp +contextual (maxDischargeDepth := 12) [hw]) <;> repeat' (split <;> try simp_all +contextual (maxDischargeDepth := 12))

@[simp ↓] theorem keep_forwardFlits (s : State) (r : HeldAcc) (k : Nat) (up : Bool) (n : Nat) : (forwardFlits s r k up n).rest = s.rest := by
  simp [forwardFlits]

@[simp ↓] theorem keep_forwarded (s : State) (r : HeldAcc) (k : Option Nat) : (forwarded s r k).rest = s.rest := by
  cases k <;> simp [forwarded]
@[simp ↓] theorem keep_returnedAcc (s : State) (r : HeldAcc) (k : Option Nat) : (returnedAcc s r k).rest = s.rest := by
  cases k <;> simp [returnedAcc]
@[simp ↓] theorem keep_regServe (s : State) (r : HeldAcc) (hw : s.rest.1) : (regServe s r).rest = s.rest := by
  have h1 : (forwarded s r (servingDie s r)).rest = s.rest := by simp
  have h2 : (serveReg (forwarded s r (servingDie s r)) r).rest = s.rest := (keep_serveReg _ _ (by rw [h1]; exact hw)).trans h1
  unfold regServe
  repeat' split
  all_goals first
    | rfl
    | (simp only [keep_returnedAcc]; exact h2)
    | simp

@[simp ↓] theorem keep_serveWaits (s : State) (hw : s.rest.1) : (serveWaits s).rest = s.rest := by
  unfold serveWaits
  exact keep_forAll_wf _ _ _ hw fun t a ht => by simp [ht]

@[simp ↓] theorem keep_regAccess (s : State) (r : HeldAcc) (hw : s.rest.1) : (regAccess s r).rest = s.rest := by
  unfold regAccess; (try simp +contextual (maxDischargeDepth := 12) [hw]) <;> repeat' (split <;> try simp_all +contextual (maxDischargeDepth := 12))

@[simp ↓] theorem keep_serveHeld (s : State) (hw : s.rest.1) : (serveHeld s).rest = s.rest := by
  unfold serveHeld; (try simp +contextual (maxDischargeDepth := 12) [hw]) <;> repeat' (split <;> try simp_all +contextual (maxDischargeDepth := 12))

@[simp ↓] theorem keep_execLedgerTake (evid : Nat) (s : State) (r : Rest) (h : s.rest = r) (hw : r.1) : Kept (execLedgerTake evid s) r := by
  unfold execLedgerTake; subst h; (try simp +contextual (maxDischargeDepth := 12) [hw]) <;> repeat' (split <;> (try have ha := arrive_rest ‹arrive _ _ = some (_, _)›) <;> try simp_all +contextual (maxDischargeDepth := 12))

@[simp ↓] theorem keep_execFieldBookRelease (evid : Nat) (s : State) (r : Rest) (h : s.rest = r) (hw : r.1) : Kept (execFieldBookRelease evid s) r := by
  unfold execFieldBookRelease; subst h; (try simp +contextual (maxDischargeDepth := 12) [hw]) <;> repeat' (split <;> (try have ha := arrive_rest ‹arrive _ _ = some (_, _)›) <;> try simp_all +contextual (maxDischargeDepth := 12))

@[simp ↓] theorem keep_execClaimDataArrival (evid : Nat) (s : State) (r : Rest) (h : s.rest = r) (hw : r.1) : Kept (execClaimDataArrival evid s) r := by
  unfold execClaimDataArrival; subst h; (try simp +contextual (maxDischargeDepth := 12) [hw]) <;> repeat' (split <;> (try have ha := arrive_rest ‹arrive _ _ = some (_, _)›) <;> try simp_all +contextual (maxDischargeDepth := 12))

@[simp ↓] theorem keep_access (s : State) (off : Nat) (write : Bool) (data : BitVec 64) (a : Acc) (r : Rest) (h : s.rest = r) (hw : r.1) : Kept (access s off write data a) r := by
  unfold access; subst h; (try simp +contextual (maxDischargeDepth := 12) [hw]) <;> repeat' (split <;> (try have ha := arrive_rest ‹arrive _ _ = some (_, _)›) <;> try simp_all +contextual (maxDischargeDepth := 12))

@[simp ↓] theorem keep_stnAccess (n : Nat) (g : Grp) (o : Nat) (write : Bool) (data : Word) (a : Acc) (s : State) (r : Rest) (h : s.rest = r) (hw : r.1) : Kept (stnAccess n g o write data a s) r := by
  unfold stnAccess; subst h; (try simp +contextual (maxDischargeDepth := 12) [hw]) <;> repeat' (split <;> (try have ha := arrive_rest ‹arrive _ _ = some (_, _)›) <;> try simp_all +contextual (maxDischargeDepth := 12))

@[simp ↓] theorem keep_vstAccess (v : Nat) (o : Nat) (write : Bool) (data : Word) (a : Acc) (s : State) (r : Rest) (h : s.rest = r) (hw : r.1) : Kept (vstAccess v o write data a s) r := by
  unfold vstAccess; subst h; (try simp +contextual (maxDischargeDepth := 12) [hw]) <;> repeat' (split <;> (try have ha := arrive_rest ‹arrive _ _ = some (_, _)›) <;> try simp_all +contextual (maxDischargeDepth := 12))

@[simp ↓] theorem keep_cellAccess (c : Nat) (o : Nat) (write : Bool) (data : Word) (a : Acc) (s : State) (r : Rest) (h : s.rest = r) (hw : r.1) : Kept (cellAccess c o write data a s) r := by
  unfold cellAccess; subst h; (try simp +contextual (maxDischargeDepth := 12) [hw]) <;> repeat' (split <;> (try have ha := arrive_rest ‹arrive _ _ = some (_, _)›) <;> try simp_all +contextual (maxDischargeDepth := 12))

@[simp ↓] theorem keep_execStnClaim (station : Nat) (g : Grp) (a : Acc) (s : State) (r : Rest) (h : s.rest = r) (hw : r.1) : Kept (execStnClaim station g a s) r := by
  unfold execStnClaim; subst h; (try simp +contextual (maxDischargeDepth := 12) [hw]) <;> repeat' (split <;> (try have ha := arrive_rest ‹arrive _ _ = some (_, _)›) <;> try simp_all +contextual (maxDischargeDepth := 12))

@[simp ↓] theorem keep_execStnComplete (station : Nat) (g : Grp) (data : Word) (a : Acc) (s : State) (r : Rest) (h : s.rest = r) (hw : r.1) : Kept (execStnComplete station g data a s) r := by
  unfold execStnComplete; subst h; (try simp +contextual (maxDischargeDepth := 12) [hw]) <;> repeat' (split <;> (try have ha := arrive_rest ‹arrive _ _ = some (_, _)›) <;> try simp_all +contextual (maxDischargeDepth := 12))

@[simp ↓] theorem keep_execStnRunningRank (station : Nat) (g : Grp) (data : Word) (a : Acc) (s : State) (r : Rest) (h : s.rest = r) (hw : r.1) : Kept (execStnRunningRank station g data a s) r := by
  unfold execStnRunningRank; subst h; (try simp +contextual (maxDischargeDepth := 12) [hw]) <;> repeat' (split <;> (try have ha := arrive_rest ‹arrive _ _ = some (_, _)›) <;> try simp_all +contextual (maxDischargeDepth := 12))

@[simp ↓] theorem keep_execStnMaskRank (station : Nat) (g : Grp) (data : Word) (a : Acc) (s : State) (r : Rest) (h : s.rest = r) (hw : r.1) : Kept (execStnMaskRank station g data a s) r := by
  unfold execStnMaskRank; subst h; (try simp +contextual (maxDischargeDepth := 12) [hw]) <;> repeat' (split <;> (try have ha := arrive_rest ‹arrive _ _ = some (_, _)›) <;> try simp_all +contextual (maxDischargeDepth := 12))

@[simp ↓] theorem keep_execStnPreBits (station : Nat) (g : Grp) (data : Word) (a : Acc) (s : State) (r : Rest) (h : s.rest = r) (hw : r.1) : Kept (execStnPreBits station g data a s) r := by
  unfold execStnPreBits; subst h; (try simp +contextual (maxDischargeDepth := 12) [hw]) <;> repeat' (split <;> (try have ha := arrive_rest ‹arrive _ _ = some (_, _)›) <;> try simp_all +contextual (maxDischargeDepth := 12))

@[simp ↓] theorem keep_execStnSend (station : Nat) (g : Grp) (data : Word) (a : Acc) (s : State) (r : Rest) (h : s.rest = r) (hw : r.1) : Kept (execStnSend station g data a s) r := by
  unfold execStnSend; subst h; (try simp +contextual (maxDischargeDepth := 12) [hw]) <;> repeat' (split <;> (try have ha := arrive_rest ‹arrive _ _ = some (_, _)›) <;> try simp_all +contextual (maxDischargeDepth := 12))

@[simp ↓] theorem keep_execStnSendGang (station : Nat) (g : Grp) (data : Word) (a : Acc) (s : State) (r : Rest) (h : s.rest = r) (hw : r.1) : Kept (execStnSendGang station g data a s) r := by
  unfold execStnSendGang; subst h; (try simp +contextual (maxDischargeDepth := 12) [hw]) <;> repeat' (split <;> (try have ha := arrive_rest ‹arrive _ _ = some (_, _)›) <;> try simp_all +contextual (maxDischargeDepth := 12))

@[simp ↓] theorem keep_execStnSendStatus (station : Nat) (g : Grp) (a : Acc) (s : State) (r : Rest) (h : s.rest = r) (hw : r.1) : Kept (execStnSendStatus station g a s) r := by
  unfold execStnSendStatus; subst h; (try simp +contextual (maxDischargeDepth := 12) [hw]) <;> repeat' (split <;> (try have ha := arrive_rest ‹arrive _ _ = some (_, _)›) <;> try simp_all +contextual (maxDischargeDepth := 12))

@[simp ↓] theorem keep_execVctxEnter (station : Nat) (low : BitVec 31) (a : Acc) (s : State) (r : Rest) (h : s.rest = r) (hw : r.1) : Kept (execVctxEnter station low a s) r := by
  unfold execVctxEnter; subst h; (try simp +contextual (maxDischargeDepth := 12) [hw]) <;> repeat' (split <;> (try have ha := arrive_rest ‹arrive _ _ = some (_, _)›) <;> try simp_all +contextual (maxDischargeDepth := 12))

@[simp ↓] theorem keep_execVctxLeave (station : Nat) (low : BitVec 31) (a : Acc) (s : State) (r : Rest) (h : s.rest = r) (hw : r.1) : Kept (execVctxLeave station low a s) r := by
  unfold execVctxLeave; subst h; (try simp +contextual (maxDischargeDepth := 12) [hw]) <;> repeat' (split <;> (try have ha := arrive_rest ‹arrive _ _ = some (_, _)›) <;> try simp_all +contextual (maxDischargeDepth := 12))

@[simp ↓] theorem keep_execVstClaim (ctx : Nat) (a : Acc) (s : State) (r : Rest) (h : s.rest = r) (hw : r.1) : Kept (execVstClaim ctx a s) r := by
  unfold execVstClaim; subst h; (try simp +contextual (maxDischargeDepth := 12) [hw]) <;> repeat' (split <;> (try have ha := arrive_rest ‹arrive _ _ = some (_, _)›) <;> try simp_all +contextual (maxDischargeDepth := 12))

@[simp ↓] theorem keep_execVstComplete (ctx : Nat) (data : Word) (a : Acc) (s : State) (r : Rest) (h : s.rest = r) (hw : r.1) : Kept (execVstComplete ctx data a s) r := by
  unfold execVstComplete; subst h; (try simp +contextual (maxDischargeDepth := 12) [hw]) <;> repeat' (split <;> (try have ha := arrive_rest ‹arrive _ _ = some (_, _)›) <;> try simp_all +contextual (maxDischargeDepth := 12))

@[simp ↓] theorem keep_execVstRunningRank (ctx : Nat) (data : Word) (a : Acc) (s : State) (r : Rest) (h : s.rest = r) (hw : r.1) : Kept (execVstRunningRank ctx data a s) r := by
  unfold execVstRunningRank; subst h; (try simp +contextual (maxDischargeDepth := 12) [hw]) <;> repeat' (split <;> (try have ha := arrive_rest ‹arrive _ _ = some (_, _)›) <;> try simp_all +contextual (maxDischargeDepth := 12))

@[simp ↓] theorem keep_execVstMaskRank (ctx : Nat) (data : Word) (a : Acc) (s : State) (r : Rest) (h : s.rest = r) (hw : r.1) : Kept (execVstMaskRank ctx data a s) r := by
  unfold execVstMaskRank; subst h; (try simp +contextual (maxDischargeDepth := 12) [hw]) <;> repeat' (split <;> (try have ha := arrive_rest ‹arrive _ _ = some (_, _)›) <;> try simp_all +contextual (maxDischargeDepth := 12))

@[simp ↓] theorem keep_execVstPreBits (ctx : Nat) (data : Word) (a : Acc) (s : State) (r : Rest) (h : s.rest = r) (hw : r.1) : Kept (execVstPreBits ctx data a s) r := by
  unfold execVstPreBits; subst h; (try simp +contextual (maxDischargeDepth := 12) [hw]) <;> repeat' (split <;> (try have ha := arrive_rest ‹arrive _ _ = some (_, _)›) <;> try simp_all +contextual (maxDischargeDepth := 12))

@[simp ↓] theorem keep_execVstSend (ctx : Nat) (data : Word) (a : Acc) (s : State) (r : Rest) (h : s.rest = r) (hw : r.1) : Kept (execVstSend ctx data a s) r := by
  unfold execVstSend; subst h; (try simp +contextual (maxDischargeDepth := 12) [hw]) <;> repeat' (split <;> (try have ha := arrive_rest ‹arrive _ _ = some (_, _)›) <;> try simp_all +contextual (maxDischargeDepth := 12))

@[simp ↓] theorem keep_execVstSendGang (ctx : Nat) (data : Word) (a : Acc) (s : State) (r : Rest) (h : s.rest = r) (hw : r.1) : Kept (execVstSendGang ctx data a s) r := by
  unfold execVstSendGang; subst h; (try simp +contextual (maxDischargeDepth := 12) [hw]) <;> repeat' (split <;> (try have ha := arrive_rest ‹arrive _ _ = some (_, _)›) <;> try simp_all +contextual (maxDischargeDepth := 12))

@[simp ↓] theorem keep_execVstSendStatus (ctx : Nat) (a : Acc) (s : State) (r : Rest) (h : s.rest = r) (hw : r.1) : Kept (execVstSendStatus ctx a s) r := by
  unfold execVstSendStatus; subst h; (try simp +contextual (maxDischargeDepth := 12) [hw]) <;> repeat' (split <;> (try have ha := arrive_rest ‹arrive _ _ = some (_, _)›) <;> try simp_all +contextual (maxDischargeDepth := 12))

@[simp ↓] theorem keep_execVstCtxCapture (ctx : Nat) (a : Acc) (s : State) (r : Rest) (h : s.rest = r) (hw : r.1) : Kept (execVstCtxCapture ctx a s) r := by
  unfold execVstCtxCapture; subst h; (try simp +contextual (maxDischargeDepth := 12) [hw]) <;> repeat' (split <;> (try have ha := arrive_rest ‹arrive _ _ = some (_, _)›) <;> try simp_all +contextual (maxDischargeDepth := 12))

@[simp ↓] theorem keep_execMerCapture (a : Acc) (s : State) (r : Rest) (h : s.rest = r) (hw : r.1) : Kept (execMerCapture a s) r := by
  unfold execMerCapture; subst h; (try simp +contextual (maxDischargeDepth := 12) [hw]) <;> repeat' (split <;> (try have ha := arrive_rest ‹arrive _ _ = some (_, _)›) <;> try simp_all +contextual (maxDischargeDepth := 12))

@[simp ↓] theorem keep_execMerSlew (a : Acc) (s : State) (r : Rest) (h : s.rest = r) (hw : r.1) : Kept (execMerSlew a s) r := by
  unfold execMerSlew; subst h; (try simp +contextual (maxDischargeDepth := 12) [hw]) <;> repeat' (split <;> (try have ha := arrive_rest ‹arrive _ _ = some (_, _)›) <;> try simp_all +contextual (maxDischargeDepth := 12))

@[simp ↓] theorem keep_execMerStep (a : Acc) (s : State) (r : Rest) (h : s.rest = r) (hw : r.1) : Kept (execMerStep a s) r := by
  unfold execMerStep; subst h; (try simp +contextual (maxDischargeDepth := 12) [hw]) <;> repeat' (split <;> (try have ha := arrive_rest ‹arrive _ _ = some (_, _)›) <;> try simp_all +contextual (maxDischargeDepth := 12))

@[simp ↓] theorem keep_execMerCancel (a : Acc) (s : State) (r : Rest) (h : s.rest = r) (hw : r.1) : Kept (execMerCancel a s) r := by
  unfold execMerCancel; subst h; (try simp +contextual (maxDischargeDepth := 12) [hw]) <;> repeat' (split <;> (try have ha := arrive_rest ‹arrive _ _ = some (_, _)›) <;> try simp_all +contextual (maxDischargeDepth := 12))

@[simp ↓] theorem keep_execMerAlarmArm (alarm : Nat) (keepWake : Bool) (a : Acc) (s : State) (r : Rest) (h : s.rest = r) (hw : r.1) : Kept (execMerAlarmArm alarm keepWake a s) r := by
  unfold execMerAlarmArm; subst h; (try simp +contextual (maxDischargeDepth := 12) [hw]) <;> repeat' (split <;> (try have ha := arrive_rest ‹arrive _ _ = some (_, _)›) <;> try simp_all +contextual (maxDischargeDepth := 12))

@[simp ↓] theorem keep_execCellEnable (cell : Nat) (a : Acc) (s : State) (r : Rest) (h : s.rest = r) (hw : r.1) : Kept (execCellEnable cell a s) r := by
  unfold execCellEnable; subst h; (try simp +contextual (maxDischargeDepth := 12) [hw]) <;> repeat' (split <;> (try have ha := arrive_rest ‹arrive _ _ = some (_, _)›) <;> try simp_all +contextual (maxDischargeDepth := 12))

@[simp ↓] theorem keep_execCellDisable (cell : Nat) (a : Acc) (s : State) (r : Rest) (h : s.rest = r) (hw : r.1) : Kept (execCellDisable cell a s) r := by
  unfold execCellDisable; subst h; (try simp +contextual (maxDischargeDepth := 12) [hw]) <;> repeat' (split <;> (try have ha := arrive_rest ‹arrive _ _ = some (_, _)›) <;> try simp_all +contextual (maxDischargeDepth := 12))

@[simp ↓] theorem keep_execHubEnable (a : Acc) (s : State) (r : Rest) (h : s.rest = r) (hw : r.1) : Kept (execHubEnable a s) r := by
  unfold execHubEnable; subst h; (try simp +contextual (maxDischargeDepth := 12) [hw]) <;> repeat' (split <;> (try have ha := arrive_rest ‹arrive _ _ = some (_, _)›) <;> try simp_all +contextual (maxDischargeDepth := 12))

@[simp ↓] theorem keep_execHubDisable (a : Acc) (s : State) (r : Rest) (h : s.rest = r) (hw : r.1) : Kept (execHubDisable a s) r := by
  unfold execHubDisable; subst h; (try simp +contextual (maxDischargeDepth := 12) [hw]) <;> repeat' (split <;> (try have ha := arrive_rest ‹arrive _ _ = some (_, _)›) <;> try simp_all +contextual (maxDischargeDepth := 12))

@[simp ↓] theorem keep_execHubDbRejArm (a : Acc) (s : State) (r : Rest) (h : s.rest = r) (hw : r.1) : Kept (execHubDbRejArm a s) r := by
  unfold execHubDbRejArm; subst h; (try simp +contextual (maxDischargeDepth := 12) [hw]) <;> repeat' (split <;> (try have ha := arrive_rest ‹arrive _ _ = some (_, _)›) <;> try simp_all +contextual (maxDischargeDepth := 12))

@[simp ↓] theorem keep_execHubAccCapArm (a : Acc) (s : State) (r : Rest) (h : s.rest = r) (hw : r.1) : Kept (execHubAccCapArm a s) r := by
  unfold execHubAccCapArm; subst h; (try simp +contextual (maxDischargeDepth := 12) [hw]) <;> repeat' (split <;> (try have ha := arrive_rest ‹arrive _ _ = some (_, _)›) <;> try simp_all +contextual (maxDischargeDepth := 12))

@[simp ↓] theorem keep_execCellCtrCapture (cell : Nat) (a : Acc) (s : State) (r : Rest) (h : s.rest = r) (hw : r.1) : Kept (execCellCtrCapture cell a s) r := by
  unfold execCellCtrCapture; subst h; (try simp +contextual (maxDischargeDepth := 12) [hw]) <;> repeat' (split <;> (try have ha := arrive_rest ‹arrive _ _ = some (_, _)›) <;> try simp_all +contextual (maxDischargeDepth := 12))

@[simp ↓] theorem keep_execWrGo (cell : Nat) (data : Word) (a : Acc) (s : State) (r : Rest) (h : s.rest = r) (hw : r.1) : Kept (execWrGo cell data a s) r := by
  unfold execWrGo; subst h; (try simp +contextual (maxDischargeDepth := 12) [hw]) <;> repeat' (split <;> (try have ha := arrive_rest ‹arrive _ _ = some (_, _)›) <;> try simp_all +contextual (maxDischargeDepth := 12))

@[simp ↓] theorem keep_execOvfClr (cell : Nat) (data : Word) (a : Acc) (s : State) (r : Rest) (h : s.rest = r) (hw : r.1) : Kept (execOvfClr cell data a s) r := by
  unfold execOvfClr; subst h; (try simp +contextual (maxDischargeDepth := 12) [hw]) <;> repeat' (split <;> (try have ha := arrive_rest ‹arrive _ _ = some (_, _)›) <;> try simp_all +contextual (maxDischargeDepth := 12))

@[simp ↓] theorem keep_execSwdtService (data : Word) (a : Acc) (s : State) (r : Rest) (h : s.rest = r) (hw : r.1) : Kept (execSwdtService data a s) r := by
  unfold execSwdtService; subst h; (try simp +contextual (maxDischargeDepth := 12) [hw]) <;> repeat' (split <;> (try have ha := arrive_rest ‹arrive _ _ = some (_, _)›) <;> try simp_all +contextual (maxDischargeDepth := 12))

@[simp ↓] theorem keep_execRcRegisterRead (offset : Nat) (a : Acc) (s : State) (r : Rest) (h : s.rest = r) (hw : r.1) : Kept (execRcRegisterRead offset a s) r := by
  unfold execRcRegisterRead; subst h; (try simp +contextual (maxDischargeDepth := 12) [hw]) <;> repeat' (split <;> (try have ha := arrive_rest ‹arrive _ _ = some (_, _)›) <;> try simp_all +contextual (maxDischargeDepth := 12))

@[simp ↓] theorem keep_execRegisterWrite (offset : Nat) (data : BitVec 64) (a : Acc) (s : State) (r : Rest) (h : s.rest = r) (hw : r.1) : Kept (execRegisterWrite offset data a s) r := by
  unfold execRegisterWrite; subst h; (try simp +contextual (maxDischargeDepth := 12) [hw]) <;> repeat' (split <;> (try have ha := arrive_rest ‹arrive _ _ = some (_, _)›) <;> try simp_all +contextual (maxDischargeDepth := 12))

@[simp ↓] theorem keep_rewriteTuning (s : State) (offset : Nat) : (rewriteTuning s offset).rest = s.rest := by
  unfold rewriteTuning; (try simp) <;> repeat' (split <;> try simp_all)

@[simp ↓] theorem keep_rewriteAll (s : State) : (rewriteAll s).rest = s.rest := by
  unfold rewriteAll; (try simp) <;> repeat' (split <;> try simp_all)

@[simp ↓] theorem keep_execTuningRewrite (offset : Nat) (s : State) (r : Rest) (h : s.rest = r) : Kept (execTuningRewrite offset s) r := by
  unfold execTuningRewrite; subst h; (try simp) <;> repeat' (split <;> (try have ha := arrive_rest ‹arrive _ _ = some (_, _)›) <;> try simp_all)

/-! ## Mailbox -/

@[simp ↓] theorem keep_failWith (s : State) (code : Nat) : (failWith s code).st.rest = s.rest := by
  unfold failWith; (try simp) <;> repeat' (split <;> try simp_all)

@[simp ↓] theorem keep_checked (c : Call) (ms : List Word) (cs : List (Bool × Nat)) (s : State) (f : Unit → Res) (r : Rest) (hs : s.rest = r) (h : (f ()).st.rest = r) : (checked c ms cs s f).st.rest = r := by
  unfold checked; split
  · exact hs
  · exact h

@[simp ↓] theorem keep_endCmd (s : State) (b : Box) (code : Nat) (resp : List Word) : (endCmd s b code resp).rest = s.rest := by
  unfold endCmd; (try simp) <;> repeat' (split <;> try simp_all)

@[simp ↓] theorem keep_serveBox (b : Box) (op : Nat) (form : Call → Bool) (f : Call → State → Res) (s : State) (r : Rest) (h : s.rest = r) (hf : ∀ c t, t.rest = r → (f c t).st.rest = r) : Kept (serveBox b op form f s) r := by
  unfold serveBox
  simp only
  repeat' split
  all_goals first | exact h | (simp only [kept_next, keep_endCmd, keep_parityAll]; first | exact h | exact hf _ _ ((keep_parityAll _ _).trans h))

@[simp ↓] theorem keep_cmdGetInfo (c : Call) (s : State) : (cmdGetInfo c s).st.rest = s.rest := by
  unfold cmdGetInfo; (try simp) <;> repeat' (split <;> try simp_all)

@[simp ↓] theorem keep_cmdStatusPeek (c : Call) (s : State) : (cmdStatusPeek c s).st.rest = s.rest := by
  unfold cmdStatusPeek; (try simp) <;> repeat' (split <;> try simp_all)

@[simp ↓] theorem keep_unservedLost (s : State) : (unservedLost s).rest = s.rest := by
  unfold unservedLost; (try simp) <;> repeat' (split <;> try simp_all)

@[simp ↓] theorem keep_cmdPlatLoad (c : Call) (s : State) : (cmdPlatLoad c s).st.rest = s.rest := by
  unfold cmdPlatLoad; (try simp) <;> repeat' (split <;> try simp_all)

@[simp ↓] theorem keep_cmdDatumCommit (c : Call) (s : State) : (cmdDatumCommit c s).st.rest = s.rest := by
  unfold cmdDatumCommit; (try simp) <;> repeat' (split <;> try simp_all)

@[simp ↓] theorem keep_cmdEnable (c : Call) (s : State) : (cmdEnable c s).st.rest = s.rest := by
  unfold cmdEnable; (try simp) <;> repeat' (split <;> try simp_all)

@[simp ↓] theorem keep_markQuiet (s : State) (d : Nat) : (markQuiet s d).rest = s.rest := by
  unfold markQuiet; (try simp) <;> repeat' (split <;> try simp_all)

@[simp ↓] theorem keep_cmdDisable (c : Call) (s : State) : (cmdDisable c s).st.rest = s.rest := by
  unfold cmdDisable; (try simp) <;> repeat' (split <;> try simp_all)

@[simp ↓] theorem keep_execGetInfo (b : Box) (s : State) (r : Rest) (h : s.rest = r) : Kept (execGetInfo b s) r := by
  unfold execGetInfo; subst h; (try simp) <;> repeat' (split <;> (try have ha := arrive_rest ‹arrive _ _ = some (_, _)›) <;> try simp_all)

@[simp ↓] theorem keep_execStatusPeek (b : Box) (s : State) (r : Rest) (h : s.rest = r) : Kept (execStatusPeek b s) r := by
  unfold execStatusPeek; subst h; (try simp) <;> repeat' (split <;> (try have ha := arrive_rest ‹arrive _ _ = some (_, _)›) <;> try simp_all)

@[simp ↓] theorem keep_execPlatLoad (b : Box) (s : State) (r : Rest) (h : s.rest = r) : Kept (execPlatLoad b s) r := by
  unfold execPlatLoad; subst h; (try simp) <;> repeat' (split <;> (try have ha := arrive_rest ‹arrive _ _ = some (_, _)›) <;> try simp_all)

@[simp ↓] theorem keep_execDatumCommit (b : Box) (s : State) (r : Rest) (h : s.rest = r) : Kept (execDatumCommit b s) r := by
  unfold execDatumCommit; subst h; (try simp) <;> repeat' (split <;> (try have ha := arrive_rest ‹arrive _ _ = some (_, _)›) <;> try simp_all)

@[simp ↓] theorem keep_execEnable (b : Box) (s : State) (r : Rest) (h : s.rest = r) : Kept (execEnable b s) r := by
  unfold execEnable; subst h; (try simp) <;> repeat' (split <;> (try have ha := arrive_rest ‹arrive _ _ = some (_, _)›) <;> try simp_all)

@[simp ↓] theorem keep_execDisable (b : Box) (s : State) (r : Rest) (h : s.rest = r) : Kept (execDisable b s) r := by
  unfold execDisable; subst h; (try simp) <;> repeat' (split <;> (try have ha := arrive_rest ‹arrive _ _ = some (_, _)›) <;> try simp_all)

/-! ## Queues -/

@[simp ↓] theorem keep_settleReports (s : State) (e : Nat) : (settleReports s e).rest = s.rest := by
  unfold settleReports
  refine (keep_forAll _ _ _ fun t m => ?_).trans rfl
  (try simp) <;> repeat' (split <;> try simp_all)

@[simp ↓] theorem keep_purge (s : State) (e : Nat) : (purge s e).rest = s.rest := by
  unfold purge; (try simp) <;> repeat' (split <;> try simp_all)

@[simp ↓] theorem keep_setInput (s : State) (e : Nat) (w : Word) (fresh : Bool) : (setInput s e w fresh).rest = s.rest := by
  unfold setInput; (try simp) <;> repeat' (split <;> try simp_all)

@[simp ↓] theorem keep_cmdQueueBind (c : Call) (s0 : State) : (cmdQueueBind c s0).st.rest = s0.rest := by
  unfold cmdQueueBind; (try simp) <;> repeat' (split <;> try simp_all)

@[simp ↓] theorem keep_unbind (s : State) (e : Nat) (why : BitVec 4) : (unbind s e why).rest = s.rest := by
  unfold unbind; (try simp) <;> repeat' (split <;> try simp_all)

@[simp ↓] theorem keep_cmdQueueUnbind (c : Call) (s0 : State) : (cmdQueueUnbind c s0).st.rest = s0.rest := by
  unfold cmdQueueUnbind; (try simp) <;> repeat' (split <;> try simp_all)

@[simp ↓] theorem keep_changeMode (s : State) (e : Nat) (m : QMode) (quota : BitVec 12) : (changeMode s e m quota).rest = s.rest := by
  unfold changeMode; (try simp) <;> repeat' (split <;> try simp_all)

@[simp ↓] theorem keep_countClear (s : State) (e : Nat) : (countClear s e).rest = s.rest := by
  unfold countClear; (try simp) <;> repeat' (split <;> try simp_all)

@[simp ↓] theorem keep_cmdQueueSet (c : Call) (s0 : State) : (cmdQueueSet c s0).st.rest = s0.rest := by
  unfold cmdQueueSet; (try simp) <;> repeat' (split <;> try simp_all)

@[simp ↓] theorem keep_cmdRouteQueue (c : Call) (s0 : State) : (cmdRouteQueue c s0).st.rest = s0.rest := by
  unfold cmdRouteQueue; (try simp) <;> repeat' (split <;> try simp_all)

@[simp ↓] theorem keep_cmdRouteDie (c : Call) (s : State) : (cmdRouteDie c s).st.rest = s.rest := by
  unfold cmdRouteDie; (try simp) <;> repeat' (split <;> try simp_all)

@[simp ↓] theorem keep_cmdRouteResv (c : Call) (s : State) : (cmdRouteResv c s).st.rest = s.rest := by
  unfold cmdRouteResv; (try simp) <;> repeat' (split <;> try simp_all)

@[simp ↓] theorem keep_cmdSpreadDefine (c : Call) (s : State) : (cmdSpreadDefine c s).st.rest = s.rest := by
  unfold cmdSpreadDefine; (try simp) <;> repeat' (split <;> try simp_all)

@[simp ↓] theorem keep_cmdGangDefine (c : Call) (s : State) : (cmdGangDefine c s).st.rest = s.rest := by
  unfold cmdGangDefine; (try simp) <;> repeat' (split <;> try simp_all)

@[simp ↓] theorem keep_cmdGangUndefine (c : Call) (s : State) : (cmdGangUndefine c s).st.rest = s.rest := by
  unfold cmdGangUndefine; (try simp) <;> repeat' (split <;> try simp_all)

@[simp ↓] theorem keep_cmdGangReleaseAt (c : Call) (s : State) : (cmdGangReleaseAt c s).st.rest = s.rest := by
  unfold cmdGangReleaseAt; (try simp) <;> repeat' (split <;> try simp_all)

@[simp ↓] theorem keep_execQueueBind (b : Box) (s : State) (r : Rest) (h : s.rest = r) : Kept (execQueueBind b s) r := by
  unfold execQueueBind; subst h; (try simp) <;> repeat' (split <;> (try have ha := arrive_rest ‹arrive _ _ = some (_, _)›) <;> try simp_all)

@[simp ↓] theorem keep_execQueueUnbind (b : Box) (s : State) (r : Rest) (h : s.rest = r) : Kept (execQueueUnbind b s) r := by
  unfold execQueueUnbind; subst h; (try simp) <;> repeat' (split <;> (try have ha := arrive_rest ‹arrive _ _ = some (_, _)›) <;> try simp_all)

@[simp ↓] theorem keep_execQueueSet (b : Box) (s : State) (r : Rest) (h : s.rest = r) : Kept (execQueueSet b s) r := by
  unfold execQueueSet; subst h; (try simp) <;> repeat' (split <;> (try have ha := arrive_rest ‹arrive _ _ = some (_, _)›) <;> try simp_all)

@[simp ↓] theorem keep_execRouteSetQueue (b : Box) (s : State) (r : Rest) (h : s.rest = r) : Kept (execRouteSetQueue b s) r := by
  unfold execRouteSetQueue; subst h; (try simp) <;> repeat' (split <;> (try have ha := arrive_rest ‹arrive _ _ = some (_, _)›) <;> try simp_all)

@[simp ↓] theorem keep_execRouteSetDieFallback (b : Box) (s : State) (r : Rest) (h : s.rest = r) : Kept (execRouteSetDieFallback b s) r := by
  unfold execRouteSetDieFallback; subst h; (try simp) <;> repeat' (split <;> (try have ha := arrive_rest ‹arrive _ _ = some (_, _)›) <;> try simp_all)

@[simp ↓] theorem keep_execRouteSetReservation (b : Box) (s : State) (r : Rest) (h : s.rest = r) : Kept (execRouteSetReservation b s) r := by
  unfold execRouteSetReservation; subst h; (try simp) <;> repeat' (split <;> (try have ha := arrive_rest ‹arrive _ _ = some (_, _)›) <;> try simp_all)

@[simp ↓] theorem keep_execSpreadDefine (b : Box) (s : State) (r : Rest) (h : s.rest = r) : Kept (execSpreadDefine b s) r := by
  unfold execSpreadDefine; subst h; (try simp) <;> repeat' (split <;> (try have ha := arrive_rest ‹arrive _ _ = some (_, _)›) <;> try simp_all)

@[simp ↓] theorem keep_execGangDefine (b : Box) (s : State) (r : Rest) (h : s.rest = r) : Kept (execGangDefine b s) r := by
  unfold execGangDefine; subst h; (try simp) <;> repeat' (split <;> (try have ha := arrive_rest ‹arrive _ _ = some (_, _)›) <;> try simp_all)

@[simp ↓] theorem keep_execGangUndefine (b : Box) (s : State) (r : Rest) (h : s.rest = r) : Kept (execGangUndefine b s) r := by
  unfold execGangUndefine; subst h; (try simp) <;> repeat' (split <;> (try have ha := arrive_rest ‹arrive _ _ = some (_, _)›) <;> try simp_all)

@[simp ↓] theorem keep_execGangReleaseAt (b : Box) (s : State) (r : Rest) (h : s.rest = r) : Kept (execGangReleaseAt b s) r := by
  unfold execGangReleaseAt; subst h; (try simp) <;> repeat' (split <;> (try have ha := arrive_rest ‹arrive _ _ = some (_, _)›) <;> try simp_all)

/-! ## Parcels -/

@[simp ↓] theorem keep_blockError (s : State) (p : Nat) : (blockError s p).rest = s.rest := by
  unfold blockError; (try simp) <;> repeat' (split <;> try simp_all)

@[simp ↓] theorem keep_writeBlock (s : State) (p : Nat) (hw : s.rest.1) : (writeBlock s p).rest = s.rest := by
  unfold writeBlock; (try simp +contextual (maxDischargeDepth := 12) [hw]) <;> repeat' (split <;> try simp_all +contextual (maxDischargeDepth := 12))

@[simp ↓] theorem keep_execEasementStatusWrite (parcel : Nat) (memOk : Bool) (s : State) (r : Rest) (h : s.rest = r) (hw : r.1) : Kept (execEasementStatusWrite parcel memOk s) r := by
  unfold execEasementStatusWrite; subst h; (try simp +contextual (maxDischargeDepth := 12) [hw]) <;> repeat' (split <;> (try have ha := arrive_rest ‹arrive _ _ = some (_, _)›) <;> try simp_all +contextual (maxDischargeDepth := 12))

@[simp ↓] theorem keep_intoParcel (p : Nat) (s : State) (e : Nat) : (intoParcel p s e).rest = s.rest := by
  unfold intoParcel; (try simp) <;> repeat' (split <;> try simp_all)

@[simp ↓] theorem keep_cmdParcelCreate (c : Call) (s : State) (hw : s.rest.1) : (cmdParcelCreate c s).st.rest = s.rest := by
  unfold cmdParcelCreate; have hq : ∀ es : List Nat, (forAll s es descRead).rest = s.rest := fun es => keep_forAll _ _ _ fun t e => by simp
  refine keep_checked _ _ _ _ _ _ (hq _) ?_
  simp (maxDischargeDepth := 12) [hw]

@[simp ↓] theorem keep_fenceQueue (s0 : State) (e : Nat) : (fenceQueue s0 e).rest = s0.rest := by
  unfold fenceQueue; (try simp) <;> repeat' (split <;> try simp_all)

@[simp ↓] theorem keep_fenceCtx (s : State) (v : Nat) : (fenceCtx s v).rest = s.rest := by
  unfold fenceCtx; (try simp) <;> repeat' (split <;> try simp_all)

@[simp ↓] theorem keep_fence (s : State) (p : Nat) (silent : List Nat) : (fence s p silent).2.2.rest = s.rest := by
  unfold fence; (try simp) <;> repeat' (split <;> try simp_all)

@[simp ↓] theorem keep_fenceBegin (s : State) (p : Nat) (hw : s.rest.1) : (fenceBegin s p).rest = s.rest := by
  unfold fenceBegin; (try simp +contextual (maxDischargeDepth := 12) [hw]) <;> repeat' (split <;> try simp_all +contextual (maxDischargeDepth := 12))

@[simp ↓] theorem keep_fenceFails (s : State) (p : Nat) (silent : List Nat) (hw : s.rest.1) : (fenceFails s p silent).rest = s.rest := by
  unfold fenceFails; (try simp +contextual (maxDischargeDepth := 12) [hw]) <;> repeat' (split <;> try simp_all +contextual (maxDischargeDepth := 12))

@[simp ↓] theorem keep_cmdParcelReset (c : Call) (s : State) (hw : s.rest.1) : (cmdParcelReset c s).st.rest = s.rest := by
  unfold cmdParcelReset; refine keep_checked _ _ _ _ _ _ rfl ?_
  simp (maxDischargeDepth := 12) [hw]

@[simp ↓] theorem keep_lostToZero (s : State) (p : Nat) : (lostToZero s p).rest = s.rest := by
  unfold lostToZero; (try simp) <;> repeat' (split <;> try simp_all)

@[simp ↓] theorem keep_dissolve (s : State) (p : Nat) (hw : s.rest.1) : (dissolve s p).rest = s.rest := by
  unfold dissolve; (try simp +contextual (maxDischargeDepth := 12) [hw]) <;> repeat' (split <;> try simp_all +contextual (maxDischargeDepth := 12))

@[simp ↓] theorem keep_cmdParcelDestroy (c : Call) (s : State) (hw : s.rest.1) : (cmdParcelDestroy c s).st.rest = s.rest := by
  unfold cmdParcelDestroy; refine keep_checked _ _ _ _ _ _ rfl ?_
  simp (maxDischargeDepth := 12) [hw]

@[simp ↓] theorem keep_cmdFenceTimeout (silent : List Nat) (destroys : Bool) (c : Call) (s : State) (hw : s.rest.1) : (cmdFenceTimeout silent destroys c s).st.rest = s.rest := by
  unfold cmdFenceTimeout; refine keep_checked _ _ _ _ _ _ rfl ?_
  simp (maxDischargeDepth := 12) [hw]

@[simp ↓] theorem keep_cmdParcelResize (c : Call) (s : State) : (cmdParcelResize c s).st.rest = s.rest := by
  unfold cmdParcelResize; (try simp) <;> repeat' (split <;> try simp_all)

@[simp ↓] theorem keep_cmdVctxBind (c : Call) (s : State) : (cmdVctxBind c s).st.rest = s.rest := by
  unfold cmdVctxBind; (try simp) <;> repeat' (split <;> try simp_all)

@[simp ↓] theorem keep_cmdVctxUnbind (c : Call) (s : State) : (cmdVctxUnbind c s).st.rest = s.rest := by
  unfold cmdVctxUnbind; (try simp) <;> repeat' (split <;> try simp_all)

@[simp ↓] theorem keep_auditQueue (s0 : State) (e : Nat) : (auditQueue s0 e).rest = s0.rest := by
  unfold auditQueue; (try simp) <;> repeat' (split <;> try simp_all)

@[simp ↓] theorem keep_execPoolAuditDone (s : State) (r : Rest) (h : s.rest = r) : Kept (execPoolAuditDone s) r := by
  unfold execPoolAuditDone; subst h; (try simp) <;> repeat' (split <;> (try have ha := arrive_rest ‹arrive _ _ = some (_, _)›) <;> try simp_all)

@[simp ↓] theorem keep_execParcelCreate (b : Box) (s : State) (r : Rest) (h : s.rest = r) (hw : r.1) : Kept (execParcelCreate b s) r := by
  unfold execParcelCreate; exact keep_serveBox _ _ _ _ _ _ h fun c t e => (keep_cmdParcelCreate c t (hw := e ▸ hw)).trans e

@[simp ↓] theorem keep_execParcelDestroy (b : Box) (s : State) (r : Rest) (h : s.rest = r) (hw : r.1) : Kept (execParcelDestroy b s) r := by
  unfold execParcelDestroy; exact keep_serveBox _ _ _ _ _ _ h fun c t e => (keep_cmdParcelDestroy c t (hw := e ▸ hw)).trans e

@[simp ↓] theorem keep_execParcelReset (b : Box) (s : State) (r : Rest) (h : s.rest = r) (hw : r.1) : Kept (execParcelReset b s) r := by
  unfold execParcelReset; exact keep_serveBox _ _ _ _ _ _ h fun c t e => (keep_cmdParcelReset c t (hw := e ▸ hw)).trans e

@[simp ↓] theorem keep_execParcelResize (b : Box) (s : State) (r : Rest) (h : s.rest = r) : Kept (execParcelResize b s) r := by
  unfold execParcelResize; subst h; (try simp) <;> repeat' (split <;> (try have ha := arrive_rest ‹arrive _ _ = some (_, _)›) <;> try simp_all)

@[simp ↓] theorem keep_execVctxBind (b : Box) (s : State) (r : Rest) (h : s.rest = r) : Kept (execVctxBind b s) r := by
  unfold execVctxBind; subst h; (try simp) <;> repeat' (split <;> (try have ha := arrive_rest ‹arrive _ _ = some (_, _)›) <;> try simp_all)

@[simp ↓] theorem keep_execVctxUnbind (b : Box) (s : State) (r : Rest) (h : s.rest = r) : Kept (execVctxUnbind b s) r := by
  unfold execVctxUnbind; subst h; (try simp) <;> repeat' (split <;> (try have ha := arrive_rest ‹arrive _ _ = some (_, _)›) <;> try simp_all)

@[simp ↓] theorem keep_execFenceAckTimeout (b : Box) (cells : List Nat) (s : State) (r : Rest) (h : s.rest = r) (hw : r.1) : Kept (execFenceAckTimeout b cells s) r := by
  unfold execFenceAckTimeout; subst h; (try simp +contextual (maxDischargeDepth := 12) [hw]) <;> repeat' (split <;> (try have ha := arrive_rest ‹arrive _ _ = some (_, _)›) <;> try simp_all +contextual (maxDischargeDepth := 12))

/-! ## Island -/

@[simp ↓] theorem keep_benchPut (s : State) (i : Nat) (w : Word) : (benchPut s i w).rest = s.rest := by
  unfold benchPut; (try simp) <;> repeat' (split <;> try simp_all)

@[simp ↓] theorem keep_benchInvalid (s : State) (why : Nat) : (benchInvalid s why).rest = s.rest := by
  unfold benchInvalid; (try simp) <;> repeat' (split <;> try simp_all)

@[simp ↓] theorem keep_benchDefaults (s : State) (why : Nat) : (benchDefaults s why).rest = s.rest := by
  unfold benchDefaults; (try simp) <;> repeat' (split <;> try simp_all)

@[simp ↓] theorem keep_benchBoot (s : State) : (benchBoot s).rest = s.rest := by
  unfold benchBoot; (try simp) <;> repeat' (split <;> try simp_all)

@[simp ↓] theorem keep_cmdBenchmarkRead (c : Call) (s : State) : (cmdBenchmarkRead c s).st.rest = s.rest := by
  unfold cmdBenchmarkRead; (try simp) <;> repeat' (split <;> try simp_all)

@[simp ↓] theorem keep_benchStore (s : State) (i : Nat) (ws : List Word) : (benchStore s i ws).rest = s.rest := by
  unfold benchStore; (try simp) <;> repeat' (split <;> try simp_all)

@[simp ↓] theorem keep_benchFinish (s : State) : (benchFinish s).2.rest = s.rest := by
  unfold benchFinish; (try simp) <;> repeat' (split <;> try simp_all)

@[simp ↓] theorem keep_cmdBenchmarkWrite (c : Call) (s : State) : (cmdBenchmarkWrite c s).st.rest = s.rest := by
  unfold cmdBenchmarkWrite; (try simp) <;> repeat' (split <;> try simp_all)

@[simp ↓] theorem keep_captureCell (s : State) (c : Nat) (v : BitVec 16) : (captureCell s c v).rest = s.rest := by
  unfold captureCell; (try simp) <;> repeat' (split <;> try simp_all)

@[simp ↓] theorem keep_cmdBenchmarkCapture (measured : List (BitVec 16)) (c : Call) (s : State) : (cmdBenchmarkCapture measured c s).st.rest = s.rest := by
  unfold cmdBenchmarkCapture; (try simp) <;> repeat' (split <;> try simp_all)

@[simp ↓] theorem keep_cmdLogRead (c : Call) (s : State) : (cmdLogRead c s).st.rest = s.rest := by
  unfold cmdLogRead; (try simp) <;> repeat' (split <;> try simp_all)

@[simp ↓] theorem keep_execLogAggregateFlush (code : Nat) (key : Nat) (s : State) (r : Rest) (h : s.rest = r) : Kept (execLogAggregateFlush code key s) r := by
  unfold execLogAggregateFlush; subst h; (try simp) <;> repeat' (split <;> (try have ha := arrive_rest ‹arrive _ _ = some (_, _)›) <;> try simp_all)

@[simp ↓] theorem keep_modFw (s : State) (b : Bool) (f : FwSlot → FwSlot) : (modFw s b f).rest = s.rest := by
  unfold modFw; (try simp) <;> repeat' (split <;> try simp_all)

@[simp ↓] theorem keep_stageNote (s : State) (i : Option FwImage) (code : Nat) : (stageNote s i code).rest = s.rest := by
  unfold stageNote; (try simp) <;> repeat' (split <;> try simp_all)

@[simp ↓] theorem keep_cmdFwStage (image : Option FwImage) (c : Call) (s : State) : (cmdFwStage image c s).st.rest = s.rest := by
  unfold cmdFwStage; (try simp) <;> repeat' (split <;> try simp_all)

@[simp ↓] theorem keep_commitSlot (s : State) (b : Bool) : (commitSlot s b).rest = s.rest := by
  unfold commitSlot; (try simp) <;> repeat' (split <;> try simp_all)

@[simp ↓] theorem keep_cmdFwCommit (c : Call) (s : State) : (cmdFwCommit c s).st.rest = s.rest := by
  unfold cmdFwCommit; (try simp) <;> repeat' (split <;> try simp_all)

@[simp ↓] theorem keep_dropStaging (s : State) : (dropStaging s).rest = s.rest := by
  unfold dropStaging; (try simp) <;> repeat' (split <;> try simp_all)

@[simp ↓] theorem keep_startFailed (s : State) (b : Bool) : (startFailed s b).rest = s.rest := by
  unfold startFailed; (try simp) <;> repeat' (split <;> try simp_all)

@[simp ↓] theorem keep_restartRonuo (s : State) (why : Nat) (slot : Bool) (pc : Word) : (restartRonuo s why slot pc).rest = s.rest := by
  unfold restartRonuo; (try simp) <;> repeat' (split <;> try simp_all)

@[simp ↓] theorem keep_execMgmtWatchdogExpiry (pc : Word) (s : State) (r : Rest) (h : s.rest = r) : Kept (execMgmtWatchdogExpiry pc s) r := by
  unfold execMgmtWatchdogExpiry; subst h; (try simp) <;> repeat' (split <;> (try have ha := arrive_rest ‹arrive _ _ = some (_, _)›) <;> try simp_all)

@[simp ↓] theorem keep_activationFails (s : State) (target : Bool) : (activationFails s target).rest = s.rest := by
  unfold activationFails; (try simp) <;> repeat' (split <;> try simp_all)

@[simp ↓] theorem keep_execActivationStartTimeout (s : State) (r : Rest) (h : s.rest = r) : Kept (execActivationStartTimeout s) r := by
  unfold execActivationStartTimeout; subst h; (try simp) <;> repeat' (split <;> (try have ha := arrive_rest ‹arrive _ _ = some (_, _)›) <;> try simp_all)

@[simp ↓] theorem keep_beginActivate (b : Box) (s : State) : (beginActivate b s).rest = s.rest := by
  unfold beginActivate; (try simp) <;> repeat' (split <;> try simp_all)

@[simp ↓] theorem keep_cmdFwActivate (c : Call) (s : State) : (cmdFwActivate c s).st.rest = s.rest := by
  unfold cmdFwActivate; (try simp) <;> repeat' (split <;> try simp_all)

@[simp ↓] theorem keep_cmdDebugUnlock (c : Call) (s : State) : (cmdDebugUnlock c s).st.rest = s.rest := by
  unfold cmdDebugUnlock; (try simp) <;> repeat' (split <;> try simp_all)

@[simp ↓] theorem keep_haltBoxes (s : State) : (haltBoxes s).rest = s.rest := by
  unfold haltBoxes; (try simp) <;> repeat' (split <;> try simp_all)

@[simp ↓] theorem keep_ronuoRuns (s : State) : (ronuoRuns s).rest = s.rest := by
  unfold ronuoRuns; (try simp) <;> repeat' (split <;> try simp_all)

@[simp ↓] theorem keep_ronuoAccess (s : State) (place : Nat) (w : Option Word) : (ronuoAccess s place w).rest = s.rest := by
  unfold ronuoAccess; (try simp) <;> repeat' (split <;> try simp_all)

@[simp ↓] theorem keep_provKey (s : State) (debug : Bool) (key : BitVec 768) : (provKey s debug key).rest = s.rest := by
  unfold provKey
  refine keep_modIsl _ _ ?_
  split
  · rfl
  · rename_i h
    have h2 : s.isl.provLock = false := Bool.eq_false_iff.mpr h
    split <;> (unfold Isl.prov provOf; simp only [h2]; rfl)

@[simp ↓] theorem keep_execDebugGateAccess (op : GateOp) (s : State) (r : Rest) (h : s.rest = r) : Kept (execDebugGateAccess op s) r := by
  unfold execDebugGateAccess; subst h; (try simp) <;> repeat' (split <;> (try have ha := arrive_rest ‹arrive _ _ = some (_, _)›) <;> try simp_all)

@[simp ↓] theorem keep_execBenchmarkRead (b : Box) (s : State) (r : Rest) (h : s.rest = r) : Kept (execBenchmarkRead b s) r := by
  unfold execBenchmarkRead; subst h; (try simp) <;> repeat' (split <;> (try have ha := arrive_rest ‹arrive _ _ = some (_, _)›) <;> try simp_all)

@[simp ↓] theorem keep_execBenchmarkWrite (b : Box) (s : State) (r : Rest) (h : s.rest = r) : Kept (execBenchmarkWrite b s) r := by
  unfold execBenchmarkWrite; subst h; (try simp) <;> repeat' (split <;> (try have ha := arrive_rest ‹arrive _ _ = some (_, _)›) <;> try simp_all)

@[simp ↓] theorem keep_execBenchmarkCapture (b : Box) (measured : List (BitVec 16)) (s : State) (r : Rest) (h : s.rest = r) : Kept (execBenchmarkCapture b measured s) r := by
  unfold execBenchmarkCapture; subst h; (try simp) <;> repeat' (split <;> (try have ha := arrive_rest ‹arrive _ _ = some (_, _)›) <;> try simp_all)

@[simp ↓] theorem keep_execLogRead (b : Box) (s : State) (r : Rest) (h : s.rest = r) : Kept (execLogRead b s) r := by
  unfold execLogRead; subst h; (try simp) <;> repeat' (split <;> (try have ha := arrive_rest ‹arrive _ _ = some (_, _)›) <;> try simp_all)

@[simp ↓] theorem keep_execFwStage (b : Box) (image : Option FwImage) (s : State) (r : Rest) (h : s.rest = r) : Kept (execFwStage b image s) r := by
  unfold execFwStage; subst h; (try simp) <;> repeat' (split <;> (try have ha := arrive_rest ‹arrive _ _ = some (_, _)›) <;> try simp_all)

@[simp ↓] theorem keep_execFwCommit (b : Box) (s : State) (r : Rest) (h : s.rest = r) : Kept (execFwCommit b s) r := by
  unfold execFwCommit; subst h; (try simp) <;> repeat' (split <;> (try have ha := arrive_rest ‹arrive _ _ = some (_, _)›) <;> try simp_all)

@[simp ↓] theorem keep_execDebugUnlock (b : Box) (s : State) (r : Rest) (h : s.rest = r) : Kept (execDebugUnlock b s) r := by
  unfold execDebugUnlock; subst h; (try simp) <;> repeat' (split <;> (try have ha := arrive_rest ‹arrive _ _ = some (_, _)›) <;> try simp_all)

@[simp ↓] theorem keep_execFwActivate (b : Box) (s : State) (r : Rest) (h : s.rest = r) : Kept (execFwActivate b s) r := by
  unfold execFwActivate; subst h; (try simp) <;> repeat' (split <;> (try have ha := arrive_rest ‹arrive _ _ = some (_, _)›) <;> try simp_all)

/-! ## Power -/

@[simp ↓] theorem keep_addStake (s : State) (c : Nat) (d : Dom) : (addStake s c d).rest = s.rest := by
  unfold addStake; (try simp) <;> repeat' (split <;> try simp_all)

@[simp ↓] theorem keep_dropStake (s : State) (c : Nat) (d : Dom) : (dropStake s c d).rest = s.rest := by
  unfold dropStake; (try simp) <;> repeat' (split <;> try simp_all)

@[simp ↓] theorem keep_isoAnswer (s : State) (k : Nat) : (isoAnswer s k).rest = s.rest := by
  unfold isoAnswer; (try simp) <;> repeat' (split <;> try simp_all)

@[simp ↓] theorem keep_modUnit (s : State) (u : Nat) (f : Cell → Cell) : (modUnit s u f).rest = s.rest := by
  unfold modUnit; (try simp) <;> repeat' (split <;> try simp_all)

@[simp ↓] theorem keep_keepEn (s : State) (k : Nat) (f : Cell → Bool) : (keepEn s k f).rest = s.rest := by
  unfold keepEn; (try simp) <;> repeat' (split <;> try simp_all)

@[simp ↓] theorem keep_closeDie (s : State) (k : Nat) : (closeDie s k).rest = s.rest := by
  unfold closeDie; (try simp) <;> repeat' (split <;> try simp_all)

@[simp ↓] theorem keep_reopenDie (s : State) (k : Nat) : (reopenDie s k).rest = s.rest := by
  unfold reopenDie; (try simp) <;> repeat' (split <;> try simp_all)

@[simp ↓] theorem keep_raiseDie (s : State) (k : Nat) : (raiseDie s k).rest = s.rest := by
  unfold raiseDie; (try simp) <;> repeat' (split <;> try simp_all)

@[simp ↓] theorem keep_sequenceDie (s : State) (k : Nat) : (sequenceDie s k).rest = s.rest := by
  unfold sequenceDie; (try simp) <;> repeat' (split <;> try simp_all)

@[simp ↓] theorem keep_releaseDb (s : State) : (releaseDb s).rest = s.rest := by
  unfold releaseDb
  refine (keep_forAll _ _ _ fun t m => ?_).trans (by simp)
  (try simp) <;> repeat' (split <;> try simp_all)

@[simp ↓] theorem keep_reopenHub (s : State) : (reopenHub s).rest = s.rest := by
  unfold reopenHub; (try simp) <;> repeat' (split <;> try simp_all)

@[simp ↓] theorem keep_sequenceHub (s : State) : (sequenceHub s).rest = s.rest := by
  unfold sequenceHub; (try simp) <;> repeat' (split <;> try simp_all)

@[simp ↓] theorem keep_sequence (s : State) : (sequence s).rest = s.rest := by
  unfold sequence; (try simp) <;> repeat' (split <;> try simp_all)

@[simp ↓] theorem keep_storeLost (s : State) (x : Store) : (storeLost s x).rest = s.rest := by
  unfold storeLost
  split <;> simp

@[simp ↓] theorem keep_readThrough (s : State) (x : Store) : (readThrough s x).rest = s.rest := by
  unfold readThrough
  simp only
  split
  · rw [keep_storeLost, keep_strike]
  · rw [keep_strike]

@[simp ↓] theorem keep_scrub (s : State) (u : Nat) : (scrub s u).rest = s.rest := by
  unfold scrub; (try simp) <;> repeat' (split <;> try simp_all)

@[simp ↓] theorem keep_lostStore (s : State) (c : Nat) : (lostStore s c).rest = s.rest := by
  unfold lostStore; (try simp) <;> repeat' (split <;> try simp_all)

@[simp ↓] theorem keep_retainedTest (s : State) (u : Nat) (fails : List Nat) : (retainedTest s u fails).rest = s.rest := by
  unfold retainedTest; (try simp) <;> repeat' (split <;> try simp_all)

@[simp ↓] theorem keep_clearCounters (s : State) (u : Nat) : (clearCounters s u).rest = s.rest := by
  unfold clearCounters; (try simp) <;> repeat' (split <;> try simp_all)

@[simp ↓] theorem keep_loadDie (s : State) (k : Nat) : (loadDie s k).rest = s.rest := by
  unfold loadDie; (try simp) <;> repeat' (split <;> try simp_all)

@[simp ↓] theorem keep_finishDie (s : State) (k : Nat) (fails : List Nat) : (finishDie s k fails).rest = s.rest := by
  unfold finishDie; (try simp) <;> repeat' (split <;> try simp_all)

@[simp ↓] theorem keep_deliverFaults (s : State) : (deliverFaults s).rest = s.rest := by
  unfold deliverFaults; (try simp) <;> repeat' (split <;> try simp_all)

@[simp ↓] theorem keep_restartDie (fails : List Nat) (s : State) (k : Nat) : (restartDie fails s k).rest = s.rest := by
  unfold restartDie; (try simp) <;> repeat' (split <;> try simp_all)

@[simp ↓] theorem keep_coldStart (s : State) (fails : List Nat) (hw : s.rest.1) : (coldStart s fails).rest = s.rest := by
  unfold coldStart; (try simp +contextual (maxDischargeDepth := 12) [hw]) <;> repeat' (split <;> try simp_all +contextual (maxDischargeDepth := 12))

@[simp ↓] theorem keep_coldStakes (s : State) : (coldStakes s).rest = s.rest := by
  unfold coldStakes; (try simp) <;> repeat' (split <;> try simp_all)

@[simp ↓] theorem keep_sweepAgain (s : State) : (sweepAgain s).rest = s.rest := by
  unfold sweepAgain; (try simp) <;> repeat' (split <;> try simp_all)

@[simp ↓] theorem keep_restoreMer (s : State) (hw : s.rest.1) : (restoreMer s).rest = s.rest := by
  unfold restoreMer; (try simp +contextual (maxDischargeDepth := 12) [hw]) <;> repeat' (split <;> try simp_all +contextual (maxDischargeDepth := 12))

@[simp ↓] theorem keep_watchDrop (s : State) : (watchDrop s).rest = s.rest := by
  unfold watchDrop; (try simp) <;> repeat' (split <;> try simp_all)

@[simp ↓] theorem keep_samplePresent (s : State) (x : Bist) : (samplePresent s x).rest = s.rest := by
  unfold samplePresent; (try simp) <;> repeat' (split <;> try simp_all)

@[simp ↓] theorem keep_hubUp (s : State) (fails : List Nat) (hw : s.rest.1) : (hubUp s fails).rest = s.rest := by
  unfold hubUp; (try simp +contextual (maxDischargeDepth := 12) [hw]) <;> repeat' (split <;> try simp_all +contextual (maxDischargeDepth := 12))

@[simp ↓] theorem keep_hubRamps (s : State) : (hubRamps s).rest = s.rest := by
  unfold hubRamps; (try simp) <;> repeat' (split <;> try simp_all)

@[simp ↓] theorem keep_hubStep (s' : State) (x : Bist) (hw : s'.rest.1) : (hubStep s' x).rest = s'.rest := by
  unfold hubStep; (try simp +contextual (maxDischargeDepth := 12) [hw]) <;> repeat' (split <;> try simp_all +contextual (maxDischargeDepth := 12))

@[simp ↓] theorem keep_dieStep (s : State) (k : Nat) (fails : List Nat) : (dieStep s k fails).rest = s.rest := by
  unfold dieStep; (try simp) <;> repeat' (split <;> try simp_all)

@[simp ↓] theorem keep_travStep (s : State) (k : Nat) : (travStep s k).rest = s.rest := by
  unfold travStep; (try simp) <;> repeat' (split <;> try simp_all)

@[simp ↓] theorem keep_execPdGood (unit : Nat) (bist : Bist) (s : State) (r : Rest) (h : s.rest = r) (hw : r.1) : Kept (execPdGood unit bist s) r := by
  unfold execPdGood; subst h; (try simp +contextual (maxDischargeDepth := 12) [hw]) <;> repeat' (split <;> (try have ha := arrive_rest ‹arrive _ _ = some (_, _)›) <;> try simp_all +contextual (maxDischargeDepth := 12))

@[simp ↓] theorem keep_dieFailed (s : State) (k : Nat) (kind : Nat) (step : Nat) (tries : Nat) (hw : s.rest.1) : (dieFailed s k kind step tries).rest = s.rest := by
  unfold dieFailed; (try simp +contextual (maxDischargeDepth := 12) [hw]) <;> repeat' (split <;> try simp_all +contextual (maxDischargeDepth := 12))

@[simp ↓] theorem keep_execPowerStepTimeout (unit : Nat) (s : State) (r : Rest) (h : s.rest = r) (hw : r.1) : Kept (execPowerStepTimeout unit s) r := by
  unfold execPowerStepTimeout; subst h; (try simp +contextual (maxDischargeDepth := 12) [hw]) <;> repeat' (split <;> (try have ha := arrive_rest ‹arrive _ _ = some (_, _)›) <;> try simp_all +contextual (maxDischargeDepth := 12))

@[simp ↓] theorem keep_downDie (s : State) (k : Nat) : (downDie s k).rest = s.rest := by
  unfold downDie; (try simp) <;> repeat' (split <;> try simp_all)

@[simp ↓] theorem keep_hubOff (s : State) (m : Mode) (mem : DomSt) : (hubOff s m mem).rest = s.rest := by
  unfold hubOff; (try simp) <;> repeat' (split <;> try simp_all)

@[simp ↓] theorem keep_execQuiesceGrant (unit : Nat) (s : State) (r : Rest) (h : s.rest = r) : Kept (execQuiesceGrant unit s) r := by
  unfold execQuiesceGrant; subst h; (try simp) <;> repeat' (split <;> (try have ha := arrive_rest ‹arrive _ _ = some (_, _)›) <;> try simp_all)

@[simp ↓] theorem keep_execQuiesceRefused (cell : Nat) (s : State) (r : Rest) (h : s.rest = r) : Kept (execQuiesceRefused cell s) r := by
  unfold execQuiesceRefused; subst h; (try simp) <;> repeat' (split <;> (try have ha := arrive_rest ‹arrive _ _ = some (_, _)›) <;> try simp_all)

@[simp ↓] theorem keep_execQuiesceRetry (unit : Nat) (s : State) (r : Rest) (h : s.rest = r) : Kept (execQuiesceRetry unit s) r := by
  unfold execQuiesceRetry; subst h; (try simp) <;> repeat' (split <;> (try have ha := arrive_rest ‹arrive _ _ = some (_, _)›) <;> try simp_all)

@[simp ↓] theorem keep_bookReads (s : State) : (bookReads s).rest = s.rest := by
  unfold bookReads
  simp only
  refine keep_forAll _ _ _ fun t e => ?_
  generalize (if Config.recordRead e = true then e else 0) = n
  split
  · rw [keep_storeLost, keep_strike]
  · rw [keep_strike]

@[simp ↓] theorem keep_execSaveBookWritten (body : List (BitVec 8)) (memOk : Bool) (s' : State) (r : Rest) (h : s'.rest = r) (hw : r.1) : Kept (execSaveBookWritten body memOk s') r := by
  unfold execSaveBookWritten; subst h; (try simp +contextual (maxDischargeDepth := 12) [hw]) <;> repeat' (split <;> (try have ha := arrive_rest ‹arrive _ _ = some (_, _)›) <;> try simp_all +contextual (maxDischargeDepth := 12))

@[simp ↓] theorem keep_execIsoReq (k : Nat) (level : Bool) (s : State) (r : Rest) (h : s.rest = r) : Kept (execIsoReq k level s) r := by
  unfold execIsoReq; subst h; (try simp) <;> repeat' (split <;> (try have ha := arrive_rest ‹arrive _ _ = some (_, _)›) <;> try simp_all)

@[simp ↓] theorem keep_wake (s : State) (w : WakeSrc) : (wake s w).rest = s.rest := by
  unfold wake; (try simp) <;> repeat' (split <;> try simp_all)

@[simp ↓] theorem keep_execWakeSource (w : WakeSrc) (s : State) (r : Rest) (h : s.rest = r) : Kept (execWakeSource w s) r := by
  unfold execWakeSource; subst h; (try simp) <;> repeat' (split <;> (try have ha := arrive_rest ‹arrive _ _ = some (_, _)›) <;> try simp_all)

@[simp ↓] theorem keep_execWakeChord (k : Nat) (up : Bool) (s : State) (r : Rest) (h : s.rest = r) : Kept (execWakeChord k up s) r := by
  unfold execWakeChord; subst h; (try simp) <;> repeat' (split <;> (try have ha := arrive_rest ‹arrive _ _ = some (_, _)›) <;> try simp_all)

@[simp ↓] theorem keep_watchDeliver (s : State) (w : Nat) : (watchDeliver s w).rest = s.rest := by
  unfold watchDeliver; (try simp) <;> repeat' (split <;> try simp_all)

@[simp ↓] theorem keep_alarmsAfterWake (s : State) : (alarmsAfterWake s).rest = s.rest := by
  unfold alarmsAfterWake; (try simp) <;> repeat' (split <;> try simp_all)

@[simp ↓] theorem keep_wipeUnits (s : State) : (wipeUnits s).rest = s.rest := by
  unfold wipeUnits; (try simp) <;> repeat' (split <;> try simp_all)

@[simp ↓] theorem keep_wakeOn (s : State) (hw : s.rest.1) : (wakeOn s).rest = s.rest := by
  unfold wakeOn; (try simp +contextual (maxDischargeDepth := 12) [hw]) <;> repeat' (split <;> try simp_all +contextual (maxDischargeDepth := 12))

@[simp ↓] theorem keep_wakeResume (s : State) (hw : s.rest.1) : (wakeResume s).rest = s.rest := by
  unfold wakeResume; (try simp +contextual (maxDischargeDepth := 12) [hw]) <;> repeat' (split <;> try simp_all +contextual (maxDischargeDepth := 12))

@[simp ↓] theorem keep_bookLost (s : State) (hw : s.rest.1) : (bookLost s).rest = s.rest := by
  unfold bookLost; (try simp +contextual (maxDischargeDepth := 12) [hw]) <;> repeat' (split <;> try simp_all +contextual (maxDischargeDepth := 12))

@[simp ↓] theorem keep_execWakeComplete (book : Option (List (BitVec 8))) (s : State) (r : Rest) (h : s.rest = r) (hw : r.1) : Kept (execWakeComplete book s) r := by
  unfold execWakeComplete; subst h; (try simp +contextual (maxDischargeDepth := 12) [hw]) <;> repeat' (split <;> (try have ha := arrive_rest ‹arrive _ _ = some (_, _)›) <;> try simp_all +contextual (maxDischargeDepth := 12))

@[simp ↓] theorem keep_execNapWakeChordTimer (k : Nat) (s : State) (r : Rest) (h : s.rest = r) : Kept (execNapWakeChordTimer k s) r := by
  unfold execNapWakeChordTimer; subst h; (try simp) <;> repeat' (split <;> (try have ha := arrive_rest ‹arrive _ _ = some (_, _)›) <;> try simp_all)

@[simp ↓] theorem keep_execColdStakeRelease (s : State) (r : Rest) (h : s.rest = r) : Kept (execColdStakeRelease s) r := by
  unfold execColdStakeRelease; subst h; (try simp) <;> repeat' (split <;> (try have ha := arrive_rest ‹arrive _ _ = some (_, _)›) <;> try simp_all)

@[simp ↓] theorem keep_dropWakeStake (s : State) : (dropWakeStake s).rest = s.rest := by
  unfold dropWakeStake; (try simp) <;> repeat' (split <;> try simp_all)

@[simp ↓] theorem keep_execWakeStakeRelease (s : State) (r : Rest) (h : s.rest = r) : Kept (execWakeStakeRelease s) r := by
  unfold execWakeStakeRelease; subst h; (try simp) <;> repeat' (split <;> (try have ha := arrive_rest ‹arrive _ _ = some (_, _)›) <;> try simp_all)

@[simp ↓] theorem keep_endCut (s : State) (c : Call) : (endCut s c).rest = s.rest := by
  unfold endCut; (try simp) <;> repeat' (split <;> try simp_all)

@[simp ↓] theorem keep_takeOne (n : Nat) (s : State) (d : Dom) : (takeOne n s d).rest = s.rest := by
  unfold takeOne; (try simp) <;> repeat' (split <;> try simp_all)

@[simp ↓] theorem keep_cmdStakeTake (c : Call) (s : State) : (cmdStakeTake c s).st.rest = s.rest := by
  unfold cmdStakeTake; (try simp) <;> repeat' (split <;> try simp_all)

@[simp ↓] theorem keep_cmdStakeRelease (c : Call) (s : State) : (cmdStakeRelease c s).st.rest = s.rest := by
  unfold cmdStakeRelease; (try simp) <;> repeat' (split <;> try simp_all)

@[simp ↓] theorem keep_cmdWakeConfig (c : Call) (s : State) : (cmdWakeConfig c s).st.rest = s.rest := by
  unfold cmdWakeConfig; (try simp) <;> repeat' (split <;> try simp_all)

@[simp ↓] theorem keep_execStakeTake (b : Box) (s : State) (r : Rest) (h : s.rest = r) : Kept (execStakeTake b s) r := by
  unfold execStakeTake; subst h; (try simp) <;> repeat' (split <;> (try have ha := arrive_rest ‹arrive _ _ = some (_, _)›) <;> try simp_all)

@[simp ↓] theorem keep_execStakeRelease (b : Box) (s : State) (r : Rest) (h : s.rest = r) : Kept (execStakeRelease b s) r := by
  unfold execStakeRelease; subst h; (try simp) <;> repeat' (split <;> (try have ha := arrive_rest ‹arrive _ _ = some (_, _)›) <;> try simp_all)

@[simp ↓] theorem keep_execWakeConfig (b : Box) (s : State) (r : Rest) (h : s.rest = r) : Kept (execWakeConfig b s) r := by
  unfold execWakeConfig; subst h; (try simp) <;> repeat' (split <;> (try have ha := arrive_rest ‹arrive _ _ = some (_, _)›) <;> try simp_all)

@[simp ↓] theorem keep_execRcOscTimeout (s : State) (r : Rest) (h : s.rest = r) : Kept (execRcOscTimeout s) r := by
  unfold execRcOscTimeout; subst h; (try simp) <;> repeat' (split <;> (try have ha := arrive_rest ‹arrive _ _ = some (_, _)›) <;> try simp_all)

@[simp ↓] theorem keep_execRcOscRetry (ready : Bool) (s : State) (r : Rest) (h : s.rest = r) : Kept (execRcOscRetry ready s) r := by
  unfold execRcOscRetry; subst h; (try simp) <;> repeat' (split <;> (try have ha := arrive_rest ‹arrive _ _ = some (_, _)›) <;> try simp_all)

@[simp ↓] theorem keep_execPdGoodStillAsserted (d : Dom) (s : State) (r : Rest) (h : s.rest = r) : Kept (execPdGoodStillAsserted d s) r := by
  unfold execPdGoodStillAsserted; subst h; (try simp) <;> repeat' (split <;> (try have ha := arrive_rest ‹arrive _ _ = some (_, _)›) <;> try simp_all)

@[simp ↓] theorem keep_cutDie (s : State) (k : Nat) (sec : Bool) : (cutDie s k sec).rest = s.rest := by
  unfold cutDie; (try simp) <;> repeat' (split <;> try simp_all)

@[simp ↓] theorem keep_execSecurePowerCut (d : Dom) (reference : Bool) (s : State) (r : Rest) (h : s.rest = r) : Kept (execSecurePowerCut d reference s) r := by
  unfold execSecurePowerCut; subst h; (try simp) <;> repeat' (split <;> (try have ha := arrive_rest ‹arrive _ _ = some (_, _)›) <;> try simp_all)

@[simp ↓] theorem keep_wipeHub (s : State) : (wipeHub s).rest = s.rest := by
  unfold wipeHub; (try simp) <;> repeat' (split <;> try simp_all)

@[simp ↓] theorem keep_hubCut (s : State) (d : Dom) (all : Bool) : (hubCut s d all).rest = s.rest := by
  unfold hubCut; (try simp) <;> repeat' (split <;> try simp_all)

@[simp ↓] theorem keep_execHubSecurePowerCut (d : Dom) (reference : Bool) (s : State) (r : Rest) (h : s.rest = r) : Kept (execHubSecurePowerCut d reference s) r := by
  unfold execHubSecurePowerCut; subst h; (try simp) <;> repeat' (split <;> (try have ha := arrive_rest ‹arrive _ _ = some (_, _)›) <;> try simp_all)

@[simp ↓] theorem keep_raiseHubPair (s : State) : (raiseHubPair s).rest = s.rest := by
  unfold raiseHubPair; (try simp) <;> repeat' (split <;> try simp_all)

@[simp ↓] theorem keep_cutHub (s : State) (d : Dom) : (cutHub s d).rest = s.rest := by
  unfold cutHub; (try simp) <;> repeat' (split <;> try simp_all)

@[simp ↓] theorem keep_execCutWithoutHandshake (k : Nat) (s : State) (r : Rest) (h : s.rest = r) : Kept (execCutWithoutHandshake k s) r := by
  unfold execCutWithoutHandshake; subst h; (try simp) <;> repeat' (split <;> (try have ha := arrive_rest ‹arrive _ _ = some (_, _)›) <;> try simp_all)

/-! ## Sideband -/

theorem keep_transfer (s : State) (own : Bool) (f : State → State) (hf : ∀ t, t.rest = s.rest → (f t).rest = s.rest) : (transfer s own f).rest = s.rest := by
  unfold transfer
  simp only
  split
  · rfl
  · split
    · rw [keep_wake]; split
      · rfl
      · exact hf _ rfl
    · split
      · rfl
      · exact hf _ rfl

@[simp ↓] theorem keep_cccAnswer (c : Ccc) (s : State) : (cccAnswer c s).rest = s.rest := by
  unfold cccAnswer; (try simp) <;> repeat' (split <;> try simp_all)

@[simp ↓] theorem keep_execI3cCcc (c : Ccc) (s : State) (r : Rest) (h : s.rest = r) : Kept (execI3cCcc c s) r := by
  subst h
  exact keep_transfer s _ _ fun t ht => by simp [ht]

@[simp ↓] theorem keep_mctpAnswer (s : State) (code : Nat) (resp : List Word) : (mctpAnswer s code resp).rest = s.rest := by
  unfold mctpAnswer; (try simp) <;> repeat' (split <;> try simp_all)

@[simp ↓] theorem keep_vendorAnswer (vid : BitVec 16) (opcode : BitVec 16) (args : List Word) (s : State) : (vendorAnswer vid opcode args s).rest = s.rest := by
  unfold vendorAnswer; (try simp) <;> repeat' (split <;> try simp_all)

@[simp ↓] theorem keep_execMctpVendorRequest (code : BitVec 16) (m : MctpReq) (s : State) (r : Rest) (h : s.rest = r) :
    Kept (execMctpVendorRequest code m s) r := by
  subst h
  refine keep_transfer s true _ fun t ht => ?_
  split
  · simp [ht]
  · exact ht

@[simp ↓] theorem keep_execSidebandReport (s : State) (r : Rest) (h : s.rest = r) : Kept (execSidebandReport s) r := by
  unfold execSidebandReport; subst h; (try simp) <;> repeat' (split <;> (try have ha := arrive_rest ‹arrive _ _ = some (_, _)›) <;> try simp_all)

/-! ## Reset -/

@[simp ↓] theorem keep_takeReset (s' : State) : (takeReset s').rest = s'.rest := by
  unfold takeReset; (try simp) <;> repeat' (split <;> try simp_all)

@[simp ↓] theorem keep_execPkgRstAssert (s : State) (lowNs : Nat := 1000) (r : Rest) (h : s.rest = r) : Kept (execPkgRstAssert s lowNs) r := by
  unfold execPkgRstAssert; subst h; (try simp) <;> repeat' (split <;> (try have ha := arrive_rest ‹arrive _ _ = some (_, _)›) <;> try simp_all)

@[simp ↓] theorem keep_execPkgRstDeassert (bist : Bist) (s' : State) (r : Rest) (h : s'.rest = r) (hw : r.1) : Kept (execPkgRstDeassert bist s') r := by
  unfold execPkgRstDeassert; subst h; (try simp +contextual (maxDischargeDepth := 12) [hw]) <;> repeat' (split <;> (try have ha := arrive_rest ‹arrive _ _ = some (_, _)›) <;> try simp_all +contextual (maxDischargeDepth := 12))

@[simp ↓] theorem keep_startWairo (s : State) (hw : s.rest.1) : (startWairo s).rest = s.rest := by
  unfold startWairo; (try simp +contextual (maxDischargeDepth := 12) [hw]) <;> repeat' (split <;> try simp_all +contextual (maxDischargeDepth := 12))

@[simp ↓] theorem keep_offState (s : State) : (offState s).rest = s.rest := by
  have h1 := keep_wipeUnits { s with outs := [], mer := {}, hub := {} }
  have h2 := keep_dropStaging s
  simp only [State.rest, Prod.mk.injEq] at h1 h2 ⊢
  exact ⟨h1.1, h1.2.1, h2.2.2⟩

@[simp ↓] theorem keep_execAuxinLost (s : State) (r : Rest) (h : s.rest = r) : Kept (execAuxinLost s) r := by
  unfold execAuxinLost; subst h; (try simp) <;> repeat' (split <;> (try have ha := arrive_rest ‹arrive _ _ = some (_, _)›) <;> try simp_all)

@[simp ↓] theorem keep_execAuxinApplied (straps : Straps) (s : State) (r : Rest) (h : s.rest = r) : Kept (execAuxinApplied straps s) r := by
  unfold execAuxinApplied; subst h; (try simp) <;> repeat' (split <;> (try have ha := arrive_rest ‹arrive _ _ = some (_, _)›) <;> try simp_all)

@[simp ↓] theorem keep_execAuxinSurgeLimit (mv : Nat) (s : State) (r : Rest) (h : s.rest = r) : Kept (execAuxinSurgeLimit mv s) r := by
  unfold execAuxinSurgeLimit; subst h; (try simp) <;> repeat' (split <;> (try have ha := arrive_rest ‹arrive _ _ = some (_, _)›) <;> try simp_all)

@[simp ↓] theorem keep_execSwdtFirstExpiry (s : State) (r : Rest) (h : s.rest = r) : Kept (execSwdtFirstExpiry s) r := by
  unfold execSwdtFirstExpiry; subst h; (try simp) <;> repeat' (split <;> (try have ha := arrive_rest ‹arrive _ _ = some (_, _)›) <;> try simp_all)

@[simp ↓] theorem keep_execSwdtSecondExpiry (s : State) (r : Rest) (h : s.rest = r) : Kept (execSwdtSecondExpiry s) r := by
  unfold execSwdtSecondExpiry; subst h; (try simp) <;> repeat' (split <;> (try have ha := arrive_rest ‹arrive _ _ = some (_, _)›) <;> try simp_all)

@[simp ↓] theorem keep_execChipResetReqRepeat (s : State) (r : Rest) (h : s.rest = r) : Kept (execChipResetReqRepeat s) r := by
  unfold execChipResetReqRepeat; subst h; (try simp) <;> repeat' (split <;> (try have ha := arrive_rest ‹arrive _ _ = some (_, _)›) <;> try simp_all)

@[simp ↓] theorem keep_bootInto (s : State) (b : Bool) (cause : Word) : (bootInto s b cause).rest = s.rest := by
  unfold bootInto; (try simp) <;> repeat' (split <;> try simp_all)

@[simp ↓] theorem keep_haltRonuo (s : State) : (haltRonuo s).rest = s.rest := by
  unfold haltRonuo; (try simp) <;> repeat' (split <;> try simp_all)

@[simp ↓] theorem keep_execRonuoBoot (s : State) (r : Rest) (h : s.rest = r) (hw : r.1) : Kept (execRonuoBoot s) r := by
  unfold execRonuoBoot; subst h; (try simp +contextual (maxDischargeDepth := 12) [hw]) <;> repeat' (split <;> (try have ha := arrive_rest ‹arrive _ _ = some (_, _)›) <;> try simp_all +contextual (maxDischargeDepth := 12))

@[simp ↓] theorem keep_dropSweep (b : Box) (s : State) : (dropSweep b s).rest = s.rest := by
  unfold dropSweep; (try simp) <;> repeat' (split <;> try simp_all)

@[simp ↓] theorem keep_endCutBox (s' : State) (b : Box) : (endCutBox s' b).rest = s'.rest := by
  unfold endCutBox; (try simp) <;> repeat' (split <;> try simp_all)

@[simp ↓] theorem keep_endAct (s : State) (code : Nat) (resp : Word) : (endAct s code resp).rest = s.rest := by
  unfold endAct; (try simp) <;> repeat' (split <;> try simp_all)

@[simp ↓] theorem keep_execMailboxOfflineEnd (s : State) (r : Rest) (h : s.rest = r) (hw : r.1) : Kept (execMailboxOfflineEnd s) r := by
  unfold execMailboxOfflineEnd; subst h; (try simp +contextual (maxDischargeDepth := 12) [hw]) <;> repeat' (split <;> (try have ha := arrive_rest ‹arrive _ _ = some (_, _)›) <;> try simp_all +contextual (maxDischargeDepth := 12))

@[simp ↓] theorem keep_recoveryServe (args : List Word) (s : State) (hw : s.rest.1) : (recoveryServe args s).rest = s.rest := by
  unfold recoveryServe; (try simp +contextual (maxDischargeDepth := 12) [hw]) <;> repeat' (split <;> try simp_all +contextual (maxDischargeDepth := 12))

@[simp ↓] theorem keep_execRecoveryWrite (args : List Word) (s : State) (r : Rest) (h : s.rest = r) (hw : r.1) : Kept (execRecoveryWrite args s) r := by
  subst h
  exact keep_transfer s true _ fun t ht => (keep_recoveryServe args t (by rw [ht]; exact hw)).trans ht

/-! ## Sweep -/

@[simp ↓] theorem keep_latchUnits (s : State) (us : List Nat) : (latchUnits s us).rest = s.rest := by
  unfold latchUnits; (try simp) <;> repeat' (split <;> try simp_all)

@[simp ↓] theorem keep_putWords (s : State) (a : Nat) (ws : List Word) (hw : s.rest.1) : (putWords s a ws).rest = s.rest := memWrite_rest s hw a _

@[simp ↓] theorem keep_beginSweep (s : State) (late : Nat) (userMap : List Nat) (memOk : Bool) (box : Option Box) : (beginSweep s late userMap memOk box).rest = s.rest := by
  unfold beginSweep; (try simp) <;> repeat' (split <;> try simp_all)

@[simp ↓] theorem keep_writeSweep (s : State) (r : SweepRun) (hw : s.rest.1) : (writeSweep s r).rest = s.rest := by
  unfold writeSweep; (try simp +contextual (maxDischargeDepth := 12) [hw]) <;> repeat' (split <;> try simp_all +contextual (maxDischargeDepth := 12))

@[simp ↓] theorem keep_endSweep (s : State) (r : SweepRun) (hw : s.rest.1) : (endSweep s r).rest = s.rest := by
  unfold endSweep; (try simp +contextual (maxDischargeDepth := 12) [hw]) <;> repeat' (split <;> try simp_all +contextual (maxDischargeDepth := 12))

@[simp ↓] theorem keep_sweepTurn (s : State) (hw : s.rest.1) : (sweepTurn s).rest = s.rest := by
  unfold sweepTurn; (try simp +contextual (maxDischargeDepth := 12) [hw]) <;> repeat' (split <;> try simp_all +contextual (maxDischargeDepth := 12))

@[simp ↓] theorem keep_idle (s : State) (hw : s.rest.1) : (idle s).rest = s.rest := by
  unfold idle; (try simp +contextual (maxDischargeDepth := 12) [hw]) <;> repeat' (split <;> try simp_all +contextual (maxDischargeDepth := 12))

@[simp ↓] theorem keep_cmdCounterSweep (userMap : List Nat) (memOk : Bool) (c : Call) (s : State) (hw : s.rest.1) : (cmdCounterSweep userMap memOk c s).st.rest = s.rest := by
  unfold cmdCounterSweep; refine keep_checked _ _ _ _ _ _ rfl ?_
  simp (maxDischargeDepth := 12) [hw]

@[simp ↓] theorem keep_cmdCounterSweepStop (c : Call) (s : State) : (cmdCounterSweepStop c s).st.rest = s.rest := by
  unfold cmdCounterSweepStop; (try simp) <;> repeat' (split <;> try simp_all)

@[simp ↓] theorem keep_execCounterSweep (b : Box) (userMap : List Nat) (memOk : Bool) (s : State) (r : Rest) (h : s.rest = r) (hw : r.1) : Kept (execCounterSweep b userMap memOk s) r := by
  subst h
  unfold execCounterSweep
  simp only
  split
  · rfl
  · split
    · rw [kept_next, keep_modIsl _ _ rfl, keep_cmdCounterSweep, keep_parityAll]; rw [keep_parityAll]; exact hw
    · exact keep_serveBox _ _ _ _ _ _ rfl fun c t e => (keep_cmdCounterSweep userMap memOk c t (e ▸ hw)).trans e

@[simp ↓] theorem keep_execCounterSweepStop (b : Box) (s : State) (r : Rest) (h : s.rest = r) : Kept (execCounterSweepStop b s) r := by
  unfold execCounterSweepStop; subst h; (try simp) <;> repeat' (split <;> (try have ha := arrive_rest ‹arrive _ _ = some (_, _)›) <;> try simp_all)

@[simp ↓] theorem keep_execCounterSweepDue (busy : Bool) (lateNs : Nat) (userMap : List Nat) (memOk : Bool) (s : State) (r : Rest) (h : s.rest = r) : Kept (execCounterSweepDue busy lateNs userMap memOk s) r := by
  unfold execCounterSweepDue; subst h; (try simp) <;> repeat' (split <;> (try have ha := arrive_rest ‹arrive _ _ = some (_, _)›) <;> try simp_all)

/-! ## Lists -/

@[simp ↓] theorem keep_runOpcode (c : Call) (s : State) (hw : s.rest.1) : (runOpcode c s).st.rest = s.rest := by
  unfold runOpcode; split <;> (repeat' split) <;> first | rfl | simp [hw]

@[simp ↓] theorem keep_runEntry (b : Box) (left : Nat) (e : Option ListEntry) (s : State) (hw : s.rest.1) : (runEntry b left e s).st.rest = s.rest := by
  unfold runEntry; (try simp +contextual (maxDischargeDepth := 12) [hw]) <;> repeat' (split <;> try simp_all +contextual (maxDischargeDepth := 12))

@[simp ↓] theorem keep_resumeEntry (b : Box) (x : ListEntry) (s : State) (hw : s.rest.1) : (resumeEntry b x s).st.rest = s.rest := by
  unfold resumeEntry; (try simp +contextual (maxDischargeDepth := 12) [hw]) <;> repeat' (split <;> try simp_all +contextual (maxDischargeDepth := 12))

@[simp ↓] theorem keep_listRes (n stop : Word) (r : Res) : (listRes n stop r).st = r.st := rfl

@[simp ↓] theorem keep_runList (b : Box) (left n : Nat) (last : Res) (es : List (Option ListEntry)) (hw : last.st.rest.1) : (runList b left n last es).st.rest = last.st.rest := by
  induction es generalizing left n last with
  | nil => unfold runList; split <;> simp
  | cons e t ih =>
    have h := keep_runEntry b left e last.st hw
    unfold runList
    split
    · simp
    · simp only
      split
      · exact h
      · split
        · exact h
        · split
          · exact h
          · rw [ih _ _ _ (h ▸ hw), h]

@[simp ↓] theorem keep_resumeList (b : Box) (entries : List (Option ListEntry)) (h : Nat × Nat × ListEntry) (s : State) (hw : s.rest.1) : (resumeList b entries h s).st.rest = s.rest := by
  unfold resumeList; (try simp +contextual (maxDischargeDepth := 12) [hw]) <;> repeat' (split <;> try simp_all +contextual (maxDischargeDepth := 12))

@[simp ↓] theorem keep_cmdList (entries : List (Option ListEntry)) (c : Call) (s : State) (hw : s.rest.1) : (cmdList entries c s).st.rest = s.rest := by
  unfold cmdList; refine keep_checked _ _ _ _ _ _ rfl ?_
  split
  · exact keep_runList _ _ _ _ _ hw
  · exact keep_resumeList _ _ _ _ hw

@[simp ↓] theorem keep_execCommandList (b : Box) (entries : List (Option ListEntry)) (s : State) (r : Rest) (h : s.rest = r) (hw : r.1) : Kept (execCommandList b entries s) r := by
  subst h
  have hp := keep_parityAll s (boxRegs b)
  have hc := (keep_cmdList entries (callOf (parityAll s (boxRegs b)) b) (parityAll s (boxRegs b)) (hp ▸ hw)).trans hp
  unfold execCommandList; split
  · rfl
  · simp only
    split
    · simp only [kept_next]; rw [keep_modIsl]; exact hc; rfl
    · simp only [kept_next, keep_endCmd]; exact hc

end Sys2Proof.Machine
end

