-- ==== Sys2Proof/Laws/State.lean ====
section
/-! SUPPORT. What each named update of State leaves in each field, and what each table reads after it. -/

namespace Sys2Proof.Machine

open Sys2Proof

/-! ## Tables -/

@[simp] theorem tget_tput_same {α : Type} (d : α) (t : Tab α) (n : Nat) (v : α) : tget d (tput n v t) n = v := by
  induction t with
  | nil => simp [tput, tget]
  | cons e t ih =>
    obtain ⟨m, w⟩ := e
    unfold tput
    split
    · simp [tget]
    · split
      · simp [tget]
      · rename_i h1 h2
        have : m ≠ n := fun e => h2 e.symm
        simp [tget, this, ih]

theorem tget_tput_other {α : Type} (d : α) (t : Tab α) (n m : Nat) (v : α) (h : m ≠ n) : tget d (tput n v t) m = tget d t m := by
  induction t with
  | nil => simp [tput, tget, Ne.symm h]
  | cons e t ih =>
    obtain ⟨k, w⟩ := e
    unfold tput
    split
    · simp [tget, Ne.symm h]
    · split
      · rename_i h2
        subst h2
        simp [tget, Ne.symm h]
      · simp [tget, ih]

theorem tget_tdel {α : Type} (d : α) (t : Tab α) (n m : Nat) : tget d (tdel n t) m = if m = n then d else tget d t m := by
  unfold tdel
  induction t with
  | nil => simp [tget]
  | cons e t ih =>
    obtain ⟨k, w⟩ := e
    by_cases hk : k = n
    · subst hk
      simp only [List.filter_cons, ne_eq, not_true, decide_false, Bool.false_eq_true, if_false, ih, tget]
      by_cases hm : m = k
      · simp [hm]
      · simp [hm, Ne.symm hm]
    · simp only [List.filter_cons, ne_eq, hk, not_false_eq_true, decide_true, if_true, tget, ih]
      by_cases hm : m = n
      · subst hm; simp [hk]
      · simp [hm]

/-- What a table reads after a write, at every number. -/
theorem tget_tset {α : Type} [DecidableEq α] (d : α) (t : Tab α) (n m : Nat) (v : α) :
    tget d (tset d t n v) m = if m = n then v else tget d t m := by
  unfold tset
  split
  · rename_i h; rw [tget_tdel, h]
  · split
    · rename_i h; rw [h, tget_tput_same]
    · rename_i h; rw [tget_tput_other _ _ _ _ _ h]
@[simp] theorem tget_tset_same {α : Type} [DecidableEq α] (d : α) (t : Tab α) (n : Nat) (v : α) : tget d (tset d t n v) n = v := by
  simp [tget_tset]

/-! ## Fields -/

@[simp] theorem pending_setCell (s : State) (c : Nat) (x : Cell) : (s.setCell c x).pending = s.pending := rfl
@[simp] theorem net_setCell (s : State) (c : Nat) (x : Cell) : (s.setCell c x).net = s.net := rfl
@[simp] theorem mer_setCell (s : State) (c : Nat) (x : Cell) : (s.setCell c x).mer = s.mer := rfl
@[simp] theorem hub_setCell (s : State) (c : Nat) (x : Cell) : (s.setCell c x).hub = s.hub := rfl
@[simp] theorem outs_setCell (s : State) (c : Nat) (x : Cell) : (s.setCell c x).outs = s.outs := rfl
@[simp] theorem inputs_setCell (s : State) (c : Nat) (x : Cell) : (s.setCell c x).inputs = s.inputs := rfl
@[simp] theorem queues_setCell (s : State) (c : Nat) (x : Cell) : (s.setCell c x).queues = s.queues := rfl
@[simp] theorem tally_setCell (s : State) (c : Nat) (x : Cell) : (s.setCell c x).tally = s.tally := rfl
@[simp] theorem pool_setCell (s : State) (c : Nat) (x : Cell) : (s.setCell c x).pool = s.pool := rfl
@[simp] theorem fb_setCell (s : State) (c : Nat) (x : Cell) : (s.setCell c x).fb = s.fb := rfl
@[simp] theorem gates_setCell (s : State) (c : Nat) (x : Cell) : (s.setCell c x).gates = s.gates := rfl
@[simp] theorem resv_setCell (s : State) (c : Nat) (x : Cell) : (s.setCell c x).resv = s.resv := rfl
@[simp] theorem stns_setCell (s : State) (c : Nat) (x : Cell) : (s.setCell c x).stns = s.stns := rfl
@[simp] theorem ctxs_setCell (s : State) (c : Nat) (x : Cell) : (s.setCell c x).ctxs = s.ctxs := rfl
@[simp] theorem spreads_setCell (s : State) (c : Nat) (x : Cell) : (s.setCell c x).spreads = s.spreads := rfl
@[simp] theorem places_setCell (s : State) (c : Nat) (x : Cell) : (s.setCell c x).places = s.places := rfl
@[simp] theorem views_setCell (s : State) (c : Nat) (x : Cell) : (s.setCell c x).views = s.views := rfl
@[simp] theorem gangs_setCell (s : State) (c : Nat) (x : Cell) : (s.setCell c x).gangs = s.gangs := rfl
@[simp] theorem gathers_setCell (s : State) (c : Nat) (x : Cell) : (s.setCell c x).gathers = s.gathers := rfl
@[simp] theorem trains_setCell (s : State) (c : Nat) (x : Cell) : (s.setCell c x).trains = s.trains := rfl
@[simp] theorem nextId_setCell (s : State) (c : Nat) (x : Cell) : (s.setCell c x).nextId = s.nextId := rfl
@[simp] theorem parcels_setCell (s : State) (c : Nat) (x : Cell) : (s.setCell c x).parcels = s.parcels := rfl
@[simp] theorem parcel0_setCell (s : State) (c : Nat) (x : Cell) : (s.setCell c x).parcel0 = s.parcel0 := rfl
@[simp] theorem mbxN_setCell (s : State) (c : Nat) (x : Cell) : (s.setCell c x).mbxN = s.mbxN := rfl
@[simp] theorem mbxS_setCell (s : State) (c : Nat) (x : Cell) : (s.setCell c x).mbxS = s.mbxS := rfl
@[simp] theorem pwr_setCell (s : State) (c : Nat) (x : Cell) : (s.setCell c x).pwr = s.pwr := rfl
@[simp] theorem isl_setCell (s : State) (c : Nat) (x : Cell) : (s.setCell c x).isl = s.isl := rfl
@[simp] theorem parity_setCell (s : State) (c : Nat) (x : Cell) : (s.setCell c x).parity = s.parity := rfl
@[simp] theorem ecc_setCell (s : State) (c : Nat) (x : Cell) : (s.setCell c x).ecc = s.ecc := rfl
@[simp] theorem waits_setCell (s : State) (c : Nat) (x : Cell) : (s.setCell c x).waits = s.waits := rfl
@[simp] theorem testCtl_setCell (s : State) (c : Nat) (x : Cell) : (s.setCell c x).testCtl = s.testCtl := rfl
@[simp] theorem mem_setCell (s : State) (c : Nat) (x : Cell) : (s.setCell c x).mem = s.mem := rfl
@[simp] theorem out_setCell (s : State) (c : Nat) (x : Cell) : (s.setCell c x).out = s.out := rfl
@[simp] theorem free_setCell (s : State) (c : Nat) (x : Cell) : (s.setCell c x).free = s.free := rfl
@[simp] theorem pending_modCell (s : State) (c : Nat) (f : Cell → Cell) : (s.modCell c f).pending = s.pending := rfl
@[simp] theorem net_modCell (s : State) (c : Nat) (f : Cell → Cell) : (s.modCell c f).net = s.net := rfl
@[simp] theorem mer_modCell (s : State) (c : Nat) (f : Cell → Cell) : (s.modCell c f).mer = s.mer := rfl
@[simp] theorem hub_modCell (s : State) (c : Nat) (f : Cell → Cell) : (s.modCell c f).hub = s.hub := rfl
@[simp] theorem outs_modCell (s : State) (c : Nat) (f : Cell → Cell) : (s.modCell c f).outs = s.outs := rfl
@[simp] theorem inputs_modCell (s : State) (c : Nat) (f : Cell → Cell) : (s.modCell c f).inputs = s.inputs := rfl
@[simp] theorem queues_modCell (s : State) (c : Nat) (f : Cell → Cell) : (s.modCell c f).queues = s.queues := rfl
@[simp] theorem tally_modCell (s : State) (c : Nat) (f : Cell → Cell) : (s.modCell c f).tally = s.tally := rfl
@[simp] theorem pool_modCell (s : State) (c : Nat) (f : Cell → Cell) : (s.modCell c f).pool = s.pool := rfl
@[simp] theorem fb_modCell (s : State) (c : Nat) (f : Cell → Cell) : (s.modCell c f).fb = s.fb := rfl
@[simp] theorem gates_modCell (s : State) (c : Nat) (f : Cell → Cell) : (s.modCell c f).gates = s.gates := rfl
@[simp] theorem resv_modCell (s : State) (c : Nat) (f : Cell → Cell) : (s.modCell c f).resv = s.resv := rfl
@[simp] theorem stns_modCell (s : State) (c : Nat) (f : Cell → Cell) : (s.modCell c f).stns = s.stns := rfl
@[simp] theorem ctxs_modCell (s : State) (c : Nat) (f : Cell → Cell) : (s.modCell c f).ctxs = s.ctxs := rfl
@[simp] theorem spreads_modCell (s : State) (c : Nat) (f : Cell → Cell) : (s.modCell c f).spreads = s.spreads := rfl
@[simp] theorem places_modCell (s : State) (c : Nat) (f : Cell → Cell) : (s.modCell c f).places = s.places := rfl
@[simp] theorem views_modCell (s : State) (c : Nat) (f : Cell → Cell) : (s.modCell c f).views = s.views := rfl
@[simp] theorem gangs_modCell (s : State) (c : Nat) (f : Cell → Cell) : (s.modCell c f).gangs = s.gangs := rfl
@[simp] theorem gathers_modCell (s : State) (c : Nat) (f : Cell → Cell) : (s.modCell c f).gathers = s.gathers := rfl
@[simp] theorem trains_modCell (s : State) (c : Nat) (f : Cell → Cell) : (s.modCell c f).trains = s.trains := rfl
@[simp] theorem nextId_modCell (s : State) (c : Nat) (f : Cell → Cell) : (s.modCell c f).nextId = s.nextId := rfl
@[simp] theorem parcels_modCell (s : State) (c : Nat) (f : Cell → Cell) : (s.modCell c f).parcels = s.parcels := rfl
@[simp] theorem parcel0_modCell (s : State) (c : Nat) (f : Cell → Cell) : (s.modCell c f).parcel0 = s.parcel0 := rfl
@[simp] theorem mbxN_modCell (s : State) (c : Nat) (f : Cell → Cell) : (s.modCell c f).mbxN = s.mbxN := rfl
@[simp] theorem mbxS_modCell (s : State) (c : Nat) (f : Cell → Cell) : (s.modCell c f).mbxS = s.mbxS := rfl
@[simp] theorem pwr_modCell (s : State) (c : Nat) (f : Cell → Cell) : (s.modCell c f).pwr = s.pwr := rfl
@[simp] theorem isl_modCell (s : State) (c : Nat) (f : Cell → Cell) : (s.modCell c f).isl = s.isl := rfl
@[simp] theorem parity_modCell (s : State) (c : Nat) (f : Cell → Cell) : (s.modCell c f).parity = s.parity := rfl
@[simp] theorem ecc_modCell (s : State) (c : Nat) (f : Cell → Cell) : (s.modCell c f).ecc = s.ecc := rfl
@[simp] theorem waits_modCell (s : State) (c : Nat) (f : Cell → Cell) : (s.modCell c f).waits = s.waits := rfl
@[simp] theorem testCtl_modCell (s : State) (c : Nat) (f : Cell → Cell) : (s.modCell c f).testCtl = s.testCtl := rfl
@[simp] theorem mem_modCell (s : State) (c : Nat) (f : Cell → Cell) : (s.modCell c f).mem = s.mem := rfl
@[simp] theorem out_modCell (s : State) (c : Nat) (f : Cell → Cell) : (s.modCell c f).out = s.out := rfl
@[simp] theorem free_modCell (s : State) (c : Nat) (f : Cell → Cell) : (s.modCell c f).free = s.free := rfl
@[simp] theorem pending_setOp (s : State) (k : Nat) (x : Outpost) : (s.setOp k x).pending = s.pending := rfl
@[simp] theorem net_setOp (s : State) (k : Nat) (x : Outpost) : (s.setOp k x).net = s.net := rfl
@[simp] theorem mer_setOp (s : State) (k : Nat) (x : Outpost) : (s.setOp k x).mer = s.mer := rfl
@[simp] theorem hub_setOp (s : State) (k : Nat) (x : Outpost) : (s.setOp k x).hub = s.hub := rfl
@[simp] theorem cells_setOp (s : State) (k : Nat) (x : Outpost) : (s.setOp k x).cells = s.cells := rfl
@[simp] theorem inputs_setOp (s : State) (k : Nat) (x : Outpost) : (s.setOp k x).inputs = s.inputs := rfl
@[simp] theorem queues_setOp (s : State) (k : Nat) (x : Outpost) : (s.setOp k x).queues = s.queues := rfl
@[simp] theorem tally_setOp (s : State) (k : Nat) (x : Outpost) : (s.setOp k x).tally = s.tally := rfl
@[simp] theorem pool_setOp (s : State) (k : Nat) (x : Outpost) : (s.setOp k x).pool = s.pool := rfl
@[simp] theorem fb_setOp (s : State) (k : Nat) (x : Outpost) : (s.setOp k x).fb = s.fb := rfl
@[simp] theorem gates_setOp (s : State) (k : Nat) (x : Outpost) : (s.setOp k x).gates = s.gates := rfl
@[simp] theorem resv_setOp (s : State) (k : Nat) (x : Outpost) : (s.setOp k x).resv = s.resv := rfl
@[simp] theorem stns_setOp (s : State) (k : Nat) (x : Outpost) : (s.setOp k x).stns = s.stns := rfl
@[simp] theorem ctxs_setOp (s : State) (k : Nat) (x : Outpost) : (s.setOp k x).ctxs = s.ctxs := rfl
@[simp] theorem spreads_setOp (s : State) (k : Nat) (x : Outpost) : (s.setOp k x).spreads = s.spreads := rfl
@[simp] theorem places_setOp (s : State) (k : Nat) (x : Outpost) : (s.setOp k x).places = s.places := rfl
@[simp] theorem views_setOp (s : State) (k : Nat) (x : Outpost) : (s.setOp k x).views = s.views := rfl
@[simp] theorem gangs_setOp (s : State) (k : Nat) (x : Outpost) : (s.setOp k x).gangs = s.gangs := rfl
@[simp] theorem gathers_setOp (s : State) (k : Nat) (x : Outpost) : (s.setOp k x).gathers = s.gathers := rfl
@[simp] theorem trains_setOp (s : State) (k : Nat) (x : Outpost) : (s.setOp k x).trains = s.trains := rfl
@[simp] theorem nextId_setOp (s : State) (k : Nat) (x : Outpost) : (s.setOp k x).nextId = s.nextId := rfl
@[simp] theorem parcels_setOp (s : State) (k : Nat) (x : Outpost) : (s.setOp k x).parcels = s.parcels := rfl
@[simp] theorem parcel0_setOp (s : State) (k : Nat) (x : Outpost) : (s.setOp k x).parcel0 = s.parcel0 := rfl
@[simp] theorem mbxN_setOp (s : State) (k : Nat) (x : Outpost) : (s.setOp k x).mbxN = s.mbxN := rfl
@[simp] theorem mbxS_setOp (s : State) (k : Nat) (x : Outpost) : (s.setOp k x).mbxS = s.mbxS := rfl
@[simp] theorem pwr_setOp (s : State) (k : Nat) (x : Outpost) : (s.setOp k x).pwr = s.pwr := rfl
@[simp] theorem isl_setOp (s : State) (k : Nat) (x : Outpost) : (s.setOp k x).isl = s.isl := rfl
@[simp] theorem parity_setOp (s : State) (k : Nat) (x : Outpost) : (s.setOp k x).parity = s.parity := rfl
@[simp] theorem ecc_setOp (s : State) (k : Nat) (x : Outpost) : (s.setOp k x).ecc = s.ecc := rfl
@[simp] theorem waits_setOp (s : State) (k : Nat) (x : Outpost) : (s.setOp k x).waits = s.waits := rfl
@[simp] theorem testCtl_setOp (s : State) (k : Nat) (x : Outpost) : (s.setOp k x).testCtl = s.testCtl := rfl
@[simp] theorem mem_setOp (s : State) (k : Nat) (x : Outpost) : (s.setOp k x).mem = s.mem := rfl
@[simp] theorem out_setOp (s : State) (k : Nat) (x : Outpost) : (s.setOp k x).out = s.out := rfl
@[simp] theorem free_setOp (s : State) (k : Nat) (x : Outpost) : (s.setOp k x).free = s.free := rfl
@[simp] theorem pending_modOp (s : State) (k : Nat) (f : Outpost → Outpost) : (s.modOp k f).pending = s.pending := rfl
@[simp] theorem net_modOp (s : State) (k : Nat) (f : Outpost → Outpost) : (s.modOp k f).net = s.net := rfl
@[simp] theorem mer_modOp (s : State) (k : Nat) (f : Outpost → Outpost) : (s.modOp k f).mer = s.mer := rfl
@[simp] theorem hub_modOp (s : State) (k : Nat) (f : Outpost → Outpost) : (s.modOp k f).hub = s.hub := rfl
@[simp] theorem cells_modOp (s : State) (k : Nat) (f : Outpost → Outpost) : (s.modOp k f).cells = s.cells := rfl
@[simp] theorem inputs_modOp (s : State) (k : Nat) (f : Outpost → Outpost) : (s.modOp k f).inputs = s.inputs := rfl
@[simp] theorem queues_modOp (s : State) (k : Nat) (f : Outpost → Outpost) : (s.modOp k f).queues = s.queues := rfl
@[simp] theorem tally_modOp (s : State) (k : Nat) (f : Outpost → Outpost) : (s.modOp k f).tally = s.tally := rfl
@[simp] theorem pool_modOp (s : State) (k : Nat) (f : Outpost → Outpost) : (s.modOp k f).pool = s.pool := rfl
@[simp] theorem fb_modOp (s : State) (k : Nat) (f : Outpost → Outpost) : (s.modOp k f).fb = s.fb := rfl
@[simp] theorem gates_modOp (s : State) (k : Nat) (f : Outpost → Outpost) : (s.modOp k f).gates = s.gates := rfl
@[simp] theorem resv_modOp (s : State) (k : Nat) (f : Outpost → Outpost) : (s.modOp k f).resv = s.resv := rfl
@[simp] theorem stns_modOp (s : State) (k : Nat) (f : Outpost → Outpost) : (s.modOp k f).stns = s.stns := rfl
@[simp] theorem ctxs_modOp (s : State) (k : Nat) (f : Outpost → Outpost) : (s.modOp k f).ctxs = s.ctxs := rfl
@[simp] theorem spreads_modOp (s : State) (k : Nat) (f : Outpost → Outpost) : (s.modOp k f).spreads = s.spreads := rfl
@[simp] theorem places_modOp (s : State) (k : Nat) (f : Outpost → Outpost) : (s.modOp k f).places = s.places := rfl
@[simp] theorem views_modOp (s : State) (k : Nat) (f : Outpost → Outpost) : (s.modOp k f).views = s.views := rfl
@[simp] theorem gangs_modOp (s : State) (k : Nat) (f : Outpost → Outpost) : (s.modOp k f).gangs = s.gangs := rfl
@[simp] theorem gathers_modOp (s : State) (k : Nat) (f : Outpost → Outpost) : (s.modOp k f).gathers = s.gathers := rfl
@[simp] theorem trains_modOp (s : State) (k : Nat) (f : Outpost → Outpost) : (s.modOp k f).trains = s.trains := rfl
@[simp] theorem nextId_modOp (s : State) (k : Nat) (f : Outpost → Outpost) : (s.modOp k f).nextId = s.nextId := rfl
@[simp] theorem parcels_modOp (s : State) (k : Nat) (f : Outpost → Outpost) : (s.modOp k f).parcels = s.parcels := rfl
@[simp] theorem parcel0_modOp (s : State) (k : Nat) (f : Outpost → Outpost) : (s.modOp k f).parcel0 = s.parcel0 := rfl
@[simp] theorem mbxN_modOp (s : State) (k : Nat) (f : Outpost → Outpost) : (s.modOp k f).mbxN = s.mbxN := rfl
@[simp] theorem mbxS_modOp (s : State) (k : Nat) (f : Outpost → Outpost) : (s.modOp k f).mbxS = s.mbxS := rfl
@[simp] theorem pwr_modOp (s : State) (k : Nat) (f : Outpost → Outpost) : (s.modOp k f).pwr = s.pwr := rfl
@[simp] theorem isl_modOp (s : State) (k : Nat) (f : Outpost → Outpost) : (s.modOp k f).isl = s.isl := rfl
@[simp] theorem parity_modOp (s : State) (k : Nat) (f : Outpost → Outpost) : (s.modOp k f).parity = s.parity := rfl
@[simp] theorem ecc_modOp (s : State) (k : Nat) (f : Outpost → Outpost) : (s.modOp k f).ecc = s.ecc := rfl
@[simp] theorem waits_modOp (s : State) (k : Nat) (f : Outpost → Outpost) : (s.modOp k f).waits = s.waits := rfl
@[simp] theorem testCtl_modOp (s : State) (k : Nat) (f : Outpost → Outpost) : (s.modOp k f).testCtl = s.testCtl := rfl
@[simp] theorem mem_modOp (s : State) (k : Nat) (f : Outpost → Outpost) : (s.modOp k f).mem = s.mem := rfl
@[simp] theorem out_modOp (s : State) (k : Nat) (f : Outpost → Outpost) : (s.modOp k f).out = s.out := rfl
@[simp] theorem free_modOp (s : State) (k : Nat) (f : Outpost → Outpost) : (s.modOp k f).free = s.free := rfl
@[simp] theorem pending_modInput (s : State) (e : Nat) (f : Input → Input) : (s.modInput e f).pending = s.pending := rfl
@[simp] theorem net_modInput (s : State) (e : Nat) (f : Input → Input) : (s.modInput e f).net = s.net := rfl
@[simp] theorem mer_modInput (s : State) (e : Nat) (f : Input → Input) : (s.modInput e f).mer = s.mer := rfl
@[simp] theorem hub_modInput (s : State) (e : Nat) (f : Input → Input) : (s.modInput e f).hub = s.hub := rfl
@[simp] theorem outs_modInput (s : State) (e : Nat) (f : Input → Input) : (s.modInput e f).outs = s.outs := rfl
@[simp] theorem cells_modInput (s : State) (e : Nat) (f : Input → Input) : (s.modInput e f).cells = s.cells := rfl
@[simp] theorem queues_modInput (s : State) (e : Nat) (f : Input → Input) : (s.modInput e f).queues = s.queues := rfl
@[simp] theorem tally_modInput (s : State) (e : Nat) (f : Input → Input) : (s.modInput e f).tally = s.tally := rfl
@[simp] theorem pool_modInput (s : State) (e : Nat) (f : Input → Input) : (s.modInput e f).pool = s.pool := rfl
@[simp] theorem fb_modInput (s : State) (e : Nat) (f : Input → Input) : (s.modInput e f).fb = s.fb := rfl
@[simp] theorem gates_modInput (s : State) (e : Nat) (f : Input → Input) : (s.modInput e f).gates = s.gates := rfl
@[simp] theorem resv_modInput (s : State) (e : Nat) (f : Input → Input) : (s.modInput e f).resv = s.resv := rfl
@[simp] theorem stns_modInput (s : State) (e : Nat) (f : Input → Input) : (s.modInput e f).stns = s.stns := rfl
@[simp] theorem ctxs_modInput (s : State) (e : Nat) (f : Input → Input) : (s.modInput e f).ctxs = s.ctxs := rfl
@[simp] theorem spreads_modInput (s : State) (e : Nat) (f : Input → Input) : (s.modInput e f).spreads = s.spreads := rfl
@[simp] theorem places_modInput (s : State) (e : Nat) (f : Input → Input) : (s.modInput e f).places = s.places := rfl
@[simp] theorem views_modInput (s : State) (e : Nat) (f : Input → Input) : (s.modInput e f).views = s.views := rfl
@[simp] theorem gangs_modInput (s : State) (e : Nat) (f : Input → Input) : (s.modInput e f).gangs = s.gangs := rfl
@[simp] theorem gathers_modInput (s : State) (e : Nat) (f : Input → Input) : (s.modInput e f).gathers = s.gathers := rfl
@[simp] theorem trains_modInput (s : State) (e : Nat) (f : Input → Input) : (s.modInput e f).trains = s.trains := rfl
@[simp] theorem nextId_modInput (s : State) (e : Nat) (f : Input → Input) : (s.modInput e f).nextId = s.nextId := rfl
@[simp] theorem parcels_modInput (s : State) (e : Nat) (f : Input → Input) : (s.modInput e f).parcels = s.parcels := rfl
@[simp] theorem parcel0_modInput (s : State) (e : Nat) (f : Input → Input) : (s.modInput e f).parcel0 = s.parcel0 := rfl
@[simp] theorem mbxN_modInput (s : State) (e : Nat) (f : Input → Input) : (s.modInput e f).mbxN = s.mbxN := rfl
@[simp] theorem mbxS_modInput (s : State) (e : Nat) (f : Input → Input) : (s.modInput e f).mbxS = s.mbxS := rfl
@[simp] theorem pwr_modInput (s : State) (e : Nat) (f : Input → Input) : (s.modInput e f).pwr = s.pwr := rfl
@[simp] theorem isl_modInput (s : State) (e : Nat) (f : Input → Input) : (s.modInput e f).isl = s.isl := rfl
@[simp] theorem parity_modInput (s : State) (e : Nat) (f : Input → Input) : (s.modInput e f).parity = s.parity := rfl
@[simp] theorem ecc_modInput (s : State) (e : Nat) (f : Input → Input) : (s.modInput e f).ecc = s.ecc := rfl
@[simp] theorem waits_modInput (s : State) (e : Nat) (f : Input → Input) : (s.modInput e f).waits = s.waits := rfl
@[simp] theorem testCtl_modInput (s : State) (e : Nat) (f : Input → Input) : (s.modInput e f).testCtl = s.testCtl := rfl
@[simp] theorem mem_modInput (s : State) (e : Nat) (f : Input → Input) : (s.modInput e f).mem = s.mem := rfl
@[simp] theorem out_modInput (s : State) (e : Nat) (f : Input → Input) : (s.modInput e f).out = s.out := rfl
@[simp] theorem free_modInput (s : State) (e : Nat) (f : Input → Input) : (s.modInput e f).free = s.free := rfl
@[simp] theorem pending_setQueue (s : State) (e : Nat) (x : Queue) : (s.setQueue e x).pending = s.pending := rfl
@[simp] theorem net_setQueue (s : State) (e : Nat) (x : Queue) : (s.setQueue e x).net = s.net := rfl
@[simp] theorem mer_setQueue (s : State) (e : Nat) (x : Queue) : (s.setQueue e x).mer = s.mer := rfl
@[simp] theorem hub_setQueue (s : State) (e : Nat) (x : Queue) : (s.setQueue e x).hub = s.hub := rfl
@[simp] theorem outs_setQueue (s : State) (e : Nat) (x : Queue) : (s.setQueue e x).outs = s.outs := rfl
@[simp] theorem cells_setQueue (s : State) (e : Nat) (x : Queue) : (s.setQueue e x).cells = s.cells := rfl
@[simp] theorem inputs_setQueue (s : State) (e : Nat) (x : Queue) : (s.setQueue e x).inputs = s.inputs := rfl
@[simp] theorem tally_setQueue (s : State) (e : Nat) (x : Queue) : (s.setQueue e x).tally = s.tally := rfl
@[simp] theorem pool_setQueue (s : State) (e : Nat) (x : Queue) : (s.setQueue e x).pool = s.pool := rfl
@[simp] theorem fb_setQueue (s : State) (e : Nat) (x : Queue) : (s.setQueue e x).fb = s.fb := rfl
@[simp] theorem gates_setQueue (s : State) (e : Nat) (x : Queue) : (s.setQueue e x).gates = s.gates := rfl
@[simp] theorem resv_setQueue (s : State) (e : Nat) (x : Queue) : (s.setQueue e x).resv = s.resv := rfl
@[simp] theorem stns_setQueue (s : State) (e : Nat) (x : Queue) : (s.setQueue e x).stns = s.stns := rfl
@[simp] theorem ctxs_setQueue (s : State) (e : Nat) (x : Queue) : (s.setQueue e x).ctxs = s.ctxs := rfl
@[simp] theorem spreads_setQueue (s : State) (e : Nat) (x : Queue) : (s.setQueue e x).spreads = s.spreads := rfl
@[simp] theorem places_setQueue (s : State) (e : Nat) (x : Queue) : (s.setQueue e x).places = s.places := rfl
@[simp] theorem views_setQueue (s : State) (e : Nat) (x : Queue) : (s.setQueue e x).views = s.views := rfl
@[simp] theorem gangs_setQueue (s : State) (e : Nat) (x : Queue) : (s.setQueue e x).gangs = s.gangs := rfl
@[simp] theorem gathers_setQueue (s : State) (e : Nat) (x : Queue) : (s.setQueue e x).gathers = s.gathers := rfl
@[simp] theorem trains_setQueue (s : State) (e : Nat) (x : Queue) : (s.setQueue e x).trains = s.trains := rfl
@[simp] theorem nextId_setQueue (s : State) (e : Nat) (x : Queue) : (s.setQueue e x).nextId = s.nextId := rfl
@[simp] theorem parcels_setQueue (s : State) (e : Nat) (x : Queue) : (s.setQueue e x).parcels = s.parcels := rfl
@[simp] theorem parcel0_setQueue (s : State) (e : Nat) (x : Queue) : (s.setQueue e x).parcel0 = s.parcel0 := rfl
@[simp] theorem mbxN_setQueue (s : State) (e : Nat) (x : Queue) : (s.setQueue e x).mbxN = s.mbxN := rfl
@[simp] theorem mbxS_setQueue (s : State) (e : Nat) (x : Queue) : (s.setQueue e x).mbxS = s.mbxS := rfl
@[simp] theorem pwr_setQueue (s : State) (e : Nat) (x : Queue) : (s.setQueue e x).pwr = s.pwr := rfl
@[simp] theorem isl_setQueue (s : State) (e : Nat) (x : Queue) : (s.setQueue e x).isl = s.isl := rfl
@[simp] theorem parity_setQueue (s : State) (e : Nat) (x : Queue) : (s.setQueue e x).parity = s.parity := rfl
@[simp] theorem ecc_setQueue (s : State) (e : Nat) (x : Queue) : (s.setQueue e x).ecc = s.ecc := rfl
@[simp] theorem waits_setQueue (s : State) (e : Nat) (x : Queue) : (s.setQueue e x).waits = s.waits := rfl
@[simp] theorem testCtl_setQueue (s : State) (e : Nat) (x : Queue) : (s.setQueue e x).testCtl = s.testCtl := rfl
@[simp] theorem mem_setQueue (s : State) (e : Nat) (x : Queue) : (s.setQueue e x).mem = s.mem := rfl
@[simp] theorem out_setQueue (s : State) (e : Nat) (x : Queue) : (s.setQueue e x).out = s.out := rfl
@[simp] theorem free_setQueue (s : State) (e : Nat) (x : Queue) : (s.setQueue e x).free = s.free := rfl
@[simp] theorem pending_modQueue (s : State) (e : Nat) (f : Queue → Queue) : (s.modQueue e f).pending = s.pending := rfl
@[simp] theorem net_modQueue (s : State) (e : Nat) (f : Queue → Queue) : (s.modQueue e f).net = s.net := rfl
@[simp] theorem mer_modQueue (s : State) (e : Nat) (f : Queue → Queue) : (s.modQueue e f).mer = s.mer := rfl
@[simp] theorem hub_modQueue (s : State) (e : Nat) (f : Queue → Queue) : (s.modQueue e f).hub = s.hub := rfl
@[simp] theorem outs_modQueue (s : State) (e : Nat) (f : Queue → Queue) : (s.modQueue e f).outs = s.outs := rfl
@[simp] theorem cells_modQueue (s : State) (e : Nat) (f : Queue → Queue) : (s.modQueue e f).cells = s.cells := rfl
@[simp] theorem inputs_modQueue (s : State) (e : Nat) (f : Queue → Queue) : (s.modQueue e f).inputs = s.inputs := rfl
@[simp] theorem tally_modQueue (s : State) (e : Nat) (f : Queue → Queue) : (s.modQueue e f).tally = s.tally := rfl
@[simp] theorem pool_modQueue (s : State) (e : Nat) (f : Queue → Queue) : (s.modQueue e f).pool = s.pool := rfl
@[simp] theorem fb_modQueue (s : State) (e : Nat) (f : Queue → Queue) : (s.modQueue e f).fb = s.fb := rfl
@[simp] theorem gates_modQueue (s : State) (e : Nat) (f : Queue → Queue) : (s.modQueue e f).gates = s.gates := rfl
@[simp] theorem resv_modQueue (s : State) (e : Nat) (f : Queue → Queue) : (s.modQueue e f).resv = s.resv := rfl
@[simp] theorem stns_modQueue (s : State) (e : Nat) (f : Queue → Queue) : (s.modQueue e f).stns = s.stns := rfl
@[simp] theorem ctxs_modQueue (s : State) (e : Nat) (f : Queue → Queue) : (s.modQueue e f).ctxs = s.ctxs := rfl
@[simp] theorem spreads_modQueue (s : State) (e : Nat) (f : Queue → Queue) : (s.modQueue e f).spreads = s.spreads := rfl
@[simp] theorem places_modQueue (s : State) (e : Nat) (f : Queue → Queue) : (s.modQueue e f).places = s.places := rfl
@[simp] theorem views_modQueue (s : State) (e : Nat) (f : Queue → Queue) : (s.modQueue e f).views = s.views := rfl
@[simp] theorem gangs_modQueue (s : State) (e : Nat) (f : Queue → Queue) : (s.modQueue e f).gangs = s.gangs := rfl
@[simp] theorem gathers_modQueue (s : State) (e : Nat) (f : Queue → Queue) : (s.modQueue e f).gathers = s.gathers := rfl
@[simp] theorem trains_modQueue (s : State) (e : Nat) (f : Queue → Queue) : (s.modQueue e f).trains = s.trains := rfl
@[simp] theorem nextId_modQueue (s : State) (e : Nat) (f : Queue → Queue) : (s.modQueue e f).nextId = s.nextId := rfl
@[simp] theorem parcels_modQueue (s : State) (e : Nat) (f : Queue → Queue) : (s.modQueue e f).parcels = s.parcels := rfl
@[simp] theorem parcel0_modQueue (s : State) (e : Nat) (f : Queue → Queue) : (s.modQueue e f).parcel0 = s.parcel0 := rfl
@[simp] theorem mbxN_modQueue (s : State) (e : Nat) (f : Queue → Queue) : (s.modQueue e f).mbxN = s.mbxN := rfl
@[simp] theorem mbxS_modQueue (s : State) (e : Nat) (f : Queue → Queue) : (s.modQueue e f).mbxS = s.mbxS := rfl
@[simp] theorem pwr_modQueue (s : State) (e : Nat) (f : Queue → Queue) : (s.modQueue e f).pwr = s.pwr := rfl
@[simp] theorem isl_modQueue (s : State) (e : Nat) (f : Queue → Queue) : (s.modQueue e f).isl = s.isl := rfl
@[simp] theorem parity_modQueue (s : State) (e : Nat) (f : Queue → Queue) : (s.modQueue e f).parity = s.parity := rfl
@[simp] theorem ecc_modQueue (s : State) (e : Nat) (f : Queue → Queue) : (s.modQueue e f).ecc = s.ecc := rfl
@[simp] theorem waits_modQueue (s : State) (e : Nat) (f : Queue → Queue) : (s.modQueue e f).waits = s.waits := rfl
@[simp] theorem testCtl_modQueue (s : State) (e : Nat) (f : Queue → Queue) : (s.modQueue e f).testCtl = s.testCtl := rfl
@[simp] theorem mem_modQueue (s : State) (e : Nat) (f : Queue → Queue) : (s.modQueue e f).mem = s.mem := rfl
@[simp] theorem out_modQueue (s : State) (e : Nat) (f : Queue → Queue) : (s.modQueue e f).out = s.out := rfl
@[simp] theorem free_modQueue (s : State) (e : Nat) (f : Queue → Queue) : (s.modQueue e f).free = s.free := rfl
@[simp] theorem pending_setSlot (s : State) (n : Nat) (x : Slot) : (s.setSlot n x).pending = s.pending := rfl
@[simp] theorem net_setSlot (s : State) (n : Nat) (x : Slot) : (s.setSlot n x).net = s.net := rfl
@[simp] theorem mer_setSlot (s : State) (n : Nat) (x : Slot) : (s.setSlot n x).mer = s.mer := rfl
@[simp] theorem hub_setSlot (s : State) (n : Nat) (x : Slot) : (s.setSlot n x).hub = s.hub := rfl
@[simp] theorem outs_setSlot (s : State) (n : Nat) (x : Slot) : (s.setSlot n x).outs = s.outs := rfl
@[simp] theorem cells_setSlot (s : State) (n : Nat) (x : Slot) : (s.setSlot n x).cells = s.cells := rfl
@[simp] theorem inputs_setSlot (s : State) (n : Nat) (x : Slot) : (s.setSlot n x).inputs = s.inputs := rfl
@[simp] theorem queues_setSlot (s : State) (n : Nat) (x : Slot) : (s.setSlot n x).queues = s.queues := rfl
@[simp] theorem tally_setSlot (s : State) (n : Nat) (x : Slot) : (s.setSlot n x).tally = s.tally := rfl
@[simp] theorem fb_setSlot (s : State) (n : Nat) (x : Slot) : (s.setSlot n x).fb = s.fb := rfl
@[simp] theorem gates_setSlot (s : State) (n : Nat) (x : Slot) : (s.setSlot n x).gates = s.gates := rfl
@[simp] theorem resv_setSlot (s : State) (n : Nat) (x : Slot) : (s.setSlot n x).resv = s.resv := rfl
@[simp] theorem stns_setSlot (s : State) (n : Nat) (x : Slot) : (s.setSlot n x).stns = s.stns := rfl
@[simp] theorem ctxs_setSlot (s : State) (n : Nat) (x : Slot) : (s.setSlot n x).ctxs = s.ctxs := rfl
@[simp] theorem spreads_setSlot (s : State) (n : Nat) (x : Slot) : (s.setSlot n x).spreads = s.spreads := rfl
@[simp] theorem places_setSlot (s : State) (n : Nat) (x : Slot) : (s.setSlot n x).places = s.places := rfl
@[simp] theorem views_setSlot (s : State) (n : Nat) (x : Slot) : (s.setSlot n x).views = s.views := rfl
@[simp] theorem gangs_setSlot (s : State) (n : Nat) (x : Slot) : (s.setSlot n x).gangs = s.gangs := rfl
@[simp] theorem gathers_setSlot (s : State) (n : Nat) (x : Slot) : (s.setSlot n x).gathers = s.gathers := rfl
@[simp] theorem trains_setSlot (s : State) (n : Nat) (x : Slot) : (s.setSlot n x).trains = s.trains := rfl
@[simp] theorem nextId_setSlot (s : State) (n : Nat) (x : Slot) : (s.setSlot n x).nextId = s.nextId := rfl
@[simp] theorem parcels_setSlot (s : State) (n : Nat) (x : Slot) : (s.setSlot n x).parcels = s.parcels := rfl
@[simp] theorem parcel0_setSlot (s : State) (n : Nat) (x : Slot) : (s.setSlot n x).parcel0 = s.parcel0 := rfl
@[simp] theorem mbxN_setSlot (s : State) (n : Nat) (x : Slot) : (s.setSlot n x).mbxN = s.mbxN := rfl
@[simp] theorem mbxS_setSlot (s : State) (n : Nat) (x : Slot) : (s.setSlot n x).mbxS = s.mbxS := rfl
@[simp] theorem pwr_setSlot (s : State) (n : Nat) (x : Slot) : (s.setSlot n x).pwr = s.pwr := rfl
@[simp] theorem isl_setSlot (s : State) (n : Nat) (x : Slot) : (s.setSlot n x).isl = s.isl := rfl
@[simp] theorem parity_setSlot (s : State) (n : Nat) (x : Slot) : (s.setSlot n x).parity = s.parity := rfl
@[simp] theorem ecc_setSlot (s : State) (n : Nat) (x : Slot) : (s.setSlot n x).ecc = s.ecc := rfl
@[simp] theorem waits_setSlot (s : State) (n : Nat) (x : Slot) : (s.setSlot n x).waits = s.waits := rfl
@[simp] theorem testCtl_setSlot (s : State) (n : Nat) (x : Slot) : (s.setSlot n x).testCtl = s.testCtl := rfl
@[simp] theorem mem_setSlot (s : State) (n : Nat) (x : Slot) : (s.setSlot n x).mem = s.mem := rfl
@[simp] theorem out_setSlot (s : State) (n : Nat) (x : Slot) : (s.setSlot n x).out = s.out := rfl
@[simp] theorem free_setSlot (s : State) (n : Nat) (x : Slot) : (s.setSlot n x).free = s.free := rfl
@[simp] theorem pending_setStn (s : State) (n : Nat) (x : Station) : (s.setStn n x).pending = s.pending := rfl
@[simp] theorem net_setStn (s : State) (n : Nat) (x : Station) : (s.setStn n x).net = s.net := rfl
@[simp] theorem mer_setStn (s : State) (n : Nat) (x : Station) : (s.setStn n x).mer = s.mer := rfl
@[simp] theorem hub_setStn (s : State) (n : Nat) (x : Station) : (s.setStn n x).hub = s.hub := rfl
@[simp] theorem outs_setStn (s : State) (n : Nat) (x : Station) : (s.setStn n x).outs = s.outs := rfl
@[simp] theorem cells_setStn (s : State) (n : Nat) (x : Station) : (s.setStn n x).cells = s.cells := rfl
@[simp] theorem inputs_setStn (s : State) (n : Nat) (x : Station) : (s.setStn n x).inputs = s.inputs := rfl
@[simp] theorem queues_setStn (s : State) (n : Nat) (x : Station) : (s.setStn n x).queues = s.queues := rfl
@[simp] theorem tally_setStn (s : State) (n : Nat) (x : Station) : (s.setStn n x).tally = s.tally := rfl
@[simp] theorem pool_setStn (s : State) (n : Nat) (x : Station) : (s.setStn n x).pool = s.pool := rfl
@[simp] theorem fb_setStn (s : State) (n : Nat) (x : Station) : (s.setStn n x).fb = s.fb := rfl
@[simp] theorem gates_setStn (s : State) (n : Nat) (x : Station) : (s.setStn n x).gates = s.gates := rfl
@[simp] theorem resv_setStn (s : State) (n : Nat) (x : Station) : (s.setStn n x).resv = s.resv := rfl
@[simp] theorem ctxs_setStn (s : State) (n : Nat) (x : Station) : (s.setStn n x).ctxs = s.ctxs := rfl
@[simp] theorem spreads_setStn (s : State) (n : Nat) (x : Station) : (s.setStn n x).spreads = s.spreads := rfl
@[simp] theorem places_setStn (s : State) (n : Nat) (x : Station) : (s.setStn n x).places = s.places := rfl
@[simp] theorem views_setStn (s : State) (n : Nat) (x : Station) : (s.setStn n x).views = s.views := rfl
@[simp] theorem gangs_setStn (s : State) (n : Nat) (x : Station) : (s.setStn n x).gangs = s.gangs := rfl
@[simp] theorem gathers_setStn (s : State) (n : Nat) (x : Station) : (s.setStn n x).gathers = s.gathers := rfl
@[simp] theorem trains_setStn (s : State) (n : Nat) (x : Station) : (s.setStn n x).trains = s.trains := rfl
@[simp] theorem nextId_setStn (s : State) (n : Nat) (x : Station) : (s.setStn n x).nextId = s.nextId := rfl
@[simp] theorem parcels_setStn (s : State) (n : Nat) (x : Station) : (s.setStn n x).parcels = s.parcels := rfl
@[simp] theorem parcel0_setStn (s : State) (n : Nat) (x : Station) : (s.setStn n x).parcel0 = s.parcel0 := rfl
@[simp] theorem mbxN_setStn (s : State) (n : Nat) (x : Station) : (s.setStn n x).mbxN = s.mbxN := rfl
@[simp] theorem mbxS_setStn (s : State) (n : Nat) (x : Station) : (s.setStn n x).mbxS = s.mbxS := rfl
@[simp] theorem pwr_setStn (s : State) (n : Nat) (x : Station) : (s.setStn n x).pwr = s.pwr := rfl
@[simp] theorem isl_setStn (s : State) (n : Nat) (x : Station) : (s.setStn n x).isl = s.isl := rfl
@[simp] theorem parity_setStn (s : State) (n : Nat) (x : Station) : (s.setStn n x).parity = s.parity := rfl
@[simp] theorem ecc_setStn (s : State) (n : Nat) (x : Station) : (s.setStn n x).ecc = s.ecc := rfl
@[simp] theorem waits_setStn (s : State) (n : Nat) (x : Station) : (s.setStn n x).waits = s.waits := rfl
@[simp] theorem testCtl_setStn (s : State) (n : Nat) (x : Station) : (s.setStn n x).testCtl = s.testCtl := rfl
@[simp] theorem mem_setStn (s : State) (n : Nat) (x : Station) : (s.setStn n x).mem = s.mem := rfl
@[simp] theorem out_setStn (s : State) (n : Nat) (x : Station) : (s.setStn n x).out = s.out := rfl
@[simp] theorem free_setStn (s : State) (n : Nat) (x : Station) : (s.setStn n x).free = s.free := rfl
@[simp] theorem pending_modStn (s : State) (n : Nat) (f : Station → Station) : (s.modStn n f).pending = s.pending := rfl
@[simp] theorem net_modStn (s : State) (n : Nat) (f : Station → Station) : (s.modStn n f).net = s.net := rfl
@[simp] theorem mer_modStn (s : State) (n : Nat) (f : Station → Station) : (s.modStn n f).mer = s.mer := rfl
@[simp] theorem hub_modStn (s : State) (n : Nat) (f : Station → Station) : (s.modStn n f).hub = s.hub := rfl
@[simp] theorem outs_modStn (s : State) (n : Nat) (f : Station → Station) : (s.modStn n f).outs = s.outs := rfl
@[simp] theorem cells_modStn (s : State) (n : Nat) (f : Station → Station) : (s.modStn n f).cells = s.cells := rfl
@[simp] theorem inputs_modStn (s : State) (n : Nat) (f : Station → Station) : (s.modStn n f).inputs = s.inputs := rfl
@[simp] theorem queues_modStn (s : State) (n : Nat) (f : Station → Station) : (s.modStn n f).queues = s.queues := rfl
@[simp] theorem tally_modStn (s : State) (n : Nat) (f : Station → Station) : (s.modStn n f).tally = s.tally := rfl
@[simp] theorem pool_modStn (s : State) (n : Nat) (f : Station → Station) : (s.modStn n f).pool = s.pool := rfl
@[simp] theorem fb_modStn (s : State) (n : Nat) (f : Station → Station) : (s.modStn n f).fb = s.fb := rfl
@[simp] theorem gates_modStn (s : State) (n : Nat) (f : Station → Station) : (s.modStn n f).gates = s.gates := rfl
@[simp] theorem resv_modStn (s : State) (n : Nat) (f : Station → Station) : (s.modStn n f).resv = s.resv := rfl
@[simp] theorem ctxs_modStn (s : State) (n : Nat) (f : Station → Station) : (s.modStn n f).ctxs = s.ctxs := rfl
@[simp] theorem spreads_modStn (s : State) (n : Nat) (f : Station → Station) : (s.modStn n f).spreads = s.spreads := rfl
@[simp] theorem places_modStn (s : State) (n : Nat) (f : Station → Station) : (s.modStn n f).places = s.places := rfl
@[simp] theorem views_modStn (s : State) (n : Nat) (f : Station → Station) : (s.modStn n f).views = s.views := rfl
@[simp] theorem gangs_modStn (s : State) (n : Nat) (f : Station → Station) : (s.modStn n f).gangs = s.gangs := rfl
@[simp] theorem gathers_modStn (s : State) (n : Nat) (f : Station → Station) : (s.modStn n f).gathers = s.gathers := rfl
@[simp] theorem trains_modStn (s : State) (n : Nat) (f : Station → Station) : (s.modStn n f).trains = s.trains := rfl
@[simp] theorem nextId_modStn (s : State) (n : Nat) (f : Station → Station) : (s.modStn n f).nextId = s.nextId := rfl
@[simp] theorem parcels_modStn (s : State) (n : Nat) (f : Station → Station) : (s.modStn n f).parcels = s.parcels := rfl
@[simp] theorem parcel0_modStn (s : State) (n : Nat) (f : Station → Station) : (s.modStn n f).parcel0 = s.parcel0 := rfl
@[simp] theorem mbxN_modStn (s : State) (n : Nat) (f : Station → Station) : (s.modStn n f).mbxN = s.mbxN := rfl
@[simp] theorem mbxS_modStn (s : State) (n : Nat) (f : Station → Station) : (s.modStn n f).mbxS = s.mbxS := rfl
@[simp] theorem pwr_modStn (s : State) (n : Nat) (f : Station → Station) : (s.modStn n f).pwr = s.pwr := rfl
@[simp] theorem isl_modStn (s : State) (n : Nat) (f : Station → Station) : (s.modStn n f).isl = s.isl := rfl
@[simp] theorem parity_modStn (s : State) (n : Nat) (f : Station → Station) : (s.modStn n f).parity = s.parity := rfl
@[simp] theorem ecc_modStn (s : State) (n : Nat) (f : Station → Station) : (s.modStn n f).ecc = s.ecc := rfl
@[simp] theorem waits_modStn (s : State) (n : Nat) (f : Station → Station) : (s.modStn n f).waits = s.waits := rfl
@[simp] theorem testCtl_modStn (s : State) (n : Nat) (f : Station → Station) : (s.modStn n f).testCtl = s.testCtl := rfl
@[simp] theorem mem_modStn (s : State) (n : Nat) (f : Station → Station) : (s.modStn n f).mem = s.mem := rfl
@[simp] theorem out_modStn (s : State) (n : Nat) (f : Station → Station) : (s.modStn n f).out = s.out := rfl
@[simp] theorem free_modStn (s : State) (n : Nat) (f : Station → Station) : (s.modStn n f).free = s.free := rfl
@[simp] theorem pending_modGrp (s : State) (n : Nat) (g : Grp) (f : Group → Group) : (s.modGrp n g f).pending = s.pending := rfl
@[simp] theorem net_modGrp (s : State) (n : Nat) (g : Grp) (f : Group → Group) : (s.modGrp n g f).net = s.net := rfl
@[simp] theorem mer_modGrp (s : State) (n : Nat) (g : Grp) (f : Group → Group) : (s.modGrp n g f).mer = s.mer := rfl
@[simp] theorem hub_modGrp (s : State) (n : Nat) (g : Grp) (f : Group → Group) : (s.modGrp n g f).hub = s.hub := rfl
@[simp] theorem outs_modGrp (s : State) (n : Nat) (g : Grp) (f : Group → Group) : (s.modGrp n g f).outs = s.outs := rfl
@[simp] theorem cells_modGrp (s : State) (n : Nat) (g : Grp) (f : Group → Group) : (s.modGrp n g f).cells = s.cells := rfl
@[simp] theorem inputs_modGrp (s : State) (n : Nat) (g : Grp) (f : Group → Group) : (s.modGrp n g f).inputs = s.inputs := rfl
@[simp] theorem queues_modGrp (s : State) (n : Nat) (g : Grp) (f : Group → Group) : (s.modGrp n g f).queues = s.queues := rfl
@[simp] theorem tally_modGrp (s : State) (n : Nat) (g : Grp) (f : Group → Group) : (s.modGrp n g f).tally = s.tally := rfl
@[simp] theorem pool_modGrp (s : State) (n : Nat) (g : Grp) (f : Group → Group) : (s.modGrp n g f).pool = s.pool := rfl
@[simp] theorem fb_modGrp (s : State) (n : Nat) (g : Grp) (f : Group → Group) : (s.modGrp n g f).fb = s.fb := rfl
@[simp] theorem gates_modGrp (s : State) (n : Nat) (g : Grp) (f : Group → Group) : (s.modGrp n g f).gates = s.gates := rfl
@[simp] theorem resv_modGrp (s : State) (n : Nat) (g : Grp) (f : Group → Group) : (s.modGrp n g f).resv = s.resv := rfl
@[simp] theorem ctxs_modGrp (s : State) (n : Nat) (g : Grp) (f : Group → Group) : (s.modGrp n g f).ctxs = s.ctxs := rfl
@[simp] theorem spreads_modGrp (s : State) (n : Nat) (g : Grp) (f : Group → Group) : (s.modGrp n g f).spreads = s.spreads := rfl
@[simp] theorem places_modGrp (s : State) (n : Nat) (g : Grp) (f : Group → Group) : (s.modGrp n g f).places = s.places := rfl
@[simp] theorem views_modGrp (s : State) (n : Nat) (g : Grp) (f : Group → Group) : (s.modGrp n g f).views = s.views := rfl
@[simp] theorem gangs_modGrp (s : State) (n : Nat) (g : Grp) (f : Group → Group) : (s.modGrp n g f).gangs = s.gangs := rfl
@[simp] theorem gathers_modGrp (s : State) (n : Nat) (g : Grp) (f : Group → Group) : (s.modGrp n g f).gathers = s.gathers := rfl
@[simp] theorem trains_modGrp (s : State) (n : Nat) (g : Grp) (f : Group → Group) : (s.modGrp n g f).trains = s.trains := rfl
@[simp] theorem nextId_modGrp (s : State) (n : Nat) (g : Grp) (f : Group → Group) : (s.modGrp n g f).nextId = s.nextId := rfl
@[simp] theorem parcels_modGrp (s : State) (n : Nat) (g : Grp) (f : Group → Group) : (s.modGrp n g f).parcels = s.parcels := rfl
@[simp] theorem parcel0_modGrp (s : State) (n : Nat) (g : Grp) (f : Group → Group) : (s.modGrp n g f).parcel0 = s.parcel0 := rfl
@[simp] theorem mbxN_modGrp (s : State) (n : Nat) (g : Grp) (f : Group → Group) : (s.modGrp n g f).mbxN = s.mbxN := rfl
@[simp] theorem mbxS_modGrp (s : State) (n : Nat) (g : Grp) (f : Group → Group) : (s.modGrp n g f).mbxS = s.mbxS := rfl
@[simp] theorem pwr_modGrp (s : State) (n : Nat) (g : Grp) (f : Group → Group) : (s.modGrp n g f).pwr = s.pwr := rfl
@[simp] theorem isl_modGrp (s : State) (n : Nat) (g : Grp) (f : Group → Group) : (s.modGrp n g f).isl = s.isl := rfl
@[simp] theorem parity_modGrp (s : State) (n : Nat) (g : Grp) (f : Group → Group) : (s.modGrp n g f).parity = s.parity := rfl
@[simp] theorem ecc_modGrp (s : State) (n : Nat) (g : Grp) (f : Group → Group) : (s.modGrp n g f).ecc = s.ecc := rfl
@[simp] theorem waits_modGrp (s : State) (n : Nat) (g : Grp) (f : Group → Group) : (s.modGrp n g f).waits = s.waits := rfl
@[simp] theorem testCtl_modGrp (s : State) (n : Nat) (g : Grp) (f : Group → Group) : (s.modGrp n g f).testCtl = s.testCtl := rfl
@[simp] theorem mem_modGrp (s : State) (n : Nat) (g : Grp) (f : Group → Group) : (s.modGrp n g f).mem = s.mem := rfl
@[simp] theorem out_modGrp (s : State) (n : Nat) (g : Grp) (f : Group → Group) : (s.modGrp n g f).out = s.out := rfl
@[simp] theorem free_modGrp (s : State) (n : Nat) (g : Grp) (f : Group → Group) : (s.modGrp n g f).free = s.free := rfl
@[simp] theorem pending_setCtx (s : State) (v : Nat) (x : Ctx) : (s.setCtx v x).pending = s.pending := rfl
@[simp] theorem net_setCtx (s : State) (v : Nat) (x : Ctx) : (s.setCtx v x).net = s.net := rfl
@[simp] theorem mer_setCtx (s : State) (v : Nat) (x : Ctx) : (s.setCtx v x).mer = s.mer := rfl
@[simp] theorem hub_setCtx (s : State) (v : Nat) (x : Ctx) : (s.setCtx v x).hub = s.hub := rfl
@[simp] theorem outs_setCtx (s : State) (v : Nat) (x : Ctx) : (s.setCtx v x).outs = s.outs := rfl
@[simp] theorem cells_setCtx (s : State) (v : Nat) (x : Ctx) : (s.setCtx v x).cells = s.cells := rfl
@[simp] theorem inputs_setCtx (s : State) (v : Nat) (x : Ctx) : (s.setCtx v x).inputs = s.inputs := rfl
@[simp] theorem queues_setCtx (s : State) (v : Nat) (x : Ctx) : (s.setCtx v x).queues = s.queues := rfl
@[simp] theorem tally_setCtx (s : State) (v : Nat) (x : Ctx) : (s.setCtx v x).tally = s.tally := rfl
@[simp] theorem pool_setCtx (s : State) (v : Nat) (x : Ctx) : (s.setCtx v x).pool = s.pool := rfl
@[simp] theorem fb_setCtx (s : State) (v : Nat) (x : Ctx) : (s.setCtx v x).fb = s.fb := rfl
@[simp] theorem gates_setCtx (s : State) (v : Nat) (x : Ctx) : (s.setCtx v x).gates = s.gates := rfl
@[simp] theorem resv_setCtx (s : State) (v : Nat) (x : Ctx) : (s.setCtx v x).resv = s.resv := rfl
@[simp] theorem stns_setCtx (s : State) (v : Nat) (x : Ctx) : (s.setCtx v x).stns = s.stns := rfl
@[simp] theorem spreads_setCtx (s : State) (v : Nat) (x : Ctx) : (s.setCtx v x).spreads = s.spreads := rfl
@[simp] theorem places_setCtx (s : State) (v : Nat) (x : Ctx) : (s.setCtx v x).places = s.places := rfl
@[simp] theorem views_setCtx (s : State) (v : Nat) (x : Ctx) : (s.setCtx v x).views = s.views := rfl
@[simp] theorem gangs_setCtx (s : State) (v : Nat) (x : Ctx) : (s.setCtx v x).gangs = s.gangs := rfl
@[simp] theorem gathers_setCtx (s : State) (v : Nat) (x : Ctx) : (s.setCtx v x).gathers = s.gathers := rfl
@[simp] theorem trains_setCtx (s : State) (v : Nat) (x : Ctx) : (s.setCtx v x).trains = s.trains := rfl
@[simp] theorem nextId_setCtx (s : State) (v : Nat) (x : Ctx) : (s.setCtx v x).nextId = s.nextId := rfl
@[simp] theorem parcels_setCtx (s : State) (v : Nat) (x : Ctx) : (s.setCtx v x).parcels = s.parcels := rfl
@[simp] theorem parcel0_setCtx (s : State) (v : Nat) (x : Ctx) : (s.setCtx v x).parcel0 = s.parcel0 := rfl
@[simp] theorem mbxN_setCtx (s : State) (v : Nat) (x : Ctx) : (s.setCtx v x).mbxN = s.mbxN := rfl
@[simp] theorem mbxS_setCtx (s : State) (v : Nat) (x : Ctx) : (s.setCtx v x).mbxS = s.mbxS := rfl
@[simp] theorem pwr_setCtx (s : State) (v : Nat) (x : Ctx) : (s.setCtx v x).pwr = s.pwr := rfl
@[simp] theorem isl_setCtx (s : State) (v : Nat) (x : Ctx) : (s.setCtx v x).isl = s.isl := rfl
@[simp] theorem parity_setCtx (s : State) (v : Nat) (x : Ctx) : (s.setCtx v x).parity = s.parity := rfl
@[simp] theorem ecc_setCtx (s : State) (v : Nat) (x : Ctx) : (s.setCtx v x).ecc = s.ecc := rfl
@[simp] theorem waits_setCtx (s : State) (v : Nat) (x : Ctx) : (s.setCtx v x).waits = s.waits := rfl
@[simp] theorem testCtl_setCtx (s : State) (v : Nat) (x : Ctx) : (s.setCtx v x).testCtl = s.testCtl := rfl
@[simp] theorem mem_setCtx (s : State) (v : Nat) (x : Ctx) : (s.setCtx v x).mem = s.mem := rfl
@[simp] theorem out_setCtx (s : State) (v : Nat) (x : Ctx) : (s.setCtx v x).out = s.out := rfl
@[simp] theorem free_setCtx (s : State) (v : Nat) (x : Ctx) : (s.setCtx v x).free = s.free := rfl
@[simp] theorem pending_modCtx (s : State) (v : Nat) (f : Ctx → Ctx) : (s.modCtx v f).pending = s.pending := rfl
@[simp] theorem net_modCtx (s : State) (v : Nat) (f : Ctx → Ctx) : (s.modCtx v f).net = s.net := rfl
@[simp] theorem mer_modCtx (s : State) (v : Nat) (f : Ctx → Ctx) : (s.modCtx v f).mer = s.mer := rfl
@[simp] theorem hub_modCtx (s : State) (v : Nat) (f : Ctx → Ctx) : (s.modCtx v f).hub = s.hub := rfl
@[simp] theorem outs_modCtx (s : State) (v : Nat) (f : Ctx → Ctx) : (s.modCtx v f).outs = s.outs := rfl
@[simp] theorem cells_modCtx (s : State) (v : Nat) (f : Ctx → Ctx) : (s.modCtx v f).cells = s.cells := rfl
@[simp] theorem inputs_modCtx (s : State) (v : Nat) (f : Ctx → Ctx) : (s.modCtx v f).inputs = s.inputs := rfl
@[simp] theorem queues_modCtx (s : State) (v : Nat) (f : Ctx → Ctx) : (s.modCtx v f).queues = s.queues := rfl
@[simp] theorem tally_modCtx (s : State) (v : Nat) (f : Ctx → Ctx) : (s.modCtx v f).tally = s.tally := rfl
@[simp] theorem pool_modCtx (s : State) (v : Nat) (f : Ctx → Ctx) : (s.modCtx v f).pool = s.pool := rfl
@[simp] theorem fb_modCtx (s : State) (v : Nat) (f : Ctx → Ctx) : (s.modCtx v f).fb = s.fb := rfl
@[simp] theorem gates_modCtx (s : State) (v : Nat) (f : Ctx → Ctx) : (s.modCtx v f).gates = s.gates := rfl
@[simp] theorem resv_modCtx (s : State) (v : Nat) (f : Ctx → Ctx) : (s.modCtx v f).resv = s.resv := rfl
@[simp] theorem stns_modCtx (s : State) (v : Nat) (f : Ctx → Ctx) : (s.modCtx v f).stns = s.stns := rfl
@[simp] theorem spreads_modCtx (s : State) (v : Nat) (f : Ctx → Ctx) : (s.modCtx v f).spreads = s.spreads := rfl
@[simp] theorem places_modCtx (s : State) (v : Nat) (f : Ctx → Ctx) : (s.modCtx v f).places = s.places := rfl
@[simp] theorem views_modCtx (s : State) (v : Nat) (f : Ctx → Ctx) : (s.modCtx v f).views = s.views := rfl
@[simp] theorem gangs_modCtx (s : State) (v : Nat) (f : Ctx → Ctx) : (s.modCtx v f).gangs = s.gangs := rfl
@[simp] theorem gathers_modCtx (s : State) (v : Nat) (f : Ctx → Ctx) : (s.modCtx v f).gathers = s.gathers := rfl
@[simp] theorem trains_modCtx (s : State) (v : Nat) (f : Ctx → Ctx) : (s.modCtx v f).trains = s.trains := rfl
@[simp] theorem nextId_modCtx (s : State) (v : Nat) (f : Ctx → Ctx) : (s.modCtx v f).nextId = s.nextId := rfl
@[simp] theorem parcels_modCtx (s : State) (v : Nat) (f : Ctx → Ctx) : (s.modCtx v f).parcels = s.parcels := rfl
@[simp] theorem parcel0_modCtx (s : State) (v : Nat) (f : Ctx → Ctx) : (s.modCtx v f).parcel0 = s.parcel0 := rfl
@[simp] theorem mbxN_modCtx (s : State) (v : Nat) (f : Ctx → Ctx) : (s.modCtx v f).mbxN = s.mbxN := rfl
@[simp] theorem mbxS_modCtx (s : State) (v : Nat) (f : Ctx → Ctx) : (s.modCtx v f).mbxS = s.mbxS := rfl
@[simp] theorem pwr_modCtx (s : State) (v : Nat) (f : Ctx → Ctx) : (s.modCtx v f).pwr = s.pwr := rfl
@[simp] theorem isl_modCtx (s : State) (v : Nat) (f : Ctx → Ctx) : (s.modCtx v f).isl = s.isl := rfl
@[simp] theorem parity_modCtx (s : State) (v : Nat) (f : Ctx → Ctx) : (s.modCtx v f).parity = s.parity := rfl
@[simp] theorem ecc_modCtx (s : State) (v : Nat) (f : Ctx → Ctx) : (s.modCtx v f).ecc = s.ecc := rfl
@[simp] theorem waits_modCtx (s : State) (v : Nat) (f : Ctx → Ctx) : (s.modCtx v f).waits = s.waits := rfl
@[simp] theorem testCtl_modCtx (s : State) (v : Nat) (f : Ctx → Ctx) : (s.modCtx v f).testCtl = s.testCtl := rfl
@[simp] theorem mem_modCtx (s : State) (v : Nat) (f : Ctx → Ctx) : (s.modCtx v f).mem = s.mem := rfl
@[simp] theorem out_modCtx (s : State) (v : Nat) (f : Ctx → Ctx) : (s.modCtx v f).out = s.out := rfl
@[simp] theorem free_modCtx (s : State) (v : Nat) (f : Ctx → Ctx) : (s.modCtx v f).free = s.free := rfl
@[simp] theorem pending_modSpread (s : State) (n : Nat) (f : Spread → Spread) : (s.modSpread n f).pending = s.pending := rfl
@[simp] theorem net_modSpread (s : State) (n : Nat) (f : Spread → Spread) : (s.modSpread n f).net = s.net := rfl
@[simp] theorem mer_modSpread (s : State) (n : Nat) (f : Spread → Spread) : (s.modSpread n f).mer = s.mer := rfl
@[simp] theorem hub_modSpread (s : State) (n : Nat) (f : Spread → Spread) : (s.modSpread n f).hub = s.hub := rfl
@[simp] theorem outs_modSpread (s : State) (n : Nat) (f : Spread → Spread) : (s.modSpread n f).outs = s.outs := rfl
@[simp] theorem cells_modSpread (s : State) (n : Nat) (f : Spread → Spread) : (s.modSpread n f).cells = s.cells := rfl
@[simp] theorem inputs_modSpread (s : State) (n : Nat) (f : Spread → Spread) : (s.modSpread n f).inputs = s.inputs := rfl
@[simp] theorem queues_modSpread (s : State) (n : Nat) (f : Spread → Spread) : (s.modSpread n f).queues = s.queues := rfl
@[simp] theorem tally_modSpread (s : State) (n : Nat) (f : Spread → Spread) : (s.modSpread n f).tally = s.tally := rfl
@[simp] theorem pool_modSpread (s : State) (n : Nat) (f : Spread → Spread) : (s.modSpread n f).pool = s.pool := rfl
@[simp] theorem fb_modSpread (s : State) (n : Nat) (f : Spread → Spread) : (s.modSpread n f).fb = s.fb := rfl
@[simp] theorem gates_modSpread (s : State) (n : Nat) (f : Spread → Spread) : (s.modSpread n f).gates = s.gates := rfl
@[simp] theorem resv_modSpread (s : State) (n : Nat) (f : Spread → Spread) : (s.modSpread n f).resv = s.resv := rfl
@[simp] theorem stns_modSpread (s : State) (n : Nat) (f : Spread → Spread) : (s.modSpread n f).stns = s.stns := rfl
@[simp] theorem ctxs_modSpread (s : State) (n : Nat) (f : Spread → Spread) : (s.modSpread n f).ctxs = s.ctxs := rfl
@[simp] theorem places_modSpread (s : State) (n : Nat) (f : Spread → Spread) : (s.modSpread n f).places = s.places := rfl
@[simp] theorem views_modSpread (s : State) (n : Nat) (f : Spread → Spread) : (s.modSpread n f).views = s.views := rfl
@[simp] theorem gangs_modSpread (s : State) (n : Nat) (f : Spread → Spread) : (s.modSpread n f).gangs = s.gangs := rfl
@[simp] theorem gathers_modSpread (s : State) (n : Nat) (f : Spread → Spread) : (s.modSpread n f).gathers = s.gathers := rfl
@[simp] theorem trains_modSpread (s : State) (n : Nat) (f : Spread → Spread) : (s.modSpread n f).trains = s.trains := rfl
@[simp] theorem nextId_modSpread (s : State) (n : Nat) (f : Spread → Spread) : (s.modSpread n f).nextId = s.nextId := rfl
@[simp] theorem parcels_modSpread (s : State) (n : Nat) (f : Spread → Spread) : (s.modSpread n f).parcels = s.parcels := rfl
@[simp] theorem parcel0_modSpread (s : State) (n : Nat) (f : Spread → Spread) : (s.modSpread n f).parcel0 = s.parcel0 := rfl
@[simp] theorem mbxN_modSpread (s : State) (n : Nat) (f : Spread → Spread) : (s.modSpread n f).mbxN = s.mbxN := rfl
@[simp] theorem mbxS_modSpread (s : State) (n : Nat) (f : Spread → Spread) : (s.modSpread n f).mbxS = s.mbxS := rfl
@[simp] theorem pwr_modSpread (s : State) (n : Nat) (f : Spread → Spread) : (s.modSpread n f).pwr = s.pwr := rfl
@[simp] theorem isl_modSpread (s : State) (n : Nat) (f : Spread → Spread) : (s.modSpread n f).isl = s.isl := rfl
@[simp] theorem parity_modSpread (s : State) (n : Nat) (f : Spread → Spread) : (s.modSpread n f).parity = s.parity := rfl
@[simp] theorem ecc_modSpread (s : State) (n : Nat) (f : Spread → Spread) : (s.modSpread n f).ecc = s.ecc := rfl
@[simp] theorem waits_modSpread (s : State) (n : Nat) (f : Spread → Spread) : (s.modSpread n f).waits = s.waits := rfl
@[simp] theorem testCtl_modSpread (s : State) (n : Nat) (f : Spread → Spread) : (s.modSpread n f).testCtl = s.testCtl := rfl
@[simp] theorem mem_modSpread (s : State) (n : Nat) (f : Spread → Spread) : (s.modSpread n f).mem = s.mem := rfl
@[simp] theorem out_modSpread (s : State) (n : Nat) (f : Spread → Spread) : (s.modSpread n f).out = s.out := rfl
@[simp] theorem free_modSpread (s : State) (n : Nat) (f : Spread → Spread) : (s.modSpread n f).free = s.free := rfl
@[simp] theorem pending_modGang (s : State) (g : Nat) (f : Gang → Gang) : (s.modGang g f).pending = s.pending := rfl
@[simp] theorem net_modGang (s : State) (g : Nat) (f : Gang → Gang) : (s.modGang g f).net = s.net := rfl
@[simp] theorem mer_modGang (s : State) (g : Nat) (f : Gang → Gang) : (s.modGang g f).mer = s.mer := rfl
@[simp] theorem hub_modGang (s : State) (g : Nat) (f : Gang → Gang) : (s.modGang g f).hub = s.hub := rfl
@[simp] theorem outs_modGang (s : State) (g : Nat) (f : Gang → Gang) : (s.modGang g f).outs = s.outs := rfl
@[simp] theorem cells_modGang (s : State) (g : Nat) (f : Gang → Gang) : (s.modGang g f).cells = s.cells := rfl
@[simp] theorem inputs_modGang (s : State) (g : Nat) (f : Gang → Gang) : (s.modGang g f).inputs = s.inputs := rfl
@[simp] theorem queues_modGang (s : State) (g : Nat) (f : Gang → Gang) : (s.modGang g f).queues = s.queues := rfl
@[simp] theorem tally_modGang (s : State) (g : Nat) (f : Gang → Gang) : (s.modGang g f).tally = s.tally := rfl
@[simp] theorem pool_modGang (s : State) (g : Nat) (f : Gang → Gang) : (s.modGang g f).pool = s.pool := rfl
@[simp] theorem fb_modGang (s : State) (g : Nat) (f : Gang → Gang) : (s.modGang g f).fb = s.fb := rfl
@[simp] theorem gates_modGang (s : State) (g : Nat) (f : Gang → Gang) : (s.modGang g f).gates = s.gates := rfl
@[simp] theorem resv_modGang (s : State) (g : Nat) (f : Gang → Gang) : (s.modGang g f).resv = s.resv := rfl
@[simp] theorem stns_modGang (s : State) (g : Nat) (f : Gang → Gang) : (s.modGang g f).stns = s.stns := rfl
@[simp] theorem ctxs_modGang (s : State) (g : Nat) (f : Gang → Gang) : (s.modGang g f).ctxs = s.ctxs := rfl
@[simp] theorem spreads_modGang (s : State) (g : Nat) (f : Gang → Gang) : (s.modGang g f).spreads = s.spreads := rfl
@[simp] theorem places_modGang (s : State) (g : Nat) (f : Gang → Gang) : (s.modGang g f).places = s.places := rfl
@[simp] theorem views_modGang (s : State) (g : Nat) (f : Gang → Gang) : (s.modGang g f).views = s.views := rfl
@[simp] theorem gathers_modGang (s : State) (g : Nat) (f : Gang → Gang) : (s.modGang g f).gathers = s.gathers := rfl
@[simp] theorem trains_modGang (s : State) (g : Nat) (f : Gang → Gang) : (s.modGang g f).trains = s.trains := rfl
@[simp] theorem nextId_modGang (s : State) (g : Nat) (f : Gang → Gang) : (s.modGang g f).nextId = s.nextId := rfl
@[simp] theorem parcels_modGang (s : State) (g : Nat) (f : Gang → Gang) : (s.modGang g f).parcels = s.parcels := rfl
@[simp] theorem parcel0_modGang (s : State) (g : Nat) (f : Gang → Gang) : (s.modGang g f).parcel0 = s.parcel0 := rfl
@[simp] theorem mbxN_modGang (s : State) (g : Nat) (f : Gang → Gang) : (s.modGang g f).mbxN = s.mbxN := rfl
@[simp] theorem mbxS_modGang (s : State) (g : Nat) (f : Gang → Gang) : (s.modGang g f).mbxS = s.mbxS := rfl
@[simp] theorem pwr_modGang (s : State) (g : Nat) (f : Gang → Gang) : (s.modGang g f).pwr = s.pwr := rfl
@[simp] theorem isl_modGang (s : State) (g : Nat) (f : Gang → Gang) : (s.modGang g f).isl = s.isl := rfl
@[simp] theorem parity_modGang (s : State) (g : Nat) (f : Gang → Gang) : (s.modGang g f).parity = s.parity := rfl
@[simp] theorem ecc_modGang (s : State) (g : Nat) (f : Gang → Gang) : (s.modGang g f).ecc = s.ecc := rfl
@[simp] theorem waits_modGang (s : State) (g : Nat) (f : Gang → Gang) : (s.modGang g f).waits = s.waits := rfl
@[simp] theorem testCtl_modGang (s : State) (g : Nat) (f : Gang → Gang) : (s.modGang g f).testCtl = s.testCtl := rfl
@[simp] theorem mem_modGang (s : State) (g : Nat) (f : Gang → Gang) : (s.modGang g f).mem = s.mem := rfl
@[simp] theorem out_modGang (s : State) (g : Nat) (f : Gang → Gang) : (s.modGang g f).out = s.out := rfl
@[simp] theorem free_modGang (s : State) (g : Nat) (f : Gang → Gang) : (s.modGang g f).free = s.free := rfl
@[simp] theorem pending_setRes (s : State) (r : Nat) (x : Resv) : (s.setRes r x).pending = s.pending := rfl
@[simp] theorem net_setRes (s : State) (r : Nat) (x : Resv) : (s.setRes r x).net = s.net := rfl
@[simp] theorem mer_setRes (s : State) (r : Nat) (x : Resv) : (s.setRes r x).mer = s.mer := rfl
@[simp] theorem hub_setRes (s : State) (r : Nat) (x : Resv) : (s.setRes r x).hub = s.hub := rfl
@[simp] theorem outs_setRes (s : State) (r : Nat) (x : Resv) : (s.setRes r x).outs = s.outs := rfl
@[simp] theorem cells_setRes (s : State) (r : Nat) (x : Resv) : (s.setRes r x).cells = s.cells := rfl
@[simp] theorem inputs_setRes (s : State) (r : Nat) (x : Resv) : (s.setRes r x).inputs = s.inputs := rfl
@[simp] theorem queues_setRes (s : State) (r : Nat) (x : Resv) : (s.setRes r x).queues = s.queues := rfl
@[simp] theorem tally_setRes (s : State) (r : Nat) (x : Resv) : (s.setRes r x).tally = s.tally := rfl
@[simp] theorem pool_setRes (s : State) (r : Nat) (x : Resv) : (s.setRes r x).pool = s.pool := rfl
@[simp] theorem fb_setRes (s : State) (r : Nat) (x : Resv) : (s.setRes r x).fb = s.fb := rfl
@[simp] theorem gates_setRes (s : State) (r : Nat) (x : Resv) : (s.setRes r x).gates = s.gates := rfl
@[simp] theorem stns_setRes (s : State) (r : Nat) (x : Resv) : (s.setRes r x).stns = s.stns := rfl
@[simp] theorem ctxs_setRes (s : State) (r : Nat) (x : Resv) : (s.setRes r x).ctxs = s.ctxs := rfl
@[simp] theorem spreads_setRes (s : State) (r : Nat) (x : Resv) : (s.setRes r x).spreads = s.spreads := rfl
@[simp] theorem places_setRes (s : State) (r : Nat) (x : Resv) : (s.setRes r x).places = s.places := rfl
@[simp] theorem views_setRes (s : State) (r : Nat) (x : Resv) : (s.setRes r x).views = s.views := rfl
@[simp] theorem gangs_setRes (s : State) (r : Nat) (x : Resv) : (s.setRes r x).gangs = s.gangs := rfl
@[simp] theorem gathers_setRes (s : State) (r : Nat) (x : Resv) : (s.setRes r x).gathers = s.gathers := rfl
@[simp] theorem trains_setRes (s : State) (r : Nat) (x : Resv) : (s.setRes r x).trains = s.trains := rfl
@[simp] theorem nextId_setRes (s : State) (r : Nat) (x : Resv) : (s.setRes r x).nextId = s.nextId := rfl
@[simp] theorem parcels_setRes (s : State) (r : Nat) (x : Resv) : (s.setRes r x).parcels = s.parcels := rfl
@[simp] theorem parcel0_setRes (s : State) (r : Nat) (x : Resv) : (s.setRes r x).parcel0 = s.parcel0 := rfl
@[simp] theorem mbxN_setRes (s : State) (r : Nat) (x : Resv) : (s.setRes r x).mbxN = s.mbxN := rfl
@[simp] theorem mbxS_setRes (s : State) (r : Nat) (x : Resv) : (s.setRes r x).mbxS = s.mbxS := rfl
@[simp] theorem pwr_setRes (s : State) (r : Nat) (x : Resv) : (s.setRes r x).pwr = s.pwr := rfl
@[simp] theorem isl_setRes (s : State) (r : Nat) (x : Resv) : (s.setRes r x).isl = s.isl := rfl
@[simp] theorem parity_setRes (s : State) (r : Nat) (x : Resv) : (s.setRes r x).parity = s.parity := rfl
@[simp] theorem ecc_setRes (s : State) (r : Nat) (x : Resv) : (s.setRes r x).ecc = s.ecc := rfl
@[simp] theorem waits_setRes (s : State) (r : Nat) (x : Resv) : (s.setRes r x).waits = s.waits := rfl
@[simp] theorem testCtl_setRes (s : State) (r : Nat) (x : Resv) : (s.setRes r x).testCtl = s.testCtl := rfl
@[simp] theorem mem_setRes (s : State) (r : Nat) (x : Resv) : (s.setRes r x).mem = s.mem := rfl
@[simp] theorem out_setRes (s : State) (r : Nat) (x : Resv) : (s.setRes r x).out = s.out := rfl
@[simp] theorem free_setRes (s : State) (r : Nat) (x : Resv) : (s.setRes r x).free = s.free := rfl
@[simp] theorem pending_modAlarm (s : State) (a : Nat) (f : Alarm → Alarm) : (s.modAlarm a f).pending = s.pending := rfl
@[simp] theorem net_modAlarm (s : State) (a : Nat) (f : Alarm → Alarm) : (s.modAlarm a f).net = s.net := rfl
@[simp] theorem hub_modAlarm (s : State) (a : Nat) (f : Alarm → Alarm) : (s.modAlarm a f).hub = s.hub := rfl
@[simp] theorem outs_modAlarm (s : State) (a : Nat) (f : Alarm → Alarm) : (s.modAlarm a f).outs = s.outs := rfl
@[simp] theorem cells_modAlarm (s : State) (a : Nat) (f : Alarm → Alarm) : (s.modAlarm a f).cells = s.cells := rfl
@[simp] theorem inputs_modAlarm (s : State) (a : Nat) (f : Alarm → Alarm) : (s.modAlarm a f).inputs = s.inputs := rfl
@[simp] theorem queues_modAlarm (s : State) (a : Nat) (f : Alarm → Alarm) : (s.modAlarm a f).queues = s.queues := rfl
@[simp] theorem tally_modAlarm (s : State) (a : Nat) (f : Alarm → Alarm) : (s.modAlarm a f).tally = s.tally := rfl
@[simp] theorem pool_modAlarm (s : State) (a : Nat) (f : Alarm → Alarm) : (s.modAlarm a f).pool = s.pool := rfl
@[simp] theorem fb_modAlarm (s : State) (a : Nat) (f : Alarm → Alarm) : (s.modAlarm a f).fb = s.fb := rfl
@[simp] theorem gates_modAlarm (s : State) (a : Nat) (f : Alarm → Alarm) : (s.modAlarm a f).gates = s.gates := rfl
@[simp] theorem resv_modAlarm (s : State) (a : Nat) (f : Alarm → Alarm) : (s.modAlarm a f).resv = s.resv := rfl
@[simp] theorem stns_modAlarm (s : State) (a : Nat) (f : Alarm → Alarm) : (s.modAlarm a f).stns = s.stns := rfl
@[simp] theorem ctxs_modAlarm (s : State) (a : Nat) (f : Alarm → Alarm) : (s.modAlarm a f).ctxs = s.ctxs := rfl
@[simp] theorem spreads_modAlarm (s : State) (a : Nat) (f : Alarm → Alarm) : (s.modAlarm a f).spreads = s.spreads := rfl
@[simp] theorem places_modAlarm (s : State) (a : Nat) (f : Alarm → Alarm) : (s.modAlarm a f).places = s.places := rfl
@[simp] theorem views_modAlarm (s : State) (a : Nat) (f : Alarm → Alarm) : (s.modAlarm a f).views = s.views := rfl
@[simp] theorem gangs_modAlarm (s : State) (a : Nat) (f : Alarm → Alarm) : (s.modAlarm a f).gangs = s.gangs := rfl
@[simp] theorem gathers_modAlarm (s : State) (a : Nat) (f : Alarm → Alarm) : (s.modAlarm a f).gathers = s.gathers := rfl
@[simp] theorem trains_modAlarm (s : State) (a : Nat) (f : Alarm → Alarm) : (s.modAlarm a f).trains = s.trains := rfl
@[simp] theorem nextId_modAlarm (s : State) (a : Nat) (f : Alarm → Alarm) : (s.modAlarm a f).nextId = s.nextId := rfl
@[simp] theorem parcels_modAlarm (s : State) (a : Nat) (f : Alarm → Alarm) : (s.modAlarm a f).parcels = s.parcels := rfl
@[simp] theorem parcel0_modAlarm (s : State) (a : Nat) (f : Alarm → Alarm) : (s.modAlarm a f).parcel0 = s.parcel0 := rfl
@[simp] theorem mbxN_modAlarm (s : State) (a : Nat) (f : Alarm → Alarm) : (s.modAlarm a f).mbxN = s.mbxN := rfl
@[simp] theorem mbxS_modAlarm (s : State) (a : Nat) (f : Alarm → Alarm) : (s.modAlarm a f).mbxS = s.mbxS := rfl
@[simp] theorem pwr_modAlarm (s : State) (a : Nat) (f : Alarm → Alarm) : (s.modAlarm a f).pwr = s.pwr := rfl
@[simp] theorem isl_modAlarm (s : State) (a : Nat) (f : Alarm → Alarm) : (s.modAlarm a f).isl = s.isl := rfl
@[simp] theorem parity_modAlarm (s : State) (a : Nat) (f : Alarm → Alarm) : (s.modAlarm a f).parity = s.parity := rfl
@[simp] theorem ecc_modAlarm (s : State) (a : Nat) (f : Alarm → Alarm) : (s.modAlarm a f).ecc = s.ecc := rfl
@[simp] theorem waits_modAlarm (s : State) (a : Nat) (f : Alarm → Alarm) : (s.modAlarm a f).waits = s.waits := rfl
@[simp] theorem testCtl_modAlarm (s : State) (a : Nat) (f : Alarm → Alarm) : (s.modAlarm a f).testCtl = s.testCtl := rfl
@[simp] theorem mem_modAlarm (s : State) (a : Nat) (f : Alarm → Alarm) : (s.modAlarm a f).mem = s.mem := rfl
@[simp] theorem out_modAlarm (s : State) (a : Nat) (f : Alarm → Alarm) : (s.modAlarm a f).out = s.out := rfl
@[simp] theorem free_modAlarm (s : State) (a : Nat) (f : Alarm → Alarm) : (s.modAlarm a f).free = s.free := rfl
@[simp] theorem pending_modHub (s : State) (f : Hub → Hub) : (s.modHub f).pending = s.pending := rfl
@[simp] theorem net_modHub (s : State) (f : Hub → Hub) : (s.modHub f).net = s.net := rfl
@[simp] theorem mer_modHub (s : State) (f : Hub → Hub) : (s.modHub f).mer = s.mer := rfl
@[simp] theorem outs_modHub (s : State) (f : Hub → Hub) : (s.modHub f).outs = s.outs := rfl
@[simp] theorem cells_modHub (s : State) (f : Hub → Hub) : (s.modHub f).cells = s.cells := rfl
@[simp] theorem inputs_modHub (s : State) (f : Hub → Hub) : (s.modHub f).inputs = s.inputs := rfl
@[simp] theorem queues_modHub (s : State) (f : Hub → Hub) : (s.modHub f).queues = s.queues := rfl
@[simp] theorem tally_modHub (s : State) (f : Hub → Hub) : (s.modHub f).tally = s.tally := rfl
@[simp] theorem pool_modHub (s : State) (f : Hub → Hub) : (s.modHub f).pool = s.pool := rfl
@[simp] theorem fb_modHub (s : State) (f : Hub → Hub) : (s.modHub f).fb = s.fb := rfl
@[simp] theorem gates_modHub (s : State) (f : Hub → Hub) : (s.modHub f).gates = s.gates := rfl
@[simp] theorem resv_modHub (s : State) (f : Hub → Hub) : (s.modHub f).resv = s.resv := rfl
@[simp] theorem stns_modHub (s : State) (f : Hub → Hub) : (s.modHub f).stns = s.stns := rfl
@[simp] theorem ctxs_modHub (s : State) (f : Hub → Hub) : (s.modHub f).ctxs = s.ctxs := rfl
@[simp] theorem spreads_modHub (s : State) (f : Hub → Hub) : (s.modHub f).spreads = s.spreads := rfl
@[simp] theorem places_modHub (s : State) (f : Hub → Hub) : (s.modHub f).places = s.places := rfl
@[simp] theorem views_modHub (s : State) (f : Hub → Hub) : (s.modHub f).views = s.views := rfl
@[simp] theorem gangs_modHub (s : State) (f : Hub → Hub) : (s.modHub f).gangs = s.gangs := rfl
@[simp] theorem gathers_modHub (s : State) (f : Hub → Hub) : (s.modHub f).gathers = s.gathers := rfl
@[simp] theorem trains_modHub (s : State) (f : Hub → Hub) : (s.modHub f).trains = s.trains := rfl
@[simp] theorem nextId_modHub (s : State) (f : Hub → Hub) : (s.modHub f).nextId = s.nextId := rfl
@[simp] theorem parcels_modHub (s : State) (f : Hub → Hub) : (s.modHub f).parcels = s.parcels := rfl
@[simp] theorem parcel0_modHub (s : State) (f : Hub → Hub) : (s.modHub f).parcel0 = s.parcel0 := rfl
@[simp] theorem mbxN_modHub (s : State) (f : Hub → Hub) : (s.modHub f).mbxN = s.mbxN := rfl
@[simp] theorem mbxS_modHub (s : State) (f : Hub → Hub) : (s.modHub f).mbxS = s.mbxS := rfl
@[simp] theorem pwr_modHub (s : State) (f : Hub → Hub) : (s.modHub f).pwr = s.pwr := rfl
@[simp] theorem isl_modHub (s : State) (f : Hub → Hub) : (s.modHub f).isl = s.isl := rfl
@[simp] theorem parity_modHub (s : State) (f : Hub → Hub) : (s.modHub f).parity = s.parity := rfl
@[simp] theorem ecc_modHub (s : State) (f : Hub → Hub) : (s.modHub f).ecc = s.ecc := rfl
@[simp] theorem waits_modHub (s : State) (f : Hub → Hub) : (s.modHub f).waits = s.waits := rfl
@[simp] theorem testCtl_modHub (s : State) (f : Hub → Hub) : (s.modHub f).testCtl = s.testCtl := rfl
@[simp] theorem mem_modHub (s : State) (f : Hub → Hub) : (s.modHub f).mem = s.mem := rfl
@[simp] theorem out_modHub (s : State) (f : Hub → Hub) : (s.modHub f).out = s.out := rfl
@[simp] theorem free_modHub (s : State) (f : Hub → Hub) : (s.modHub f).free = s.free := rfl
@[simp] theorem pending_modMer (s : State) (f : Mer → Mer) : (s.modMer f).pending = s.pending := rfl
@[simp] theorem net_modMer (s : State) (f : Mer → Mer) : (s.modMer f).net = s.net := rfl
@[simp] theorem hub_modMer (s : State) (f : Mer → Mer) : (s.modMer f).hub = s.hub := rfl
@[simp] theorem outs_modMer (s : State) (f : Mer → Mer) : (s.modMer f).outs = s.outs := rfl
@[simp] theorem cells_modMer (s : State) (f : Mer → Mer) : (s.modMer f).cells = s.cells := rfl
@[simp] theorem inputs_modMer (s : State) (f : Mer → Mer) : (s.modMer f).inputs = s.inputs := rfl
@[simp] theorem queues_modMer (s : State) (f : Mer → Mer) : (s.modMer f).queues = s.queues := rfl
@[simp] theorem tally_modMer (s : State) (f : Mer → Mer) : (s.modMer f).tally = s.tally := rfl
@[simp] theorem pool_modMer (s : State) (f : Mer → Mer) : (s.modMer f).pool = s.pool := rfl
@[simp] theorem fb_modMer (s : State) (f : Mer → Mer) : (s.modMer f).fb = s.fb := rfl
@[simp] theorem gates_modMer (s : State) (f : Mer → Mer) : (s.modMer f).gates = s.gates := rfl
@[simp] theorem resv_modMer (s : State) (f : Mer → Mer) : (s.modMer f).resv = s.resv := rfl
@[simp] theorem stns_modMer (s : State) (f : Mer → Mer) : (s.modMer f).stns = s.stns := rfl
@[simp] theorem ctxs_modMer (s : State) (f : Mer → Mer) : (s.modMer f).ctxs = s.ctxs := rfl
@[simp] theorem spreads_modMer (s : State) (f : Mer → Mer) : (s.modMer f).spreads = s.spreads := rfl
@[simp] theorem places_modMer (s : State) (f : Mer → Mer) : (s.modMer f).places = s.places := rfl
@[simp] theorem views_modMer (s : State) (f : Mer → Mer) : (s.modMer f).views = s.views := rfl
@[simp] theorem gangs_modMer (s : State) (f : Mer → Mer) : (s.modMer f).gangs = s.gangs := rfl
@[simp] theorem gathers_modMer (s : State) (f : Mer → Mer) : (s.modMer f).gathers = s.gathers := rfl
@[simp] theorem trains_modMer (s : State) (f : Mer → Mer) : (s.modMer f).trains = s.trains := rfl
@[simp] theorem nextId_modMer (s : State) (f : Mer → Mer) : (s.modMer f).nextId = s.nextId := rfl
@[simp] theorem parcels_modMer (s : State) (f : Mer → Mer) : (s.modMer f).parcels = s.parcels := rfl
@[simp] theorem parcel0_modMer (s : State) (f : Mer → Mer) : (s.modMer f).parcel0 = s.parcel0 := rfl
@[simp] theorem mbxN_modMer (s : State) (f : Mer → Mer) : (s.modMer f).mbxN = s.mbxN := rfl
@[simp] theorem mbxS_modMer (s : State) (f : Mer → Mer) : (s.modMer f).mbxS = s.mbxS := rfl
@[simp] theorem pwr_modMer (s : State) (f : Mer → Mer) : (s.modMer f).pwr = s.pwr := rfl
@[simp] theorem isl_modMer (s : State) (f : Mer → Mer) : (s.modMer f).isl = s.isl := rfl
@[simp] theorem parity_modMer (s : State) (f : Mer → Mer) : (s.modMer f).parity = s.parity := rfl
@[simp] theorem ecc_modMer (s : State) (f : Mer → Mer) : (s.modMer f).ecc = s.ecc := rfl
@[simp] theorem waits_modMer (s : State) (f : Mer → Mer) : (s.modMer f).waits = s.waits := rfl
@[simp] theorem testCtl_modMer (s : State) (f : Mer → Mer) : (s.modMer f).testCtl = s.testCtl := rfl
@[simp] theorem mem_modMer (s : State) (f : Mer → Mer) : (s.modMer f).mem = s.mem := rfl
@[simp] theorem out_modMer (s : State) (f : Mer → Mer) : (s.modMer f).out = s.out := rfl
@[simp] theorem free_modMer (s : State) (f : Mer → Mer) : (s.modMer f).free = s.free := rfl
@[simp] theorem pending_modPwr (s : State) (f : Pwr → Pwr) : (s.modPwr f).pending = s.pending := rfl
@[simp] theorem net_modPwr (s : State) (f : Pwr → Pwr) : (s.modPwr f).net = s.net := rfl
@[simp] theorem mer_modPwr (s : State) (f : Pwr → Pwr) : (s.modPwr f).mer = s.mer := rfl
@[simp] theorem hub_modPwr (s : State) (f : Pwr → Pwr) : (s.modPwr f).hub = s.hub := rfl
@[simp] theorem outs_modPwr (s : State) (f : Pwr → Pwr) : (s.modPwr f).outs = s.outs := rfl
@[simp] theorem cells_modPwr (s : State) (f : Pwr → Pwr) : (s.modPwr f).cells = s.cells := rfl
@[simp] theorem inputs_modPwr (s : State) (f : Pwr → Pwr) : (s.modPwr f).inputs = s.inputs := rfl
@[simp] theorem queues_modPwr (s : State) (f : Pwr → Pwr) : (s.modPwr f).queues = s.queues := rfl
@[simp] theorem tally_modPwr (s : State) (f : Pwr → Pwr) : (s.modPwr f).tally = s.tally := rfl
@[simp] theorem pool_modPwr (s : State) (f : Pwr → Pwr) : (s.modPwr f).pool = s.pool := rfl
@[simp] theorem fb_modPwr (s : State) (f : Pwr → Pwr) : (s.modPwr f).fb = s.fb := rfl
@[simp] theorem gates_modPwr (s : State) (f : Pwr → Pwr) : (s.modPwr f).gates = s.gates := rfl
@[simp] theorem resv_modPwr (s : State) (f : Pwr → Pwr) : (s.modPwr f).resv = s.resv := rfl
@[simp] theorem stns_modPwr (s : State) (f : Pwr → Pwr) : (s.modPwr f).stns = s.stns := rfl
@[simp] theorem ctxs_modPwr (s : State) (f : Pwr → Pwr) : (s.modPwr f).ctxs = s.ctxs := rfl
@[simp] theorem spreads_modPwr (s : State) (f : Pwr → Pwr) : (s.modPwr f).spreads = s.spreads := rfl
@[simp] theorem places_modPwr (s : State) (f : Pwr → Pwr) : (s.modPwr f).places = s.places := rfl
@[simp] theorem views_modPwr (s : State) (f : Pwr → Pwr) : (s.modPwr f).views = s.views := rfl
@[simp] theorem gangs_modPwr (s : State) (f : Pwr → Pwr) : (s.modPwr f).gangs = s.gangs := rfl
@[simp] theorem gathers_modPwr (s : State) (f : Pwr → Pwr) : (s.modPwr f).gathers = s.gathers := rfl
@[simp] theorem trains_modPwr (s : State) (f : Pwr → Pwr) : (s.modPwr f).trains = s.trains := rfl
@[simp] theorem nextId_modPwr (s : State) (f : Pwr → Pwr) : (s.modPwr f).nextId = s.nextId := rfl
@[simp] theorem parcels_modPwr (s : State) (f : Pwr → Pwr) : (s.modPwr f).parcels = s.parcels := rfl
@[simp] theorem parcel0_modPwr (s : State) (f : Pwr → Pwr) : (s.modPwr f).parcel0 = s.parcel0 := rfl
@[simp] theorem mbxN_modPwr (s : State) (f : Pwr → Pwr) : (s.modPwr f).mbxN = s.mbxN := rfl
@[simp] theorem mbxS_modPwr (s : State) (f : Pwr → Pwr) : (s.modPwr f).mbxS = s.mbxS := rfl
@[simp] theorem isl_modPwr (s : State) (f : Pwr → Pwr) : (s.modPwr f).isl = s.isl := rfl
@[simp] theorem parity_modPwr (s : State) (f : Pwr → Pwr) : (s.modPwr f).parity = s.parity := rfl
@[simp] theorem ecc_modPwr (s : State) (f : Pwr → Pwr) : (s.modPwr f).ecc = s.ecc := rfl
@[simp] theorem waits_modPwr (s : State) (f : Pwr → Pwr) : (s.modPwr f).waits = s.waits := rfl
@[simp] theorem testCtl_modPwr (s : State) (f : Pwr → Pwr) : (s.modPwr f).testCtl = s.testCtl := rfl
@[simp] theorem mem_modPwr (s : State) (f : Pwr → Pwr) : (s.modPwr f).mem = s.mem := rfl
@[simp] theorem out_modPwr (s : State) (f : Pwr → Pwr) : (s.modPwr f).out = s.out := rfl
@[simp] theorem free_modPwr (s : State) (f : Pwr → Pwr) : (s.modPwr f).free = s.free := rfl
@[simp] theorem pending_modIsl (s : State) (f : Isl → Isl) : (s.modIsl f).pending = s.pending := rfl
@[simp] theorem net_modIsl (s : State) (f : Isl → Isl) : (s.modIsl f).net = s.net := rfl
@[simp] theorem mer_modIsl (s : State) (f : Isl → Isl) : (s.modIsl f).mer = s.mer := rfl
@[simp] theorem hub_modIsl (s : State) (f : Isl → Isl) : (s.modIsl f).hub = s.hub := rfl
@[simp] theorem outs_modIsl (s : State) (f : Isl → Isl) : (s.modIsl f).outs = s.outs := rfl
@[simp] theorem cells_modIsl (s : State) (f : Isl → Isl) : (s.modIsl f).cells = s.cells := rfl
@[simp] theorem inputs_modIsl (s : State) (f : Isl → Isl) : (s.modIsl f).inputs = s.inputs := rfl
@[simp] theorem queues_modIsl (s : State) (f : Isl → Isl) : (s.modIsl f).queues = s.queues := rfl
@[simp] theorem tally_modIsl (s : State) (f : Isl → Isl) : (s.modIsl f).tally = s.tally := rfl
@[simp] theorem pool_modIsl (s : State) (f : Isl → Isl) : (s.modIsl f).pool = s.pool := rfl
@[simp] theorem fb_modIsl (s : State) (f : Isl → Isl) : (s.modIsl f).fb = s.fb := rfl
@[simp] theorem gates_modIsl (s : State) (f : Isl → Isl) : (s.modIsl f).gates = s.gates := rfl
@[simp] theorem resv_modIsl (s : State) (f : Isl → Isl) : (s.modIsl f).resv = s.resv := rfl
@[simp] theorem stns_modIsl (s : State) (f : Isl → Isl) : (s.modIsl f).stns = s.stns := rfl
@[simp] theorem ctxs_modIsl (s : State) (f : Isl → Isl) : (s.modIsl f).ctxs = s.ctxs := rfl
@[simp] theorem spreads_modIsl (s : State) (f : Isl → Isl) : (s.modIsl f).spreads = s.spreads := rfl
@[simp] theorem places_modIsl (s : State) (f : Isl → Isl) : (s.modIsl f).places = s.places := rfl
@[simp] theorem views_modIsl (s : State) (f : Isl → Isl) : (s.modIsl f).views = s.views := rfl
@[simp] theorem gangs_modIsl (s : State) (f : Isl → Isl) : (s.modIsl f).gangs = s.gangs := rfl
@[simp] theorem gathers_modIsl (s : State) (f : Isl → Isl) : (s.modIsl f).gathers = s.gathers := rfl
@[simp] theorem trains_modIsl (s : State) (f : Isl → Isl) : (s.modIsl f).trains = s.trains := rfl
@[simp] theorem nextId_modIsl (s : State) (f : Isl → Isl) : (s.modIsl f).nextId = s.nextId := rfl
@[simp] theorem parcels_modIsl (s : State) (f : Isl → Isl) : (s.modIsl f).parcels = s.parcels := rfl
@[simp] theorem parcel0_modIsl (s : State) (f : Isl → Isl) : (s.modIsl f).parcel0 = s.parcel0 := rfl
@[simp] theorem mbxN_modIsl (s : State) (f : Isl → Isl) : (s.modIsl f).mbxN = s.mbxN := rfl
@[simp] theorem mbxS_modIsl (s : State) (f : Isl → Isl) : (s.modIsl f).mbxS = s.mbxS := rfl
@[simp] theorem pwr_modIsl (s : State) (f : Isl → Isl) : (s.modIsl f).pwr = s.pwr := rfl
@[simp] theorem parity_modIsl (s : State) (f : Isl → Isl) : (s.modIsl f).parity = s.parity := rfl
@[simp] theorem ecc_modIsl (s : State) (f : Isl → Isl) : (s.modIsl f).ecc = s.ecc := rfl
@[simp] theorem waits_modIsl (s : State) (f : Isl → Isl) : (s.modIsl f).waits = s.waits := rfl
@[simp] theorem testCtl_modIsl (s : State) (f : Isl → Isl) : (s.modIsl f).testCtl = s.testCtl := rfl
@[simp] theorem mem_modIsl (s : State) (f : Isl → Isl) : (s.modIsl f).mem = s.mem := rfl
@[simp] theorem out_modIsl (s : State) (f : Isl → Isl) : (s.modIsl f).out = s.out := rfl
@[simp] theorem free_modIsl (s : State) (f : Isl → Isl) : (s.modIsl f).free = s.free := rfl

@[simp] theorem pending_modParcel (s : State) (p : Nat) (f : Parcel → Parcel) : (s.modParcel p f).pending = s.pending := by unfold State.modParcel; split <;> rfl
@[simp] theorem net_modParcel (s : State) (p : Nat) (f : Parcel → Parcel) : (s.modParcel p f).net = s.net := by unfold State.modParcel; split <;> rfl
@[simp] theorem mer_modParcel (s : State) (p : Nat) (f : Parcel → Parcel) : (s.modParcel p f).mer = s.mer := by unfold State.modParcel; split <;> rfl
@[simp] theorem hub_modParcel (s : State) (p : Nat) (f : Parcel → Parcel) : (s.modParcel p f).hub = s.hub := by unfold State.modParcel; split <;> rfl
@[simp] theorem outs_modParcel (s : State) (p : Nat) (f : Parcel → Parcel) : (s.modParcel p f).outs = s.outs := by unfold State.modParcel; split <;> rfl
@[simp] theorem cells_modParcel (s : State) (p : Nat) (f : Parcel → Parcel) : (s.modParcel p f).cells = s.cells := by unfold State.modParcel; split <;> rfl
@[simp] theorem inputs_modParcel (s : State) (p : Nat) (f : Parcel → Parcel) : (s.modParcel p f).inputs = s.inputs := by unfold State.modParcel; split <;> rfl
@[simp] theorem queues_modParcel (s : State) (p : Nat) (f : Parcel → Parcel) : (s.modParcel p f).queues = s.queues := by unfold State.modParcel; split <;> rfl
@[simp] theorem tally_modParcel (s : State) (p : Nat) (f : Parcel → Parcel) : (s.modParcel p f).tally = s.tally := by unfold State.modParcel; split <;> rfl
@[simp] theorem pool_modParcel (s : State) (p : Nat) (f : Parcel → Parcel) : (s.modParcel p f).pool = s.pool := by unfold State.modParcel; split <;> rfl
@[simp] theorem fb_modParcel (s : State) (p : Nat) (f : Parcel → Parcel) : (s.modParcel p f).fb = s.fb := by unfold State.modParcel; split <;> rfl
@[simp] theorem gates_modParcel (s : State) (p : Nat) (f : Parcel → Parcel) : (s.modParcel p f).gates = s.gates := by unfold State.modParcel; split <;> rfl
@[simp] theorem resv_modParcel (s : State) (p : Nat) (f : Parcel → Parcel) : (s.modParcel p f).resv = s.resv := by unfold State.modParcel; split <;> rfl
@[simp] theorem stns_modParcel (s : State) (p : Nat) (f : Parcel → Parcel) : (s.modParcel p f).stns = s.stns := by unfold State.modParcel; split <;> rfl
@[simp] theorem ctxs_modParcel (s : State) (p : Nat) (f : Parcel → Parcel) : (s.modParcel p f).ctxs = s.ctxs := by unfold State.modParcel; split <;> rfl
@[simp] theorem spreads_modParcel (s : State) (p : Nat) (f : Parcel → Parcel) : (s.modParcel p f).spreads = s.spreads := by unfold State.modParcel; split <;> rfl
@[simp] theorem places_modParcel (s : State) (p : Nat) (f : Parcel → Parcel) : (s.modParcel p f).places = s.places := by unfold State.modParcel; split <;> rfl
@[simp] theorem views_modParcel (s : State) (p : Nat) (f : Parcel → Parcel) : (s.modParcel p f).views = s.views := by unfold State.modParcel; split <;> rfl
@[simp] theorem gangs_modParcel (s : State) (p : Nat) (f : Parcel → Parcel) : (s.modParcel p f).gangs = s.gangs := by unfold State.modParcel; split <;> rfl
@[simp] theorem gathers_modParcel (s : State) (p : Nat) (f : Parcel → Parcel) : (s.modParcel p f).gathers = s.gathers := by unfold State.modParcel; split <;> rfl
@[simp] theorem trains_modParcel (s : State) (p : Nat) (f : Parcel → Parcel) : (s.modParcel p f).trains = s.trains := by unfold State.modParcel; split <;> rfl
@[simp] theorem nextId_modParcel (s : State) (p : Nat) (f : Parcel → Parcel) : (s.modParcel p f).nextId = s.nextId := by unfold State.modParcel; split <;> rfl
@[simp] theorem mbxN_modParcel (s : State) (p : Nat) (f : Parcel → Parcel) : (s.modParcel p f).mbxN = s.mbxN := by unfold State.modParcel; split <;> rfl
@[simp] theorem mbxS_modParcel (s : State) (p : Nat) (f : Parcel → Parcel) : (s.modParcel p f).mbxS = s.mbxS := by unfold State.modParcel; split <;> rfl
@[simp] theorem pwr_modParcel (s : State) (p : Nat) (f : Parcel → Parcel) : (s.modParcel p f).pwr = s.pwr := by unfold State.modParcel; split <;> rfl
@[simp] theorem isl_modParcel (s : State) (p : Nat) (f : Parcel → Parcel) : (s.modParcel p f).isl = s.isl := by unfold State.modParcel; split <;> rfl
@[simp] theorem parity_modParcel (s : State) (p : Nat) (f : Parcel → Parcel) : (s.modParcel p f).parity = s.parity := by unfold State.modParcel; split <;> rfl
@[simp] theorem ecc_modParcel (s : State) (p : Nat) (f : Parcel → Parcel) : (s.modParcel p f).ecc = s.ecc := by unfold State.modParcel; split <;> rfl
@[simp] theorem waits_modParcel (s : State) (p : Nat) (f : Parcel → Parcel) : (s.modParcel p f).waits = s.waits := by unfold State.modParcel; split <;> rfl
@[simp] theorem testCtl_modParcel (s : State) (p : Nat) (f : Parcel → Parcel) : (s.modParcel p f).testCtl = s.testCtl := by unfold State.modParcel; split <;> rfl
@[simp] theorem mem_modParcel (s : State) (p : Nat) (f : Parcel → Parcel) : (s.modParcel p f).mem = s.mem := by unfold State.modParcel; split <;> rfl
@[simp] theorem out_modParcel (s : State) (p : Nat) (f : Parcel → Parcel) : (s.modParcel p f).out = s.out := by unfold State.modParcel; split <;> rfl
@[simp] theorem free_modParcel (s : State) (p : Nat) (f : Parcel → Parcel) : (s.modParcel p f).free = s.free := by unfold State.modParcel; split <;> rfl
@[simp] theorem pending_modMbx (s : State) (b : Box) (f : Mbx → Mbx) : (s.modMbx b f).pending = s.pending := by cases b <;> rfl
@[simp] theorem net_modMbx (s : State) (b : Box) (f : Mbx → Mbx) : (s.modMbx b f).net = s.net := by cases b <;> rfl
@[simp] theorem mer_modMbx (s : State) (b : Box) (f : Mbx → Mbx) : (s.modMbx b f).mer = s.mer := by cases b <;> rfl
@[simp] theorem hub_modMbx (s : State) (b : Box) (f : Mbx → Mbx) : (s.modMbx b f).hub = s.hub := by cases b <;> rfl
@[simp] theorem outs_modMbx (s : State) (b : Box) (f : Mbx → Mbx) : (s.modMbx b f).outs = s.outs := by cases b <;> rfl
@[simp] theorem cells_modMbx (s : State) (b : Box) (f : Mbx → Mbx) : (s.modMbx b f).cells = s.cells := by cases b <;> rfl
@[simp] theorem inputs_modMbx (s : State) (b : Box) (f : Mbx → Mbx) : (s.modMbx b f).inputs = s.inputs := by cases b <;> rfl
@[simp] theorem queues_modMbx (s : State) (b : Box) (f : Mbx → Mbx) : (s.modMbx b f).queues = s.queues := by cases b <;> rfl
@[simp] theorem tally_modMbx (s : State) (b : Box) (f : Mbx → Mbx) : (s.modMbx b f).tally = s.tally := by cases b <;> rfl
@[simp] theorem pool_modMbx (s : State) (b : Box) (f : Mbx → Mbx) : (s.modMbx b f).pool = s.pool := by cases b <;> rfl
@[simp] theorem fb_modMbx (s : State) (b : Box) (f : Mbx → Mbx) : (s.modMbx b f).fb = s.fb := by cases b <;> rfl
@[simp] theorem gates_modMbx (s : State) (b : Box) (f : Mbx → Mbx) : (s.modMbx b f).gates = s.gates := by cases b <;> rfl
@[simp] theorem resv_modMbx (s : State) (b : Box) (f : Mbx → Mbx) : (s.modMbx b f).resv = s.resv := by cases b <;> rfl
@[simp] theorem stns_modMbx (s : State) (b : Box) (f : Mbx → Mbx) : (s.modMbx b f).stns = s.stns := by cases b <;> rfl
@[simp] theorem ctxs_modMbx (s : State) (b : Box) (f : Mbx → Mbx) : (s.modMbx b f).ctxs = s.ctxs := by cases b <;> rfl
@[simp] theorem spreads_modMbx (s : State) (b : Box) (f : Mbx → Mbx) : (s.modMbx b f).spreads = s.spreads := by cases b <;> rfl
@[simp] theorem places_modMbx (s : State) (b : Box) (f : Mbx → Mbx) : (s.modMbx b f).places = s.places := by cases b <;> rfl
@[simp] theorem views_modMbx (s : State) (b : Box) (f : Mbx → Mbx) : (s.modMbx b f).views = s.views := by cases b <;> rfl
@[simp] theorem gangs_modMbx (s : State) (b : Box) (f : Mbx → Mbx) : (s.modMbx b f).gangs = s.gangs := by cases b <;> rfl
@[simp] theorem gathers_modMbx (s : State) (b : Box) (f : Mbx → Mbx) : (s.modMbx b f).gathers = s.gathers := by cases b <;> rfl
@[simp] theorem trains_modMbx (s : State) (b : Box) (f : Mbx → Mbx) : (s.modMbx b f).trains = s.trains := by cases b <;> rfl
@[simp] theorem nextId_modMbx (s : State) (b : Box) (f : Mbx → Mbx) : (s.modMbx b f).nextId = s.nextId := by cases b <;> rfl
@[simp] theorem parcels_modMbx (s : State) (b : Box) (f : Mbx → Mbx) : (s.modMbx b f).parcels = s.parcels := by cases b <;> rfl
@[simp] theorem parcel0_modMbx (s : State) (b : Box) (f : Mbx → Mbx) : (s.modMbx b f).parcel0 = s.parcel0 := by cases b <;> rfl
@[simp] theorem pwr_modMbx (s : State) (b : Box) (f : Mbx → Mbx) : (s.modMbx b f).pwr = s.pwr := by cases b <;> rfl
@[simp] theorem isl_modMbx (s : State) (b : Box) (f : Mbx → Mbx) : (s.modMbx b f).isl = s.isl := by cases b <;> rfl
@[simp] theorem parity_modMbx (s : State) (b : Box) (f : Mbx → Mbx) : (s.modMbx b f).parity = s.parity := by cases b <;> rfl
@[simp] theorem ecc_modMbx (s : State) (b : Box) (f : Mbx → Mbx) : (s.modMbx b f).ecc = s.ecc := by cases b <;> rfl
@[simp] theorem waits_modMbx (s : State) (b : Box) (f : Mbx → Mbx) : (s.modMbx b f).waits = s.waits := by cases b <;> rfl
@[simp] theorem testCtl_modMbx (s : State) (b : Box) (f : Mbx → Mbx) : (s.modMbx b f).testCtl = s.testCtl := by cases b <;> rfl
@[simp] theorem mem_modMbx (s : State) (b : Box) (f : Mbx → Mbx) : (s.modMbx b f).mem = s.mem := by cases b <;> rfl
@[simp] theorem out_modMbx (s : State) (b : Box) (f : Mbx → Mbx) : (s.modMbx b f).out = s.out := by cases b <;> rfl
@[simp] theorem free_modMbx (s : State) (b : Box) (f : Mbx → Mbx) : (s.modMbx b f).free = s.free := by cases b <;> rfl

/-! ## Tables of State after an update of their own -/

theorem cell_setCell (s : State) (c d : Nat) (x : Cell) : (s.setCell c x).cell d = if d = c then x else s.cell d := tget_tset _ _ _ _ _
theorem cell_modCell (s : State) (c d : Nat) (f : Cell → Cell) : (s.modCell c f).cell d = if d = c then f (s.cell c) else s.cell d := tget_tset _ _ _ _ _
theorem op_setOp (s : State) (k j : Nat) (x : Outpost) : (s.setOp k x).op j = if j = k then x else s.op j := tget_tset _ _ _ _ _
theorem op_modOp (s : State) (k j : Nat) (f : Outpost → Outpost) : (s.modOp k f).op j = if j = k then f (s.op k) else s.op j := tget_tset _ _ _ _ _
theorem input_modInput (s : State) (e d : Nat) (f : Input → Input) : (s.modInput e f).input d = if d = e then f (s.input e) else s.input d := tget_tset _ _ _ _ _
theorem queue_setQueue (s : State) (e d : Nat) (x : Queue) : (s.setQueue e x).queue d = if d = e then x else s.queue d := tget_tset _ _ _ _ _
theorem queue_modQueue (s : State) (e d : Nat) (f : Queue → Queue) : (s.modQueue e f).queue d = if d = e then f (s.queue e) else s.queue d := tget_tset _ _ _ _ _
theorem slot_setSlot (s : State) (n m : Nat) (x : Slot) : (s.setSlot n x).slot m = if m = n then x else s.slot m := tget_tset _ _ _ _ _
theorem stn_setStn (s : State) (n m : Nat) (x : Station) : (s.setStn n x).stn m = if m = n then x else s.stn m := tget_tset _ _ _ _ _
theorem stn_modStn (s : State) (n m : Nat) (f : Station → Station) : (s.modStn n f).stn m = if m = n then f (s.stn n) else s.stn m := tget_tset _ _ _ _ _
theorem ctx_setCtx (s : State) (v w : Nat) (x : Ctx) : (s.setCtx v x).ctx w = if w = v then x else s.ctx w := tget_tset _ _ _ _ _
theorem ctx_modCtx (s : State) (v w : Nat) (f : Ctx → Ctx) : (s.modCtx v f).ctx w = if w = v then f (s.ctx v) else s.ctx w := tget_tset _ _ _ _ _
theorem spread_modSpread (s : State) (n m : Nat) (f : Spread → Spread) : (s.modSpread n f).spread m = if m = n then f (s.spread n) else s.spread m := tget_tset _ _ _ _ _
theorem gang_modGang (s : State) (g h : Nat) (f : Gang → Gang) : (s.modGang g f).gang h = if h = g then f (s.gang g) else s.gang h := tget_tset _ _ _ _ _
theorem res_setRes (s : State) (r q : Nat) (x : Resv) : (s.setRes r x).res q = if q = r then x else s.res q := tget_tset _ _ _ _ _
theorem alarm_modAlarm (s : State) (a b : Nat) (f : Alarm → Alarm) : (s.modAlarm a f).alarm b = if b = a then f (s.alarm a) else s.alarm b := tget_tset _ _ _ _ _
theorem parcel_modParcel (s : State) (p q : Nat) (f : Parcel → Parcel) : (s.modParcel p f).parcel q = if q = p then f (s.parcel p) else s.parcel q := by
  by_cases hp : p = 0
  · subst hp
    by_cases hq : q = 0
    · subst hq; simp [State.modParcel, State.parcel]
    · simp [State.modParcel, State.parcel, hq]
  · by_cases hq : q = 0
    · subst hq; simp [State.modParcel, State.parcel, hp, Ne.symm hp]
    · simp [State.modParcel, State.parcel, hp, hq, tget_tset]
theorem mbx_modMbx (s : State) (b c : Box) (f : Mbx → Mbx) : (s.modMbx b f).mbx c = if c = b then f (s.mbx b) else s.mbx c := by
  cases b <;> cases c <;> simp [State.modMbx, State.mbx]
theorem grp_modGrp (s : State) (n m : Nat) (g h : Grp) (f : Group → Group) :
    (s.modGrp n g f).grp m h = if m = n ∧ h = g then f (s.grp n g) else s.grp m h := by
  unfold State.grp State.modGrp
  rw [stn_modStn]
  by_cases hm : m = n
  · subst hm; cases g <;> cases h <;> simp [Station.grp]
  · simp [hm]

end Sys2Proof.Machine
end

