-- ==== Sys2Proof/Laws/Links.lean ====
section
/-! SUPPORT. Event counters, and what the starts of messages on a link can change. -/

namespace Sys2Proof.Machine

open Sys2Proof

theorem CountersOnly.refl (s : State) : CountersOnly s s := fun _ => rfl
theorem CountersOnly.trans {s t u : State} (h1 : CountersOnly s t) (h2 : CountersOnly t u) : CountersOnly s u := by
  intro c; rw [h2 c, h1 c]
theorem CountersOnly.of_cells {s t : State} (h : t.cells = s.cells) : CountersOnly s t := by
  intro c; simp only [State.cell, h]

/-! ## Event counters (R462) -/

/-- A cell without its event counters. -/
def Cell.still (x : Cell) : Cell := { x with ctrs := [], ovf := 0 }

/-- The same cells stand in the same places, but for their event counters. -/
def SameCells (s t : State) : Prop := t.cells.map (fun e => (e.1, e.2.still)) = s.cells.map fun e => (e.1, e.2.still)

theorem SameCells.refl (s : State) : SameCells s s := rfl
theorem SameCells.trans {s t u : State} (h1 : SameCells s t) (h2 : SameCells t u) : SameCells s u := Eq.trans (a := u.cells.map _) h2 h1
theorem SameCells.of_cells {s t : State} (h : t.cells = s.cells) : SameCells s t := by unfold SameCells; rw [h]

theorem bumpCell_eq (x : Cell) (k : Nat) : bumpCell x k = { x with ctrs := (bumpCell x k).ctrs, ovf := (bumpCell x k).ovf } := by
  have : ∀ (l : List Nat) (y : Cell), (y = { x with ctrs := y.ctrs, ovf := y.ovf }) →
      let z := l.foldl (fun y n =>
        if bits y.ctrSel (8 * n) 8 = k ∧ k ≠ 0 then
          { y with ctrs := tset 0 y.ctrs n (tget 0 y.ctrs n + 1), ovf := if tget 0 y.ctrs n = 0xFFFFFFFFFFFF then y.ovf ||| (1#4 <<< n) else y.ovf }
        else y) y
      z = { x with ctrs := z.ctrs, ovf := z.ovf } := by
    intro l
    induction l with
    | nil => intro y h; exact h
    | cons a l ih =>
      intro y h
      simp only [List.foldl_cons]
      apply ih
      split
      · rw [h]
      · exact h
  exact this (List.range 4) x rfl

theorem still_bumpCell (x : Cell) (k : Nat) : (bumpCell x k).still = x.still := by rw [bumpCell_eq]; rfl

/-- A change in its place that keeps what `g` shows of the cells keeps the list as `g` shows it. -/
theorem map_tmod {α β : Type} (g : α → β) (f : α → α) (h : ∀ x, g (f x) = g x) (n : Nat) (t : Tab α) :
    (tmod n f t).map (fun e => (e.1, g e.2)) = t.map fun e => (e.1, g e.2) := by
  induction t with
  | nil => rfl
  | cons e t ih =>
    obtain ⟨m, v⟩ := e
    unfold tmod
    split
    · simp [h]
    · simp [ih]

/-- What a function of the cells' places and of their contents without counters finds is the same. -/
theorem tget_still {t u : Tab Cell} (h : u.map (fun e => (e.1, e.2.still)) = t.map fun e => (e.1, e.2.still)) (c : Nat) :
    (tget {} u c).still = (tget {} t c).still := by
  induction t generalizing u with
  | nil => cases u <;> simp_all
  | cons e t ih =>
    cases u with
    | nil => simp at h
    | cons d u =>
      simp only [List.map_cons, List.cons.injEq, Prod.mk.injEq] at h
      simp only [tget, h.1.1]
      split
      · exact h.1.2
      · exact ih h.2
theorem filter_still {t u : Tab Cell} (h : u.map (fun e => (e.1, e.2.still)) = t.map fun e => (e.1, e.2.still))
    (p : Nat × Cell → Bool) (hp : ∀ c x y, x.still = y.still → p (c, x) = p (c, y)) : (u.filter p).map (·.1) = (t.filter p).map (·.1) := by
  induction t generalizing u with
  | nil => cases u <;> simp_all
  | cons e t ih =>
    cases u with
    | nil => simp at h
    | cons d u =>
      simp only [List.map_cons, List.cons.injEq, Prod.mk.injEq] at h
      have hd : p d = p e := by rw [show d = (e.1, d.2) by rw [← h.1.1]]; exact hp _ _ _ h.1.2
      simp only [List.filter_cons, hd]
      split
      · simp [h.1.1, ih h.2]
      · exact ih h.2
theorem find_still {t u : Tab Cell} (h : u.map (fun e => (e.1, e.2.still)) = t.map fun e => (e.1, e.2.still))
    (p : Nat × Cell → Bool) (hp : ∀ c x y, x.still = y.still → p (c, x) = p (c, y)) : (u.find? p).map (·.1) = (t.find? p).map (·.1) := by
  induction t generalizing u with
  | nil => cases u <;> simp_all
  | cons e t ih =>
    cases u with
    | nil => simp at h
    | cons d u =>
      simp only [List.map_cons, List.cons.injEq, Prod.mk.injEq] at h
      have hd : p d = p e := by rw [show d = (e.1, d.2) by rw [← h.1.1]]; exact hp _ _ _ h.1.2
      simp only [List.find?_cons, hd]
      split
      · simp [h.1.1]
      · exact ih h.2

theorem SameCells.cell {s t : State} (h : SameCells s t) (c : Nat) : (t.cell c).still = (s.cell c).still := tget_still h c
theorem SameCells.counters {s t : State} (h : SameCells s t) : CountersOnly s t := by
  intro c
  have hc := h.cell c
  generalize t.cell c = x at *
  generalize s.cell c = y at *
  cases x; cases y
  simp only [Cell.still, Cell.mk.injEq] at hc ⊢
  simp_all
theorem still_role {x y : Cell} (h : x.still = y.still) : x.role = y.role := by
  have : x.still.role = y.still.role := by rw [h]
  simpa [Cell.still, Cell.role] using this
theorem still_index {x y : Cell} (h : x.still = y.still) : x.index = y.index := by
  have : x.still.index = y.still.index := by rw [h]
  simpa [Cell.still, Cell.index] using this
theorem still_en {x y : Cell} (h : x.still = y.still) : x.en = y.en := by
  have : x.still.en = y.still.en := by rw [h]
  simpa [Cell.still] using this
theorem SameCells.en {s t : State} (h : SameCells s t) (c : Nat) : (t.cell c).en = (s.cell c).en := still_en (h.cell c)
theorem SameCells.roleCells {s t : State} (h : SameCells s t) (u r : Nat) : roleCells t u r = roleCells s u r :=
  filter_still h _ fun c x y e => by simp [still_role e]
theorem SameCells.roleCell {s t : State} (h : SameCells s t) (u r i : Nat) : roleCell t u r i = roleCell s u r i :=
  find_still h _ fun c x y e => by simp [still_role e, still_index e]
theorem SameCells.onCell {s t : State} (h : SameCells s t) (c : Option Nat) : onCell t c = onCell s c := by
  cases c
  · rfl
  · exact h.en _
theorem SameCells.stnOn {s t : State} (h : SameCells s t) (n : Nat) : stnOn t n = stnOn s n := by
  unfold Machine.stnOn deliveryCell; rw [h.roleCell, h.onCell]
theorem SameCells.ctxCapacity {s t : State} (h : SameCells s t) : ctxCapacity t = ctxCapacity s := by
  unfold Machine.ctxCapacity; rw [h.roleCells]

/-- A bump changes counters and overflow bits of cells and nothing else. -/
theorem bump_eq (s : State) (c : Option Nat) (k : Nat) : bump s c k = { s with cells := (bump s c k).cells } := by
  unfold bump
  split
  · rfl
  · simp only
    repeat' split
    all_goals rfl
theorem bump_same (s : State) (c : Option Nat) (k : Nat) : SameCells s (bump s c k) := by
  unfold bump
  split
  · exact SameCells.refl s
  · simp only
    split <;> (try split)
    all_goals first | exact SameCells.refl s | exact map_tmod _ _ (fun x => still_bumpCell x _) _ _
theorem bump_counters (s : State) (c : Option Nat) (k : Nat) : CountersOnly s (bump s c k) := (bump_same s c k).counters

/-- The watch over a station's request wires changes counters only. -/
theorem reqWatch_eq (n : Nat) (s0 s1 : State) : reqWatch n s0 s1 = { s1 with cells := (reqWatch n s0 s1).cells } := by
  unfold reqWatch
  simp only
  repeat' split
  all_goals first | rfl | (rw [bump_eq]; done) | (rw [bump_eq, bump_eq]; done) | rw [bump_eq, bump_eq, bump_eq]
theorem reqWatch_counters (n : Nat) (s0 s1 : State) : CountersOnly s1 (reqWatch n s0 s1) := by
  unfold reqWatch
  simp only
  repeat' split
  all_goals first
    | exact CountersOnly.refl _
    | exact bump_counters _ _ _
    | exact (bump_counters _ _ _).trans (bump_counters _ _ _)
    | exact ((bump_counters _ _ _).trans (bump_counters _ _ _)).trans (bump_counters _ _ _)

/-! ## Starts on a link (R34) -/

/-- Messages have started on links, and nothing else but event counters differs. -/
structure Started (s t : State) : Prop where
  rest : t = { s with net := t.net, outs := t.outs, gates := t.gates, cells := t.cells }
  cells : SameCells s t
  links : LinkStarts s t
  net : t.net.map Packet.content = s.net.map Packet.content

theorem Started.refl (s : State) : Started s s := ⟨rfl, rfl, ⟨fun _ => rfl, fun _ h => h⟩, rfl⟩
theorem Started.trans {s t u : State} (h1 : Started s t) (h2 : Started t u) : Started s u := by
  refine ⟨?_, h1.cells.trans h2.cells, ⟨fun k => ?_, fun g h => h1.links.2 g (h2.links.2 g h)⟩, h2.net.trans h1.net⟩
  · rw [h2.rest, h1.rest]
  · rw [h2.links.1 k, h1.links.1 k]
theorem started_bump (s : State) (c : Option Nat) (k : Nat) : Started s (bump s c k) := by
  refine ⟨?_, bump_same s c k, ⟨fun _ => ?_, fun g h => ?_⟩, ?_⟩
  · rw [bump_eq]
  · rw [bump_eq]; rfl
  · rw [bump_eq] at h; exact h
  · rw [bump_eq]
theorem started_bumpBy (s : State) (c : Option Nat) (k n : Nat) : Started s (bumpBy s c k n) := by
  induction n with
  | zero => exact Started.refl s
  | succ n ih => exact ih.trans (started_bump _ _ _)
theorem started_openGate (s : State) (k : Nat) (up : Bool) (p : Packet) : Started s (openGate s k up p) := by
  unfold openGate
  split
  all_goals first
    | exact Started.refl s
    | exact ⟨rfl, rfl, ⟨fun _ => rfl, fun g h => (List.mem_filter.mp h).1⟩, rfl⟩
theorem started_linkToken (s : State) (k : Nat) (m : Msg) : Started s (linkToken s k m) := by
  unfold linkToken bumpIn
  simp only
  repeat' split
  all_goals repeat (first | exact started_bump _ _ _ | exact Started.refl _ | refine Started.trans ?_ (started_bump _ _ _))
theorem started_crossCount (s : State) (k : Nat) (up : Bool) (p : Packet) (h : s.ecc = []) : Started s (crossCount s k up p) := by
  unfold crossCount overrunAll
  rw [if_pos h]
  exact ((started_linkToken _ _ _).trans (started_bumpBy _ _ _ _)).trans (started_openGate _ _ _ _)
theorem content_pass (p : Packet) (up : Bool) : (p.pass up).content = p.content := by cases up <;> rfl
theorem map_content_modify (l : List Packet) (i : Nat) (up : Bool) : (l.modify i fun q => q.pass up).map Packet.content = l.map Packet.content := by
  induction l generalizing i with
  | nil => simp
  | cons a l ih => cases i <;> simp [content_pass, ih]
theorem started_startAt (s : State) (k : Nat) (up : Bool) (i : Nat) (h : s.ecc = []) : Started s (startAt s k up i) := by
  unfold startAt
  split
  · exact Started.refl s
  · rename_i p _
    split
    · exact Started.refl s
    · have hc := started_crossCount s k up p h
      simp only
      refine hc.trans ?_
      refine ⟨?_, ?_, ⟨fun j => ?_, fun g hg => ?_⟩, ?_⟩
      · split <;> rfl
      · split <;> exact SameCells.refl _
      · split
        · simp only [State.op, State.modOp, State.setOp, tget_tset]
          split
          · subst_vars; cases up <;> rfl
          · rfl
        · rfl
      · split at hg <;> exact hg
      · have : ∀ l : List Packet, (l.map fun q => if rides p q k up then q.pass up else q).map Packet.content = l.map Packet.content := by
          intro l
          rw [List.map_map]
          congr 1
          funext q
          simp only [Function.comp]
          split
          · exact content_pass _ _
          · rfl
        split <;> simp only [this, map_content_modify, State.modOp, State.setOp]
theorem started_runClass (s : State) (k : Nat) (up : Bool) (c n : Nat) (h : s.ecc = []) : Started s (runClass s k up c n) := by
  induction n generalizing s with
  | zero => exact Started.refl s
  | succ n ih =>
    unfold runClass
    split
    · exact Started.refl s
    · rename_i q j _
      split
      · have h1 := started_startAt s k up j h
        exact h1.trans (ih _ (by rw [h1.rest]; exact h))
      · exact Started.refl s

/-- The flits of an access on a link let the messages before it start, and count (R30, R34). -/
theorem started_forwardFlits (s : State) (r : HeldAcc) (k : Nat) (up : Bool) (n : Nat) (h : s.ecc = []) : Started s (forwardFlits s r k up n) := by
  unfold forwardFlits
  exact (((started_runClass s k up 3 _ h).trans (started_bumpBy _ _ _ _)).trans (started_bumpBy _ _ _ _)).trans (started_bumpBy _ _ _ _)
theorem started_forwarded (s : State) (r : HeldAcc) (k : Option Nat) (h : s.ecc = []) : Started s (forwarded s r k) := by
  cases k
  · exact Started.refl s
  · exact started_forwardFlits _ _ _ _ _ h
theorem started_returned (s : State) (r : HeldAcc) (k : Option Nat) (h : s.ecc = []) : Started s (returnedAcc s r k) := by
  cases k with
  | none => exact Started.refl s
  | some k =>
    refine (started_forwardFlits s r k true (if r.write then 1 else 2) h).trans ⟨rfl, rfl, ⟨fun j => ?_, fun _ h => h⟩, rfl⟩
    simp only [returnedAcc, op_modOp]
    by_cases hj : j = k
    · subst hj; simp
    · simp [hj]

namespace Started

variable {s t : State} (h : Started s t)
include h

theorem counters : CountersOnly s t := h.cells.counters
theorem hub_eq : t.hub = s.hub := by rw [h.rest]
theorem ecc_eq : t.ecc = s.ecc := by rw [h.rest]
theorem parity_eq : t.parity = s.parity := by rw [h.rest]
theorem stns_eq : t.stns = s.stns := by rw [h.rest]
theorem ctxs_eq : t.ctxs = s.ctxs := by rw [h.rest]
theorem out_eq : t.out = s.out := by rw [h.rest]
theorem ctx_eq (v : Nat) : t.ctx v = s.ctx v := by simp only [State.ctx, h.ctxs_eq]
theorem stn_eq (n : Nat) : t.stn n = s.stn n := by simp only [State.stn, h.stns_eq]
theorem group_eq (p : Page) : pageGroup t p = pageGroup s p := by
  cases p with
  | stn n g => simp only [pageGroup, State.grp, h.stn_eq]
  | vst v => simp only [pageGroup, h.ctx_eq]
theorem logic_eq (k : Nat) : (t.op k).logic = (s.op k).logic := by rw [h.links.1 k]
theorem lost_eq (k : Nat) : (t.op k).lost = (s.op k).lost := by rw [h.links.1 k]
theorem link_eq (k : Nat) : (t.op k).link = (s.op k).link := by rw [h.links.1 k]
theorem away_eq (k : Nat) : dieAway t k = dieAway s k := by unfold dieAway; rw [h.logic_eq, h.lost_eq]
theorem exists_eq (n : Nat) : stnExists t n = stnExists s n := by unfold stnExists populated; rw [h.hub_eq]
theorem open_eq (k : Nat) : linkOpen t k = linkOpen s k := by
  unfold linkOpen linkUp
  simp only [h.link_eq, h.cells.roleCells, h.cells.en]
theorem ready (p : Page) (hp : PageReady s p) : PageReady t p := by
  cases p with
  | stn n g => simpa only [PageReady, h.exists_eq, h.away_eq, h.cells.stnOn, h.open_eq] using hp
  | vst v => simpa only [PageReady, h.ctx_eq, h.cells.ctxCapacity, h.away_eq, h.cells.stnOn, h.open_eq] using hp
theorem implemented_eq (off : Nat) : implemented t off = implemented s off := by
  unfold implemented cellImpl pageImpl populated
  simp only [h.hub_eq, h.cells.ctxCapacity, h.exists_eq]
theorem window_eq (off : Nat) : dbWindow t off = dbWindow s off := by unfold dbWindow; rw [h.hub_eq]

end Started

end Sys2Proof.Machine
end

