-- ==== Sys2Proof/Laws/Access.lean ====
section
/-! SUPPORT. What one served 32-bit access does, once for all registers, and the places of the page registers. -/

namespace Sys2Proof.Machine

open Sys2Proof

theorem lo32_zeroExtend (w : Word) : lo32 (w.zeroExtend 64) = w := by
  unfold lo32
  apply BitVec.eq_of_toNat_eq
  have := w.isLt
  simp only [BitVec.truncate_eq_setWidth, BitVec.extractLsb'_toNat, BitVec.toNat_setWidth]
  omega

/-- With nothing waiting, the retry of the waiting accesses changes nothing. -/
@[simp] theorem serveWaits_nil (s : State) (h : s.waits = []) : serveWaits s = s := by
  cases s; simp only at h; subst h; rfl

/-- An access of a register outside the pages is served in the hub (R25). -/
theorem servingDie_hub (s : State) (r : HeldAcc) (h : onPage (foldOff s.hub.compact r.offset) = false) : servingDie s r = none := by
  have hlt : foldOff s.hub.compact r.offset < 0x1000000 := by simpa [onPage] using h
  unfold servingDie
  simp [h]
  omega

/-- A 32-bit access of an implemented word outside the doorbell windows that its security attribute allows, where the link to the die that
serves it is up: the request goes down that link, where what goes before it starts, the write or the read action takes place at its serving
point, and the response comes up (R20, R25, R34, R281). -/
theorem regAccess_word (s u : State) (r : HeldAcc) (hs : Serves s r.acc) (hl : ∀ k, servingDie s r = some k → linkOpen s k = true)
    (hx : r.offset < 2 ^ 27) (hdb : dbWindow s r.offset = none)
    (hf : foldOff s.hub.compact r.offset = r.offset) (h4 : r.offset % 4 = 0) (hz : r.acc.size = .b32)
    (hi : implemented s r.offset = true) (hsec : (needsSec r.offset && !r.acc.sec) = false)
    (hu : u = forwarded s r (servingDie s r)) (he : servingDie s r = none ∨ s.ecc = []) :
    regAccess s r = returnedAcc (if r.write then respond (writeWord u r r.offset (lo32 r.data)) 0 false
      else if (readWord u r.offset).1.held then tagHeld (readWord u r.offset).2 r.acc.tag false
      else respond (readWord u r.offset).2 ((readWord u r.offset).1.data.zeroExtend 64) (readWord u r.offset).1.err) r (servingDie s r) := by
  obtain ⟨h1, h2, h3, h5⟩ := hs
  have hw : wordOff r.offset = r.offset := by unfold wordOff; omega
  have hm : mustWait s r = false := by
    unfold mustWait
    rw [h3]
    have ht : (s.out.held.any fun h => decide (h.tag = r.acc.tag)) = false := by
      simp only [List.any_eq_false, decide_eq_true_eq]
      exact h5
    rw [ht]
    cases hd : servingDie s r with
    | none => rfl
    | some k => simp [hl k hd]
  have hst : Started s u := by
    rw [hu]
    rcases he with he | he
    · rw [he]; exact Started.refl s
    · exact started_forwarded _ _ _ he
  unfold regAccess
  rw [serveWaits_nil s h3]
  unfold regServe
  simp only [h1, h2, hdb, hm]
  rw [if_neg (by simp; omega), if_neg (by simp)]
  rw [← hu]
  simp only [serveReg, hst.hub_eq, hf, hz, sizeBytes, serveWord, hw, hst.implemented_eq, hi, hsec]
  cases hwr : r.write <;> simp [h4]

/-- Folding leaves the registers of the pages where they are (R303). -/
theorem fold_page (c : Bool) (x o : Nat) (h1 : 0x1000000 ≤ x) (h3 : x % 0x1000 = 0) (ho : o < 0x80)
    (h4 : x + o < 0x4000000 → offPage (x + o) = 1 → o < 0x10) : foldOff c (x + o) = x + o := by
  cases c
  · simp [foldOff]
  · unfold foldOff
    simp only [Bool.not_true, Bool.false_eq_true, if_false]
    rw [if_neg (by omega), if_neg (by omega), if_neg (by omega), if_neg (by omega), if_neg (by omega)]
    split
    · rename_i h5
      have h4' := h4 h5
      split <;> rename_i h6
      · omega
      · omega
      · have := h4' h6; omega
      · rfl
    · omega

/-- Folding leaves the hub's first registers where they are. -/
theorem fold_low (c : Bool) (x : Nat) (h : x < 0x1000) : foldOff c x = x := by
  unfold foldOff
  split
  · rfl
  · rw [if_pos (by omega)]; omega

/-- Folding leaves the cell blocks where they are. -/
theorem fold_cell (c : Bool) (x : Nat) (h1 : 0x100000 ≤ x) (h2 : x < 0x1000000) : foldOff c x = x := by
  unfold foldOff
  split
  · rfl
  · rw [if_neg (by omega), if_neg (by omega), if_neg (by omega), if_neg (by omega)]

/-- Folding leaves the first power registers where they are. -/
theorem fold_pwr (c : Bool) (x : Nat) (h1 : 0x20000 ≤ x) (h2 : x < 0x21000) : foldOff c x = x := by
  unfold foldOff
  split
  · rfl
  · rw [if_neg (by omega), if_neg (by omega), if_neg (by omega), if_pos (by omega)]; omega

/-! ## Pages -/

/-- Where the register of a station's page lies. -/
theorem stn_place (n : Nat) (g : Grp) (o : Nat) (hn : n < 576) (ho : o < 0x1000) :
    0x1000000 ≤ pageAt (.stn n g) o ∧ pageAt (.stn n g) o < 0x4000000 ∧ offStation (pageAt (.stn n g) o) = n ∧
      pageAt (.stn n g) o % 0x1000 = o ∧ offPg (pageAt (.stn n g) o) = .stn n g ∧ (offPage (pageAt (.stn n g) o) = 0 ∨ offPage (pageAt (.stn n g) o) = 2) ∧
      (offPage (pageAt (.stn n g) o) = 2 ↔ g = .secure) := by
  have h1 : 0x1000000 ≤ pageAt (.stn n g) o := by cases g <;> simp only [pageAt, pageOffset, stnBase] <;> omega
  have h2 : pageAt (.stn n g) o < 0x4000000 := by cases g <;> simp only [pageAt, pageOffset, stnBase] <;> omega
  have h3 : offStation (pageAt (.stn n g) o) = n := by cases g <;> simp only [pageAt, pageOffset, stnBase, offStation] <;> omega
  have h4 : pageAt (.stn n g) o % 0x1000 = o := by cases g <;> simp only [pageAt, pageOffset, stnBase] <;> omega
  have h5 : offPage (pageAt (.stn n g) o) = (if g = .normal then 0 else 2) := by
    cases g <;> simp only [pageAt, pageOffset, stnBase, offPage, reduceCtorEq, if_true, if_false] <;> omega
  have h6 : ¬ (pageAt (.stn n g) o ≥ 0x4000000) := by omega
  refine ⟨h1, h2, h3, h4, ?_, ?_, ?_⟩
  · unfold offPg
    rw [if_neg h6, h3, h5]
    cases g <;> simp
  · rw [h5]; cases g <;> simp
  · rw [h5]; cases g <;> simp

/-- Where the register of a virtual station page lies. -/
theorem vst_place (v o : Nat) (hv : v < 16384) (ho : o < 0x1000) :
    0x4000000 ≤ pageAt (.vst v) o ∧ pageAt (.vst v) o < 0x8000000 ∧ offCtx (pageAt (.vst v) o) = v ∧ pageAt (.vst v) o % 0x1000 = o ∧
      offPg (pageAt (.vst v) o) = .vst v := by
  have h1 : 0x4000000 ≤ pageAt (.vst v) o := by simp only [pageAt, vstBase]; omega
  have h2 : offCtx (pageAt (.vst v) o) = v := by simp only [pageAt, vstBase, offCtx]; omega
  refine ⟨h1, by simp only [pageAt, vstBase]; omega, h2, by simp only [pageAt, vstBase]; omega, ?_⟩
  unfold offPg
  rw [if_pos h1, h2]

/-- A register of a ready page passes every check before its serving. -/
theorem page_checks (s : State) (p : Page) (o : Nat) (a : Acc) (hr : PageReady s p) (ha : Reaches a p) (ho : o < 0x4C) (h4 : o % 4 = 0) :
    pageAt p o < 2 ^ 27 ∧ dbWindow s (pageAt p o) = none ∧ foldOff s.hub.compact (pageAt p o) = pageAt p o ∧ pageAt p o % 4 = 0 ∧
      implemented s (pageAt p o) = true ∧ (needsSec (pageAt p o) && !a.sec) = false ∧ 0x1000000 ≤ pageAt p o := by
  cases p with
  | stn n g =>
    obtain ⟨he, hd, hn⟩ := hr
    have hn576 : n < 576 := by simp [stnExists] at he; exact he.1
    obtain ⟨h1, h2, h3, h5, -, h6, h7⟩ := stn_place n g o hn576 (by omega)
    have hfold : foldOff s.hub.compact (pageAt (.stn n g) o) = pageAt (.stn n g) o := by
      have := fold_page s.hub.compact (pageAt (.stn n g) o - o) o (by omega) (by omega) (by omega)
        (by intro _ h; rw [show pageAt (.stn n g) o - o + o = pageAt (.stn n g) o by omega] at h; omega)
      rwa [show pageAt (.stn n g) o - o + o = pageAt (.stn n g) o by omega] at this
    have ha2 := ha.2
    generalize pageAt (.stn n g) o = x at *
    refine ⟨by omega, ?_, hfold, by omega, ?_, ?_, h1⟩
    · unfold dbWindow; rw [if_neg (by omega), if_neg]; split <;> omega
    · unfold implemented
      rw [if_neg (by omega), if_neg (by omega), if_neg (by omega), if_neg (by omega), if_neg (by omega), if_neg (by omega)]
      unfold pageImpl
      rw [if_neg (by omega), h3, he]
      rcases h6 with h | h <;> rw [h] <;> simp <;> omega
    · cases g with
      | normal =>
        have : needsSec x = false := by
          have h8 : offPage x ≠ 2 := by intro h; exact absurd (h7.mp h) (by simp)
          simp only [needsSec, securePage, onPage]; simp [h8]; omega
        simp [this]
      | secure => simp [ha2 rfl]
  | vst v =>
    obtain ⟨hv, hc, hb, hpz, hon⟩ := hr
    obtain ⟨h1, h2, h3, h5, -⟩ := vst_place v o hv (by omega)
    have hfold : foldOff s.hub.compact (pageAt (.vst v) o) = pageAt (.vst v) o := by
      have := fold_page s.hub.compact (pageAt (.vst v) o - o) o (by omega) (by omega) (by omega) (by omega)
      rwa [show pageAt (.vst v) o - o + o = pageAt (.vst v) o by omega] at this
    generalize pageAt (.vst v) o = x at *
    refine ⟨by omega, ?_, hfold, by omega, ?_, ?_, by omega⟩
    · unfold dbWindow; rw [if_neg (by omega), if_neg]; split <;> omega
    · unfold implemented
      rw [if_neg (by omega), if_neg (by omega), if_neg (by omega), if_neg (by omega), if_neg (by omega), if_neg (by omega)]
      unfold pageImpl
      rw [if_pos (by omega), h3]
      simp [hc]; omega
    · have : needsSec x = false := by simp only [needsSec, securePage]; simp; omega
      simp [this]

/-- The link to the die that serves a ready page is up. -/
theorem page_link (s : State) (p : Page) (o : Nat) (r : HeldAcc) (hr : PageReady s p) (hp : r.offset = pageAt p o)
    (hf : foldOff s.hub.compact r.offset = r.offset) (ho : o < 0x4C) (h4 : o % 4 = 0) : ∀ k, servingDie s r = some k → linkOpen s k = true := by
  intro k hk
  unfold servingDie at hk
  rw [hf] at hk
  simp only [hp] at hk
  cases p with
  | stn n g =>
    obtain ⟨he, hd, -, hl⟩ := hr
    have hn576 : n < 576 := by simp [stnExists] at he; exact he.1
    obtain ⟨h1, h2, h3, -⟩ := stn_place n g o hn576 (by omega)
    generalize pageAt (.stn n g) o = x at *
    have h6 : ¬ (x ≥ 0x4000000) := by omega
    unfold servingStation at hk
    simp only [h6, if_false, h3, hd] at hk
    split at hk
    · simp at hk; exact hk ▸ hl
    · cases hk
  | vst v =>
    obtain ⟨hv, hc, hb, hpz, hon⟩ := hr
    obtain ⟨h1, -, h3, -⟩ := vst_place v o hv (by omega)
    generalize pageAt (.vst v) o = x at *
    unfold servingStation at hk
    simp only [ge_iff_le, h1, if_true, h3, hc] at hk
    cases hst : (s.ctx v).station with
    | none => simp [hst] at hk
    | some n =>
      obtain ⟨hd, -, hl⟩ := hon n hst
      simp [hst, hd] at hk
      exact hk ▸ hl

/-- A write of a register of a ready page is carried out at once (R211). -/
theorem page_write (s u : State) (p : Page) (o : Nat) (data : Word) (a : Acc) (r : HeldAcc) (hs : Serves s a) (hr : PageReady s p) (ha : Reaches a p)
    (ho : o < 0x4C) (h4 : o % 4 = 0) (he : s.ecc = [])
    (hd : r = { offset := pageAt p o, write := true, data := data.zeroExtend 64, acc := a }) (hu : u = forwarded s r (servingDie s r)) :
    regAccess s r = returnedAcc (respond (pageWriteNow u (pageAt p o) data a) 0 false) r (servingDie s r) := by
  subst hd
  obtain ⟨c1, c2, c3, c4, c5, c6, c7⟩ := page_checks s p o a hr ha ho h4
  have hst : Started s u := by rw [hu]; exact started_forwarded _ _ _ he
  have hru := hst.ready p hr
  have key : pageWrite u (pageAt p o) data a = pageWriteNow u (pageAt p o) data a := by
    cases p with
    | stn n g =>
      obtain ⟨he, hd, hn, -⟩ := hru
      have hn576 : n < 576 := by simp [stnExists] at he; exact he.1
      obtain ⟨h1, h2, h3, -⟩ := stn_place n g o hn576 (by omega)
      generalize pageAt (.stn n g) o = x at *
      have h6 : ¬ (x ≥ 0x4000000) := by omega
      unfold pageWrite servingStation
      rw [if_neg h6, h3]
      simp [hd, hn]
    | vst v =>
      obtain ⟨hv, hc, hb, hpz, hon⟩ := hru
      obtain ⟨h1, -, h3, -⟩ := vst_place v o hv (by omega)
      generalize pageAt (.vst v) o = x at *
      unfold pageWrite servingStation
      rw [if_pos h1, h3]
      cases hst : (u.ctx v).station with
      | none => rfl
      | some n =>
        obtain ⟨hd, hn, -⟩ := hon n hst
        simp [hd, hn]
  rw [regAccess_word s u _ hs (page_link s p o _ hr rfl c3 ho h4) c1 c2 c3 c4 ha.1 c5 c6 hu (.inr he)]
  have hw : writeWord u ⟨pageAt p o, true, data.zeroExtend 64, a⟩ (pageAt p o) (lo32 (data.zeroExtend 64)) = pageWriteNow u (pageAt p o) data a := by
    unfold writeWord
    rw [if_pos (by simpa [onPage] using c7), ← key]
    simp [lo32_zeroExtend]
  simp only [hw, if_true]

/-- A read of a register of a ready page. -/
theorem page_read (s u : State) (p : Page) (o : Nat) (a : Acc) (r : HeldAcc) (hs : Serves s a) (hr : PageReady s p) (ha : Reaches a p) (ho : o < 0x4C)
    (h4 : o % 4 = 0) (he : s.ecc = []) (hd : r = { offset := pageAt p o, write := false, data := 0, acc := a })
    (hu : u = forwarded s r (servingDie s r)) :
    regAccess s r = returnedAcc (if (pageRead u (pageAt p o)).1.held then tagHeld (pageRead u (pageAt p o)).2 a.tag false
      else respond (pageRead u (pageAt p o)).2 ((pageRead u (pageAt p o)).1.data.zeroExtend 64) (pageRead u (pageAt p o)).1.err) r (servingDie s r) := by
  subst hd
  obtain ⟨c1, c2, c3, c4, c5, c6, c7⟩ := page_checks s p o a hr ha ho h4
  rw [regAccess_word s u _ hs (page_link s p o _ hr rfl c3 ho h4) c1 c2 c3 c4 ha.1 c5 c6 hu (.inr he)]
  have hw : readWord u (pageAt p o) = pageRead u (pageAt p o) := by unfold readWord; rw [if_pos (by simpa [onPage] using c7)]
  simp only [hw, Bool.false_eq_true, if_false]

end Sys2Proof.Machine
end

