-- ==== Sys2Proof/Laws/Ops.lean ====
section
/-! SUPPORT. What the shared operations can do to pages, said once. -/

namespace Sys2Proof.Machine

open Sys2Proof

/-! ## Pages -/

/-- What a page reads after a change of a page. -/
theorem pageGroup_modPage (s : State) (p q : Page) (f : Group → Group) :
    pageGroup (modPage s p f) q = if q = p then f (pageGroup s p) else pageGroup s q := by
  cases p with
  | stn n g =>
    cases q with
    | stn m h =>
      simp only [modPage, pageGroup, grp_modGrp, Page.stn.injEq]
    | vst w => simp [modPage, pageGroup, State.ctx]
  | vst v =>
    cases q with
    | stn m h => simp [modPage, pageGroup, State.grp, State.stn]
    | vst w =>
      simp only [modPage, pageGroup, ctx_modCtx, Page.vst.injEq]
      split <;> simp_all
theorem modPage_eq (s : State) (p : Page) (f : Group → Group) : modPage s p f = { s with stns := (modPage s p f).stns, ctxs := (modPage s p f).ctxs } := by
  cases p <;> rfl
theorem modPage_other (s : State) (p : Page) (f : Group → Group) : OtherPages s (modPage s p f) p := by
  refine ⟨fun q h => ?_, fun n => ?_, fun v => ?_⟩
  · rw [pageGroup_modPage, if_neg h]
  · cases p with
    | stn m g =>
      simp only [modPage, State.modGrp, stn_modStn]
      split
      · subst_vars; cases g <;> rfl
      · rfl
    | vst w => rfl
  · cases p with
    | stn m g => rfl
    | vst w =>
      simp only [modPage, ctx_modCtx]
      split
      · subst_vars; rfl
      · rfl

theorem pageGroup_cells (s : State) (x : Tab Cell) (p : Page) : pageGroup { s with cells := x } p = pageGroup s p := by cases p <;> rfl

/-- The watch over a page's station. -/
theorem watchPage_eq (s0 s1 : State) (p : Page) : watchPage s0 s1 p = { s1 with cells := (watchPage s0 s1 p).cells } := by
  unfold watchPage
  split
  · exact reqWatch_eq _ _ _
  · rfl
theorem watchPage_counters (s0 s1 : State) (p : Page) : CountersOnly s1 (watchPage s0 s1 p) := by
  unfold watchPage
  split
  · exact reqWatch_counters _ _ _
  · exact CountersOnly.refl _

/-- A write at a page's register goes to the group of that page; one of the secure page sets the parity bit with it (R81). -/
theorem pageWriteNow_page (s : State) (p : Page) (o : Nat) (data : Word) (a : Acc) (hr : PageReady s p) (ho : o < 0x48) :
    pageWriteNow s (pageAt p o) data a = groupWrite (if pageSecure p then parityClear s (pageAt p o) else s) p o data a := by
  cases p with
  | stn n g =>
    have hn : n < 576 := by have := hr.1; simp [stnExists] at this; exact this.1
    obtain ⟨h1, h2, h3, h4, h5, h6, h7⟩ := stn_place n g o hn (by omega)
    generalize pageAt (.stn n g) o = x at *
    unfold pageWriteNow
    rw [if_neg (by omega), h4, h5]
    rcases h6 with h6 | h6
    · have : g ≠ .secure := by intro h; rw [h7.mpr h] at h6; cases h6
      cases g with
      | normal => simp [h6, pageSecure]
      | secure => exact absurd rfl this
    · have hg := h7.mp h6
      subst hg
      simp [h6, pageSecure]
  | vst v =>
    obtain ⟨hv, -, hb, hp, -⟩ := hr
    obtain ⟨h1, h2, h3, h4, h5⟩ := vst_place v o hv (by omega)
    generalize pageAt (.vst v) o = x at *
    unfold pageWriteNow
    rw [if_pos h1, h4, h3]
    have hd : vstDead s v = false := by simp [vstDead, hb, hp]
    simp only [hd, pageSecure]
    simp only [Bool.false_eq_true, if_false]
    rw [if_neg (by omega), if_pos ho]

end Sys2Proof.Machine
end

