-- ==== Sys2Proof/WellFormed.lean ====
section
/-! DEFINITION. The commands whose operands name something that the device can have: numbers within the ranges of the architecture (R6 to R10,
R102, R191, R338). Nothing here asks whether it exists in a state. -/

namespace Sys2Proof

/-- An EVID has 20 bits, and 0 names no event (R10). -/
def evidOk (e : Nat) : Bool := decide (1 ≤ e) && decide (e < 2 ^ 20)
/-- A posted write at one of eight ports, inside the register window (R102, R103). -/
def writeOk (d : DbWrite) : Bool := decide (d.port < 8) && decide (d.offset < 2 ^ 27)
def pageOk : Page → Bool
  | .stn n _ => decide (n < 576)
  | .vst v => decide (v < 16384)
def destOk : Dest → Bool
  | .station n => decide (n < 576)
  | .spread n => decide (n < 256)
  | .context v => decide (v < 16384)
  | .gang g => decide (g < 1024)
def seatOk : SeatPlace → Bool
  | .station n _ => decide (n < 576)
  | .context v => decide (v < 16384)
/-- Wake sources name one of 64 watch slots, 12 links, 8 ports and 4 alarms (R433). -/
def srcOk : WakeSrc → Bool
  | .watch w => decide (w < 64)
  | .chord k => decide (k < 12)
  | .doorbell p => decide (p < 8)
  | .alarm a => decide (a < 4)
  | .i3c | .regPort | .swdt => true
def domOk : Dom → Bool
  | .hubl | .hubm => true
  | .outL k | .outM k | .trav k => decide (k < 12)
/-- A sample of 20 sensors and of the supplies of 12 dies (R320). -/
def samplesOk (x : Samples) : Bool := decide (x.temps.length = 20) && decide (x.outs.length = 12)
/-- A list entry gives at most 32 argument words (R338). -/
def entryOk : Option ListEntry → Bool
  | none => true
  | some e => decide (e.args.length ≤ 32)

/-- A self-test speaks of the 1,536 physical cells (R45, R63). -/
def bistOk (b : Bist) : Bool := (b.fails.all fun x => decide (x < 1536)) && b.rods.all fun x => decide (x.1 < 1536)
/-- A request in the layout of the mailbox has at most 32 argument words (R316, R459). -/
def mctpOk : MctpReq → Bool
  | .vendor _ args => decide (args.length ≤ 32)
  | .control _ => true
/-- A cell test control is one of 16 words of one of 1,536 cells; an RV32I core has 32 registers (R299, R408, R438). -/
def gateOk : GateOp → Bool
  | .cellTest c i _ => decide (c < 1536) && decide (i < 16)
  | .ronuoReg n _ => decide (n < 32)
  | _ => true

/-- The command is well formed. -/
def Instr.wf : Instr → Bool
  | .wiredInputChange evid _ _ => evidOk evid
  | .doorbellWrite d => writeOk d
  | .ledgerTake evid => evidOk evid
  | .fieldBookRelease evid => evidOk evid
  | .candidateArrival station evid => decide (station < 576) && evidOk evid
  | .spreadCandidateArrival set evid => decide (set < 256) && evidOk evid
  | .contextCandidateArrival ctx evid => decide (ctx < 16384) && evidOk evid
  | .gangFanOut gang evid => decide (gang < 1024) && evidOk evid
  | .releaseTargetReached station evid => decide (station < 576) && evidOk evid
  | .stnClaim station _ _ => decide (station < 576)
  | .stnComplete station _ _ _ => decide (station < 576)
  | .stnRunningRank station _ _ _ => decide (station < 576)
  | .stnMaskRank station _ _ _ => decide (station < 576)
  | .stnPreBits station _ _ _ => decide (station < 576)
  | .stnSend station _ _ _ => decide (station < 576)
  | .stnSendGang station _ _ _ => decide (station < 576)
  | .stnSendStatus station _ _ => decide (station < 576)
  | .sendRejectionNotice p => pageOk p
  | .vctxEnter station _ _ => decide (station < 576)
  | .vctxLeave station _ _ => decide (station < 576)
  | .vstClaim ctx _ => decide (ctx < 16384)
  | .vstComplete ctx _ _ => decide (ctx < 16384)
  | .vstRunningRank ctx _ _ => decide (ctx < 16384)
  | .vstMaskRank ctx _ _ => decide (ctx < 16384)
  | .vstPreBits ctx _ _ => decide (ctx < 16384)
  | .vstSend ctx _ _ => decide (ctx < 16384)
  | .vstSendGang ctx _ _ => decide (ctx < 16384)
  | .vstSendStatus ctx _ => decide (ctx < 16384)
  | .vstCtxCapture ctx _ => decide (ctx < 16384)
  | .claimReport evid => evidOk evid
  | .completionMessage evid => evidOk evid
  | .gangMemberCompletion evid station => evidOk evid && decide (station < 576)
  | .loadReport station _ => decide (station < 576)
  | .lease station => decide (station < 576)
  | .leaseRevocation station => decide (station < 576)
  | .reservationSplit => true
  | .reservationWindowStart => true
  | .reOffer d => destOk d
  | .holderCheck evid => evidOk evid
  | .holderCheckAnswer evid => evidOk evid
  | .bookedCountReport evid => evidOk evid
  | .ageScanVisit evid => evidOk evid
  | .seatAgeVisit p evid => seatOk p && evidOk evid
  | .replayRequest k f => decide (k < 12) && decide (f.flit < 4)
  | .flitAckTimeout k _ => decide (k < 12)
  | .retrainDone k _ => decide (k < 12)
  | .retrainAttemptTimeout k => decide (k < 12)
  | .returnToService k bist _ => decide (k < 12) && bistOk bist
  | .alignSlot => true
  | .align k _ _ => decide (k < 12)
  | .echo k _ => decide (k < 12)
  | .init k => decide (k < 12)
  | .merCapture _ => true
  | .merSlew _ => true
  | .merStep _ => true
  | .merCancel _ => true
  | .merAlarmArm alarm _ _ => decide (alarm < 4)
  | .merAlarmFire alarm => decide (alarm < 4)
  | .pllHoldover unit => decide (unit < 13)
  | .pllRelock unit => decide (unit < 13)
  | .degradedClear => true
  | .trainArmPoint _ => true
  | .rodMeasurement cell _ => decide (cell < 1536)
  | .speedReqRelease => true
  | .voltageMonitorCrossing d _ => domOk d
  | .sensorSample x => samplesOk x
  | .datumLocalRecompute cell => decide (cell < 1536)
  | .datumSweep => true
  | .cellEnable cell _ => decide (cell < 1536)
  | .cellDisable cell _ => decide (cell < 1536)
  | .cellDrainDone cell => decide (cell < 1536)
  | .hubEnable _ => true
  | .hubDisable _ => true
  | .hubDbRejArm _ => true
  | .hubAccCapArm _ => true
  | .cellCtrCapture cell _ => decide (cell < 1536)
  | .wrGo cell _ _ => decide (cell < 1536)
  | .ovfClr cell _ _ => decide (cell < 1536)
  | .swdtService _ _ => true
  | .rcRegisterRead offset _ => decide (offset < 2 ^ 27)
  | .registerWrite offset _ _ => decide (offset < 2 ^ 27)
  | .tuningRewrite offset => decide (offset < 2 ^ 27)
  | .getInfo _ => true
  | .statusPeek _ => true
  | .platLoad _ => true
  | .datumCommit _ => true
  | .enable _ => true
  | .disable _ => true
  | .queueBind _ => true
  | .queueUnbind _ => true
  | .queueSet _ => true
  | .routeSetQueue _ => true
  | .routeSetDieFallback _ => true
  | .routeSetReservation _ => true
  | .spreadDefine _ => true
  | .gangDefine _ => true
  | .gangUndefine _ => true
  | .gangReleaseAt _ => true
  | .parcelCreate _ => true
  | .parcelDestroy _ => true
  | .parcelReset _ => true
  | .parcelResize _ => true
  | .vctxBind _ => true
  | .vctxUnbind _ => true
  | .stakeTake _ => true
  | .stakeRelease _ => true
  | .wakeConfig _ => true
  | .benchmarkRead _ => true
  | .benchmarkWrite _ => true
  | .benchmarkCapture _ _ => true
  | .logRead _ => true
  | .fwStage _ _ => true
  | .fwCommit _ => true
  | .fwActivate _ => true
  | .activationStartTimeout => true
  | .counterSweep _ userMap _ => (userMap.all fun x => decide (x < 576))
  | .counterSweepStop _ => true
  | .debugUnlock _ => true
  | .commandList _ entries => (entries.all entryOk)
  | .mailboxOfflineEnd => true
  | .poolAuditDone => true
  | .easementStatusWrite parcel _ => decide (parcel < 1024)
  | .fenceAckTimeout _ cells => (cells.all fun x => decide (x < 1536))
  | .counterSweepDue _ lateNs userMap _ => decide (lateNs ≤ 2000) && (userMap.all fun x => decide (x < 576))
  | .pkgRstAssert _ => true
  | .pkgRstDeassert bist => bistOk bist
  | .auxinApplied _ => true
  | .auxinLost => true
  | .auxinSurgeLimit _ => true
  | .pdGood unit bist => decide (unit < 28) && bistOk bist
  | .powerStepTimeout unit => decide (unit < 28)
  | .quiesceGrant unit => decide (unit < 13)
  | .quiesceRetry unit => decide (unit < 13)
  | .saveBookWritten _ _ => true
  | .isoReq k _ => decide (k < 12)
  | .wakeSource w => srcOk w
  | .wakeChord k _ => decide (k < 12)
  | .wakeComplete _ => true
  | .napWakeChordTimer k => decide (k < 12)
  | .coldStakeRelease => true
  | .wakeStakeRelease => true
  | .rcOscTimeout => true
  | .securePowerCut d _ => domOk d
  | .hubSecurePowerCut d _ => domOk d
  | .swdtFirstExpiry => true
  | .swdtSecondExpiry => true
  | .chipResetReqRepeat => true
  | .mgmtWatchdogExpiry _ => true
  | .logAggregateFlush _ _ => true
  | .sidebandReport => true
  | .i3cCcc _ => true
  | .mctpVendorRequest _ m => mctpOk m
  | .recoveryWrite args => decide (args.length ≤ 32)
  | .withdrawalArrival evid => evidOk evid
  | .withdrawnCandidateReturn evid => evidOk evid
  | .claimDataArrival evid => evidOk evid
  | .debugGateAccess op => gateOk op
  | .rcOscRetry _ => true
  | .ronuoBoot => true
  | .cutWithoutHandshake k => decide (k < 14)
  | .quiesceRefused cell => decide (cell < 1536)
  | .pdGoodStillAsserted d => domOk d

end Sys2Proof
end

