-- ==== Sys2Proof/Tests/Slice0.lean ====
section
/-! SUPPORT. Tests: the ill-formed commands that well-formedness refuses, single steps whose results the spec gives, and for each statement of
Certificates/Slice0/Obligations.lean a state and operands that meet its premises. -/

namespace Sys2Proof.Tests

set_option Elab.async false

open Sys2Proof Sys2Proof.Machine

/-! ## Ill-formed commands -/

theorem refused_evid : (Instr.ledgerTake 0).wf = false ∧ (Instr.ledgerTake (2 ^ 20)).wf = false ∧ (Instr.ledgerTake (2 ^ 20 - 1)).wf = true := by decide
theorem refused_write : (Instr.doorbellWrite { port := 8, offset := 0, data := 0 }).wf = false ∧ (Instr.doorbellWrite { port := 0, offset := 2 ^ 27, data := 0 }).wf = false ∧
    (Instr.doorbellWrite { port := 7, offset := 0x400004, data := 0 }).wf = true := by decide
theorem refused_page : (Instr.sendRejectionNotice (.stn 576 .normal)).wf = false ∧ (Instr.sendRejectionNotice (.vst 16384)).wf = false ∧
    (Instr.stnClaim 576 .normal {}).wf = false ∧ (Instr.vstClaim 16384 {}).wf = false := by decide
theorem refused_place : (Instr.reOffer (.station 576)).wf = false ∧ (Instr.reOffer (.spread 256)).wf = false ∧ (Instr.reOffer (.context 16384)).wf = false ∧
    (Instr.reOffer (.gang 1024)).wf = false ∧ (Instr.seatAgeVisit (.station 576 .virt) 1).wf = false ∧ (Instr.seatAgeVisit (.context 16384) 1).wf = false := by decide
theorem refused_number : (Instr.cellEnable 1536 {}).wf = false ∧ (Instr.replayRequest 12 { up := true, flit := 0 }).wf = false ∧ (Instr.pllHoldover 13).wf = false ∧ (Instr.pdGood 28 {}).wf = false ∧
    (Instr.merAlarmFire 4).wf = false ∧ (Instr.registerWrite (2 ^ 27) 0 {}).wf = false ∧ (Instr.easementStatusWrite 1024 true).wf = false := by decide
theorem refused_source : (Instr.wakeSource (.watch 64)).wf = false ∧ (Instr.wakeSource (.chord 12)).wf = false ∧ (Instr.wakeSource (.doorbell 8)).wf = false ∧
    (Instr.wakeSource (.alarm 4)).wf = false ∧ (Instr.voltageMonitorCrossing (.outL 12) true).wf = false ∧ (Instr.securePowerCut (.trav 12) false).wf = false := by decide
theorem refused_list : (Instr.sensorSample { temps := [], hubl := 0, hubm := 0, vaon := 0, auxin := 0, outs := [] }).wf = false ∧
    (Instr.commandList .normal [some { opcode := 1, args := List.replicate 33 0 }]).wf = false ∧ (Instr.recoveryWrite (List.replicate 33 0)).wf = false ∧
    (Instr.counterSweep .normal [576] true).wf = false ∧ (Instr.fenceAckTimeout .normal [1536]).wf = false ∧ (Instr.pkgRstDeassert { fails := [1536] }).wf = false := by decide

/-! ## Small states -/

/-- An enabled cell of a role and role index, joined on one port. -/
def cl (role idx : Nat) : Cell := { plat := [(0, BitVec.ofNat 32 (role + 256 * idx)), (1, 0x8000)], en := true, datum := 1 }

/-- A device whose outpost `k` is in service, with one or two cells of each role. -/
def dev (k : Nat) : State := { State.reset with
  hub := { populated := 1#12 <<< k, en := true }
  outs := [(k, { logic := .on, mem := .on, trav := .on, link := .up, iso := false, align := .aligned, cold := false })]
  cells := [(0, cl 2 0), (1, cl 2 2), (2, cl 1 0), (3, cl 3 0), (4, cl 5 0), (5, cl 6 0), (6, cl 1 56),
    (768 + 64 * k, cl 4 0), (769 + 64 * k, cl 4 23), (770 + 64 * k, cl 3 0), (771 + 64 * k, cl 2 0), (772 + 64 * k, cl 1 0), (773 + 64 * k, cl 7 0)] }

/-- The same with queue `e`, with a message, with a group of a station, with a context. -/
def withQ (s : State) (e : Nat) (q : Queue) : State := s.setQueue e q
def withMsg (s : State) (m : Msg) : State := { s with net := [{ msg := m }] }
def withGrp (s : State) (n : Nat) (g : Grp) (x : Group) : State := s.modGrp n g fun _ => x
def withCtx (s : State) (v : Nat) (x : Ctx) : State := s.setCtx v x

/-- A bound COUNT queue routed to a station, and its candidate. -/
def countQ (n : Nat) : Queue := { bound := true, mode := .count, route := .station n }
def cand (e : Nat) : Cand := { evid := e, rank := 5 }
def secAcc : Acc := { sec := true }

/-! ## Pages -/

theorem witness_pages_station : Serves (dev 11) {} ∧ PageReady (dev 11) (.stn 575 .normal) ∧ Reaches {} (.stn 575 .normal) ∧
    PageReady (dev 11) (.stn 575 .secure) ∧ Reaches secAcc (.stn 575 .secure) := by decide +kernel
def devV : State := withCtx (dev 0) 127 { bound := true }
theorem witness_pages_context : Serves devV {} ∧ PageReady devV (.vst 127) ∧ Reaches {} (.vst 127) :=
  ⟨by decide +kernel, ⟨by decide +kernel, by decide +kernel, by decide +kernel, by decide +kernel, fun n h => by cases h⟩, by decide +kernel⟩

/-- Sends: a SEND of the lowest EVID that may be posted from the last station, and one of a gang from a context. -/
theorem witness_send : sendCell (dev 11) (.stn 575 .normal) = some (1473, some 11) ∧ Postable 0x1001 ∧ (0x1001#32).toNat < 2 ^ 20 := by decide +kernel
def devG : State := { devV with gangs := [(1023, { defined := true, offset := true, send := 0xFFFBF, members := [0, 47] })] }
theorem witness_send_gang : sendCell devG (.vst 127) = some (4, none) ∧ Serves devG {} ∧ (1023#32).toNat < 1024 ∧ (devG.gang 1023).defined = true ∧
    Postable (devG.gang 1023).send := by decide +kernel
theorem witness_send_status : ParityOk (dev 0) (pageAt (.stn 0 .normal) 0x3C) ∧ unsettled (dev 0) (.stn 0 .normal) 1 = false ∧
    unsettled (withMsg (dev 0) (.event { evid := 0x1001, src := .send (.stn 0 .normal) })) (.stn 0 .normal) 1 = true ∧
    unsettled (withMsg (dev 0) (.event { evid := 0x1001, src := .send (.stn 0 .normal), serial := 1 })) (.stn 0 .normal) 1 = false := by decide +kernel

/-- Claims: station 0 presents the candidate of its die's queue 1; of a message queue, whose data come from the ledger; nothing; the doorbell
of context 127; a gang's member; the resident vCPU's. -/
def devC (e : Nat) (c : Cand) : State := withGrp (withQ (dev 0) e { countQ 0 with count := 1, state := .presented }) 0 .normal
  { seats := [{ cand := c }], maskOpen := true }
theorem witness_claim : presented (devC 1 (cand 1)) 0 .normal = some (cand 1) ∧ dataHere (devC 1 (cand 1)) 0 1 = true ∧ Serves (devC 1 (cand 1)) {} ∧
    PageReady (devC 1 (cand 1)) (.stn 0 .normal) ∧ Clean (devC 1 (cand 1)) ∧ ParityOk (devC 1 (cand 1)) (pageAt (.stn 0 .normal) 0) := by decide +kernel
theorem witness_claim_waits : presented (devC 0x1001 (cand 0x1001)) 0 .normal = some (cand 0x1001) ∧ dataHere (devC 0x1001 (cand 0x1001)) 0 0x1001 = false ∧
    pageStation (devC 0x1001 (cand 0x1001)) (.stn 0 .normal) = some 0 ∧ PageReady (devC 0x1001 (cand 0x1001)) (.stn 0 .normal) := by decide +kernel
def devR : State := (withCtx (dev 0) 127 { bound := true, station := some 0, g := { seats := [{ cand := cand 0x1001 }], maskOpen := true } }).modStn 0
  fun x => { x with resident := some 127 }
theorem witness_claim_virtual : presentedVirt devR 0 127 = some (cand 0x1001) ∧ (devR.stn 0).resident = some 127 ∧ pageStation devR (.vst 127) = some 0 ∧
    PageReady devR (.vst 127) :=
  ⟨by decide +kernel, by decide +kernel, by decide +kernel, by decide +kernel, by decide +kernel, by decide +kernel, by decide +kernel,
    fun n h => by have : n = 0 := by cases h; rfl
                  subst this; decide +kernel⟩
theorem witness_claim_nothing : presented (dev 0) 0 .secure = none ∧ PageReady (dev 0) (.stn 0 .secure) ∧ Reaches secAcc (.stn 0 .secure) := by decide +kernel
def devD : State := withGrp (withCtx (dev 0) 127 { bound := true, counted := true, dbAt := some 0, dbIn := true }) 0 .normal { maskOpen := true }
theorem witness_claim_doorbell : ((presented devD 0 .normal).map (·.evid)) = some 0 ∧ announced devD 0 = some 127 ∧ PageReady devD (.stn 0 .normal) := by decide +kernel
def devM : State := { devC 0x1001 { cand 0x1001 with gather := some 3 } with
  gathers := [{ id := 3, cell := 5, gang := 1023, evid := 0x1001, done := 0, post := false, opened := true, pending := [0, 1], parked := [], claimed := false, risky := false, late := false }] }
theorem witness_claim_member : presented devM 0 .normal = some { cand 0x1001 with gather := some 3 } ∧ PageReady devM (.stn 0 .normal) ∧
    ((devM.gathers.find? fun x => decide (x.id = 3)).map (·.claimed)) = some false := by decide +kernel
theorem witness_claim_virtual_nothing : (devV.ctx 127).station = none ∧ presentedVirt (devR.modCtx 127 fun x => { x with g := {} }) 0 127 = none := by decide +kernel

/-- Completions: the entry below the top, and none. -/
def devS : State := withGrp (dev 0) 0 .normal { stack := [{ evid := 2, running := 3 }, { evid := 1, running := 9 }] }
theorem witness_complete : removeEntry 1 false (pageGroup devS (.stn 0 .normal)).stack = some ({ evid := 1, running := 9 }, [{ evid := 2, running := 3 }]) ∧
    removeEntry 5 false (devS.grp 0 .normal).stack = none ∧ PageReady devS (.stn 0 .normal) ∧ Clean devS ∧ bits 1#32 21 11 = 0 := by decide +kernel
theorem witness_complete_topmost : (pageGroup devS (.stn 0 .normal)).stack = [{ evid := 2, running := 3 }] ++ { evid := 1, running := 9 } :: [] ∧
    (∀ y ∈ [({ evid := 2, running := 3 } : Entry)], ¬(y.evid = 1 ∧ y.kind = false)) := by decide +kernel

/-- Contexts on stations: an ENTER of a free station, a LEAVE. -/
def devE : State := { withCtx (dev 0) 127 { bound := true, parcel := 1, cands := [{ cand := cand 0x1001 }] } with
  parcels := [(1, { st := .live, stations := [0] })] }
theorem witness_enter : PageReady devE (.stn 0 .normal) ∧ (127#31).toNat < 16384 ∧ (devE.ctx 127).bound = true ∧ inSet devE (devE.ctx 127).parcel 0 = true ∧
    (devE.parcel (devE.ctx 127).parcel).st ≠ .fenced ∧ (devE.stn 0).resident ≠ some 127 ∧ (devE.ctx 127).station = none ∧ (devE.stn 0).resident = none := by decide +kernel
theorem witness_leave : (devR.stn 0).resident = some 127 ∧ PageReady devR (.stn 0 .normal) := by decide +kernel
theorem witness_context_capture : ParityOk devV (pageAt (.vst 127) 0x54) := by decide +kernel

/-- Answers to pages: a rejection notice, the data of a claim. -/
theorem witness_notice : Next (withMsg (dev 0) (.sendReject (.stn 47 .secure) 3)) (.sendReject (.stn 47 .secure) 3) ∧ dieAway (dev 0) (47 / 48) = false :=
  ⟨⟨⟨_, _, rfl, rfl, rfl, by decide +kernel, by decide +kernel⟩, rfl, fun _ h => nomatch h⟩, by decide +kernel⟩
def read1 : HeldRead := { page := .stn 0 .normal, evid := 0x1001, seq := 1, tag := 7 }
def devH : State := withMsg { withGrp (dev 0) 0 .normal { seq := 1, win := { await := true } } with out := { held := [read1] } } (.claimData 0x1001 (.stn 0 .normal) 7 9 false false false false true)
theorem witness_claim_data : Next devH (.claimData 0x1001 (.stn 0 .normal) 7 9 false false false false true) ∧
    devH.out.held.find? (fun x => decide (x.page = .stn 0 .normal) && decide (x.evid = 0x1001) && !x.status) = some read1 ∧
    read1.wide = false ∧ read1.aged = false ∧ devH.waits = [] ∧ (pageGroup devH (.stn 0 .normal)).win.await = true ∧
    (pageGroup devH (.stn 0 .normal)).seq = read1.seq ∧ (pageGroup (dev 0) (.stn 0 .normal)).win.await = false := ⟨⟨⟨_, _, rfl, rfl, rfl, by decide +kernel, by decide +kernel⟩, rfl, fun _ h => nomatch h⟩, by decide +kernel⟩

/-! ## Ledger -/

/-- A token of the first message EVID for a COUNT queue, at the ledger's limits of COUNT; one rejected; and one for each other mode. -/
def tok : Token := { evid := 0x1001, payload := 9, stamp := 77, pre := 1, lock := .full, src := .doorbell 7 true 9 }
def devT (q : Queue) : State := withMsg (withQ (dev 0) 0x1001 q) (.event tok)
theorem nextTok (q : Queue) : Next (devT q) (.event tok) := ⟨⟨{ msg := .event tok }, [], rfl, rfl, rfl, rfl, rfl⟩, rfl, fun _ h => by cases h; rfl⟩
theorem noHold (q : Queue) : ∀ c, ledgerCell (devT q) tok.evid = some c → ((devT q).cell c).ledgerHold = none := by
  intro c h
  have e : ledgerCell (devT q) tok.evid = some 1 := rfl
  rw [e] at h; cases h; rfl
theorem witness_accepted : Clean (devT { countQ 0 with count := 0xFFE }) ∧ LedgerOn (devT { countQ 0 with count := 0xFFE }) 0x1001 ∧
    checkToken (devT { countQ 0 with count := 0xFFE }) tok = none ∧ tok.edge = .occurrence ∧
    ((devT { countQ 0 with count := 0xFFE }).queue 0x1001).count ≠ 0xFFF ∧ bookCause (devT { countQ 0 with count := 0xFFE }) 0x1001 = none := by decide +kernel
theorem witness_rejected : checkToken (devT { countQ 0 with lockEn := true, lockId := 1, lockMask := 1 }) tok = some rLockId ∧ checkToken (devT {}) tok = some rUnbound ∧
    LedgerOn (devT {}) 0x1001 := by decide +kernel
theorem witness_other_modes :
    (checkToken (devT { countQ 0 with mode := .level }) tok = none) ∧
    (checkToken (devT { countQ 0 with mode := .latest }) tok = none ∧ bookCause (devT { countQ 0 with mode := .latest }) 0x1001 = none) ∧
    (checkToken (devT { countQ 0 with mode := .payload, quota := 1 }) tok = none ∧ bookCause (devT { countQ 0 with mode := .payload, quota := 1 }) 0x1001 = none) ∧
    (bookCause (devT { countQ 0 with mode := .payload, quota := 1, count := 1 }) 0x1001 = some 3 ∧ fbFull (devT { countQ 0 with mode := .payload, quota := 1, count := 1 }) = false) := by
  decide +kernel
theorem witness_other_modes_level_down : Next (withMsg (dev 0) (.event { tok with evid := 1, edge := .deassert })) (.event { tok with evid := 1, edge := .deassert }) :=
  ⟨⟨_, _, rfl, rfl, rfl, by decide +kernel, by decide +kernel⟩, rfl, fun _ h => by cases h; rfl⟩
theorem witness_deferred : onCell ((devT {}).modCell 1 fun x => { x with en := false }) (ledgerCell ((devT {}).modCell 1 fun x => { x with en := false }) 0x1001) = false ∧
    fbFull ((devT {}).modCell 1 fun x => { x with en := false }) = false := by decide +kernel

/-- A record that is released. -/
def rec1 : FbRec := { evid := 0x1001, payload := 1, rid := 0, sec := false, deferred := true, cause := 0, stamp := 5, src := .device, lock := .none }
def devF : State := { withQ (dev 0) 0x1001 (countQ 0) with fb := { recs := [rec1] } }
theorem witness_released : (fbOf devF 0x1001).head? = some rec1 ∧ rec1.dead = 0 ∧ LedgerOn devF 0x1001 ∧ Clean devF ∧
    checkToken devF { evid := 0x1001, payload := rec1.payload, stamp := rec1.stamp, src := rec1.src, lock := rec1.lock, rid := rec1.rid, sec := rec1.sec } = none ∧
    (devF.queue 0x1001).count ≠ 0xFFF ∧ (devF.queue 0x1001).overQ = false := by decide +kernel
theorem witness_released_holds : NoHolds devF := by unfold NoHolds; decide +kernel

/-- A claim report and a completion on their way to the ledger. -/
def devQ (q : Queue) (m : Msg) : State := withMsg (withQ (dev 0) 0x1001 q) m
theorem witness_claim_report : Next (devQ (countQ 0) (.claimed 0x1001 (.station 0 .normal) true 0 false false)) (.claimed 0x1001 (.station 0 .normal) true 0 false false) ∧
    LedgerOn (devQ (countQ 0) (.claimed 0x1001 (.station 0 .normal) true 0 false false)) 0x1001 := ⟨⟨⟨_, _, rfl, rfl, rfl, by decide +kernel, by decide +kernel⟩, rfl, fun _ h => nomatch h⟩, by decide +kernel⟩
theorem witness_claim_report_ready : Clean (devQ (countQ 0) (.claimed 0x1001 (.station 0 .normal) true 0 false false)) ∧
    ((devQ (countQ 0) (.claimed 0x1001 (.station 0 .normal) true 0 false false)).queue 0x1001).bound = true := by decide +kernel
def activeQ : Queue := { countQ 0 with state := .active, holders := [.station 0 .normal], activeN := 1, count := 1 }
theorem witness_completion : Next (devQ activeQ (.completed 0x1001 (.station 0 .normal))) (.completed 0x1001 (.station 0 .normal)) ∧
    (Holder.station 0 .normal ∈ ((devQ activeQ (.completed 0x1001 (.station 0 .normal))).queue 0x1001).holders ∧
      ((devQ activeQ (.completed 0x1001 (.station 0 .normal))).queue 0x1001).state = .active) ∧
    eraseHolder (.station 0 .normal) activeQ.holders = [] ∧ waiting activeQ = true := ⟨⟨⟨_, _, rfl, rfl, rfl, by decide +kernel, by decide +kernel⟩, rfl, fun _ h => nomatch h⟩, by decide +kernel, rfl, rfl⟩

/-- Reports, leases and holder checks. -/
theorem witness_reports : Next (withMsg (dev 0) (.bookedReport 1 7)) (.bookedReport 1 7) ∧ Next (withMsg (dev 0) (.loadReport 47 .secure 3 [770])) (.loadReport 47 .secure 3 [770]) ∧
    Next (withMsg (dev 0) (.lease 47 64 0)) (.lease 47 64 0) ∧ Next (withMsg (dev 0) (.leaseRevoke 47)) (.leaseRevoke 47) :=
  ⟨⟨⟨_, _, rfl, rfl, rfl, by decide +kernel, by decide +kernel⟩, rfl, fun _ h => nomatch h⟩, ⟨⟨_, _, rfl, rfl, rfl, by decide +kernel, by decide +kernel⟩, rfl, fun _ h => nomatch h⟩, ⟨⟨_, _, rfl, rfl, rfl, by decide +kernel, by decide +kernel⟩, rfl, fun _ h => nomatch h⟩, ⟨⟨_, _, rfl, rfl, rfl, by decide +kernel, by decide +kernel⟩, rfl, fun _ h => nomatch h⟩⟩
theorem witness_holder_check : Next (withMsg (dev 0) (.holderAsk 0x1001)) (.holderAsk 0x1001) ∧
    Next (devQ { activeQ with state := .presented } (.holderAnswer 0x1001 false true)) (.holderAnswer 0x1001 false true) ∧
    holdsCand { devQ { activeQ with state := .presented } (.holderAnswer 0x1001 false true) with net := [] } 0x1001 = false ∧
    holdsEntry { devQ activeQ (.holderAnswer 0x1001 true false) with net := [] } 0x1001 = false ∧ activeQ.busy = true :=
  ⟨⟨⟨_, _, rfl, rfl, rfl, by decide +kernel, by decide +kernel⟩, rfl, fun _ h => nomatch h⟩, ⟨⟨_, _, rfl, rfl, rfl, by decide +kernel, by decide +kernel⟩, rfl, fun _ h => nomatch h⟩, by decide +kernel, by decide +kernel, rfl⟩
theorem witness_scans : LedgerOn (withQ (dev 0) 0x1001 activeQ) 0x1001 ∧ ((withQ (dev 0) 0x1001 activeQ).queue 0x1001).bound = true ∧ rankOn (dev 0) 47 = true ∧
    onCell (dev 0) (contextCell (dev 0) 127) = true ∧ Clean (dev 0) := by decide +kernel
theorem witness_re_offer : Next (devQ { countQ 47 with state := .pending, count := 1 } (.reOffer (.station 47) 12 none)) (.reOffer (.station 47) 12 none) ∧
    routedTo (devQ { countQ 47 with state := .pending, count := 1 } (.reOffer (.station 47) 12 none)) (.station 47) ((devQ { countQ 47 with state := .pending, count := 1 } (.reOffer (.station 47) 12 none)).queue 0x1001) = true ∧
    waiting ((devQ { countQ 47 with state := .pending, count := 1 } (.reOffer (.station 47) 12 none)).queue 0x1001) = true := ⟨⟨⟨_, _, rfl, rfl, rfl, by decide +kernel, by decide +kernel⟩, rfl, fun _ h => nomatch h⟩, by decide +kernel⟩

/-- Withdrawals that find the candidate on its way, seated, and recorded; a candidate that goes back, and a member's. -/
def devW : State := { dev 0 with net := [{ msg := .withdrawal 0x1001 (.station 47) }, { msg := .candStation 47 .normal (cand 0x1001) }] }
theorem witness_withdrawal : Next devW (.withdrawal 0x1001 (.station 47)) := ⟨⟨_, _, rfl, rfl, rfl, by decide +kernel, by decide +kernel⟩, rfl, fun _ h => nomatch h⟩
theorem witness_withdrawal_on_its_way : takeFirst (fun p => match p.msg with
      | .candStation _ _ c => decide (c.evid = 0x1001) && c.gather.isNone
      | .candSpread _ c | .candContext _ c | .candGang _ c => decide (c.evid = 0x1001)
      | _ => false) devW.net.tail = some ({ msg := .candStation 47 .normal (cand 0x1001) }, []) := by decide +kernel
theorem witness_withdrawal_seated : findStation (withMsg (devC 0x1001 (cand 0x1001)) (.withdrawal 0x1001 (.station 0))) 0x1001 = some (0, .normal, cand 0x1001) := by decide +kernel
theorem witness_withdrawal_recorded : findStation devE 0x1001 = none ∧ findCtx devE 0x1001 = some (127, cand 0x1001) := by decide +kernel
theorem witness_returned : Next (devQ { activeQ with state := .presented } (.returned (cand 0x1001) true 576)) (.returned (cand 0x1001) true 576) ∧
    (cand 0x1001).gather = none ∧ Next (withMsg devM (.returned { cand 0x1001 with gather := some 3 } true 1)) (.returned { cand 0x1001 with gather := some 3 } true 1) :=
  ⟨⟨⟨_, _, rfl, rfl, rfl, by decide +kernel, by decide +kernel⟩, rfl, fun _ h => nomatch h⟩, rfl, ⟨⟨_, _, rfl, rfl, rfl, by decide +kernel, by decide +kernel⟩, rfl, fun _ h => nomatch h⟩⟩

/-- Candidates arrive: at a free seat, at a full secure tournament of 16 seats, with a target ahead; and an armed one is released. -/
def seats16 : Group := { seats := (List.range 16).map fun i => { cand := { evid := i + 1, secure := true, rank := BitVec.ofNat 8 i } } }
theorem witness_arrival : Next (withMsg (dev 0) (.candStation 47 .secure (cand 0x1001))) (.candStation 47 .secure (cand 0x1001)) ∧ rankOn (dev 0) 47 = true ∧
    stnOn (dev 0) 47 = true ∧ Clean (dev 0) ∧ seatCount (dev 0) 47 .secure < seatLimit .secure ∧ seatCount (withGrp (dev 0) 47 .secure seats16) 47 .secure ≥ seatLimit .secure ∧
    (hindmost 0 ((seatsOf (withGrp (dev 0) 47 .secure seats16) 47 .secure).map (·.cand))).map (·.evid) = some 16 := ⟨⟨⟨_, _, rfl, rfl, rfl, by decide +kernel, by decide +kernel⟩, rfl, fun _ h => nomatch h⟩, by decide +kernel⟩
theorem witness_arrival_virtual : ((withQ devR 0x1001 { countQ 0 with route := .context 127 }).queue 0x1001).route = .context 127 ∧ (devR.stn 0).resident = some 127 := by decide +kernel
theorem witness_armed : (dev 0).op (47 / 48) = (dev 0).op 0 ∧ ((dev 0).op 0).copy.toNat < (1 : Stamp).toNat ∧
    (({ armed := [{ tour := .secure, cand := cand 0x1001, target := 0 }] } : Station).armed.find? fun x => decide (x.cand.evid = 0x1001)) =
      some { tour := .secure, cand := cand 0x1001, target := 0 } := by decide +kernel

/-- Candidates of a spread set and of a context. -/
def devP : State := { withMsg (dev 0) (.candSpread 255 (cand 0x1001)) with spreads := [(255, { members := [0, 47] })] }
theorem witness_spread : Next devP (.candSpread 255 (cand 0x1001)) ∧ Clean devP ∧ onCell devP (spreadCell devP 255) = true ∧ (∀ x ∈ devP.places, x.evid ≠ 0x1001) ∧
    placesIn devP ((spreadCell devP 255).getD 0) < 4096 ∧ (chooseMember (taken devP (spreadCell devP 255) false) 255 .normal fun _ => true).isSome = true :=
  ⟨⟨⟨_, _, rfl, rfl, rfl, by decide +kernel, by decide +kernel⟩, rfl, fun _ h => nomatch h⟩, by decide +kernel⟩
theorem witness_context_candidate : Next (withMsg devV (.candContext 127 (cand 0x1001))) (.candContext 127 (cand 0x1001)) ∧
    onCell devV (contextCell devV 127) = true ∧ (devV.ctx 127).cands.length < 16 ∧ (devR.ctx 127).station = some 0 := ⟨⟨⟨_, _, rfl, rfl, rfl, by decide +kernel, by decide +kernel⟩, rfl, fun _ h => nomatch h⟩, by decide +kernel⟩

/-- A gang's candidate, and its members' completions. -/
theorem witness_gang : Next (withMsg devG (.candGang 1023 (cand 0x1001))) (.candGang 1023 (cand 0x1001)) ∧ gangCell devG 1023 = some 5 ∧ (devG.cell 5).en = true ∧
    (devG.gang 1023).defined = true ∧ fanOut devG (devG.gang 1023).members false ≠ [] ∧ (devG.gathers.filter fun r => decide (r.cell = 5)).length < 256 :=
  ⟨⟨⟨_, _, rfl, rfl, rfl, by decide +kernel, by decide +kernel⟩, rfl, fun _ h => nomatch h⟩, by decide +kernel⟩
theorem witness_member_done : Next (withMsg devM (.memberDone 3 0x1001 [1] false)) (.memberDone 3 0x1001 [1] false) ∧
    (((withMsg devM (.memberDone 3 0x1001 [1] false)).gathers.find? fun x => decide (x.id = 3)).map (·.pending)) = some [0, 1] := ⟨⟨⟨_, _, rfl, rfl, rfl, by decide +kernel, by decide +kernel⟩, rfl, fun _ h => nomatch h⟩, by decide +kernel⟩

/-- Reservations at the 750th ns of a window and at its end. -/
def atNs (s : State) (n : Nat) : State := s.modMer fun m => { m with now := BitVec.ofNat 64 n }
theorem witness_split : (atNs (dev 0) 750).mer.now.toNat % 1000 ≥ 750 ∧ (atNs (dev 0) 750).mer.splitFor ≠ some 1000 ∧ (dev 0).parity = [] ∧
    (atNs (dev 0) 1000).mer.window ≠ 1000 ∧ (atNs (dev 0) 1000).pwr.hubl = .on := by decide +kernel
/-- The full pools: 4,096 placement entries, 16 recorded candidates. -/
theorem witness_full_pools : placesIn { devP with places := List.replicate 4096 { cell := 3, evid := 1, station := 0, set := 255 } } ((spreadCell devP 255).getD 0) ≥ 4096 ∧
    ((devV.modCtx 127 fun x => { x with cands := List.replicate 16 { cand := cand 1 } }).ctx 127).cands.length ≥ 16 := by decide +kernel

/-! ## Intake, links, meridian, guard -/

/-- A wired input: of the last outpost input and of the last hub input, each in a mode, with its filter width met and not met. -/
def devI (e : Nat) (x : Input) : State := ({ dev 11 with inputs := [(e, x)] }).modCell (if e = 0xC01 then 2 else 772 + 704) fun c => { c with plat := c.plat ++ [(0x10, 0xFFFFFFFF)] }
theorem witness_wired : isWired 0xC01 = true ∧ inputPresent (devI 0xC01 { mode := .rise, filterW := 1023 }) 0xC01 = true ∧
    intakeCell (devI 0xC01 { mode := .rise, filterW := 1023 }) 0xC01 = some 2 ∧ Clean (devI 0xC01 { mode := .rise, filterW := 1023 }) ∧
    (devI 0xC01 { mode := .rise, filterW := 1023 }).pwr.rst = false ∧ ((devI 0xC01 { mode := .rise, filterW := 1023 }).input 0xC01).level ≠ true ∧
    ((devI 0xC01 { mode := .rise, filterW := 1023 }).cell 2).en = true := by decide +kernel
theorem witness_wired_outpost : inputPresent (devI 0xB01 { mode := .tally, tallyN := 0xFFF, rises := 0xFFF }) 0xB01 = true ∧
    intakeCell (devI 0xB01 { mode := .tally, tallyN := 0xFFF, rises := 0xFFF }) 0xB01 = some 1476 ∧ ownerUnit 0xB01 = 11 ∧
    ((devI 0xB01 { mode := .tally, tallyN := 0xFFF, rises := 0xFFF }).op 11).logic = .on ∧
    ((devI 0xB01 { mode := .tally, tallyN := 0xFFF, rises := 0xFFF }).input 0xB01).rises = ((devI 0xB01 { mode := .tally, tallyN := 0xFFF, rises := 0xFFF }).input 0xB01).tallyN.toNat := by
  decide +kernel
theorem witness_wired_disabled : (((devI 0xC01 { mode := .both, held := 0xFFFFFFFE }).modCell 2 fun c => { c with en := false }).cell 2).en = false ∧
    inputPresent ((devI 0xC01 { mode := .both, held := 0xFFFFFFFE }).modCell 2 fun c => { c with en := false }) 0xC01 = true := by decide +kernel

/-- Doorbells at the last port: the last EVID of the addressed window that may be posted, and a write while HUB_EN is 0. -/
def db1 : DbWrite := { port := 7, offset := 0x400000 + 4 * 0xFFFBF, data := 0xFFFFF }
theorem witness_doorbell : dbWindow (dev 0) db1.offset = some true ∧ Serves (dev 0) {} ∧ (dev 0).pwr.closing = false ∧ (dev 0).hub.en = true ∧ db1.offset % 4 = 0 ∧
    tget [] (dev 0).hub.ports 7 = [] ∧ portCell (dev 0) 7 (dbEvid db1 true) = some (6, true) ∧ Postable (dbEvid db1 true) ∧ db1.data.toNat < 2 ^ 20 ∧
    dbWindow (dev 0) 0x800FFC = some false ∧ ((dev 0).modHub fun h => { h with en := false }).hub.en = false := by decide +kernel

/-- Links. -/
theorem witness_link_replay : linkUp (dev 11) 11 = true ∧ (∀ p, (dev 11).net.find? (fun p => p.waitsAt 11 true) = some p → p.failed ≠ some 0) ∧
    (recent (dev 11) 1000 ((dev 11).op 11).replayAt).length < 8 := ⟨by decide +kernel, fun p h => (by cases h), by decide +kernel⟩
def devN : State := (dev 11).modOp 11 fun o => { o with replayAt := List.replicate 8 0, errorAt := List.replicate 15 0 }
theorem witness_link_error : 8 ≤ (recent devN 1000 (devN.op 11).replayAt).length ∧ (recent devN 1000000000 (devN.op 11).errorAt).length < 16 ∧
    16 ≤ (recent (devN.modOp 11 fun o => { o with errorAt := List.replicate 16 0 }) 1000000000 (List.replicate 16 0)).length ∧ populated devN 11 = true ∧
    (devN.op 11).lost = false := by decide +kernel
def devX (o : Outpost → Outpost) : State := (dev 11).modOp 11 o
theorem witness_retrain : ((devX fun o => { o with link := .error }).op 11).link = .error ∧ ((devX fun o => { o with link := .error, fails := 1 }).op 11).fails < 2 ∧
    2 ≤ ((devX fun o => { o with link := .error, fails := 2 }).op 11).fails ∧ ((dev 11).op 11).spareUp = false ∧ ((dev 11).op 11).spareDown = false := by decide +kernel
def devLost : State := (devX fun o => { o with lost := true }).modPwr fun p => { p with stakes := [(0, .outL 11)] }
theorem witness_return : ((devX fun o => { o with lost := true, returns := 7 }).op 11).lost = true ∧ ((devX fun o => { o with lost := true, returns := 7 }).op 11).returns < 8 ∧
    (devLost.op 11).trav = .on ∧ wantL devLost 11 = true ∧
    unitUnserved (returnTested devLost 11 {}) 11 = false ∧
    (∀ x ∈ (returnSwept devLost 11 {}).cells, unitOf x.1 = 11 → x.2.enKept = true → ((returnSwept devLost 11 {}).cell x.1).datum = 1) := by decide +kernel

/-- The meridian: an exchange boundary without and with a STEP; ALIGN, ECHO and INIT; registers; alarms; trains; holdover. -/
theorem witness_slot : (dev 0).pwr.hubl = .on ∧ (dev 0).mer.slotAt ≠ some ((dev 0).mer.now.toNat / 4096) ∧ (dev 0).mer.step = none ∧
    ((dev 0).modMer fun m => { m with step := some 1 }).mer.step = some 1 ∧ (0 : Nat) ∈ outpostsOf (dev 0) ∧ linkUp (dev 0) 0 = true := by decide +kernel
theorem witness_exchange : Next (withMsg (dev 11) (.align 11 1 44)) (.align 11 1 44) ∧ Next (withMsg (dev 11) (.echo 11 2 3)) (.echo 11 2 3) ∧
    Next (withMsg (dev 11) (.init 11 9)) (.init 11 9) ∧ (dev 11).isl.defaults = false ∧ ((dev 11).modIsl fun x => { x with defaults := true }).isl.defaults = true :=
  ⟨⟨⟨_, _, rfl, rfl, rfl, by decide +kernel, by decide +kernel⟩, rfl, fun _ h => nomatch h⟩, ⟨⟨_, _, rfl, rfl, rfl, by decide +kernel, by decide +kernel⟩, rfl, fun _ h => nomatch h⟩, ⟨⟨_, _, rfl, rfl, rfl, by decide +kernel, by decide +kernel⟩, rfl, fun _ h => nomatch h⟩, rfl, rfl⟩
theorem witness_meridian_registers : Serves (dev 0) {} ∧ 0x20800 ∉ (dev 0).parity ∧ (dev 0).mer.now.toNat ≤ (mk64 ((dev 0).alarm 3).hi ((dev 0).alarm 3).lo).toNat ∧
    (mk64 ((atNs (dev 0) 1).alarm 3).hi ((atNs (dev 0) 1).alarm 3).lo).toNat < (atNs (dev 0) 1).mer.now.toNat := by decide +kernel
def devA : State := (dev 0).modAlarm 3 fun x => { x with arm := true, evid := 0x1001 }
theorem witness_alarm : (devA.alarm 3).arm = true ∧ (devA.alarm 3).target.toNat ≤ devA.mer.now.toNat ∧ Postable (devA.alarm 3).evid.toNat ∧ devA.pwr.hubl = .on := by decide +kernel
def devZ : State := { atNs devG 2000000 with trains := [{ id := 15, cell := 5, gang := 1023, target := 2000000, period := 0, left := 1, payload := 1, secure := false }] }
theorem witness_train : devZ.trains[0]? = some { id := 15, cell := 5, gang := 1023, target := 2000000, period := 0, left := 1, payload := 1, secure := false } ∧
    (armPoint devZ { id := 15, cell := 5, gang := 1023, target := 2000000, period := 0, left := 1, payload := 1, secure := false }).toNat ≤ devZ.mer.now.toNat ∧
    devZ.mer.degraded = false ∧ (devZ.modMer fun m => { m with degraded := true }).mer.degraded = true ∧ (devZ.gang 1023).send ≠ 0 ∧ isWired (devZ.gang 1023).send = false := by decide +kernel
theorem witness_holdover : (dev 11).mer.locked = true ∧ populated (dev 11) 11 = true ∧ ((dev 11).op 11).holdover = false ∧
    ((dev 11).modMer fun m => { m with locked := false }).mer.locked = false ∧ ((devX fun o => { o with holdover := true }).op 11).holdover = true ∧
    ((dev 11).modMer fun m => { m with degraded := true }).mer.degraded = true := by decide +kernel

/-- The guard, cells, registers, Datum. -/
theorem witness_guard : (1535 : Nat) < 1536 ∧ unitOn (dev 11) (unitOf 1535) = true ∧ (dev 11).parity = [] ∧ ((dev 11).cell 1472).en = true ∧ ((dev 11).cell 1472).role ≠ 0 ∧
    (0xFFFF#16).toNat > ((dev 11).cell 1472).thresh ∧ (0#16).toNat ≤ ((dev 11).cell 1472).thresh * 63 / 64 ∧ domSt (dev 11) (.trav 11) = .on ∧
    ({ (dev 11).cell 1472 with rodPs := 0xFFFF } : Cell).ratio ≥ (dev 11).hub.assertPm.toNat := by decide +kernel
def devB : State := (dev 0).modHub fun h => { h with speedReq := true, holdUs := 0 }
theorem witness_speed_release : devB.hub.speedReq = true ∧ devB.pwr.hubl = .on ∧ speedCalm devB = true ∧ devB.hub.holdUs.toNat * 1000 ≤ (devB.mer.now - devB.hub.speedAt).toNat ∧
    speedCalm (devB.modPwr fun p => { p with lowHubl := true }) = false := by decide +kernel
theorem witness_cell_enable : CellReady (dev 11) 1472 {} ∧ CellReady (dev 11) 767 {} ∧ ((dev 11).cell 767).en = false ∧ canEnable (dev 11) 767 = false ∧
    canEnable ((dev 11).modCell 1472 fun c => { c with en := false, bist := 1 }) 1472 = true ∧ ((dev 11).cell 1472).role = roleDelivery := by decide +kernel
def hubOff (s : State) : State := s.modHub fun h => { h with en := false }
theorem witness_hub_enable : (hubOff (dev 0)).hub.en = false ∧ (∀ c ∈ workCells (hubOff (dev 0)) 12, ((hubOff (dev 0)).cell c).en = true) ∧
    (∃ c ∈ workCells ((hubOff (dev 0)).modCell 3 fun c => { c with en := false }) 12, (((hubOff (dev 0)).modCell 3 fun c => { c with en := false }).cell c).en = false) := by
  decide +kernel
theorem witness_registers : Serves (dev 0) {} ∧ 0x300 ∉ (dev 0).parity ∧ 0x404 ∉ (dev 0).parity ∧ 0x20200 ∉ (dev 0).parity ∧ hubImpl (0x55F / 4 * 4) = true ∧ needsSec (0x55F / 4 * 4) = false ∧
    CellReady (dev 0) 767 {} ∧ cellBase 767 + 0x1AC ∉ (dev 0).parity ∧ wairoRuns (dev 0) = true ∧ (∀ d, tget d [(cellBase 1535 + 0x100, (7 : Word))] (cellBase 1535 + 0x100) = 7) :=
  ⟨by decide +kernel, by decide +kernel, by decide +kernel, by decide +kernel, by decide +kernel, by decide +kernel, by decide +kernel, by decide +kernel, by decide +kernel, fun _ => rfl⟩
def devY (v : Word) : State := (dev 0).modCell 768 fun c => { c with refVal := some v }
theorem witness_datum : 768 ∈ streamCells (devY 0) ∧ ((devY 0).cell 768).refVal = some 0 ∧ canRead (devY 0) 768 = true ∧ ((devY 0).cell 768).refBad = false ∧
    ((devY 0).cell 768).localCrc = 0 ∧ ((devY 1).cell 768).localCrc ≠ 1 ∧ ((devY 1).cell 768).datum ≠ 2 ∧ (devY 1).parity = [] := by decide +kernel

/-! ## Mailbox commands -/

/-- A command rung on a mailbox. -/
def ask (s : State) (b : Box) (op : Nat) (ws : List Word) : State :=
  s.modMbx b fun _ => { op := BitVec.ofNat 16 op, busy := true, args := (List.range ws.length).zip ws }

theorem witness_reading : Waits (ask (dev 0) .normal 0x01 [2]) .normal 0x01 ∧ ArgsAre (ask (dev 0) .normal 0x01 [2]) .normal [2] ∧ Postable 0xFFFBF ∧
    Waits (ask (dev 0) .secure 0x02 [0, 0x300, 1]) .secure 0x02 ∧ ArgsAre (ask (dev 0) .secure 0x02 [0, 0x300, 1]) .secure [0, 0x300, 1] ∧
    ArgsAre (ask (dev 0) .normal 0x02 [1, w32 0xFFFFF]) .normal [1, w32 0xFFFFF] ∧ (((dev 0).modQueue 0xFFFFF fun q => { q with secure := true }).queue 0xFFFFF).secure = true ∧
    ArgsAre (ask (dev 0) .normal 0x60 [at_ 0 0xFF90 ||| at_ 16 28]) .normal [at_ 0 0xFF90 ||| at_ 16 28] ∧ ArgsAre (ask (dev 0) .normal 0x70 [0, w32 3]) .normal [0, w32 3] ∧
    Waits (ask (dev 0) .normal 0x70 [0, w32 3]) .normal 0x70 ∧ ArgsAre (ask (dev 0) .normal 0x01 []) .normal [] ∧ ArgsAre (ask (dev 0) .normal 0x01 [1]) .normal [1] ∧
    Postable (({ notify := 0x1001 } : Mbx).notify.toNat) := by decide +kernel

def devDat : State := { dev 0 with cells := [] }
theorem witness_datum_commit : Waits (ask devDat .secure 0x11 [streamValue devDat true]) .secure 0x11 ∧
    EndsOk cmdDatumCommit (ask devDat .secure 0x11 [streamValue devDat true]) .secure := by decide +kernel
def devEn : State := (dev 11).modCell 1472 fun c => { c with en := false, bist := 1 }
theorem witness_enable : Waits (ask devEn .normal 0x12 [1472, 1]) .normal 0x12 ∧ EndsOk cmdEnable (ask devEn .normal 0x12 [1472, 1]) .normal ∧
    EndsOk cmdDisable (ask devEn .normal 0x13 [0, 1536]) .normal := by decide +kernel

/-- Queues: the first message EVID and the last outpost input are bound, unbound and changed. -/
theorem witness_bind : Waits (ask (dev 0) .normal 0x20 [0x1001, 0x0501, 0, 0, 0]) .normal 0x20 ∧ EndsOk cmdQueueBind (ask (dev 0) .normal 0x20 [0x1001, 0x0501, 0, 0, 0]) .normal ∧
    EndsOk cmdQueueBind (ask (devI 0xC01 {}) .normal 0x20 [0xC01, 0x0501 ||| at_ 18 528, 0, 0, at_ 0 3]) .normal ∧
    EndsOk cmdQueueBind (ask (dev 0) .secure 0x20 [0x1002, 0x0503, 0, 0, 0]) .secure := by decide +kernel
def devU : State := withQ (dev 0) 0x1001 (countQ 0)
theorem witness_unbind : Waits (ask devU .normal 0x21 [0x1001]) .normal 0x21 ∧ EndsOk cmdQueueUnbind (ask devU .normal 0x21 [0x1001]) .normal := by decide +kernel
theorem witness_queue_set : Waits (ask devU .secure 0x22 [0x1001, 0x20F, 0x0514, 0, 0, 0]) .secure 0x22 ∧
    EndsOk cmdQueueSet (ask devU .secure 0x22 [0x1001, 0x20F, 0x0514, 0, 0, 0]) .secure ∧ EndsOk cmdQueueSet (ask devU .normal 0x22 [0x1001, 0x30, 0x0502, at_ 16 4095, 0, 0]) .normal := by
  decide +kernel
theorem witness_route_set : EndsOk cmdRouteQueue (ask devU .normal 0x23 [0x1001, at_ 18 47]) .normal ∧ bits 0x1001#32 30 2 = 0 ∧
    EndsOk cmdRouteDie (ask (dev 11) .secure 0x23 [at_ 30 1, at_ 0 11 ||| at_ 8 1 ||| at_ 16 0x3FF]) .secure ∧ bits (at_ 30 1) 30 2 = 1 ∧
    EndsOk cmdRouteResv (ask (dev 11) .secure 0x23 [at_ 30 2, at_ 0 543 ||| at_ 16 65]) .secure ∧ bits (at_ 30 2) 30 2 = 2 ∧ rankCell (dev 11) 543 = some 1474 ∧ rankPos (dev 11) 543 = 15 := by decide +kernel

/-- Definitions. -/
theorem witness_spread_define : EndsOk cmdSpreadDefine (ask (dev 0) .normal 0x24 [255, 0, 3]) .normal := by decide +kernel
theorem witness_gang_define : EndsOk cmdGangDefine (ask (dev 0) .normal 0x30 [1023 ||| 0x30000, 0, 0x1001, 0, 1000, 3]) .normal ∧
    EndsOk cmdGangUndefine (ask devG .normal 0x30 [at_ 31 1 ||| 1023]) .normal ∧ (at_ 31 1 ||| 1023).getLsbD 31 = true := by decide +kernel
theorem witness_train_define : EndsOk cmdGangReleaseAt (ask devG .normal 0x31 [1023, 10000, 0, 1000, 1, 0]) .normal ∧ EndsOk cmdGangReleaseAt (ask devG .normal 0x31 [1023, 0, 0, 0, 0, 0]) .normal := by decide +kernel
theorem witness_vctx : EndsOk cmdVctxBind (ask (dev 0) .normal 0x44 [127, 0, 0]) .normal ∧ EndsOk cmdVctxUnbind (ask devV .normal 0x44 [at_ 31 1 ||| 127, 0, 0]) .normal := by decide +kernel
theorem witness_wake_config : EndsOk cmdWakeConfig (ask (dev 0) .normal 0x52 [at_ 8 63, 1023, 1]) .normal ∧ EndsOk cmdWakeConfig (ask (dev 0) .normal 0x52 [1 ||| at_ 8 63, 0, 0]) .normal ∧
    EndsOk cmdWakeConfig (ask (dev 0) .normal 0x52 [2, 7, 0]) .normal := by decide +kernel

/-- Parcels. -/
def devPar : State := { dev 0 with parcels := [(1023, { st := .live, base := 0x1000, count := 16, slots := 4, used := 2, page := 0x10000, stations := [0] })] }
theorem witness_parcel_create : EndsOk cmdParcelCreate (ask (dev 0) .normal 0x40 [1023, 0x2000, 64, 4, 1, 0, 0, 0x10000, 0, 1]) .normal := by decide +kernel
theorem witness_parcel_resize : EndsOk cmdParcelResize (ask devPar .normal 0x43 [1023, 1, 0]) .normal ∧ bits 1#32 0 22 < (devPar.parcel 1023).used := by decide +kernel
theorem witness_parcel_reset : Waits (ask devPar .normal 0x42 [1023]) .normal 0x42 ∧ EndsOk cmdParcelReset (ask devPar .normal 0x42 [1023]) .normal ∧
    EndsOk cmdParcelDestroy (ask devPar .normal 0x41 [1023]) .normal ∧ Clean devPar ∧ ([0] : List Nat) ≠ [] := by decide +kernel
/-- A plat of a device without outposts: 64 intake, 512 ledger, 16 rank and 8 gang cells, and 168 spare slots. -/
def recOf (role first : Nat) (params : List Word) (c : Nat) : Nat × List Word := (c, BitVec.ofNat 32 (role + 256 * (c - first)) :: params)
def recsOfRole (role first n : Nat) (params : List Word) : List (Nat × List Word) := (List.range' first n).map (recOf role first params)
def params (n : Word) : List Word := List.replicate 15 0 ++ [n]
def hubPlat0 : PlatImage := {
  magic := 0x54414C50, format := 2, helnakVer := 0, platId := 0, unitMask := 0x1000, decode := 0, count := 768, datumRef := 0, imageCrc := 0
  records := recsOfRole 1 0 64 [] ++ recsOfRole 2 64 512 [] ++ recsOfRole 3 576 16 (params 16) ++ recsOfRole 6 592 8 (params 8) ++
    (List.range' 600 168).map fun c => (c, []) }
def hubPlat : PlatImage := { hubPlat0 with imageCrc := crc32c (imageBytes hubPlat0) }
def devPlat : State := ask (State.reset.modIsl fun x => { x with store0 := some hubPlat }) .normal 0x10 [0, 0x1000]
theorem plat_slots : hubPlat.records.map (·.1) = recordsFor hubPlat := by decide +kernel
theorem plat_roles : unitRecs hubPlat 12 1 = recsOfRole 1 0 64 [] ∧ unitRecs hubPlat 12 2 = recsOfRole 2 64 512 [] ∧
    unitRecs hubPlat 12 3 = recsOfRole 3 576 16 (params 16) ∧ unitRecs hubPlat 12 6 = recsOfRole 6 592 8 (params 8) ∧
    unitRecs hubPlat 12 4 = [] ∧ unitRecs hubPlat 12 5 = [] ∧ unitRecs hubPlat 12 7 = [] ∧ (unitRecs hubPlat 12 0).length = 168 := by decide +kernel
theorem plat_indexes (p : PlatImage) (role first n : Nat) (ws : List Word) (h : unitRecs p 12 role = recsOfRole role first n ws) (hr : role < 16) (hn : n ≤ 512) :
    indexesOk p 12 role = true := by
  have e : (recsOfRole role first n ws).map recIndex = List.range n := by
    apply List.ext_getElem <;> simp [recsOfRole, recIndex, recOf, recW, bits]
    intro i hi
    rw [Nat.shiftRight_eq_div_pow]; omega
  unfold indexesOk
  rw [h]
  have l : (recsOfRole role first n ws).length = n := by simp [recsOfRole]
  simp only [l, List.all_eq_true, List.mem_range, decide_eq_true_eq]
  intro i hi
  rw [← List.countP_eq_length_filter]
  have c : List.countP (fun r => decide (recIndex r = i)) (recsOfRole role first n ws) = List.count i ((recsOfRole role first n ws).map recIndex) := by
    rw [List.count, List.countP_map]; congr 1
  rw [c, e]
  exact (List.nodup_range.count (a := i)).trans (by simp [hi])
theorem plat_params (role first c : Nat) (ws : List Word) (hr : role < 16) (hc : c < 768) (_hi : c - first < 2048)
    (hv : roleValid 12 role = true) (hz : role = 1 ∧ ws = [] ∨ role = 2 ∧ ws = [] ∨ role = 3 ∧ ws = params 16 ∨ role = 6 ∧ ws = params 8) :
    roleValid (unitOf (recOf role first ws c).1) (recRole (recOf role first ws c)) && paramsOk hubPlat (recOf role first ws c) = true := by
  obtain ⟨h1, h2, h3, h6, -⟩ := plat_roles
  have u : unitOf c = 12 := by simp [unitOf, hc]
  have r0 : recRole (recOf role first ws c) = role := by simp [recRole, recOf, recW, bits]; omega
  have n3 : (unitRecs hubPlat 12 3).length = 16 := by rw [h3]; rfl
  have n6 : (unitRecs hubPlat 12 6).length = 8 := by rw [h6]; rfl
  have w0 (i : Nat) : recW (recOf role first ws c) (i + 1) = (ws[i]?).getD 0 := by simp [recW, recOf]
  have z (k : Nat) : (List.range 64).all (fun j => decide (j < k + 1) || decide (recW (recOf role first ws c) j = 0)) =
      (List.range 63).all (fun j => decide (j < k) || decide ((ws[j]?).getD 0 = 0)) := by
    rw [List.range_succ_eq_map]; simp [w0, List.all_map, Function.comp_def]
  have u' : unitOf (recOf role first ws c).1 = 12 := u
  rw [r0, u', hv]
  unfold paramsOk
  simp only [r0, u']
  obtain ⟨rfl, rfl⟩ | ⟨rfl, rfl⟩ | ⟨rfl, rfl⟩ | ⟨rfl, rfl⟩ := hz
  all_goals simp only [n3, n6, z 0x11, z 0x0F, z 0x12, z 0x10, w0 0xF, w0 0x11, if_true]
  · decide +kernel
  · split <;> decide +kernel
  · decide +kernel
  · decide +kernel
theorem plat_crc (p : PlatImage) : ({ p with imageCrc := crc32c (imageBytes p) } : PlatImage).imageCrc = crc32c (imageBytes { p with imageCrc := crc32c (imageBytes p) }) := rfl
theorem plat_ok : platCheck devPlat hubPlat = none := by
  obtain ⟨h1, h2, h3, h6, h4, h5, h7, h0⟩ := plat_roles
  have group (role first n : Nat) (ws : List Word) (hr : role < 16) (hn : first + n ≤ 768) (hv : roleValid 12 role = true)
      (hz : role = 1 ∧ ws = [] ∨ role = 2 ∧ ws = [] ∨ role = 3 ∧ ws = params 16 ∨ role = 6 ∧ ws = params 8) :
      (recsOfRole role first n ws).all (fun r => roleValid (unitOf r.1) (recRole r) && paramsOk hubPlat r) = true := by
    simp only [recsOfRole, List.all_map, List.all_eq_true, List.mem_range'_1]
    intro c hc
    have := plat_params role first c ws hr (by omega) (by omega) hv hz
    simpa using this
  have spares : ((List.range' 600 168).map fun c => (c, ([] : List Word))).all (fun r => roleValid (unitOf r.1) (recRole r) && paramsOk hubPlat r) = true := by
    simp only [List.all_map, List.all_eq_true, List.mem_range'_1]
    intro c hc
    simp [unitOf, recRole, recW, bits, paramsOk, roleValid]
  have all : hubPlat.records.all (fun r => roleValid (unitOf r.1) (recRole r) && paramsOk hubPlat r) = true := by
    show (recsOfRole 1 0 64 [] ++ recsOfRole 2 64 512 [] ++ recsOfRole 3 576 16 (params 16) ++ recsOfRole 6 592 8 (params 8) ++
      (List.range' 600 168).map fun c => (c, [])).all _ = true
    simp only [List.all_append, spares, Bool.and_true, group 1 0 64 [] (by omega) (by omega) rfl (by simp), group 2 64 512 [] (by omega) (by omega) rfl (by simp),
      group 3 576 16 (params 16) (by omega) (by omega) rfl (by simp), group 6 592 8 (params 8) (by omega) (by omega) rfl (by simp)]
  have roles : (maskUnits hubPlat.unitMask).all (fun u => (List.range 8).all fun role =>
      roleCountOk u role (unitRecs hubPlat u role).length && (decide (role = 0) || indexesOk hubPlat u role)) = true := by
    have i1 := plat_indexes hubPlat 1 0 64 [] h1 (by omega) (by omega)
    have i2 := plat_indexes hubPlat 2 64 512 [] h2 (by omega) (by omega)
    have i3 := plat_indexes hubPlat 3 576 16 _ h3 (by omega) (by omega)
    have i6 := plat_indexes hubPlat 6 592 8 _ h6 (by omega) (by omega)
    have i4 : indexesOk hubPlat 12 4 = true := by unfold indexesOk; rw [h4]; rfl
    have i5 : indexesOk hubPlat 12 5 = true := by unfold indexesOk; rw [h5]; rfl
    have i7 : indexesOk hubPlat 12 7 = true := by unfold indexesOk; rw [h7]; rfl
    have m : maskUnits hubPlat.unitMask = [12] := by decide +kernel
    rw [m]
    simp only [List.all_cons, List.all_nil, List.range_succ, List.range_zero, List.nil_append, List.cons_append, i1, i2, i3, i4, i5, i6, i7, h0, h1, h2, h3, h4, h5, h6, h7,
      recsOfRole, List.length_map, List.length_range', Bool.or_true]
    decide +kernel
  unfold platCheck
  rw [if_neg (by decide +kernel), if_neg (by decide +kernel), if_neg (fun h => h (plat_crc hubPlat0)), if_neg (by decide +kernel),
    if_neg (not_or.2 ⟨by decide +kernel, fun h => h plat_slots⟩), if_pos ⟨by decide +kernel, all, roles⟩]
theorem plat_of : platOf (callOf devPlat .normal) devPlat = some hubPlat := by
  unfold platOf; rw [if_neg (by decide +kernel)]; rfl
theorem plat_checks : firstFail [(!zerosOk (callOf devPlat .normal) [0x7F, 0x1FFF], cBadArg), (false, cBadArg), (!unitsDisabled devPlat [12], cNotDisabled)] = none := by
    decide +kernel
theorem plat_ends : EndsOk cmdPlatLoad devPlat .normal := by
  have a0 : (callOf devPlat .normal).arg 0 = 0 := by decide +kernel
  have a1 : (callOf devPlat .normal).arg 1 = 0x1000 := by decide +kernel
  have us : ((List.range 13).filter fun u => (0x1000 : Word).getLsbD u) = [12] := by decide +kernel
  have z1 : (0 : Word).getLsbD 1 = false := rfl
  have z2 : (0 : Word).getLsbD 2 = false := rfl
  have z6 : (0 : Word).getLsbD 6 = false := rfl
  have e : ∀ f, checked (callOf devPlat .normal) [0x7F, 0x1FFF] [(false, cBadArg), (!unitsDisabled devPlat [12], cNotDisabled)] devPlat f = f () := by
    intro f; unfold checked; rw [plat_checks]
  unfold EndsOk cmdPlatLoad
  simp only [a0, a1, plat_of, plat_ok, us, z1, z2, z6, Option.isNone_none, Bool.false_or, if_false, List.all_cons, List.all_nil, decide_true, Bool.true_or,
    Bool.and_true, Bool.not_true, Bool.false_eq_true, e]
theorem witness_plat_load : Waits devPlat .normal 0x10 ∧ EndsOk cmdPlatLoad devPlat .normal ∧ platOf (callOf devPlat .normal) devPlat = some hubPlat ∧
    (argOf devPlat .normal 0).getLsbD 6 = false := ⟨by decide +kernel, plat_ends, plat_of, by decide +kernel⟩

/-! ## The island -/

theorem witness_benchmark_write : Waits (ask (dev 0) .secure 0x61 [at_ 0 0x1000 ||| at_ 16 1, 7]) .secure 0x61 ∧
    EndsOk cmdBenchmarkWrite (ask (dev 0) .secure 0x61 [at_ 0 0x1000 ||| at_ 16 1, 7]) .secure ∧
    EndsOk cmdBenchmarkWrite (ask (dev 0) .secure 0x61 ((at_ 0 0xFF90 ||| at_ 16 28) :: List.replicate 28 9)) .secure ∧
    benchOwn (0x1000 / 4) = false ∧ (at_ 0 0x1000 ||| at_ 16 1).getLsbD 31 = false := by decide +kernel
theorem witness_benchmark_capture : EndsOk (cmdBenchmarkCapture [900, 449]) (ask (dev 11) .secure 0x62 [1534, 2]) .secure ∧ captureOk 900 = true ∧ captureOk 449 = false ∧
    Waits (ask (dev 11) .secure 0x62 [1534, 2]) .secure 0x62 := by decide +kernel

/-- A key that openssl made, and what it signed: the header and body of an image, and a certificate. -/
def testKey : BitVec 768 :=
  0xf0eddc51f9c442f2ad01899f8438c1f10c29327e100d0aab759a368d11ded5159622fe1ea216ec92db9df69e8f927dbf <<< 384 |||
  0x5ba11595a9c9cedc80ee02f828238c1ae417fa0ec3ee66bb04d73c232ed50a4985a846d6959c8a1435440c1f9158c426
def fwImg : FwImage := {
  magic := 0x4F524957, format := 3, version := 0x0305, secVersion := 1, length := 4, entry := 0x100, body := [1, 2, 3, 4]
  sigR := 0x251E05DBDAA2F4CA7D52F79CE52F0E677A2F99C0A2CFFB3F464A0453DE7CC6D59EA3D03A1E73B99A90960F026C43A731
  sigS := 0xBA56863347473EA49C784493C5D46A0383592C3E9CD814498210FD90FD832DEC8ACCC4366038CC8B1DC0F9DC57D3BDAB }
def certWords : List Word :=
  [0xD6436415, 0xAF1768C1, 0xE74D6CFA, 0xDF43CDDF, 0xE8F99792, 0xD8B84BAF, 0xB4F16C6F, 0x9C8DE967, 0x3C5A7B74, 0xBD8C30EF, 0x8BD538B2, 0x7110B05F,
   0xB2E69BA7, 0x2429274A, 0xCE9D2803, 0x97FD519F, 0xBD4DDB17, 0x86FA88D5, 0xF6053F69, 0x014C325B, 0xA421DCD5, 0xBFD90F95, 0x4F14BAAF, 0xA947B006]
def devFw : State := dev 0 |>.modIsl fun x => { x with fwKey := some testKey, dbgKey := some testKey, deviceId := 0x1122334455667788, rollback := 1 }
theorem witness_fw_stage : Waits (ask devFw .normal 0x80 [0x1000, 0, 0x104]) .normal 0x80 ∧ EndsOk (cmdFwStage (some fwImg)) (ask devFw .normal 0x80 [0x1000, 0, 0x104]) .normal := by
  decide +kernel
theorem witness_fw_commit : Waits (ask (devFw.modIsl fun x => { x with b := { st := .staged, secVer := 2 } }) .secure 0x81 []) .secure 0x81 ∧
    ArgsAre (ask devFw .secure 0x81 []) .secure [] ∧ (fwSlot (devFw.modIsl fun x => { x with b := { st := .staged, secVer := 2 } }) (!devFw.isl.slotB)).st = .staged ∧
    (fwSlot (devFw.modIsl fun x => { x with b := { st := .committed, seq := 2 } }) (!devFw.isl.slotB)).st = .committed := by decide +kernel
theorem witness_debug_unlock : Waits (ask devFw .normal 0xA0 (0x55667788 :: 0x11223344 :: 5 :: 2 :: certWords)) .normal 0xA0 ∧
    EndsOk cmdDebugUnlock (ask devFw .normal 0xA0 (0x55667788 :: 0x11223344 :: 5 :: 2 :: certWords)) .normal := by decide +kernel

/-- Sweeps and lists. -/
theorem witness_sweep : Waits (ask (dev 0) .normal 0x90 [0x10000, 0, 0xD000, 0]) .normal 0x90 ∧
    EndsOk (cmdCounterSweep [] true) (ask (dev 0) .normal 0x90 [0x10000, 0, 0xD000, 0]) .normal ∧
    EndsOk (cmdCounterSweep [575] true) (ask (dev 0) .secure 0x90 [0x10000, 1, 0x24D000, 16000000]) .secure ∧ (16000000#32).getLsbD 31 = false ∧
    Waits (ask (dev 0) .normal 0x90 [0, 0, 0, 0x80000000]) .normal 0x90 ∧ ArgsAre (ask (dev 0) .normal 0x90 [0, 0, 0, 0x80000000]) .normal [0, 0, 0, 0x80000000] := by decide +kernel
def devSw : State := (dev 0).modIsl fun x => { x with sweep := { addr := 0x10000, bytes := 0xD000, period := 100, active := true, due := 0 } }
theorem witness_sweep_due : devSw.isl.sweep.active = true ∧ Serves devSw {} ∧ devSw.isl.sweep.due.toNat ≤ devSw.mer.now.toNat ∧ sweepLeast ≤ devSw.isl.sweep.bytes := by decide +kernel
def peek : ListEntry := { opcode := 0x01, args := [1] }
def list1 (x : ListEntry) : State := (ask (dev 0) .normal 0 [0x1000, 0, w32 (entryBytes x)]).modMbx .normal fun m => { m with list := true }
theorem witness_list : boxTurn (list1 peek) .normal = true ∧ ((list1 peek).mbx .normal).list = true ∧ ((list1 peek).mbx .normal).op = 0 ∧ (list1 peek).parity = [] ∧
    bits (argOf (list1 peek) .normal 0) 0 6 = 0 ∧ (argOf (list1 peek) .normal 2).toNat = entryBytes peek ∧ (∀ i, 3 ≤ i → i < 32 → argOf (list1 peek) .normal i = 0) ∧
    entryBad peek (entryBytes peek) = false ∧ (runOpcode (entryCall .normal peek) (list1 peek)).code = cOk ∧
    (runOpcode (entryCall .normal { peek with args := [2] }) (list1 { peek with args := [2] })).code ≠ cOk := by
  have h : ∀ i, i < 32 → 3 ≤ i → argOf (list1 peek) .normal i = 0 := by decide +kernel
  exact ⟨by decide +kernel, by decide +kernel, by decide +kernel, by decide +kernel, by decide +kernel, by decide +kernel, fun i a b => h i b a, by decide +kernel,
    by decide +kernel, by decide +kernel⟩

/-- Ronuo. -/
def devBoot (n : BitVec 2) : State := (dev 0).modIsl fun x => { x with fw := .restarting, booting := some n }
theorem witness_boot : (devBoot 0).isl.fw = .restarting ∧ (devBoot 0).isl.booting = some 0 ∧ bootSlot (devBoot 0) = some false ∧
    bootSlot ((devBoot 0).modIsl fun x => { x with a := {} }) = none ∧ bootable (devBoot 1) (devBoot 1).isl.slotB = true ∧ (devBoot 1).isl.act = none := by decide +kernel
def devExp : State := (dev 0).modIsl fun x => { x with expiries := [0, 0, 0] }
theorem witness_expiry : devExp.isl.fw = .running ∧ devExp.isl.ronuoHalt = false ∧ devExp.pwr.mode = .run ∧
    3 ≤ (devExp.isl.expiries.filter fun x => decide ((meridian devExp - x).toNat < 10000000000)).length := by decide +kernel
def devAct : State := devFw.modIsl fun x => { x with fw := .activating, act := some (some .secure, true), b := { st := .committed, version := 0x0305, secVer := 1, seq := 2, image := some fwImg } }
theorem witness_activate : devAct.isl.fw = .activating ∧ devAct.isl.act = some (some .secure, true) ∧ bootable devAct true = true := by decide +kernel
def devHalt : State := (dev 0).modIsl fun x => { x with fw := .halted }
theorem witness_recovery : devHalt.isl.fw = .halted ∧ devHalt.pwr.mode = .run ∧ (1048575 : Nat) < 2 ^ 32 ∧ 1048575 + 1 ≤ 1048576 := by decide +kernel
theorem witness_halted_mailbox : Serves devHalt {} ∧ fwCode devHalt = 3 ∧ (devHalt.mbx .secure).busy = false ∧ (1#64).getLsbD 0 = true ∧
    ((dev 0).modIsl fun x => { x with scope := 1 }).isl.scope.getLsbD 0 = true := by decide +kernel

/-! ## Power -/

theorem witness_stake_take : Waits (ask (dev 11) .secure 0x50 [1, 1, 0x800, 0, 0]) .secure 0x50 ∧ EndsOk cmdStakeTake (ask (dev 11) .secure 0x50 [1, 1, 0x800, 0, 0]) .secure ∧
    Dom.outL 11 ∈ stakeDoms (callOf (ask (dev 11) .secure 0x50 [1, 1, 0x800, 0, 0]) .secure) := by decide +kernel
theorem witness_stake_take_off : EndsOk cmdStakeTake (ask (devX fun o => { o with logic := .off, mem := .off, trav := .off, iso := true }) .normal 0x50 [255, 0, 0x800, 0, 0]) .normal ∧
    ((devX fun o => { o with logic := .off, mem := .off, trav := .off, iso := true }).op 11).logic = .off := by decide +kernel
def devStk : State := (dev 11).modPwr fun p => { p with stakes := [(16, .outL 11), (0, .hubl)] }
theorem witness_stake_release : Waits (ask devStk .normal 0x51 [16, 0, 0x800, 0, 0]) .normal 0x51 ∧ EndsOk cmdStakeRelease (ask devStk .normal 0x51 [16, 0, 0x800, 0, 0]) .normal := by decide +kernel
theorem witness_own_stakes : ((dev 0).modPwr fun p => { p with coldStake := true, coldDue := true }).pwr.coldDue = true ∧
    ((dev 0).modPwr fun p => { p with wakeStake := true }).pwr.wakeStake = true ∧ (dev 0).pwr.mode = .run := by decide +kernel

/-- Housekeeping. -/
def agg1 : Agg := { code := 3, key := 7, start := 0, more := none }
theorem witness_housekeeping : (dev 0).pwr.backup = false ∧ (devBoot 0).isl.booting = some 0 ∧ ((dev 0).modPwr fun p => { p with backup := true }).pwr.backup = true ∧
    domSt (dev 0) (.outL 11) = .off ∧ ((dev 0).modIsl fun x => { x with auditFor := [1023] }).isl.auditFor = [1023] ∧ Clean (dev 0) ∧
    1023 ∈ (devPar.modIsl fun x => { x with easement := [1023] }).isl.easement ∧ devPar.pwr.hubl = .on ∧ wairoRuns (dev 0) = true := by decide +kernel
def devAgg (m : Option (LogEntry × Nat)) : State := (atNs (dev 0) 1000000).modIsl fun x => { x with aggs := [{ agg1 with more := m }] }
def entry1 : LogEntry := { no := 0, mer := 0, code := 3, unit := 12, secure := true, est := false, deg := false, agg := true, arg0 := 1, arg1 := 2, arg2 := 3 }
theorem witness_aggregation : ((devAgg none).isl.aggs.find? fun x => decide (x.code = agg1.code) && decide (x.key = agg1.key)) = some agg1 ∧
    aggSpan ≤ (meridian (devAgg none) - agg1.start).toNat ∧ (((devAgg (some (entry1, 4))).isl.aggs.find? fun x => decide (x.code = 3)).map (·.more)) = some (some (entry1, 4)) ∧
    ((dev 0).modIsl fun x => { x with reports := [entry1] }).isl.reports = entry1 :: [] := by decide +kernel

/-- Reset and supply. -/
theorem witness_reset_pin : (dev 0).pwr.rst = false ∧ (dev 0).pwr.mode ≠ .off ∧ ((dev 0).modPwr fun p => { p with rst := true }).pwr.rst = true ∧ wairoRuns (dev 0) = true ∧
    wairoRuns (devBoot 0) = false ∧ ((dev 0).modPwr fun p => { p with mode := .off }).pwr.mode = .off := by decide +kernel
theorem witness_reset_pin_hub_off : ((dev 0).modPwr fun p => { p with rst := true, hubl := .off, hubm := .off }).pwr.hubl ≠ .on := by decide +kernel

/-- Bring-up. -/
theorem witness_bring_up : populated (dev 11) 11 = true ∧ (dev 11).pwr.rst = false ∧ ((devX fun o => { o with bring := 3 }).op 11).bring = 3 ∧
    ((devX fun o => { o with bring := 4 }).op 11).bring = 4 ∧ ((devX fun o => { o with bring := 1, tries := 2 }).op 11).tries = 2 ∧
    ((devX fun o => { o with trav := .ramping }).op 11).trav = .ramping ∧ ((devX fun o => { o with trav := .ramping }).op 11).bring = 0 := by decide +kernel
def devBr (n t : Nat) (m : Mode) : State := (dev 0).modPwr fun p => { p with hubl := .ramping, hubm := .ramping, bring := n, tries := t, mode := m }
theorem witness_hub_bring_up : (devBr 3 0 .run).pwr.bring = 3 ∧ (devBr 4 2 .run).pwr.bring = 4 ∧ (devBr 4 0 .wakeSleep).pwr.mode = .wakeSleep ∧ (devBr 2 2 .run).pwr.tries = 2 ∧
    (devBr 1 0 .run).pwr.tries < 2 ∧ (devBr 1 0 .run).pwr.rst = false := by decide +kernel

/-- Going down. -/
theorem witness_die_quiet : ((devX fun o => { o with closing := true }).op 11).closing = true ∧ dieQuiet (devX fun o => { o with closing := true }) 11 = true ∧
    wantL (devX fun o => { o with closing := true }) 11 = false := by decide +kernel
def devCl : State := (dev 0).modPwr fun p => { p with closing := true, cold := false }
theorem witness_hub_quiet : devCl.pwr.closing = true ∧ devCl.pwr.toSleep = false ∧ hubQuiet devCl = true ∧ wantHubm devCl = true ∧
    hubQuiet (devCl.modCell 0 fun c => { c with plat := c.plat ++ [(0x12, 12)] }) = true ∧ wantHubm (devCl.modCell 0 fun c => { c with plat := c.plat ++ [(0x12, 12)] }) = false := by
  decide +kernel
theorem witness_quiesce_refused : ((withGrp (devX fun o => { o with closing := true }) 575 .normal { stack := [{ evid := 1, running := 9 }] }).op (unitOf 1472)).closing = true ∧
    dieQuiet (withGrp (devX fun o => { o with closing := true }) 575 .normal { stack := [{ evid := 1, running := 9 }] }) (unitOf 1472) = false ∧ unitOf 1472 ≠ 12 := by decide +kernel
theorem witness_quiesce_retry : (dev 11).pwr.hubl = .on ∧ ((dev 11).op 11).logic = .on ∧ (devCl.modPwr fun p => { p with toSleep := true }).pwr.toSleep = true ∧ (64 : Nat) ≤ 33554368 := by decide +kernel

/-- Waking. -/
def devK (m : Mode) : State := (dev 0).modPwr fun p => { p with mode := m, hubl := .off, hubm := if m = .keep then .retained else .off, wakeEn := 7, knock := 0x80, cold := false }
theorem witness_wake : srcOn (devK .keep) (.chord 0) = true ∧ srcOn (devK .sleep) (.doorbell 7) = true ∧ (devK .sleep).pwr.hubl ≠ .on ∧ (devK .keep).pwr.bring = 0 ∧
    (devK .keep).pwr.rst = false ∧ ((devK .wakeSleep).modPwr fun p => { p with bring := 5 }).pwr.bring = 5 ∧ (devK .wakeKeep).pwr.closing = false := by decide +kernel
theorem witness_nap_chord : populated (dev 11) 11 = true ∧ (((devX fun o => { o with logic := .off }).op 11).logic = .off ∧ ((devX fun o => { o with logic := .off }).op 11).lost = false ∧
      linkIdle (devX fun o => { o with logic := .off }) 11 = true) ∧
    ∃ q ∈ (withQ (dev 11) 0x1001 { countQ 575 with heldFor := some 11 }).queues, q.2.heldFor = some 11 :=
  ⟨by decide +kernel, by decide +kernel, (0x1001, { countQ 575 with heldFor := some 11 }), by decide +kernel, rfl⟩

/-- Cuts and the secure watchdog. -/
def devSec : State := (dev 11).modPwr fun p => { p with stakes := [(1, .outL 11), (1, .hubm)] }
theorem witness_cut : populated devSec 11 = true ∧ (devSec.op 11).isoGnt = false ∧ diePowered devSec 11 = true ∧ dieOf (.trav 11) = some 11 ∧ dieSecure devSec 11 = true ∧
    dieSecure (dev 11) 11 = false ∧ diePowered (dev 11) 11 = true ∧ tget 0 devSec.hub.faultCnt 0x0C ≠ (0xFFFFFFFF : Word) ∧ secureStake devSec .hubm = true ∧ domSt devSec .hubm ≠ .off := by
  decide +kernel
theorem witness_watchdog : swdtCounts (dev 0) = true ∧ 0x20200 ∉ (dev 0).parity ∧ (dev 0).pwr.swStage = false ∧ swdtCounts (devK .keep) = true ∧ (devK .keep).pwr.hubl = .off ∧
    ((dev 0).modPwr fun p => { p with swStage := true }).pwr.swStage = true ∧ ((dev 0).modPwr fun p => { p with chipRst := true }).pwr.chipRst = true ∧ (dev 0).pwr.chipRst = false := by
  decide +kernel

/-- The sideband and the debug gate. -/
theorem witness_sideband : (dev 0).pwr.mode ≠ .sleep ∧ (dev 0).pwr.mode ≠ .off ∧ wairoRuns (dev 0) = true ∧ (dev 0).mbxN.busy = false ∧ (dev 0).mbxS.busy = false ∧
    (devK .sleep).pwr.mode = .sleep ∧ (cmdLogRead { box := .normal, args := [0, 3] } (dev 0)).code = cOk ∧ bits (([0, 3] : List Word)[1]?.getD 0) 0 2 = 3 ∧
    ((dev 0).modIsl fun x => { x with scope := 5 }).isl.scope.getLsbD 2 = true ∧ (dev 0).isl.scope.getLsbD 0 = false := by decide +kernel

/-! ## The whole block -/

theorem witness_step : ({ dev 0 with pending := [.sidebandReport, .ronuoBoot] } : State).pending = .sidebandReport :: [.ronuoBoot] ∧ (dev 0).pending = [] ∧
    (∃ t, step { State.reset with pending := [.auxinSurgeLimit 1] } = .next t) ∧ Memory.wf State.reset.mem ∧ (60000 : Nat) ≤ 60000 ∧ 60000 < 60001 :=
  ⟨rfl, rfl, ⟨State.reset, rfl⟩, by decide +kernel, by decide, by decide⟩
theorem witness_numbers : (575 / 48 = 11 ∧ deliveryCell (dev 11) 575 = some 1473 ∧ unitOf 1473 = 11) ∧ intakeCell (devI 0xB01 {}) (1 + 256 * 11 + 31) ≠ none ∧
    intakeCell (dev 0) (0xC01 + 911) ≠ none ∧ isWired (0xC01 + 1023) = true := by decide +kernel
theorem witness_controls : (511#32).toNat = 511 ∧ (pageGroup devS (.stn 0 .normal)).stack ≠ [] ∧ (pageGroup (dev 0) (.stn 0 .normal)).stack = [] ∧ bits 9#32 0 4 > 8 := by decide +kernel
theorem witness_selectors : CellReady (dev 11) 1535 {} ∧ CellReady (dev 11) 0 {} := by decide +kernel

/-! ## The rest of the premises: recalled seats, a clean memory, supplies, waits -/

theorem noneOf {s : State} {n : Nat} {t : Tour} (h : ((seatsOf s n t).all fun x => x.cand.gather.isSome || !(s.queue x.cand.evid).recalled) = true) : NoneRecalled s n t := by
  intro x hx hg
  have := List.all_eq_true.mp h x hx
  simpa [hg] using this
theorem witness_seats_station : NoneRecalled (devC 1 (cand 1)) 0 .normal ∧ NoneRecalled (devC 0x1001 (cand 0x1001)) 0 .normal ∧ NoneRecalled (dev 0) 0 .secure ∧
    NoneRecalled devD 0 .normal ∧ NoneRecalled devM 0 .normal := ⟨noneOf (by decide +kernel), noneOf (by decide +kernel), noneOf (by decide +kernel), noneOf (by decide +kernel), noneOf (by decide +kernel)⟩
theorem witness_seats_virtual : Serves devR {} ∧ Clean devR ∧ Reaches {} (.vst 127) ∧ NoneRecalled devR 0 .virt ∧ NoneRecalled (devR.modCtx 127 fun x => { x with g := {} }) 0 .virt :=
  ⟨by decide +kernel, by decide +kernel, by decide +kernel, noneOf (by decide +kernel), noneOf (by decide +kernel)⟩
def devMc : State := { devM with gathers := devM.gathers.map fun r => { r with claimed := true, payload := 5 } }
theorem witness_claim_member_later : ((devMc.gathers.find? fun x => decide (x.id = 3)).map (·.claimed)) = some true ∧ presented devMc 0 .normal = some { cand 0x1001 with gather := some 3 } ∧
    Clean devMc ∧ NoneRecalled devMc 0 .normal ∧ ({ devMc with gathers := [] } : State).gathers.find? (fun x => decide (x.id = 3)) = none :=
  ⟨by decide +kernel, by decide +kernel, by decide +kernel, noneOf (by decide +kernel), by decide +kernel⟩
theorem witness_no_holds : NoHolds (dev 0) ∧ NoHolds (devI 0xC01 { mode := .rise, filterW := 1023 }) ∧ NoHolds (devI 0xB01 { mode := .tally, tallyN := 0xFFF, rises := 0xFFF }) := by
  unfold NoHolds; decide +kernel
theorem witness_no_waits : (devT (countQ 0)).waits = [] ∧ reportWaits devF 0x1001 = false ∧ devF.waits = [] ∧ (devM.cell 5).en = true ∧ (dev 0).pwr.hubl = .on ∧ (dev 0).pwr.rst = false := by decide +kernel
theorem witness_no_exchange : 11 ∈ outpostsOf (devX fun o => { o with link := .error }) ∧ exchanges (devX fun o => { o with link := .error }) 11 = false ∧
    ((devX fun o => { o with link := .error, missed := 3 }).op 11).align = .aligned ∧ (devX fun o => { o with link := .error }).mer.step = none := by decide +kernel
def devVia : State := { devM with gathers := devM.gathers.map fun r => { r with members := [0, 575] } }
def via1 : Armed := { tour := .normal, cand := { cand 0x1001 with gather := some 3 }, target := 0 }
theorem witness_release_via : releaseVia devVia 11 via1 = true ∧ releaseVia devVia 0 via1 = true ∧ releaseVia devVia 5 via1 = false := by decide +kernel
theorem witness_returned_recalled : (({ activeQ with state := .presented, recalled := true } : Queue)).recalled = true ∧ waiting { activeQ with state := .presented, recalled := true } = true ∧
    waiting { activeQ with state := .presented } = true := by decide +kernel
theorem witness_clean_commands : (ask devU .normal 0x21 [0x1001]).ecc = [] ∧ (ask devU .normal 0x23 [0x1001, at_ 18 47]).ecc = [] ∧ (ask devPar .normal 0x42 [1023]).ecc = [] ∧
    (ask (dev 0) .normal 0x40 [1023, 0x2000, 64, 4, 1, 0, 0, 0x10000, 0, 1]).ecc = [] := by decide +kernel
/-- A running outpost whose delivery cell reads UNSERVED. -/
def devUns : State := (dev 11).modCell 1472 fun c => { c with unserved := true }
theorem witness_unserved : populated devUns 11 = true ∧ (devUns.op 11).logic = .on ∧ unitUnserved devUns 11 = true ∧ ((unservedLost devUns).op 11).lost = true := by decide +kernel
def askBench (p : Bool) : State := ask ((dev 11).modIsl fun x => { x with benchPend := p }) .secure 0x61 [at_ 0 0x1000 ||| at_ 16 1, 7]
theorem rod_pend (s : State) (c : Nat) (h : s.parity = []) : (writeRod s c).parity = [] ∧ (writeRod s c).isl.benchPend = s.isl.benchPend := by
  unfold writeRod
  simp only [speedJudge, rodParityAll, journalPut, parityClear, State.modIsl, State.modCell, State.setCell, h, List.filter_nil, if_true, speedNote]
  split <;> exact ⟨by simp [State.modHub], rfl⟩
theorem rods_pend (s : State) (cs : List Nat) (h : s.parity = []) : (forAll s cs writeRod).isl.benchPend = s.isl.benchPend := by
  unfold forAll
  induction cs generalizing s with
  | nil => rfl
  | cons c cs ih => rw [List.foldl_cons, ih _ (rod_pend s c h).1, (rod_pend s c h).2]
theorem log_pend (s : State) (code unit : Nat) (sec : Bool) (a b c : Word) : (log s code unit sec a b c).isl.benchPend = s.isl.benchPend := by
  unfold log logTake; simp only [State.modIsl]; split <;> rfl
theorem invalid_pend (s : State) (why : Nat) : (benchInvalid s why).isl.benchPend = s.isl.benchPend ∧ (benchInvalid s why).parity = s.parity := by
  unfold benchInvalid raise
  dsimp only
  refine ⟨?_, ?_⟩
  · rw [log_pend]
    unfold raiseHub touch
    repeat' (first | rfl | split)
  · unfold log logTake raiseHub touch
    repeat' (first | rfl | split)
theorem puts_parity (s : State) (js : List Nat) (f : Nat → Nat × Word) : (forAll s js fun t j => benchPut t (f j).1 (f j).2).parity = s.parity := by
  unfold forAll
  induction js generalizing s with
  | nil => rfl
  | cons j js ih => rw [List.foldl_cons, ih]; rfl
theorem store_pend (s : State) (i : Nat) (ws : List Word) (hp : s.parity = []) (h : ((List.range ws.length).filter fun j => !benchOwn (i + j)).any
    (fun j => decide (getW s.isl.bench (i + j) ≠ (ws[j]?).getD 0)) = true) : (benchStore s i ws).isl.benchPend = true := by
  unfold benchStore
  simp only [h, Bool.not_true, Bool.false_eq_true, if_false]
  split
  · assumption
  · rw [benchDefaults, rods_pend]
    · rw [(invalid_pend _ _).1]; rfl
    · rw [(invalid_pend _ _).2]
      have h1 := (puts_parity s ((List.range ws.length).filter fun j => !benchOwn (i + j)) fun j => (i + j, (ws[j]?).getD 0)).trans hp
      simp only [log, logTake, benchPut, State.modIsl] at h1 ⊢
      exact h1
theorem bench_pend : (cmdBenchmarkWrite (callOf (askBench false) .secure) (askBench false)).st.isl.benchPend = true := by
  unfold cmdBenchmarkWrite checked
  dsimp only
  split
  · rename_i e h
    exact absurd ((congrArg Option.isNone h).trans (Option.isNone_some : _ = false)) (by decide +kernel)
  · rw [if_neg (by decide +kernel)]
    dsimp only
    rw [if_neg (by decide +kernel)]
    exact store_pend _ _ _ (by decide +kernel) (by decide +kernel)
theorem witness_benchmark_set : (askBench false).isl.benchPend = false ∧ (cmdBenchmarkWrite (callOf (askBench false) .secure) (askBench false)).st.isl.benchPend = true ∧
    EndsOk cmdBenchmarkWrite (askBench false) .secure ∧ EndsOk cmdBenchmarkWrite (askBench true) .secure ∧ (askBench true).isl.benchPend = true :=
  ⟨by decide +kernel, bench_pend, by decide +kernel, by decide +kernel, by decide +kernel⟩
def take1 : ListEntry := { opcode := 0x50, args := [16, 0, 0x800, 0, 0] }
def listOff : State := (ask (devX fun o => { o with logic := .off, mem := .off, trav := .off, iso := true }) .normal 0 [0x1000, 0, w32 (entryBytes take1)]).modMbx .normal fun m => { m with list := true }
theorem witness_list_waits : (list1 peek).isl.listRun = none ∧ entryWaits .normal peek (runOpcode (entryCall .normal peek) (list1 peek)).st = false ∧ listOff.isl.listRun = none ∧
    (runOpcode (entryCall .normal take1) listOff).code = cOk ∧ entryWaits .normal take1 (runOpcode (entryCall .normal take1) listOff).st = true := by decide +kernel
theorem witness_supply : ((dev 11).op 11).noSupply = false ∧ ((devX fun o => { o with logic := .off }).op 11).noSupply = false ∧ ((dev 0).modPwr fun p => { p with coldStake := true, coldDue := true }).pwr.rst = false ∧
    devCl.pwr.rst = false ∧ devCl.ecc = [] ∧ (dev 0).ecc = [] := by decide +kernel
theorem witness_second_expiry : ((dev 0).modPwr fun p => { p with swStage := true, chipRst := true }).pwr.swStage = true ∧
    ((dev 0).modPwr fun p => { p with swStage := true, chipRst := true }).pwr.swDone = false := by decide +kernel

/-! ## Premises of single clauses -/

theorem witness_provisioning : ((dev 0).modIsl fun x => { x with provLock := true }).isl.provLock = true ∧
    ((dev 0).modIsl fun x => { x with provLock := false, fwKey := none }).isl.fwKey = none := by decide +kernel
theorem witness_messages_served : onCell (withMsg (dev 0) (.holderAsk 0x1001)) (holderCell (withMsg (dev 0) (.holderAsk 0x1001)) 0x1001).1 = true ∧
    LedgerOn (devQ activeQ (.holderAnswer 0x1001 false true)) 0x1001 ∧ Clean devW ∧ LedgerOn (devQ activeQ (.returned (cand 0x1001) true 576)) 0x1001 ∧
    onCell devM (returnCell devM { cand 0x1001 with gather := some 3 }) = true ∧ ownerUnit 0x1001 = 12 := by decide +kernel
theorem witness_returned_on_its_way : Next (withMsg devM (.returned { cand 0x1001 with gather := some 3 } false 1)) (.returned { cand 0x1001 with gather := some 3 } false 1) ∧
    ∃ r ∈ devM.gathers, r.id = 3 ∧ 1 ∈ r.pending := ⟨⟨⟨_, _, rfl, rfl, rfl, by decide +kernel, by decide +kernel⟩, rfl, fun _ h => nomatch h⟩, _, List.Mem.head _, by decide +kernel⟩
theorem witness_members_done : ([0, 1] : List Nat).Nodup ∧ (∀ r ∈ devMc.gathers, (∀ m ∈ [0, 1], m ∈ r.pending) ∧ r.pending.filter (fun m => decide (m ∉ [0, 1])) = [] ∧ r.claimed = true ∧
    r.pending.filter (fun m => decide (m ∉ [1])) ≠ [] ∧ 5 ∉ r.pending) ∧
    Next (withMsg devMc (.memberDone 3 0x1001 [0, 1] true)) (.memberDone 3 0x1001 [0, 1] true) ∧ Next (withMsg devMc (.memberDone 3 0x1001 [5] true)) (.memberDone 3 0x1001 [5] true) :=
  ⟨by decide, by decide +kernel, ⟨⟨_, _, rfl, rfl, rfl, by decide +kernel, by decide +kernel⟩, rfl, fun _ h => nomatch h⟩, ⟨⟨_, _, rfl, rfl, rfl, by decide +kernel, by decide +kernel⟩, rfl, fun _ h => nomatch h⟩⟩
/-- A message on its way upward over link 11 whose flit 3 has failed already. -/
def failed1 : Packet := { msg := .event { evid := 0x1001 }, up := some 11, failed := some 3 }
theorem witness_second_failure : (({ dev 11 with net := [failed1] } : State).net.find? fun p => p.waitsAt 11 true) = some failed1 ∧ failed1.failed = some 3 ∧
    linkUp { dev 11 with net := [failed1] } 11 = true := by decide +kernel
theorem witness_sensors : unitOn (dev 11) 12 = true ∧ unitOn (dev 11) 10 = false ∧ ((dev 11).modIsl fun x => { x with defaults := true }).isl.defaults = true := by decide +kernel
theorem witness_cells : tokenInside (devX fun o => { o with closing := true }) 1472 = false ∧ ((dev 11).cell 767).en = false ∧ NoHolds (hubOff (dev 0)) ∧
    unitAway (dev 11) 11 = false ∧ unitAway (devX fun o => { o with closing := true }) 11 = true := by unfold NoHolds; decide +kernel
theorem witness_fence_asks : fenceAsks devPar 0 = true ∧ fenceAsks (dev 11) 1472 = true ∧ fenceAsks (dev 11) 768 = false := by decide +kernel

/-- A sweep that one unit, or none, has yet to reach. -/
def run1 (ts : Stamp) : SweepRun := { seq := 1, ts := ts, units := [0, 12], last := 0, late := 0, grants := [], memOk := true, box := some .normal }
def devRun (ts : Stamp) : State := ask (devSw.modIsl fun x => { x with sweep := { x.sweep with run := some (run1 ts) } }) .normal 0x90 [0x10000, 0, 0xD000, 0]
theorem witness_sweep_run : sweepOf (dev 0) (some .normal) = false ∧ sweepOf (devRun 0) (some .normal) = true ∧ (devRun 0).isl.sweep.run = some (run1 0) ∧ (devRun 0).pwr.hubl = .on ∧
    (∀ u ∈ (run1 0).units, (run1 0).ts.toNat + (run1 0).late ≤ (copyOf (devRun 0) u).toNat) ∧ sweepLeast ≤ (devRun 0).isl.sweep.bytes ∧ ((devRun 0).mbx .normal).busy = true ∧
    ((devRun 0).mbx .normal).cut = false ∧ Waits (devRun 0) .normal 0x90 ∧ EndsOk (cmdCounterSweep [] true) (devRun 0) .normal ∧ devSw.isl.sweep.run = none := by decide +kernel
theorem witness_sweep_early : (devRun 1).isl.sweep.run = some (run1 1) ∧ (0 : Nat) ∈ (run1 1).units ∧ populated (devRun 1) 0 = true ∧ ((devRun 1).op 0).logic = .on ∧
    ((devRun 1).op 0).copy.toNat < (run1 1).ts.toNat + (run1 1).late ∧ (devRun 1).mer.now.toNat < (run1 1).ts.toNat + 2000 := by decide +kernel
theorem witness_not_halted : devAct.isl.ronuoHalt = false ∧ (devBoot 1).isl.ronuoHalt = false ∧ ((dev 0).modIsl fun x => { x with ronuoHalt := true, scope := 1 }).isl.ronuoHalt = true := by decide +kernel
theorem witness_reset_staging : staging (ask (dev 0) .normal 0x80 []) .normal = true ∧ staging (dev 0) .normal = false ∧ staging (dev 0) .secure = false ∧
    (dev 0).pwr.cause.getLsbD 1 = false := by decide +kernel
/-- A hub that waits for the RC oscillator, and one that came up in Keep to write its save book. -/
theorem witness_bring_up_asleep : (devBr 6 0 .wakeSleep).pwr.bring = 6 ∧ (devBr 6 0 .wakeSleep).pwr.backup = false ∧ ((devBr 4 0 .keep).modPwr fun p => { p with toSleep := true }).pwr.toSleep = true ∧
    (devBr 4 0 .run).pwr.toSleep = false := by decide +kernel
theorem witness_last_try : wantL ((devX fun o => { o with bring := 1, tries := 2 }).modPwr fun p => { p with stakes := [(0, .outL 11)] }) 11 = true ∧
    wantL (devX fun o => { o with bring := 1, tries := 2 }) 11 = false ∧ ((devX fun o => { o with bring := 1, tries := 2 }).op 11).noSupply = false := by decide +kernel
theorem witness_book_time : bookTime (devCl.modPwr fun p => { p with toSleep := true }) = true ∧ wantHubm (devCl.modPwr fun p => { p with toSleep := true }) = true ∧ devCl.pwr.mode = .run ∧
    bookTime ((devCl.modCell 0 fun c => { c with plat := c.plat ++ [(0x12, 12)] }).modPwr fun p => { p with toSleep := true }) = true ∧
    wantHubm ((devCl.modCell 0 fun c => { c with plat := c.plat ++ [(0x12, 12)] }).modPwr fun p => { p with toSleep := true }) = false := by decide +kernel
/-- A save book of one byte, and a hub that asks for it. -/
def book1 : List (BitVec 8) := bookHeader 1 (crc32c [7]) 4 0 ++ [7]
def devBook : State := (devBr 5 0 .wakeSleep).modPwr fun p => { p with saveSeq := 4, bodyCrc := crc32c [7] }
theorem witness_book : bookOk devBook book1 = true ∧ bookOk devBook (book1.drop 1) = false ∧ devBook.pwr.bring = 5 ∧ devBook.pwr.toSleep = false ∧ devBook.pwr.mode = .wakeSleep ∧
    devBook.pwr.rst = false ∧ devBook.pwr.closing = false := by decide +kernel
theorem witness_wake_while_closing : ((devK .keep).modPwr fun p => { p with toSleep := true }).pwr.toSleep = true ∧ srcOn ((devK .keep).modPwr fun p => { p with toSleep := true }) (.chord 0) = true ∧
    (devK .keep).pwr.toSleep = false ∧ (devK .sleep).pwr.toSleep = false := by decide +kernel
theorem witness_own_address : cccOwn (devK .sleep) .getpid = true ∧ cccOwn (devK .sleep) .rstdaa = false ∧ (dev 0).isl.straps.vid + 1 ≠ (dev 0).isl.straps.vid := by decide +kernel

/-- A gang's token that its gang/timing cell resolves. -/
def gangTok : Token := { evid := 0, gang := some 1023, payload := 9, stamp := 77, lock := .full, src := .send (.stn 0 .normal) }
def devGT : State := withMsg (withQ { devV with gangs := [(1023, { defined := true, send := 0x1001 })] } 0x1001 (countQ 0)) (.event gangTok)
theorem witness_gang_token : devGT.net = [{ msg := .event gangTok }] ∧ crossable devGT { msg := .event gangTok } = true ∧ gangTok.edge = .occurrence ∧ Clean devGT ∧ devGT.waits = [] ∧
    gangCell devGT 1023 = some 5 ∧ (devGT.cell 5).en = true ∧ joined devGT 5 = true ∧ (devGT.gang 1023).defined = true ∧ Postable (devGT.gang 1023).send ∧
    LedgerOn devGT (devGT.gang 1023).send ∧ checkToken devGT { gangTok with evid := (devGT.gang 1023).send, gang := none } = none ∧
    (devGT.queue 0x1001).mode = .count ∧ (devGT.queue 0x1001).count ≠ 0xFFF ∧ bookCause devGT 0x1001 = none := by decide +kernel
theorem witness_gang_token_holds : NoHolds devGT := by unfold NoHolds; decide +kernel
theorem witness_controls_clean : Clean (dev 11) ∧ Clean devV ∧ Clean devS := by decide +kernel

/-- A 64-bit claim read whose candidate was aged, and data that are aged. -/
def read2 : HeldRead := { read1 with wide := true, aged := true }
def devH2 : State := { withMsg (withGrp (dev 0) 0 .normal { seq := 2, win := { await := true } }) (.claimData 0x1001 (.stn 0 .normal) 7 9 true false false false true) with out := { held := [read2] } }
theorem witness_claim_data_wide : Next devH2 (.claimData 0x1001 (.stn 0 .normal) 7 9 true false false false true) ∧
    devH2.out.held.find? (fun x => decide (x.page = .stn 0 .normal) && decide (x.evid = 0x1001) && !x.status) = some read2 ∧ read2.wide = true ∧ read2.aged = true ∧
    (pageGroup devH2 (.stn 0 .normal)).seq ≠ read2.seq ∧ devH2.pwr.hubl = .on ∧ devH2.pwr.rst = false :=
  ⟨⟨⟨_, _, rfl, rfl, rfl, by decide +kernel, by decide +kernel⟩, rfl, fun _ h => nomatch h⟩, by decide +kernel⟩

/-- Records that a PAYLOAD, a LATEST and a full COUNT queue take. -/
def devFq (q : Queue) : State := { withQ (dev 0) 0x1001 q with fb := { recs := [rec1] } }
theorem witness_released_modes : canTake (devFq { countQ 0 with mode := .payload, quota := 1 }) { countQ 0 with mode := .payload, quota := 1 } = true ∧
    canTake (devFq { countQ 0 with mode := .latest, tail := 4194303 }) { countQ 0 with mode := .latest, tail := 4194303 } = true ∧
    canTake (devFq { countQ 0 with count := 0xFFF }) { countQ 0 with count := 0xFFF } = true ∧ canTake devF (devF.queue 0x1001) = true ∧ reportWaits devF 0x1001 = false ∧ devF.waits = [] ∧
    reportWaits (devFq { countQ 0 with mode := .payload, quota := 1 }) 0x1001 = false := by decide +kernel
theorem witness_claimed_modes : ({ countQ 0 with mode := .latest, slotTaken := true, count := 1 } : Queue).slotTaken = true ∧
    Next (devQ { countQ 0 with mode := .latest, count := 1 } (.claimed 0x1001 (.station 0 .normal) false 0 false false)) (.claimed 0x1001 (.station 0 .normal) false 0 false false) ∧
    Next (devQ { countQ 0 with mode := .payload, quota := 4, count := 1 } (.claimed 0x1001 (.station 0 .normal) true 0 false false)) (.claimed 0x1001 (.station 0 .normal) true 0 false false) :=
  ⟨rfl, ⟨⟨_, _, rfl, rfl, rfl, by decide +kernel, by decide +kernel⟩, rfl, fun _ h => nomatch h⟩, ⟨⟨_, _, rfl, rfl, rfl, by decide +kernel, by decide +kernel⟩, rfl, fun _ h => nomatch h⟩⟩
theorem witness_report_left : (((dev 0).modCell 770 fun c => { c with en := false }).cell 770).en = false ∧ (((dev 0).modCell 770 fun c => { c with en := false }).cell 3).en = true ∧
    Next (withMsg ((dev 0).modCell 770 fun c => { c with en := false }) (.loadReport 47 .secure 3 [770, 3])) (.loadReport 47 .secure 3 [770, 3]) :=
  ⟨by decide +kernel, by decide +kernel, ⟨⟨_, _, rfl, rfl, rfl, by decide +kernel, by decide +kernel⟩, rfl, fun _ h => nomatch h⟩⟩

/-- A candidate that its holder alone has lost, and one that stands nowhere. -/
def devAns (cs : List Place) : State := { devQ { activeQ with state := .presented, route := .spread 255 } (.holderAnswer 0x1001 false true) with places := cs }
theorem witness_candidate_out : candOut { devAns [{ cell := 3, evid := 0x1001, station := 0, set := 255 }] with net := [] } 0x1001 = false ∧
    holdsCand { withGrp (devAns []) 0 .normal { seats := [{ cand := cand 0x1001 }] } with net := [] } 0x1001 = false ∧
    candOut { withGrp (devAns []) 0 .normal { seats := [{ cand := cand 0x1001 }] } with net := [] } 0x1001 = true := by decide +kernel
theorem witness_scan_offers : (withQ (dev 0) 0x1001 { countQ 47 with state := .pending, count := 1 }).queue 0x1001 = { countQ 47 with state := .pending, count := 1 } ∧
    waiting { countQ 47 with state := .pending, count := 1 } = true ∧ LedgerOn (withQ (dev 0) 0x1001 { countQ 47 with state := .pending, count := 1 }) 0x1001 := by decide +kernel

/-- A re-offer that waits for a ledger cell, and one that finds a ledger cell off. -/
def devLeft (b : Bool) : State := (devQ { countQ 47 with state := .pending, count := 1 } (.reOffer (.station 47) 12 (some [1]))).modCell 1 fun c => { c with en := b }
theorem witness_re_offer_left : Next (devLeft true) (.reOffer (.station 47) 12 (some [1])) ∧ ((devLeft true).cell 1).en = true ∧ ledgerCell (devLeft true) 0x1001 = some 1 ∧
    1 ∈ roleCells (devLeft false) 12 roleLedger ∧ ((devLeft false).cell 1).role = roleLedger ∧ ((devLeft false).cell 1).en = false :=
  ⟨⟨⟨_, _, rfl, rfl, rfl, by decide +kernel, by decide +kernel⟩, rfl, fun _ h => nomatch h⟩, by decide +kernel⟩

/-- The doorbell event of context 127, as it is sent and as it arrives. -/
theorem witness_doorbell_event : (devV.ctx 127).counted = false ∧ (devV.ctx 127).announced = false ∧ resolve devV (devV.ctx 127).home false = some 0 ∧ Clean devV ∧
    Next (withMsg devD (.doorbell 127 0 (cand 0x1001))) (.doorbell 127 0 (cand 0x1001)) ∧ rankOn devD 0 = true ∧ stnOn devD 0 = true ∧ Clean devD :=
  ⟨by decide +kernel, by decide +kernel, by decide +kernel, by decide +kernel, ⟨⟨_, _, rfl, rfl, rfl, by decide +kernel, by decide +kernel⟩, rfl, fun _ h => nomatch h⟩,
    by decide +kernel, by decide +kernel, by decide +kernel⟩
theorem witness_split_away : 575 ∈ resvAll (devX fun o => { o with lost := true }) ∧ keyUnit 575 = 11 ∧ dieAway (devX fun o => { o with lost := true }) 11 = true ∧
    dieAway (dev 11) 11 = false := by decide +kernel

/-- Doorbell writes that a check rejects, and ports that hold writes. -/
theorem witness_doorbell_rejected : 2 ^ 20 ≤ (0x100000#32).toNat ∧ ({ db1 with whole := false } : DbWrite).whole = false ∧ dbWindow (dev 0) (db1.offset + 1) = some true ∧
    (db1.offset + 1) % 4 ≠ 0 ∧ ({ db1 with poisoned := true } : DbWrite).poisoned = true ∧ ¬ Postable (dbEvid { db1 with offset := 0x400000 } true) ∧
    (dev 0).hub.dbCap.valid = false ∧ ((dev 0).modHub fun h => { h with dbCap := { h.dbCap with valid := true } }).hub.dbCap.valid = true := by decide +kernel
theorem witness_doorbell_held : portCell ((dev 0).modCell 6 fun c => { c with en := false }) 7 (dbEvid db1 true) = none ∧
    (tget [] ((dev 0).modHub fun h => { h with ports := [(7, List.replicate 64 db1)] }).hub.ports 7).length = 64 ∧
    (tget [] ((dev 0).modHub fun h => { h with ports := [(7, List.replicate 63 db1)] }).hub.ports 7).length < 64 := by decide +kernel

/-- Flits: of a forwarded access, for the first and for the second time. -/
theorem witness_access_flit : failsAgain (dev 11) 11 { up := true, flit := 1, msg := none } = false ∧
    failsAgain (devX fun o => { o with accFail := some (true, 1) }) 11 { up := true, flit := 1, msg := none } = true ∧
    failsAgain { dev 11 with net := [failed1] } 11 { up := true, flit := 3 } = true ∧ failsAgain { dev 11 with net := [failed1] } 11 { up := true, flit := 2 } = false := by decide +kernel

/-- Datum: a disabled slot that agrees and one that does not, and a stream in which every slot agrees with its own reference. -/
def devAll : State := { dev 0 with cells := (dev 0).cells.map fun e => (e.1, { e.2 with refVal := some 0 }), hub := { (dev 0).hub with datum := { (dev 0).hub.datum with committed := true, ref := 1 } } }
theorem witness_datum_disabled : ((devY 0).modCell 768 fun c => { c with en := false, quiet := true, fenced := true }).hub.datum.global = false ∧
    canRead ((devY 0).modCell 768 fun c => { c with en := false, quiet := true, fenced := true }) 768 = true ∧ 768 ∈ streamCells ((devY 1).modCell 768 fun c => { c with en := false }) := by decide +kernel
theorem witness_datum_global : devAll.hub.datum.committed = true ∧ devAll.hub.datum.global = false ∧
    (∀ c ∈ streamCells devAll, (devAll.cell c).refVal = some (devAll.cell c).localCrc ∧ canRead devAll c = true ∧ (devAll.cell c).refBad = false) := by decide +kernel

/-- QUEUE_SET of the lock; reservations of a spread set and of a gang; DISABLE of a cell that holds a token. -/
theorem witness_queue_set_lock : EndsOk cmdQueueSet (ask devU .normal 0x22 [0x1001, 0x40, 0, at_ 10 1, at_ 16 0xFFFF ||| 7, 0]) .normal := by decide +kernel
def devSp : State := { dev 0 with spreads := [(15, { members := [0] })] }
def devGr : State := { devG with gangs := [(127, { defined := true, members := [0] })] }
theorem witness_reservations : EndsOk cmdRouteResv (ask devSp .normal 0x23 [at_ 30 2, at_ 0 15 ||| at_ 12 1 ||| at_ 16 65]) .normal ∧ spreadCell devSp 15 = some 3 ∧ spreadPos devSp 15 = 15 ∧
    bits (at_ 0 15 ||| at_ 12 1 ||| at_ 16 65) 12 2 = 1 ∧ EndsOk cmdRouteResv (ask devGr .normal 0x23 [at_ 30 2, at_ 0 127 ||| at_ 12 2 ||| at_ 16 64]) .normal ∧
    bits (at_ 0 127 ||| at_ 12 2 ||| at_ 16 64) 12 2 = 2 ∧ gangCell devGr 127 = some 5 ∧ gangPos devGr 127 = 127 := by decide +kernel
def devIn : State := ask ((dev 0).modCell 1 fun c => { c with ledgerHold := some tok }) .normal 0x13 [1, 1]
theorem witness_disable : Waits devIn .normal 0x13 ∧ EndsOk cmdDisable devIn .normal ∧ 1 ∈ rangeCells devIn (callOf devIn .normal) ∧ tokenInside devIn 1 = true ∧
    (devIn.cell 1).en = true ∧ tokenInside devIn 0 = false := by decide +kernel

/-- Ronuo, the sideband, stakes and supplies. -/
theorem witness_boot_cold : ¬ (((devBoot 0).modPwr fun p => { p with cold := false }).pwr.cold = true ∧ (devBoot 0).pwr.hubl = .on) ∧
    ¬ ((devAct.modPwr fun p => { p with cold := false }).pwr.cold = true ∧ devAct.pwr.hubl = .on) ∧
    (devHalt.pwr.wakeEn.getLsbD 0 = false ∨ devHalt.pwr.rst = true ∨ (devHalt.pwr.hubl = .on ∧ devHalt.pwr.closing = false)) ∧ (dev 0).pwr.rst = false := by decide +kernel
theorem witness_recovery_wakes : (devK .keep).pwr.mode = .keep ∧ (devK .keep).pwr.toSleep = false ∧ (devK .keep).pwr.hubl ≠ .on ∧ (devK .keep).isl.fw = .running ∧
    (devK .keep).pwr.wakeEn.getLsbD 0 = true := by decide +kernel
theorem witness_stakes_of_memory : wantM ((devX fun o => { o with bring := 1, tries := 2 }).modPwr fun p => { p with stakes := [(0, .outM 11)] }) 11 = true ∧
    wantL ((devX fun o => { o with bring := 1, tries := 2 }).modPwr fun p => { p with stakes := [(0, .outM 11)] }) 11 = false ∧
    wantM (devX fun o => { o with bring := 1, tries := 2 }) 11 = false ∧ ((devX fun o => { o with logic := .off }).op 11).mem ≠ .failed := by decide +kernel
theorem witness_supply_returns : ((devLost.modOp 11 fun o => { o with noSupply := true }).op 11).noSupply = true ∧ wantL devLost 11 = true ∧ ((devLost.modOp 11 fun o => { o with noSupply := true }).op 11).bring = 0 ∧
    populated devLost 11 = true := by decide +kernel
theorem witness_chord_waits : linkIdle (devK .keep) 0 = true ∧ linkIdle { dev 11 with net := [failed1] } 11 = false := by decide +kernel
theorem witness_expiry_due : ((dev 0).modPwr fun p => { p with swLeft := 0 }).pwr.swLeft = 0 ∧ swdtCounts ((dev 0).modPwr fun p => { p with swLeft := 0 }) = true ∧
    ((dev 0).modPwr fun p => { p with swLeft := 1 }).pwr.swLeft ≠ 0 ∧ swdtCounts ((devK .keep).modPwr fun p => { p with swLeft := 0 }) = true ∧ srcOn (devK .keep) .swdt = true := by decide +kernel
theorem witness_off : ((dev 0).modPwr fun p => { p with mode := .off }).pwr.mode = .off ∧ devHalt.parity = [] := by decide +kernel

/-! ## Single steps and values that the spec's examples give -/

/-- The response data of one command. -/
def answer (s : State) (c : Instr) : BitVec 64 := match exec c s with | .next t => t.out.data | _ => 0
def after (s : State) (c : Instr) : State := match exec c s with | .next t => t | _ => s

/-- The check value of CRC-32C over "123456789", and the SHA-384 example of FIPS 180-4 ("abc"). -/
theorem test_crc : crc32c [0x31, 0x32, 0x33, 0x34, 0x35, 0x36, 0x37, 0x38, 0x39] = 0xE3069283 := by decide +kernel
theorem test_sha : sha384 [0x61, 0x62, 0x63] =
    0xcb00753f45a35e8bb5a03d699ac65007272c32ab0eded1631a8b605a43ff5bed8086072ba1e7cc2358baeca134c825a7 := by decide +kernel
/-- A signature over another digest does not verify. -/
theorem test_signature : fwSigned devFw fwImg = true ∧ fwSigned devFw { fwImg with version := 0x0306 } = false := by decide +kernel
/-- R141, R143: the example of file 04. -/
theorem test_stamp : age23 0x0000001234009000 0x7FF000 = 40960 ∧ extendStamp 0x0000001234009000 0x7FF000 = 0x0000001233FFF000 := by decide +kernel
/-- R7, R162: the rank cell of station 363, the eight rank cells of outpost 7 being local numbers 40 to 47. -/
theorem test_rank_cell : rankCell { State.reset with cells := (List.range 8).map fun i => (1256 + i, cl 3 i) } 363 = some 1259 := by decide +kernel
/-- R169: the winner 0x0_0C04 of rank 0x40 against running ranks 0x60 and 0x5F with PRE_BITS 3. -/
def devP3 (r : Rank) : State := withGrp (dev 7) 336 .normal { seats := [{ cand := { evid := 0xC04, rank := 0x40 } }], preBits := 3, maskOpen := true, stack := [{ evid := 0x13000, running := r }] }
theorem test_preemption : reqLevel (devP3 0x60) 336 .normal = true ∧ reqLevel (devP3 0x5F) 336 .normal = false := by decide +kernel
/-- R174: the example of file 05: the least load of the lowest number. -/
def devLoad : State := { State.reset with views := ([2, 1, 1, 3, 2, 4, 1, 2] : List Nat).zipIdx.map fun x => (viewKey 3 (48 + x.2) .normal, x.1) }
theorem test_least_load : leastLoad devLoad 3 .normal [48, 49, 50, 51, 52, 53, 54, 55] = some 49 ∧
    leastLoad (viewAdd devLoad 3 49 .normal) 3 .normal [48, 49, 50, 51, 52, 53, 54, 55] = some 50 := by decide +kernel
/-- R268, R273: the example of file 08: threshold 666, ratios 705, 942, 960 and 1,006. -/
theorem test_guard_ratio : ({ coef := 800, margin := 200 } : Cell).thresh = 666 ∧
    ([470, 628, 640, 671].map fun r => ({ coef := 800, margin := 200, rodPs := r } : Cell).ratio) = [705, 942, 960, 1006] := by decide +kernel
theorem test_guard_trip : ((after ((dev 0).modCell 768 fun c => { c with coef := 800, margin := 200 }) (.rodMeasurement 768 671)).cell 768).tripped = true ∧
    ((after ((dev 0).modCell 768 fun c => { c with coef := 800, margin := 200 }) (.rodMeasurement 768 640)).cell 768).tripped = false := by decide +kernel
/-- R276: the lease of station 200 from setting 24 with 17 and 2 units taken. -/
theorem test_lease : (24 * (17 + 1) / (2 + 1 + (17 + 1)) = 20) := by decide
/-- R303: folding on a COMPACT plat. -/
theorem test_compact : foldOff true 0x1404 = 0x404 ∧ foldOff true 0x15AC0A0 = pageOffset 363 .normal 0x20 ∧ foldOff true 0x63290D4 = vstBase 9001 + 0x54 ∧
    foldOff false 0x1404 = 0x1404 := by decide +kernel
/-- R329: VST_WHERE of a context of home station 200 that is not resident. -/
theorem test_vst_where : answer (withCtx (dev 0) 9001 { bound := true, home := 200 }) (.rcRegisterRead (vstBase 9001 + 0x4C) {}) = 0x03FF00C8 ∨
    contextCell (dev 0) 9001 = none := by decide +kernel
/-- R294: the read of HUB_GUARD_STATUS returns TRIP_SEEN and clears it. -/
theorem test_read_clears : answer ((dev 0).modHub fun h => { h with tripSeen := true }) (.rcRegisterRead 0x480 {}) &&& 4 = 4 ∧
    answer (after ((dev 0).modHub fun h => { h with tripSeen := true }) (.rcRegisterRead 0x480 {})) (.rcRegisterRead 0x480 {}) &&& 4 = 0 := by decide +kernel
/-- R306: a counter at 0xFFFF_FFFF_FFFE: the second increment wraps it and sets OVF. -/
theorem test_counter_wraps : let x := bumpCell (bumpCell { ctrSel := 1, ctrs := [(0, 0xFFFFFFFFFFFE)] } 1) 1
    tget 0 x.ctrs 0 = 0 ∧ x.ovf = 1 := by decide +kernel
/-- R346: RESP1 of GET_INFO: Wairo 3.4 in slot A, slot B committed. -/
theorem test_get_info : getW ((after (ask ((dev 0).modIsl fun x => { x with b := { st := .committed, version := 0x0303, seq := 11 } }) .normal 0x01 []) (.getInfo .normal)).mbxN).resp 1 =
    0x00020304 := by decide +kernel
/-- R200: a BITS value above 8 stores 8. R216: a read of STN_SEND_STATUS clears REJECTED. -/
theorem test_pre_bits : ((after (dev 11) (.stnPreBits 575 .secure 9 secAcc)).grp 575 .secure).preBits = 8 := by decide +kernel
theorem test_send_status : ((after (withGrp (dev 11) 575 .normal { rejected := true }) (.stnSendStatus 575 .normal {})).grp 575 .normal).rejected = false := by decide +kernel
/-- R488: 58 V is a surge, above 60 V the model stops. -/
theorem test_surge : (after (dev 0) (.auxinSurgeLimit 58000)).pwr.mode = .off ∧ exec (.auxinSurgeLimit 60001) (dev 0) = .fault .absoluteMaximum := ⟨by decide +kernel, rfl⟩
/-- R57: the failed cell of slot 1,245 is replaced by the cell of the lowest spare slot, and CELL_PHYS reads 1,272. -/
def devBist : State := { dev 7 with cells := (List.range 56).map fun i => (1216 + i, cl 4 i) }
theorem test_substitution : (((selfTest devBist 7 [1245]).cell 1245).phys, ((selfTest devBist 7 [1245]).cell 1272).bist) = (some 1272, 2) := by decide +kernel
/-- R10, R113: a SEND of EVID 0 goes nowhere. -/
theorem test_send_zero : (after (dev 11) (.stnSend 575 .normal 0 {})).net = [] := by decide +kernel
/-- R279: an arbitration of the ledger cell that overruns is counted, and the token is served. R152: a ring whose write fails counts as full. -/
def devOver : State := { devT (countQ 0) with ecc := [(.mutex ((ledgerCell (devT (countQ 0)) 0x1001).getD 0), true)] }
theorem test_mutex_watch : (after devOver (.ledgerTake 0x1001)).hub.mutexCnt = 1 ∧ ((after devOver (.ledgerTake 0x1001)).queue 0x1001).count = 1 ∧
    (after devOver (.ledgerTake 0x1001)).ecc = [] := by decide +kernel
def devRing : State := ({ dev 0 with fb := { recs := List.replicate 8192 rec1 }, ecc := [(.ring, true)] } : State).modCell ((roleCell (dev 0) 12 roleLedger 0).getD 0)
  fun c => { c with plat := putW c.plat 0x12 12 }
theorem test_ring_error : fbFull devRing = false ∧ fbFull (ringProbe devRing) = true ∧ (ringProbe devRing).fb.ringErr = true := by decide +kernel

end Sys2Proof.Tests
end

section
/-! SUPPORT. The numbering of units, stations and inputs (R6 to R8, R27). -/

namespace Sys2Proof.Machine

open Sys2Proof

/-- The hub's cells come first (R7). -/
theorem unitOf_hub {c : Nat} (h : c < 768) : unitOf c = 12 := by simp [unitOf, h]

/-- The 64 cells of each outpost follow, outpost by outpost (R7). -/
theorem unitOf_outpost {k c : Nat} (h1 : 768 + 64 * k ≤ c) (h2 : c ≤ 831 + 64 * k) : unitOf c = k := by
  unfold unitOf
  rw [if_neg (by omega)]
  omega

/-- A role's cell stands in the unit that is asked for it, whatever the plat (R50). -/
theorem unitOf_roleCell {s : State} {u r i c : Nat} (h : roleCell s u r i = some c) : unitOf c = u := by
  obtain ⟨e, he, rfl⟩ := Option.map_eq_some_iff.mp h
  have hp := List.find?_some he
  simp only [Bool.and_eq_true, decide_eq_true_eq] at hp
  exact hp.1.1

/-- A station is served on the die that its number names (R8). -/
theorem unitOf_deliveryCell {s : State} {n c : Nat} (h : deliveryCell s n = some c) : unitOf c = n / 48 := unitOf_roleCell h

/-- A wired input is taken in by the unit that owns its EVID (R27, R124). -/
theorem unitOf_intakeCell {s : State} {e c : Nat} (h : intakeCell s e = some c) : unitOf c = ownerUnit e := by
  unfold intakeCell at h
  unfold ownerUnit
  split at h <;> rename_i hw
  · rw [if_pos hw]; exact unitOf_roleCell h
  · rw [if_neg hw]; exact unitOf_roleCell h

/-- The EVIDs of an outpost's inputs: wired, owned by that outpost, in the order of the inputs (R27). -/
theorem outpostInput_numbering {k i : Nat} (hk : k < 12) (hi : i < 256) :
    isWired (1 + 256 * k + i) = true ∧ ownerUnit (1 + 256 * k + i) = k ∧ evidInput (1 + 256 * k + i) = i := by
  have ho : isOutpostWired (1 + 256 * k + i) = true := by simp [isOutpostWired]; omega
  refine ⟨?_, ?_, ?_⟩
  · simp [isWired]; omega
  · rw [ownerUnit, if_pos ho, evidDie]; omega
  · rw [evidInput, if_pos ho]; omega

/-- The EVIDs of the hub's inputs: wired, owned by the hub, in the order of the inputs (R27). -/
theorem hubInput_numbering {j : Nat} (hj : j < 1024) :
    isWired (0xC01 + j) = true ∧ ownerUnit (0xC01 + j) = 12 ∧ evidInput (0xC01 + j) = j := by
  have ho : ¬ isOutpostWired (0xC01 + j) = true := by simp [isOutpostWired]; omega
  refine ⟨?_, ?_, ?_⟩
  · simp [isWired]; omega
  · rw [ownerUnit, if_neg ho]
  · rw [evidInput, if_neg ho]; omega

/-- Settles O6: each numbering is arithmetic on the number, and a cell found by its role lies in the unit that was asked for it. -/
theorem unitsStationsAndInputsAreNumbered : Obligations.UnitsStationsAndInputsAreNumbered := by
  refine ⟨fun c => unitOf_hub, fun k c _ => unitOf_outpost, ?_, ?_, ?_⟩
  · intro s die core thread c _ hcore hthread
    have hdie : (die * 48 + core * 2 + thread) / 48 = die := by omega
    exact ⟨hdie, fun h => (unitOf_deliveryCell h).trans hdie⟩
  · intro s k i hk hi
    obtain ⟨hwired, howner, hinput⟩ := outpostInput_numbering hk hi
    exact ⟨hwired, howner, hinput, fun c h => (unitOf_intakeCell h).trans howner⟩
  · intro s j hj
    obtain ⟨hwired, howner, hinput⟩ := hubInput_numbering hj
    exact ⟨hwired, howner, hinput, fun c h => (unitOf_intakeCell h).trans howner⟩

end Sys2Proof.Machine
end

section
/-! SUPPORT. Single accesses of the registers that the hub serves: one rule for a write, one for a read, one for each refusal (R281). -/

namespace Sys2Proof.Machine

open Sys2Proof

/-! ## Accesses below the doorbell windows -/

/-- A word of the register window that the hub serves: it lies below the doorbell windows and the pages, no decode mode folds it
onto another, and a register map row names it (R302, R303). -/
structure HubReg (s : State) (off : Nat) : Prop where
  aligned : off % 4 = 0
  below : off < 0x400000
  fold : foldOff s.hub.compact off = off
  impl : implemented s off = true

/-- The first registers of the hub block. -/
theorem hubReg_low (s : State) {off : Nat} (h4 : off % 4 = 0) (hlt : off < 0x1000) (hi : hubImpl off = true) : HubReg s off where
  aligned := h4
  below := by omega
  fold := fold_low _ _ hlt
  impl := by rw [implemented, if_pos (by omega)]; exact hi

/-- The first registers of the power block. -/
theorem hubReg_pwr (s : State) {o : Nat} (h4 : o % 4 = 0) (hlt : o < 0x1000) (hi : pwrImpl o = true) : HubReg s (0x20000 + o) where
  aligned := by omega
  below := by omega
  fold := fold_pwr _ _ (by omega) (by omega)
  impl := by
    rw [implemented, if_neg (by omega), if_neg (by omega), if_neg (by omega), if_pos (by omega), Nat.add_sub_cancel_left]
    exact hi

/-- The block of cell `c` holds the offsets from its base on. -/
theorem offCell_cellBase (c : Nat) {o : Nat} (ho : o < 0x200) : offCell (cellBase c + o) = c := by unfold offCell cellBase; omega
theorem cellBase_mod (c : Nat) {o : Nat} (ho : o < 0x200) : (cellBase c + o) % 0x200 = o := by unfold cellBase; omega
theorem cellBase_ge (c o : Nat) : 0x100000 ≤ cellBase c + o := by unfold cellBase; omega
theorem cellBase_lt {c o : Nat} (hc : c < 1536) (ho : o < 0x200) : cellBase c + o < 0x1C0000 := by unfold cellBase; omega

/-- The registers of a cell that answers. -/
theorem hubReg_cell {s : State} {c o : Nat} {a : Acc} (hr : CellReady s c a) (h4 : o % 4 = 0) (ho : o < 0x200) :
    HubReg s (cellBase c + o) := by
  obtain ⟨-, hc, hu⟩ := hr
  have hge := cellBase_ge c o
  have hlt := cellBase_lt hc ho
  refine ⟨by unfold cellBase; omega, by omega, fold_cell _ _ hge (by omega), ?_⟩
  rw [implemented, if_neg (by omega), if_neg (by omega), if_neg (by omega), if_neg (by omega), if_pos (by omega), cellImpl,
    offCell_cellBase c ho]
  simpa using hu

/-- The doorbell windows and the pages begin above these offsets (R102, R191). -/
theorem dbWindow_below (s : State) {off : Nat} (h : off < 0x400000) : dbWindow s off = none := by
  rw [dbWindow, if_neg (by omega), if_neg (by omega)]
theorem servingDie_below {s : State} {r : HeldAcc} (hx : r.offset < 0x400000) (hf : foldOff s.hub.compact r.offset = r.offset) :
    servingDie s r = none := servingDie_hub s r (by rw [hf]; simp [onPage]; omega)

/-- Below the doorbell windows and the pages an access that is served goes to the hub's registers (R102, R281). -/
theorem regAccess_hub {s : State} {r : HeldAcc} (hs : Serves s r.acc) (hx : r.offset < 0x400000)
    (hf : foldOff s.hub.compact r.offset = r.offset) : regAccess s r = serveReg s r := by
  obtain ⟨hon, hrst, hwaits, hheld⟩ := hs
  have hd := servingDie_below hx hf
  have hm : mustWait s r = false := by simpa [mustWait, hd, hwaits] using hheld
  rw [regAccess, serveWaits_nil s hwaits, regServe]
  simp [hon, hrst, hm, dbWindow_below s hx, hd, forwarded, returnedAcc]
  omega

/-- A 32-bit access of a register of the hub that its security allows is carried out at once (R20, R281). -/
theorem regAccess_hubReg {s : State} {r : HeldAcc} (hs : Serves s r.acc) (hz : r.acc.size = .b32) (hr : HubReg s r.offset)
    (hsec : (needsSec r.offset && !r.acc.sec) = false) :
    regAccess s r = if r.write then respond (writeWord s r r.offset (lo32 r.data)) 0 false
      else if (readWord s r.offset).1.held then tagHeld (readWord s r.offset).2 r.acc.tag false
      else respond (readWord s r.offset).2 ((readWord s r.offset).1.data.zeroExtend 64) (readWord s r.offset).1.err := by
  obtain ⟨h4, hlt, hf, hi⟩ := hr
  have hd := servingDie_below hlt hf
  have h := regAccess_word s s r hs (by simp [hd]) (by omega) (dbWindow_below s hlt) hf h4 hz hi hsec (by rw [hd]; rfl) (.inl hd)
  simpa only [hd, returnedAcc] using h

/-- A write of a register of the hub. -/
theorem access_write {s : State} {off : Nat} (data : BitVec 64) {a : Acc} (hs : Serves s a) (hz : a.size = .b32) (hr : HubReg s off)
    (hsec : (needsSec off && !a.sec) = false) :
    access s off true data a = .next (respond (writeWord s ⟨off, true, data, a⟩ off (lo32 data)) 0 false) := by
  rw [access, regAccess_hubReg hs hz hr hsec, if_pos rfl]

/-- No read below the pages is held or answered with an error. -/
theorem readWord_answers {s : State} {off : Nat} (h : off < 0x400000) :
    (readWord s off).1.held = false ∧ (readWord s off).1.err = false := by
  unfold readWord
  rw [if_neg (by simp [onPage]; omega)]
  dsimp only
  repeat' split
  all_goals exact ⟨rfl, rfl⟩

/-- A read of a register of the hub. -/
theorem access_read {s : State} {off : Nat} {a : Acc} (hs : Serves s a) (hz : a.size = .b32) (hr : HubReg s off)
    (hsec : (needsSec off && !a.sec) = false) :
    access s off false 0 a = .next (respond (readWord s off).2 ((readWord s off).1.data.zeroExtend 64) false) := by
  obtain ⟨hheld, herr⟩ := readWord_answers (s := s) hr.below
  rw [access, regAccess_hubReg hs hz hr hsec]
  simp only [hheld, herr, Bool.false_eq_true, if_false]

/-- A non-secure access of a register that asks for a secure one is refused with an error (R281, R287). -/
theorem access_refused {s : State} {off : Nat} (write : Bool) (data : BitVec 64) {a : Acc} (hs : Serves s a) (hz : a.size = .b32)
    (hr : HubReg s off) (hsec : needsSec off = true) (ha : a.sec = false) :
    access s off write data a = .next (respond (refuse s ⟨off, write, data, a⟩ off) 0 true) := by
  obtain ⟨h4, hlt, hf, hi⟩ := hr
  have hw : wordOff off = off := by unfold wordOff; omega
  rw [access, regAccess_hub hs hlt hf]
  simp [serveReg, serveWord, hf, hz, hw, hi, hsec, ha, sizeBytes, h4]

/-- A write of one byte of a register of the hub is a fault of its width, and answers zero (R283). -/
theorem access_narrowWrite {s : State} {off : Nat} (data : BitVec 64) {a : Acc} (hs : Serves s a) (hz : a.size = .b8)
    (hf : foldOff s.hub.compact off = off) (hr : HubReg s (wordOff off)) (hsec : needsSec (wordOff off) = false) :
    access s off true data a = .next (respond (widthFault s ⟨off, true, data, a⟩ 1) 0 false) := by
  have hlt := hr.below
  unfold wordOff at hlt
  rw [access, regAccess_hub hs (by show off < _; omega) hf]
  simp [serveReg, serveWord, hf, hz, hr.impl, hsec, sizeBytes, Nat.mod_one]

end Sys2Proof.Machine
end

section
/-! SUPPORT. What the register accesses of R20, R83, R116, R283, R290, R294, R298, R404, R464 and R465 change. -/

namespace Sys2Proof.Machine

open Sys2Proof

/-! ## Access faults -/

/-- The access capture is all that noting an access fault changes (R289). -/
theorem accNote_eq (s : State) (r : HeldAcc) (n : Nat) : ∃ x, accNote s r n = { s with hub := { s.hub with accCap := x } } := by
  unfold accNote State.modHub
  dsimp only
  split
  · exact ⟨s.hub.accCap, rfl⟩
  · exact ⟨_, rfl⟩

/-- The end of an aggregation interval changes nothing but the island (R477). -/
theorem aggFlush_eq (s : State) (code key : Nat) : ∃ x, aggFlush s code key = { s with isl := x } := by
  unfold aggFlush
  repeat' split
  all_goals exact ⟨_, rfl⟩

/-- An aggregated entry changes nothing but the island (R477). -/
theorem logAgg_eq (s : State) (code unit : Nat) (sec : Bool) (a0 a1 : Word) (key : Nat) :
    ∃ x, logAgg s code unit sec a0 a1 key = { s with isl := x } := by
  obtain ⟨x, hx⟩ := aggFlush_eq s code key
  obtain ⟨y, hy⟩ := aggFlush_eq { s with isl := x } code key
  unfold logAgg
  dsimp only
  rw [hx, hy]
  split <;> exact ⟨_, rfl⟩

/-- ACCESS_WIDTH of a hub that is on: the seen bit, the count and the occurrence of R476, and the aggregated entry of R477. -/
theorem accRaise_width_eq {s : State} (r : HeldAcc) (hon : s.pwr.hubl = .on) (hrst : s.pwr.rst = false) :
    ∃ seen cnt net isl, accRaise s r 0x01 = { s with hub := { s.hub with seen := seen, faultCnt := cnt }, net := net, isl := isl } := by
  have hr : ∀ u sec a0 a1 a2 k, raise s 0x01 u sec a0 a1 a2 (some k) = logAgg (raiseHub s 0x01 0) 0x01 u sec a0 a1 k := by
    intros
    simp [raise, faultParcel, hon, hrst]
  rw [accRaise, hr]
  obtain ⟨x, hx⟩ := logAgg_eq (raiseHub s 0x01 0) 0x01 (offUnit (foldOff s.hub.compact r.offset)) false (w32 r.offset)
    (at_ 0 r.acc.tag.toNat ||| at_ 16 (sizeCode r.acc.size) ||| flag 18 r.write ||| flag 19 r.acc.sec) 0
  exact ⟨_, _, _, x, hx⟩

/-- A fault of an access's width counts it, shows it in the seen bits and the capture, and raises ACCESS_WIDTH (R283, R289). -/
theorem widthFault_eq {s : State} (r : HeldAcc) (n : Nat) (hon : s.pwr.hubl = .on) (hrst : s.pwr.rst = false) :
    ∃ cap seen cnt net isl, widthFault s r n = { s with
      hub := { s.hub with accWidth := satInc s.hub.accWidth, accSeen := s.hub.accSeen ||| 1, accCap := cap, seen := seen, faultCnt := cnt }
      net := net, isl := isl } := by
  unfold widthFault
  obtain ⟨cap, hcap⟩ := accNote_eq (s.modHub fun h => { h with accWidth := satInc h.accWidth, accSeen := h.accSeen ||| 1 }) r n
  rw [hcap]
  obtain ⟨seen, cnt, net, isl, h⟩ := accRaise_width_eq (s := { s with
    hub := { s.hub with accWidth := satInc s.hub.accWidth, accSeen := s.hub.accSeen ||| 1, accCap := cap } }) r hon hrst
  exact ⟨cap, seen, cnt, net, isl, h⟩

/-- A refused access of a register that is no secure station page counts as denied and is captured (R287, R289). -/
theorem refuse_eq (s : State) (r : HeldAcc) {off : Nat} (h : securePage off = false) :
    ∃ cap, refuse s r off = { s with
      hub := { s.hub with accDenied := satInc s.hub.accDenied, accSeen := s.hub.accSeen ||| 8, accCap := cap } } := by
  simp only [refuse, h, Bool.false_and, Bool.false_eq_true, if_false]
  exact accNote_eq _ r 6

/-! ## The hub block -/

/-- A register of the hub block takes a write by its own row (R297, R298). -/
theorem writeWord_low (s : State) (r : HeldAcc) {off : Nat} (data : Word) (h : off < 0x500) : writeWord s r off data = hubWrite s off data := by
  have hp : ¬ onPage off = true := by simp [onPage]; omega
  have ht : testWord off = 0 := by rw [testWord, if_neg (by omega), if_neg (by omega)]
  rw [writeWord, if_neg hp, if_neg (by simp [ht]), if_pos (by omega)]

/-- A register whose value is its own, with no parity mismatch, is used without any change (R81). -/
theorem readParity_clean {s : State} {off : Nat} (hlt : off < 0x400000) (hp : off ∉ s.parity) (hrod : off ≠ 0x484)
    (hcell : 0x100000 ≤ off → off % 0x200 ≠ 0x108) : readParity s off = s := by
  have hpage : ¬ onPage off = true := by simp [onPage]; omega
  rw [readParity, if_neg hpage, parityCheck, if_neg hp, if_neg hrod, if_neg fun h => hcell h.1 h.2.2]

/-- A read of a register of the hub block without a parity mismatch answers its value and clears the flags that it returns (R20, R294). -/
theorem readWord_low (s : State) {off : Nat} (h : off < 0x484) (hp : off ∉ s.parity) :
    readWord s off = ({ data := hubPeek s off }, hubClear s off) := by
  rw [readWord, if_neg (by simp [onPage]; omega), readParity_clean (by omega) hp (by omega) (by omega)]
  exact if_pos (by omega)

/-- Of the registers of the hub block HUB_SPEED_CFG alone asks for a secure access (R287). -/
theorem needsSec_low {off : Nat} (h : off < 0x500) (hne : off ≠ 0x490) : needsSec off = false := by
  simp [needsSec, securePage, onPage]
  omega

/-- A 32-bit write of a register of the hub block. -/
theorem access_write_low {s : State} {off : Nat} (data : BitVec 64) {a : Acc} (hs : Serves s a) (hz : a.size = .b32)
    (h4 : off % 4 = 0) (hlt : off < 0x500) (hne : off ≠ 0x490) (hi : hubImpl off = true) :
    access s off true data a = .next (respond (hubWrite s off (lo32 data)) 0 false) := by
  rw [access_write data hs hz (hubReg_low s h4 (by omega) hi) (by simp [needsSec_low hlt hne]), writeWord_low _ _ _ hlt]

/-- A 32-bit read of a register of the hub block. -/
theorem access_read_low {s : State} {off : Nat} {a : Acc} (hs : Serves s a) (hz : a.size = .b32)
    (h4 : off % 4 = 0) (hlt : off < 0x484) (hi : hubImpl off = true) (hp : off ∉ s.parity) :
    access s off false 0 a = .next (respond (hubClear s off) ((hubPeek s off).zeroExtend 64) false) := by
  rw [access_read hs hz (hubReg_low s h4 (by omega) hi) (by simp [needsSec_low (off := off) (by omega) (by omega)]), readWord_low s hlt hp]

/-! ## The secure watchdog -/

/-- The service word restarts the watchdog with its period (R404). -/
theorem pwrWrite_service {s : State} {data : Word} (hd : bits data 0 8 = 0xA5) (hp : 0x20200 ∉ s.parity) :
    pwrWrite s 0x204 data = { s with
      pwr := { s.pwr with swStage := false, swDone := false, swLeft := s.pwr.swPeriod, swNs := 0 }
      parity := s.parity.filter (· ≠ 0x20204) } := by
  have hc : parityCheck (parityClear s 0x20204) 0x20200 = parityClear s 0x20204 := by
    rw [parityCheck, if_neg (show 0x20200 ∉ (parityClear s 0x20204).parity from fun h => hp (List.mem_of_mem_filter h))]
  simp only [pwrWrite, hd, if_true, swdtService, hc]
  rfl

/-! ## Cells' counters -/

/-- A read of CELL_CTR_CAPTURE latches the counters (R464). -/
theorem readWord_ctrCapture {s : State} {c : Nat} (hc : c < 1536) (hp : cellBase c + 0x1AC ∉ s.parity) :
    readWord s (cellBase c + 0x1AC) = ({ data := (ctrCapture s c).1 }, (ctrCapture s c).2) := by
  have hge := cellBase_ge c 0x1AC
  have hlt := cellBase_lt hc (show 0x1AC < 0x200 by decide)
  have hmod := cellBase_mod c (show 0x1AC < 0x200 by decide)
  have hcell := offCell_cellBase c (show 0x1AC < 0x200 by decide)
  generalize cellBase c + 0x1AC = x at *
  rw [readWord, if_neg (by simp [onPage]; omega), readParity_clean (by omega) hp (by omega) (by omega)]
  dsimp only
  rw [if_neg (by omega), if_neg (by omega), if_neg (by omega), if_neg (by omega), if_neg (by omega), if_pos hmod, hcell]

/-- A write of CELL_CTR_CTRL changes the counters of its cell (R465). -/
theorem writeWord_ctrCtrl {s : State} (r : HeldAcc) {c : Nat} (hc : c < 1536) (data : Word) :
    writeWord s r (cellBase c + 0x1A4) data = s.modCell c fun x => writeCtrCtrl x data := by
  have hge := cellBase_ge c 0x1A4
  have hlt := cellBase_lt hc (show 0x1A4 < 0x200 by decide)
  have hmod := cellBase_mod c (show 0x1A4 < 0x200 by decide)
  have hcell := offCell_cellBase c (show 0x1A4 < 0x200 by decide)
  generalize cellBase c + 0x1A4 = x at *
  have hpage : ¬ onPage x = true := by simp [onPage]; omega
  have ht : testWord x = 0 := by rw [testWord, if_neg (by omega), if_neg (by omega)]
  rw [writeWord, if_neg hpage, if_neg (by simp [ht]), if_neg (by omega), if_neg (by omega), if_neg (by omega), if_neg (by omega),
    if_pos (by omega), cellWrite]
  simp [hmod, hcell]

theorem needsSec_cellCounters {c o : Nat} (hc : c < 1536) (h1 : 0x180 ≤ o) (h2 : o < 0x200) : needsSec (cellBase c + o) = false := by
  have hge := cellBase_ge c o
  have hlt := cellBase_lt hc h2
  have hmod := cellBase_mod c h2
  simp [needsSec, securePage, onPage, hmod]
  omega

/-- The low byte of what a capture returns is the sequence number that it has just taken (R463). -/
theorem ctrCapWord_seq (x : Cell) : (ctrCapWord x).toNat % 256 = x.ctrSeq.toNat := by
  have h := x.ctrSeq.isLt
  cases hp : x.pair <;> simp [ctrCapWord, flag, at_, hp, Nat.or_mod_two_pow (n := 8)] <;> omega

/-- A capture leaves the word that it answers as the cell's own, and latches the counters of the selected pair (R464). -/
theorem cell_ctrCapture (s : State) (c d : Nat) : (ctrCapture s c).2.cell d = if d = c then { s.cell c with
    ctrSeq := (s.cell c).ctrSeq + 1
    ctrWin := some ((s.cell c).pair, (s.cell c).ovf.getLsbD (if (s.cell c).pair then 2 else 0),
      (s.cell c).ovf.getLsbD ((if (s.cell c).pair then 2 else 0) + 1), tget 0 (s.cell c).ctrs (if (s.cell c).pair then 2 else 0),
      tget 0 (s.cell c).ctrs ((if (s.cell c).pair then 2 else 0) + 1)) } else s.cell d := cell_setCell s c d _
theorem ctrCapture_word (s : State) (c : Nat) : (ctrCapture s c).1 = ctrCapWord ((ctrCapture s c).2.cell c) := by
  rw [cell_ctrCapture, if_pos rfl]
  rfl

/-- WR_GO loads the selected counter from the two halves and clears overflow bits; the others keep what they have (R465). -/
theorem writeCtrCtrl_go (x : Cell) (data : Word) :
    (∀ n, tget 0 (writeCtrCtrl x (data ||| 8)).ctrs n =
      if n = (data.extractLsb' 1 2).toNat then data.extractLsb' 16 16 ++ x.wrLo else tget 0 x.ctrs n) ∧
    (writeCtrCtrl x (data ||| 8)).ovf = x.ovf &&& ~~~(data.extractLsb' 4 4) ∧ (writeCtrCtrl x (data ||| 8)).pair = data.getLsbD 0 := by
  have hidx : (data ||| 8).extractLsb' 1 2 = data.extractLsb' 1 2 := by simp [BitVec.extractLsb'_or]
  have hclr : (data ||| 8).extractLsb' 4 4 = data.extractLsb' 4 4 := by simp [BitVec.extractLsb'_or]
  have hhi : (data ||| 8).extractLsb' 16 16 = data.extractLsb' 16 16 := by simp [BitVec.extractLsb'_or]
  have hgo : (data ||| 8).getLsbD 3 = true := by simp
  have hpair : (data ||| 8).getLsbD 0 = data.getLsbD 0 := by simp
  simp only [writeCtrCtrl, hidx, hclr, hhi, hgo, hpair, if_true, tget_tset, implies_true, and_self]

/-- OVF_CLR clears overflow bits, and without WR_GO no counter changes (R465). -/
theorem writeCtrCtrl_ovf (x : Cell) (data : Word) :
    (writeCtrCtrl x data).ovf = x.ovf &&& ~~~(data.extractLsb' 4 4) ∧ (data.getLsbD 3 = false → (writeCtrCtrl x data).ctrs = x.ctrs) := by
  unfold writeCtrCtrl
  cases data.getLsbD 3
  · exact ⟨rfl, fun _ => rfl⟩
  · exact ⟨rfl, fun h => by simp at h⟩

/-! ## Wairo's copy of the tuning registers -/

/-- With no parity mismatch standing, the rod registers are used without any change (R81). -/
theorem rodParityAll_clean {s : State} (cs : List Nat) (h : s.parity = []) : rodParityAll s cs = s := by simp [rodParityAll, h]

/-- Noting the release of SPEED_REQ changes the hub alone (R274). -/
theorem speedNote_eq (s0 s : State) : ∃ x, speedNote s0 s = { s with hub := x } := by
  unfold speedNote State.modHub
  split
  · exact ⟨s.hub, rfl⟩
  · exact ⟨_, rfl⟩

/-- An entry goes behind those that wait, or is dropped and counted (R455). -/
theorem log_logged {s u : State} (hisl : u.isl.logQ = s.isl.logQ ∧ u.isl.logDrop = s.isl.logDrop) (code unit : Nat) (sec : Bool)
    (a0 a1 a2 : Word) : Logged s (log u code unit sec a0 a1 a2) code a0 a1 a2 := by
  obtain ⟨hq, hd⟩ := hisl
  simp only [log, logTake, State.modIsl, hq, hd]
  constructor
  · intro h
    rw [if_pos h]
    exact ⟨_, rfl, rfl, rfl, rfl, rfl⟩
  · intro h
    rw [if_neg (by omega)]
    exact ⟨rfl, rfl⟩

/-- A write of a cell's coefficient stores its low half, with its parity, and Wairo copies it (R57, R81, R83). -/
theorem writeTuneWord_coef (s : State) (c : Nat) (data : Word) : ∃ w, writeTuneWord s (cellBase c + 0x100) data = { s with
    cells := (s.modCell c fun x => { x with coef := data.extractLsb' 0 16, safeCoef := false }).cells
    parity := s.parity.filter (· ≠ cellBase c + 0x100)
    isl := { s.isl with journal := tput (cellBase c + 0x100) w s.isl.journal } } := by
  have hc := offCell_cellBase c (show 0x100 < 0x200 by decide)
  have hm := cellBase_mod c (show 0x100 < 0x200 by decide)
  have hv : (data &&& 0xFFFF).extractLsb' 0 16 = data.extractLsb' 0 16 := by
    rw [BitVec.extractLsb'_and]
    exact BitVec.and_allOnes
  refine ⟨data &&& 0xFFFF, ?_⟩
  simp only [writeTuneWord, hc, hm, tuneValue, if_true, hv]
  rfl

/-- The coefficient of a cell is a register of Wairo's copy (R83). -/
theorem tuned_coef {c : Nat} (hc : c < 1536) : tuned (cellBase c + 0x100) = true := by
  have hge := cellBase_ge c 0x100
  have hlt := cellBase_lt hc (show 0x100 < 0x200 by decide)
  have hmod := cellBase_mod c (show 0x100 < 0x200 by decide)
  have h4 : (cellBase c + 0x100) % 4 = 0 := by omega
  simp [tuned, hmod, hge, hlt, h4]

end Sys2Proof.Machine
end

section
/-! SUPPORT. The registers answer: one theorem for each kind of access of the statement. -/

namespace Sys2Proof.Machine

open Sys2Proof

/-! ## The hub block and the secure watchdog -/

/-- Arming the doorbell rejection capture again (R116). -/
theorem exec_hubDbRejArm {s : State} {a : Acc} (hs : Serves s a) (hz : a.size = .b32) :
    exec (.hubDbRejArm a) s = .next (respond { s with hub := { s.hub with dbCap := { s.hub.dbCap with valid := false } } } 0 false) :=
  access_write_low 1 hs hz (by decide) (by decide) (by decide) (by decide)

/-- Arming the access capture again (R290). -/
theorem exec_hubAccCapArm {s : State} {a : Acc} (hs : Serves s a) (hz : a.size = .b32) :
    exec (.hubAccCapArm a) s = .next (respond { s with hub := { s.hub with accCap := { s.hub.accCap with valid := false } } } 0 false) :=
  access_write_low 1 hs hz (by decide) (by decide) (by decide) (by decide)

/-- A read of HUB_FAULT_SEEN clears the flags that it returns (R294). -/
theorem exec_read_faultSeen {s : State} {a : Acc} (hs : Serves s a) (hz : a.size = .b32) (hp : 0x300 ∉ s.parity) :
    exec (.rcRegisterRead 0x300 a) s = .next (respond { s with hub := { s.hub with seen := 0 } } (s.hub.seen.zeroExtend 64) false) := by
  have h : hubPeek s 0x300 = s.hub.seen.zeroExtend 32 := rfl
  have hv : (s.hub.seen.zeroExtend 32).zeroExtend 64 = s.hub.seen.zeroExtend 64 := 
    BitVec.eq_of_toNat_eq (by simp)
  rw [← hv, ← h]
  exact access_read_low hs hz (by decide) (by decide) (by decide) hp

/-- A read of a saturating counter answers its value (R305). -/
theorem exec_read_dbFormat {s : State} {a : Acc} (hs : Serves s a) (hz : a.size = .b32) (hp : 0x404 ∉ s.parity) :
    exec (.rcRegisterRead 0x404 a) s = .next (respond s (s.hub.dbFormat.zeroExtend 64) false) :=
  access_read_low hs hz (by decide) (by decide) (by decide) hp

/-- A counter takes the value written (R298, R305). -/
theorem exec_write_dbFormat {s : State} (d : BitVec 64) {a : Acc} (hs : Serves s a) (hz : a.size = .b32) :
    exec (.registerWrite 0x404 d a) s = .next (respond { s with hub := { s.hub with dbFormat := lo32 d } } 0 false) :=
  access_write_low d hs hz (by decide) (by decide) (by decide) (by decide)

/-- The service word that a secure access writes restarts the watchdog (R404). -/
theorem exec_swdtService {s : State} {d : Word} {a : Acc} (hs : Serves s a) (hz : a.size = .b32) (hsec : a.sec = true)
    (hd : d.extractLsb' 0 8 = 0xA5#8) (hp : 0x20200 ∉ s.parity) :
    exec (.swdtService d a) s = .next (respond { s with
      pwr := { s.pwr with swStage := false, swDone := false, swLeft := s.pwr.swPeriod, swNs := 0 }
      parity := s.parity.filter (· ≠ 0x20204) } 0 false) := by
  have hbits : bits d 0 8 = 0xA5 := congrArg BitVec.toNat hd
  have hw : ∀ r, writeWord s r 0x20204 d = pwrWrite s 0x204 d := fun r => rfl
  have h := access_write (d.zeroExtend 64) hs hz (hubReg_pwr s (o := 0x204) (by decide) (by decide) (by decide)) (by simp [hsec])
  rw [lo32_zeroExtend, hw, pwrWrite_service hbits hp] at h
  exact h

/-- A non-secure one is refused and counted (R287, R404). -/
theorem exec_swdtService_refused {s : State} (d : Word) {a : Acc} (hs : Serves s a) (hz : a.size = .b32) (hsec : a.sec = false) :
    ∃ cap, exec (.swdtService d a) s = .next (respond { s with
      hub := { s.hub with accDenied := satInc s.hub.accDenied, accSeen := s.hub.accSeen ||| 8, accCap := cap } } 0 true) := by
  obtain ⟨cap, hcap⟩ := refuse_eq s ⟨0x20204, true, d.zeroExtend 64, a⟩ (off := 0x20204) (by decide)
  refine ⟨cap, ?_⟩
  rw [← hcap]
  exact access_refused true _ hs hz (hubReg_pwr s (o := 0x204) (by decide) (by decide) (by decide)) (by decide) hsec

/-- A write of one byte of a register of the hub block changes the access counters and reports the fault, and nothing else (R283, R287). -/
theorem exec_narrowWrite {s : State} {o : Nat} (d : BitVec 64) {a : Acc} (hs : Serves s a) (hz : a.size = .b8) (ho : o < 0x1000)
    (hi : hubImpl (o / 4 * 4) = true) (hsec : needsSec (o / 4 * 4) = false) :
    ∃ cap seen cnt net isl, exec (.registerWrite o d a) s = .next (respond { s with
      hub := { s.hub with accWidth := satInc s.hub.accWidth, accSeen := s.hub.accSeen ||| 1, accCap := cap, seen := seen, faultCnt := cnt }
      net := net, isl := isl } 0 false) := by
  have ⟨hon, hrst, _⟩ := hs
  obtain ⟨cap, seen, cnt, net, isl, h⟩ := widthFault_eq ⟨o, true, d, a⟩ 1 hon hrst
  refine ⟨cap, seen, cnt, net, isl, ?_⟩
  rw [← h]
  exact access_narrowWrite d hs hz (fold_low _ _ ho) (hubReg_low s (by unfold wordOff; omega) (by unfold wordOff; omega) hi) hsec

/-! ## Cells -/

/-- A counter capture returns its word and latches the counters (R464). -/
theorem exec_cellCtrCapture {s : State} {c : Nat} {a : Acc} (hr : CellReady s c a) (hz : a.size = .b32) (hp : cellBase c + 0x1AC ∉ s.parity) :
    exec (.cellCtrCapture c a) s = .next (respond (ctrCapture s c).2 ((ctrCapture s c).1.zeroExtend 64) false) := by
  have ⟨hs, hc, _⟩ := hr
  have h := access_read hs hz (hubReg_cell hr (o := 0x1AC) (by decide) (by decide))
    (by simp [needsSec_cellCounters hc (o := 0x1AC) (by decide) (by decide)])
  rw [readWord_ctrCapture hc hp] at h
  exact (if_pos hc).trans h

/-- A write of CELL_CTR_CTRL. -/
theorem cellAccess_ctrCtrl {s : State} {c : Nat} (d : Word) {a : Acc} (hr : CellReady s c a) (hz : a.size = .b32) :
    cellAccess c 0x1A4 true d a s = .next (respond (s.modCell c fun x => writeCtrCtrl x d) 0 false) := by
  have ⟨hs, hc, _⟩ := hr
  rw [cellAccess, if_pos hc, access_write _ hs hz (hubReg_cell hr (by decide) (by decide))
    (by simp [needsSec_cellCounters hc (o := 0x1A4) (by decide) (by decide)]), lo32_zeroExtend, writeWord_ctrCtrl _ hc]

/-- An access that changes one cell leaves everything else but the response. -/
theorem respond_modCell_frame (s : State) (c : Nat) (f : Cell → Cell) (v : BitVec 64) (e : Bool) :
    (respond (s.modCell c f) v e).cell c = f (s.cell c) ∧ (∀ d, d ≠ c → (respond (s.modCell c f) v e).cell d = s.cell d) ∧
    respond (s.modCell c f) v e = { s with cells := (respond (s.modCell c f) v e).cells, out := (respond (s.modCell c f) v e).out } := by
  exact ⟨(cell_modCell s c c f).trans (if_pos rfl), fun d hd => (cell_modCell s c d f).trans (if_neg hd), rfl⟩

/-! ## TUNING_REWRITE -/

/-- Wairo writes a coefficient back from its copy and logs it; no other cell changes, and the parity agrees again (R83). -/
theorem exec_tuningRewrite_coef {s : State} {c : Nat} {v : Word} (hc : c < 1536) (hon : s.pwr.hubl = .on) (hw : wairoRuns s = true)
    (hj : ∀ d, tget d s.isl.journal (cellBase c + 0x100) = v) (hp : ∀ x ∈ s.parity, x = cellBase c + 0x100) :
    ∃ t, exec (.tuningRewrite (cellBase c + 0x100)) s = .next t ∧ (t.cell c).coef = v.extractLsb' 0 16 ∧ cellBase c + 0x100 ∉ t.parity ∧
      Logged s t 0x86 (w32 c) 0x100 v ∧ (∀ d, d ≠ c → t.cell d = s.cell d) := by
  have hcell := offCell_cellBase c (show 0x100 < 0x200 by decide)
  have hmod := cellBase_mod c (show 0x100 < 0x200 by decide)
  have hne : cellBase c + 0x100 ≠ 0x490 := by have := cellBase_ge c 0x100; omega
  obtain ⟨w, hwrite⟩ := writeTuneWord_coef s c v
  have hcells : ∀ d, (writeTuneWord s (cellBase c + 0x100) v).cell d =
      if d = c then { s.cell c with coef := v.extractLsb' 0 16, safeCoef := false } else s.cell d := by
    rw [hwrite]
    exact fun d => cell_modCell s c d fun x => { x with coef := v.extractLsb' 0 16, safeCoef := false }
  have hpar : (writeTuneWord s (cellBase c + 0x100) v).parity = [] := by
    rw [hwrite]
    simpa using hp
  have hlog : (writeTuneWord s (cellBase c + 0x100) v).isl.logQ = s.isl.logQ ∧
      (writeTuneWord s (cellBase c + 0x100) v).isl.logDrop = s.isl.logDrop := by
    rw [hwrite]
    exact ⟨rfl, rfl⟩
  refine ⟨rewriteTuning s (cellBase c + 0x100), if_neg (by simp [tuned_coef hc, hw, hon]), ?_⟩
  simp only [rewriteTuning, hj, if_neg hne, hcell, hmod, speedJudge]
  generalize writeTuneWord s (cellBase c + 0x100) v = u at *
  obtain ⟨hub, hnote⟩ := speedNote_eq (rodParityAll s (guardCells s)) u
  rw [rodParityAll_clean _ hpar, hnote]
  refine ⟨congrArg Cell.coef ((hcells c).trans (if_pos rfl)), ?_, log_logged hlog _ _ _ _ _ _, fun d hd => (hcells d).trans (if_neg hd)⟩
  show _ ∉ u.parity
  simp [hpar]

/-! ## The statement -/

/-- Settles O38: each access is served by the rule of its register, and each clause reads its effects off that rule. -/
theorem registersAnswer : Obligations.RegistersAnswer := by
  refine ⟨fun s a hs hz => ⟨⟨_, exec_hubDbRejArm hs hz, rfl⟩, ⟨_, exec_hubAccCapArm hs hz, rfl⟩, fun hp => ⟨_, exec_read_faultSeen hs hz hp, rfl⟩,
    fun hp => ⟨_, exec_read_dbFormat hs hz hp, rfl⟩, fun d => ⟨_, exec_write_dbFormat d hs hz, rfl⟩, ?_, ?_⟩,
    fun s c a hr hz => ⟨?_, ?_, ?_⟩, ?_, fun s c v => exec_tuningRewrite_coef⟩
  · intro d hsec hd hp
    exact ⟨_, exec_swdtService hs hz hsec hd hp, by simp [respond], rfl⟩
  · intro d hsec
    obtain ⟨cap, h⟩ := exec_swdtService_refused d hs hz hsec
    exact ⟨_, h, rfl, rfl, rfl⟩
  · intro hp
    have hcell := (cell_ctrCapture s c c).trans (if_pos rfl)
    refine ⟨_, exec_cellCtrCapture hr hz hp, congrArg Cell.ctrSeq hcell, ?_, rfl, ?_, fun d hd => (cell_ctrCapture s c d).trans (if_neg hd), rfl⟩
    · rintro i rfl
      exact congrArg Cell.ctrWin hcell
    · show ((ctrCapture s c).1.zeroExtend 64).toNat % 256 = _
      rw [BitVec.toNat_setWidth_of_le (by decide), ctrCapture_word]
      exact ctrCapWord_seq _
  · intro d
    obtain ⟨hat, hother, hframe⟩ := respond_modCell_frame s c (fun x => writeCtrCtrl x (d ||| 8)) 0 false
    obtain ⟨hctrs, hovf, hpair⟩ := writeCtrCtrl_go (s.cell c) d
    refine ⟨_, cellAccess_ctrCtrl (d ||| 8) hr hz, ?_, ?_, ?_, ?_, hother, hframe⟩ <;> rw [hat]
    · simp only [hctrs, if_true]
    · intro n hn
      rw [hctrs, if_neg hn]
    · exact hovf
    · exact hpair
  · intro d
    obtain ⟨hat, hother, hframe⟩ := respond_modCell_frame s c (fun x => writeCtrCtrl x d) 0 false
    obtain ⟨hovf, hctrs⟩ := writeCtrCtrl_ovf (s.cell c) d
    exact ⟨_, cellAccess_ctrCtrl d hr hz, by rw [hat]; exact hovf, by rw [hat]; exact hctrs, hother, hframe⟩
  · intro s o d a hs hz ho hi hsec
    obtain ⟨cap, seen, cnt, net, isl, h⟩ := exec_narrowWrite d hs hz ho hi hsec
    exact ⟨_, h, rfl, rfl, rfl, rfl⟩

end Sys2Proof.Machine
end

section
/-! SUPPORT. Every step keeps the canonical form of system memory (R24, R36). -/

namespace Sys2Proof.Machine

open Sys2Proof

/-- Every command keeps the form of memory, the queue and the provisioning record: each arm of `exec` by its own `keep_` law. -/
theorem kept_exec (i : Instr) (s : State) (hw : Memory.wf s.mem) : Kept (exec i s) s.rest := by
  have hr : s.rest.1 := hw
  cases i <;> simp [exec, hr]

/-- What a step keeps: the form of memory and the provisioning record, and of the queue all but its front. -/
theorem kept_step (s : State) (hw : Memory.wf s.mem) : Kept (step s) (Memory.wf s.mem, s.pending.tail, s.isl.prov) := by
  cases hp : s.pending with
  | nil =>
    have hstep : step s = .next (idle s) := by simp only [step, hp]
    rw [hstep, kept_next, keep_idle s hw, State.rest, hp, List.tail_nil]
  | cons i queue =>
    have hstep : step s = exec i { s with pending := queue } := by simp only [step, hp]
    rw [hstep, List.tail_cons]
    exact kept_exec i { s with pending := queue } hw

/-- Settles O4: a step that goes on has the form of memory it had, and the queue without its front. -/
theorem everyStepKeepsTheMemoryForm : Obligations.EveryStepKeepsTheMemoryForm := by
  intro s t hw hstep
  have hkept := kept_step s hw
  rw [hstep, kept_next] at hkept
  obtain ⟨hmem, hpending, -⟩ := Prod.mk.inj hkept |>.imp id Prod.mk.inj
  exact ⟨hmem.mpr hw, hpending⟩

end Sys2Proof.Machine
end

section
/-! SUPPORT. The message at the front of the queue of messages is served (R32, R34, R263), and what its arrival leaves. -/

namespace Sys2Proof.Machine

open Sys2Proof

/-! ## The first message arrives -/

theorem started_runLink (s : State) (k : Nat) (up : Bool) (i n : Nat) (he : s.ecc = []) : Started s (runLink s k up i n) := by
  induction n generalizing s with
  | zero => exact started_startAt s k up i he
  | succ n ih =>
    unfold runLink
    split
    · exact started_startAt s k up i he
    · rename_i q j _
      have hj := started_startAt s k up j he
      split
      · exact started_startAt s k up i he
      · exact hj.trans (ih _ (hj.ecc_eq.trans he))

theorem started_carry (s : State) (i : Nat) (p : Packet) (he : s.ecc = []) : Started s (carry s i p) := by
  have hup : Started s (match p.up with | some k => if p.upDone then s else runLink s k true i s.net.length | none => s) := by
    split
    · split
      · exact Started.refl s
      · exact started_runLink _ _ _ _ _ he
    · exact Started.refl s
  unfold carry
  simp only
  split
  · split
    · exact hup
    · exact hup.trans (started_runLink _ _ _ _ _ (hup.ecc_eq.trans he))
  · exact hup

/-- Messages start alike where the first one is left out. -/
theorem Started.tail {s t : State} (h : Started s t) : Started { s with net := s.net.tail } { t with net := t.net.eraseIdx 0 } := by
  obtain ⟨hrest, hcells, hlinks, hnet⟩ := h
  refine ⟨?_, hcells, hlinks, ?_⟩
  · rw [hrest]
  · rw [List.eraseIdx_zero, List.map_tail, List.map_tail, hnet]

/-- The first message arrives at whichever command asks for it; others have started on links ahead of it (R34). -/
theorem arrive_next {s : State} {m : Msg} (h : Next s m) :
    ∃ p u, p.msg = m ∧ Started { s with net := s.net.tail } u ∧ ∀ f, f m = true → arrive s f = some (p, u) := by
  obtain ⟨⟨p, rest, hnet, rfl, -, hcross, hahead⟩, hecc, -⟩ := h
  refine ⟨p, _, rfl, (started_carry s 0 p hecc).tail, fun f hf => ?_⟩
  rw [arrive, hnet, takeInTurn]
  simp [hf, hcross, hahead]

/-- What a served first message leaves of the state (R34). -/
theorem Started.firstServed {s t : State} (h : Started { s with net := s.net.tail } t) : FirstServed s t := ⟨h.links, h.net⟩

/-- The arbiter of a cell that is not struck lets a token in, which is counted (R35, R462). -/
theorem serveToken_clean {s : State} (he : s.ecc = []) (c : Option Nat) : serveToken s c = bump s c 0x01 := by
  have hover : overrun s c = s := by
    unfold overrun
    split
    · rfl
    · rw [he]; rfl
  rw [serveToken, hover]

/-! ## Lists of numbered words -/

theorem getW_tset (t : Tab Word) (n m : Nat) (w : Word) : getW (tset 0 t n w) m = if m = n then w else getW t m := tget_tset _ _ _ _ _

end Sys2Proof.Machine
end

section
/-! SUPPORT. Reports and leases reach the hub (R42, R130, R175, R276, R277). -/

namespace Sys2Proof.Machine

open Sys2Proof

/-! ## The booked count -/

/-- A booked count grows the tally of its EVID and the counter of its cause. -/
theorem exec_bookedCountReport {s : State} {e cause : Nat} (h : Next s (.bookedReport e cause)) :
    ∃ u, Started { s with net := s.net.tail } u ∧ exec (.bookedCountReport e) s = .next { u with
      tally := tset 0 s.tally e (satInc (getW s.tally e))
      hub := { s.hub with bookCnt := tset 0 s.hub.bookCnt (cause - 1) (satInc (getW s.hub.bookCnt (cause - 1))) } } := by
  obtain ⟨p, u, hmsg, hst, harr⟩ := arrive_next h
  have htally : u.tally = s.tally := by rw [hst.rest]
  refine ⟨u, hst, ?_⟩
  rw [exec, execBookedCountReport, harr _ (by simp)]
  simp only [hmsg, htally, hst.hub_eq]

/-! ## Load reports -/

/-- One hub rank cell takes a load into its view (R175). -/
def takeLoad (n : Nat) (g : Grp) (k : Nat) (s : State) (c : Nat) : State :=
  let t := serveToken s (some c)
  { t with views := tset 0 t.views (viewKey c n g) k }

/-- Nothing differs but the hub rank cells' views of the loads, and event counters. -/
structure OnlyViews (s t : State) : Prop where
  rest : t = { s with views := t.views, cells := t.cells }
  cells : SameCells s t

theorem OnlyViews.refl (s : State) : OnlyViews s s := ⟨rfl, SameCells.refl s⟩

theorem OnlyViews.trans {s t u : State} (h1 : OnlyViews s t) (h2 : OnlyViews t u) : OnlyViews s u := by
  refine ⟨?_, h1.cells.trans h2.cells⟩
  rw [h2.rest, h1.rest]

theorem takeLoad_eq {s : State} (he : s.ecc = []) (n : Nat) (g : Grp) (k c : Nat) :
    takeLoad n g k s c = { s with views := tset 0 s.views (viewKey c n g) k, cells := (bump s (some c) 0x01).cells } := by
  rw [takeLoad, serveToken_clean he, bump_eq]

/-- The hub rank cells of a list take a load: their views of it are set, every other view stays (R175). -/
theorem takeLoad_all {s : State} (he : s.ecc = []) (n : Nat) (g : Grp) (k : Nat) (cs : List Nat) :
    OnlyViews s (forAll s cs (takeLoad n g k)) ∧
      ∀ x, tget 0 (forAll s cs (takeLoad n g k)).views x = if ∃ c ∈ cs, x = viewKey c n g then k else tget 0 s.views x := by
  induction cs generalizing s with
  | nil => exact ⟨OnlyViews.refl s, fun x => by simp [forAll]⟩
  | cons c cs ih =>
    have hone := takeLoad_eq he n g k c
    have honly : OnlyViews s (takeLoad n g k s c) := by
      rw [hone]; exact ⟨rfl, bump_same s (some c) 0x01⟩
    obtain ⟨hrest, hviews⟩ := ih (s := takeLoad n g k s c) (by rw [hone]; exact he)
    refine ⟨honly.trans hrest, fun x => (hviews x).trans ?_⟩
    rw [hone, tget_tset]
    by_cases hc : x = viewKey c n g <;> simp [hc]

/-- What a message shows does not depend on the links that it has crossed. -/
theorem map_msg_of_content {l r : List Packet} (h : l.map Packet.content = r.map Packet.content) : l.map (·.msg) = r.map (·.msg) := by
  have hmsg : ∀ l : List Packet, l.map (·.msg) = (l.map Packet.content).map (·.msg) := fun l => by rw [List.map_map]; rfl
  rw [hmsg, h, ← hmsg]

/-- A load report reaches every hub rank cell of its list that is enabled, and waits for the others (R61, R175). -/
theorem exec_loadReport {s : State} {n k : Nat} {g : Grp} {cs : List Nat} (h : Next s (.loadReport n g k cs))
    (hon : cs = [] ∨ ∃ c ∈ cs, (s.cell c).en = true) :
    ∃ u, Started { s with net := s.net.tail } u ∧ exec (.loadReport n g) s = .next
      (if cs.filter (fun c => !(s.cell c).en) = [] then forAll u (cs.filter fun c => (s.cell c).en) (takeLoad n g k)
        else send (forAll u (cs.filter fun c => (s.cell c).en) (takeLoad n g k)) (.loadReport n g k (cs.filter fun c => !(s.cell c).en)) none none) := by
  obtain ⟨p, u, hmsg, hst, harr⟩ := arrive_next h
  have hen : ∀ c, (u.cell c).en = (s.cell c).en := hst.cells.en
  refine ⟨u, hst, ?_⟩
  rw [exec, execLoadReport, harr _ (by simpa using hon)]
  simp only [hmsg, hen]
  rfl

theorem loadReport_effect {s : State} {n k : Nat} {g : Grp} {cs : List Nat} (h : Next s (.loadReport n g k cs))
    (hon : cs = [] ∨ ∃ c ∈ cs, (s.cell c).en = true) :
    ∃ t, exec (.loadReport n g) s = .next t ∧
      (t = { s with net := t.net, views := t.views, cells := t.cells, outs := t.outs, gates := t.gates } ∧ CountersOnly s t) ∧
      (∀ x, tget 0 t.views x = if ∃ c ∈ cs, (s.cell c).en = true ∧ x = viewKey c n g then k else tget 0 s.views x) ∧
      t.net.map (·.msg) = s.net.tail.map (·.msg) ++
        (if ∀ c ∈ cs, (s.cell c).en = true then [] else [.loadReport n g k (cs.filter fun c => !(s.cell c).en)]) ∧ LinkStarts s t := by
  obtain ⟨u, hst, hexec⟩ := exec_loadReport h hon
  obtain ⟨honly, hviews⟩ := takeLoad_all (hst.ecc_eq.trans h.2.1) n g k (cs.filter fun c => (s.cell c).en)
  generalize forAll u (cs.filter fun c => (s.cell c).en) (takeLoad n g k) = t at hexec honly hviews
  have huviews : u.views = s.views := by rw [hst.rest]
  have hall : cs.filter (fun c => !(s.cell c).en) = [] ↔ ∀ c ∈ cs, (s.cell c).en = true := by simp
  have hmsgs : t.net.map (·.msg) = s.net.tail.map (·.msg) := by rw [honly.rest]; exact map_msg_of_content hst.net
  have hrest : t = { s with net := t.net, views := t.views, cells := t.cells, outs := t.outs, gates := t.gates } := by
    rw [honly.rest, hst.rest]
  have hcells : CountersOnly s t := SameCells.counters (SameCells.trans hst.cells honly.cells)
  have hlinks : LinkStarts s t := by rw [honly.rest]; exact hst.links
  simp only [huviews, List.mem_filter, and_assoc] at hviews
  refine ⟨_, hexec, ?_⟩
  by_cases hoff : cs.filter (fun c => !(s.cell c).en) = []
  · rw [if_pos hoff, if_pos (hall.mp hoff), List.append_nil]
    exact ⟨⟨hrest, hcells⟩, hviews, hmsgs, hlinks⟩
  · rw [if_neg hoff, if_neg (mt hall.mpr hoff)]
    refine ⟨⟨?_, hcells⟩, hviews, ?_, hlinks⟩
    · rw [send, hrest]
    · rw [send, List.map_append, hmsgs]; rfl

/-! ## Leases -/

/-- A message has changed the reservation of one station alone (R276). -/
def OnlyReservation (s t : State) (n : Nat) : Prop :=
  t = { s with net := t.net, resv := t.resv, cells := t.cells, outs := t.outs, gates := t.gates } ∧ CountersOnly s t ∧ FirstServed s t ∧
    ∀ k, k ≠ n → t.res k = s.res k

theorem OnlyReservation.of_started {s u : State} (hst : Started { s with net := s.net.tail } u) (n : Nat) : OnlyReservation s u n := by
  refine ⟨?_, hst.counters, hst.firstServed, fun k _ => ?_⟩
  · rw [hst.rest]
  · rw [hst.rest]; rfl

theorem OnlyReservation.setRes {s u : State} {n : Nat} (h : OnlyReservation s u n) (x : Resv) : OnlyReservation s (u.setRes n x) n := by
  obtain ⟨hrest, hcells, hserved, hother⟩ := h
  refine ⟨?_, hcells, hserved, fun k hk => ?_⟩
  · rw [State.setRes, hrest]
  · rw [res_setRes, if_neg hk, hother k hk]

/-- The reservation with a lease for the window in progress, or for a later one; one for a past window is void (R276; log entry 14). -/
def leased (s : State) (n l : Nat) (w : Stamp) : Resv :=
  if w = s.mer.window then { s.res n with lease := l }
  else if w.toNat > s.mer.window.toNat then { s.res n with leaseN := l } else s.res n

theorem exec_lease {s : State} {n l : Nat} {w : Stamp} (h : Next s (.lease n l w)) :
    ∃ t, exec (.lease n) s = .next t ∧ OnlyReservation s t n ∧ t.res n = leased s n l w := by
  obtain ⟨p, u, hmsg, hst, harr⟩ := arrive_next h
  have hres : u.res n = s.res n := by rw [hst.rest]; rfl
  have hmer : u.mer = s.mer := by rw [hst.rest]
  have honly := OnlyReservation.of_started hst n
  rw [exec, execLease, harr _ (by simp)]
  simp only [hmsg, hres, hmer, leased]
  by_cases hnow : w = s.mer.window
  · exact ⟨_, if_pos hnow, honly.setRes _, by rw [res_setRes, if_pos rfl, if_pos hnow]⟩
  · by_cases hlater : w.toNat > s.mer.window.toNat
    · exact ⟨_, by rw [if_neg hnow, if_pos hlater], honly.setRes _, by rw [res_setRes, if_pos rfl, if_neg hnow, if_pos hlater]⟩
    · exact ⟨_, by rw [if_neg hnow, if_neg hlater], honly, by rw [hres, if_neg hnow, if_neg hlater]⟩

theorem exec_leaseRevocation {s : State} {n : Nat} (h : Next s (.leaseRevoke n)) :
    ∃ t, exec (.leaseRevocation n) s = .next t ∧ OnlyReservation s t n ∧ t.res n = { s.res n with lease := (s.res n).usedL, leaseN := 0 } := by
  obtain ⟨p, u, hmsg, hst, harr⟩ := arrive_next h
  have hres : u.res n = s.res n := by rw [hst.rest]; rfl
  rw [exec, execLeaseRevocation, harr _ (by simp)]
  exact ⟨_, rfl, (OnlyReservation.of_started hst n).setRes _, by rw [res_setRes, if_pos rfl, hres]⟩

/-! ## The statement -/

/-- Settles O18: each of the four messages arrives, and its row's effect is read off. -/
theorem reportsAndLeasesReachTheHub : Obligations.ReportsAndLeasesReachTheHub := by
  refine ⟨⟨fun s e cause h => ?_, fun s n k g cs h hon => ?_⟩, fun s n l w h => ?_, fun s n h => ?_⟩
  · obtain ⟨u, hst, hexec⟩ := exec_bookedCountReport h
    refine ⟨_, hexec, (getW_tset _ _ _ _).trans (if_pos rfl), fun x hx => (getW_tset _ _ _ _).trans (if_neg hx),
      (getW_tset _ _ _ _).trans (if_pos rfl), ?_, hst.counters, hst.firstServed⟩
    rw [hst.rest]
  · obtain ⟨t, hexec, honly, hviews, hmsgs, hlinks⟩ := loadReport_effect h hon
    exact ⟨t, hexec, fun c hc hen => (hviews _).trans (if_pos ⟨c, hc, hen, rfl⟩),
      fun x hx => (hviews x).trans (if_neg fun ⟨c, hc, hen, hk⟩ => hx c hc hen hk), hmsgs, honly.1, honly.2, hlinks⟩
  · obtain ⟨t, hexec, honly, hres⟩ := exec_lease h
    obtain ⟨hrest, hcells, hserved, hother⟩ := honly
    refine ⟨t, hexec, hrest, hcells, hserved, hother, fun hw => ?_, fun hw => ?_, fun hw => ?_⟩
    · rw [hres, leased, if_pos hw]
    · rw [hres, leased, if_neg (by rintro rfl; omega), if_pos hw]
    · rw [hres, leased, if_neg (by rintro rfl; omega), if_neg (by omega)]
  · obtain ⟨t, hexec, ⟨hrest, hcells, hserved, hother⟩, hres⟩ := exec_leaseRevocation h
    exact ⟨t, hexec, hrest, hcells, hserved, hother, hres⟩

end Sys2Proof.Machine
end

section
/-! SUPPORT. What an offer of a queue and the freeing of its placement entries change (R137, R138, R170, R176). -/

namespace Sys2Proof.Machine

open Sys2Proof

/-! ## Stores that hold no error -/

@[simp] theorem ecc_bump (s : State) (c : Option Nat) (k : Nat) : (bump s c k).ecc = s.ecc := by rw [bump_eq]
theorem queue_bump (s : State) (c : Option Nat) (k e : Nat) : (bump s c k).queue e = s.queue e := by rw [bump_eq]; rfl

/-- A read of a word finds nothing where nothing is struck (R155). -/
theorem strike_clean {s : State} (he : s.ecc = []) (x : Store) (e : Nat) (c : Option Nat) : strike s x e c = (false, s) := by
  rw [strike, he]; rfl

theorem descRead_clean {s : State} (he : s.ecc = []) (e : Nat) : descRead s e = s := by
  rw [descRead, strike_clean he]; rfl

/-! ## Offers -/

/-- An offer of queue `e`: of the queues only its own differs, messages have been sent, and event counters have counted. -/
structure Offered (s t : State) (e : Nat) : Prop where
  rest : t = { s with queues := t.queues, net := t.net, cells := t.cells }
  cells : SameCells s t
  other : OtherQueues s t e
  net : ∀ p ∈ s.net, p ∈ t.net

theorem Offered.refl (s : State) (e : Nat) : Offered s s e := ⟨rfl, SameCells.refl s, fun _ _ => rfl, fun _ h => h⟩

theorem Offered.trans {s t u : State} {e : Nat} (h1 : Offered s t e) (h2 : Offered t u e) : Offered s u e := by
  refine ⟨?_, h1.cells.trans h2.cells, fun x hx => (h2.other x hx).trans (h1.other x hx), fun p hp => h2.net p (h1.net p hp)⟩
  rw [h2.rest, h1.rest]

theorem Offered.ecc_eq {s t : State} {e : Nat} (h : Offered s t e) : t.ecc = s.ecc := by rw [h.rest]

theorem offered_modQueue (s : State) (e : Nat) (f : Queue → Queue) : Offered s (s.modQueue e f) e :=
  ⟨rfl, SameCells.refl s, fun x hx => (queue_modQueue s e x f).trans (if_neg hx), fun _ h => h⟩

theorem offered_bump (s : State) (c : Option Nat) (k e : Nat) : Offered s (bump s c k) e := by
  refine ⟨?_, bump_same s c k, fun x _ => queue_bump s c k x, fun p hp => ?_⟩
  · rw [bump_eq]
  · rw [bump_eq]; exact hp

theorem offered_sendFrom (s : State) (c : Option Nat) (m : Msg) (up down : Option Nat) (e : Nat) : Offered s (sendFrom s c m up down) e :=
  Offered.trans (t := send s m up down c) ⟨rfl, SameCells.refl s, fun _ _ => rfl, fun _ hp => List.mem_append_left _ hp⟩ (offered_bump _ c 0x02 e)

theorem queue_sendFrom (s : State) (c : Option Nat) (m : Msg) (up down : Option Nat) (e : Nat) : (sendFrom s c m up down).queue e = s.queue e :=
  queue_bump (send s m up down c) c 0x02 e

theorem sent_sendFrom (s : State) (c : Option Nat) (m : Msg) (up down : Option Nat) : Sent (sendFrom s c m up down) m := by
  refine ⟨{ msg := m, cell := c, up := up, down := down }, ?_, rfl⟩
  rw [sendFrom, bump_eq]
  exact List.mem_append_right _ (List.mem_singleton.mpr rfl)

/-- What a hand-out may change of its queue: its state, where its candidate goes, and what holds it back. -/
def Presents (q r : Queue) : Prop :=
  r = { q with state := r.state, heldFor := r.heldFor, parked := r.parked, cached := r.cached, sentTo := r.sentTo }

/-- A hand-out sends the candidate, and the queue goes to the state that follows; or the queue is held for its die (R138, R186). -/
theorem handOut_cases (s : State) (e : Nat) (st : QState) :
    handOut s e st = s ∨ (∃ k, handOut s e st = s.modQueue e fun x => { x with heldFor := some k }) ∨
      ∃ m up down die cache, handOut s e st = sendFrom (s.modQueue e fun x =>
        { x with state := st, heldFor := none, parked := false, cached := cache, sentTo := die }) (ledgerCell s e) m up down := by
  unfold handOut
  simp only
  split
  · split
    · exact .inr (.inl ⟨_, rfl⟩)
    · split <;> exact .inr (.inr ⟨_, _, _, _, _, rfl⟩)
  · split
    · exact .inl rfl
    · exact .inr (.inr ⟨_, _, _, _, _, rfl⟩)
  · exact .inr (.inr ⟨_, _, _, _, _, rfl⟩)
  · exact .inr (.inr ⟨_, _, _, _, _, rfl⟩)

theorem offered_handOut (s : State) (e : Nat) (st : QState) : Offered s (handOut s e st) e := by
  obtain h | ⟨k, h⟩ | ⟨m, up, down, die, cache, h⟩ := handOut_cases s e st <;> rw [h]
  · exact Offered.refl s e
  · exact offered_modQueue s e _
  · exact (offered_modQueue s e _).trans (offered_sendFrom _ _ _ _ _ e)

theorem handOut_queue (s : State) (e : Nat) (st : QState) :
    Presents (s.queue e) ((handOut s e st).queue e) ∧ (((handOut s e st).queue e).state = (s.queue e).state ∨ ((handOut s e st).queue e).state = st) := by
  obtain h | ⟨k, h⟩ | ⟨m, up, down, die, cache, h⟩ := handOut_cases s e st <;> rw [h]
  · exact ⟨rfl, .inl rfl⟩
  · rw [queue_modQueue, if_pos rfl]; exact ⟨rfl, .inl rfl⟩
  · rw [queue_sendFrom, queue_modQueue, if_pos rfl]; exact ⟨rfl, .inr rfl⟩

/-- An offer hands the candidate out or does nothing (R137, R138, R170). -/
theorem offer_cases {s : State} (he : s.ecc = []) (e : Nat) :
    offer s e = s ∨ ((s.queue e).state = .pending ∧ offer s e = handOut s e .presented) ∨
      ((s.queue e).state = .active ∧ earlyOk (s.queue e) = true ∧ offer s e = handOut s e .activePresented) := by
  unfold offer
  simp only [descRead_clean he]
  split
  · exact .inl rfl
  · split <;> rename_i hstate
    · split
      · exact .inr (.inl ⟨hstate, rfl⟩)
      · exact .inl rfl
    · split <;> rename_i hearly
      · exact .inr (.inr ⟨hstate, hearly, rfl⟩)
      · exact .inl rfl
    · exact .inl rfl

theorem offered_offer {s : State} (he : s.ecc = []) (e : Nat) : Offered s (offer s e) e := by
  obtain h | ⟨-, h⟩ | ⟨-, -, h⟩ := offer_cases he e <;> rw [h]
  · exact Offered.refl s e
  · exact offered_handOut s e _
  · exact offered_handOut s e _

/-- What an offer leaves of its queue: a PENDING one may be PRESENTED, an ACTIVE one only where it is offered early (R137). -/
theorem offer_queue {s : State} (he : s.ecc = []) (e : Nat) :
    Presents (s.queue e) ((offer s e).queue e) ∧ (((offer s e).queue e).state = (s.queue e).state ∨
      ((s.queue e).state = .pending ∧ ((offer s e).queue e).state = .presented) ∨
      ((s.queue e).state = .active ∧ earlyOk (s.queue e) = true ∧ ((offer s e).queue e).state = .activePresented)) := by
  obtain h | ⟨hstate, h⟩ | ⟨hstate, hearly, h⟩ := offer_cases he e <;> rw [h]
  · exact ⟨rfl, .inl rfl⟩
  · obtain ⟨hq, hst⟩ := handOut_queue s e .presented
    exact ⟨hq, hst.imp_right fun hst => .inl ⟨hstate, hst⟩⟩
  · obtain ⟨hq, hst⟩ := handOut_queue s e .activePresented
    exact ⟨hq, hst.imp_right fun hst => .inr ⟨hstate, hearly, hst⟩⟩

/-- Settling clears AGED and what holds an IDLE queue, and changes nothing else (R145). -/
theorem offered_settle (s : State) (e : Nat) : Offered s (settle s e) e := by
  have haged : Offered s (if (s.queue e).aged ∧ (s.queue e).count = 0 ∧ !(s.queue e).busy then s.modQueue e fun x => { x with aged := false } else s) e := by
    split
    · exact offered_modQueue s e _
    · exact Offered.refl s e
  unfold settle
  simp only
  split
  · exact haged.trans (offered_modQueue _ e _)
  · exact haged

theorem settle_queue (s : State) (e : Nat) : (settle s e).queue e = { s.queue e with
    aged := ((settle s e).queue e).aged, parked := ((settle s e).queue e).parked, heldFor := ((settle s e).queue e).heldFor
    again := ((settle s e).queue e).again } := by
  unfold settle
  simp only
  split <;> split <;> simp only [queue_modQueue, if_true]

/-! ## Placement entries -/

/-- A relation that every change of a list keeps holds over the whole list. -/
theorem forAll_rel {α : Type} {R : State → State → Prop} (hrefl : ∀ s, R s s) (htrans : ∀ {s t u}, R s t → R t u → R s u)
    (f : State → α → State) (hf : ∀ s a, R s (f s a)) (xs : List α) (s : State) : R s (forAll s xs f) := by
  unfold forAll
  induction xs generalizing s with
  | nil => exact hrefl s
  | cons a xs ih => exact htrans (hf s a) (ih (f s a))

/-- Placement entries have been freed: the sets whose park flags waited have sent their re-offers, and event counters have counted (R176, R177). -/
structure PlacesFreed (s t : State) : Prop where
  rest : t = { s with net := t.net, places := t.places, spreads := t.spreads, cells := t.cells }
  cells : SameCells s t

theorem PlacesFreed.refl (s : State) : PlacesFreed s s := ⟨rfl, SameCells.refl s⟩

theorem PlacesFreed.trans {s t u : State} (h1 : PlacesFreed s t) (h2 : PlacesFreed t u) : PlacesFreed s u := by
  refine ⟨?_, h1.cells.trans h2.cells⟩
  rw [h2.rest, h1.rest]

theorem placesFreed_bump (s : State) (c : Option Nat) (k : Nat) : PlacesFreed s (bump s c k) := by
  refine ⟨?_, bump_same s c k⟩
  rw [bump_eq]

theorem placesFreed_sendFrom (s : State) (c : Option Nat) (m : Msg) (up down : Option Nat) : PlacesFreed s (sendFrom s c m up down) :=
  PlacesFreed.trans (t := send s m up down c) ⟨rfl, SameCells.refl s⟩ (placesFreed_bump _ c 0x02)

theorem placesFreed_sendReOffer (s : State) (u : Nat) (c : Option Nat) (d : Dest) : PlacesFreed s (sendReOffer s u c d) :=
  PlacesFreed.trans (forAll_rel PlacesFreed.refl PlacesFreed.trans _ (fun _ _ => placesFreed_sendFrom _ _ _ _ _) _ s) (placesFreed_bump _ c 0x32)

theorem placesFreed_placeOffers (s : State) (c : Nat) : PlacesFreed s (placeOffers s c) := by
  unfold placeOffers
  split
  · refine forAll_rel PlacesFreed.refl PlacesFreed.trans _ (fun t n => ?_) _ s
    exact PlacesFreed.trans (t := t.modSpread n fun x => { x with park := false }) ⟨rfl, SameCells.refl t⟩ (placesFreed_sendReOffer _ _ _ _)
  · exact PlacesFreed.refl s

theorem placesFreed_dropPlaces {s : State} (he : s.ecc = []) (e : Nat) (f : Place → Bool) : PlacesFreed s (dropPlaces s e f) := by
  unfold dropPlaces
  split
  · exact PlacesFreed.refl s
  · rw [strike_clean he]
    exact PlacesFreed.trans (t := { s with places := s.places.filter fun x => !(decide (x.evid = e) && f x) }) ⟨rfl, SameCells.refl s⟩
      (forAll_rel PlacesFreed.refl PlacesFreed.trans _ placesFreed_placeOffers _ _)

theorem placesFreed_freePlace {s : State} (he : s.ecc = []) (e : Nat) : PlacesFreed s (freePlace s e) := by
  unfold freePlace
  split
  · exact PlacesFreed.refl s
  · exact placesFreed_dropPlaces he e _

theorem PlacesFreed.queue_eq {s t : State} (h : PlacesFreed s t) (e : Nat) : t.queue e = s.queue e := by rw [h.rest]; rfl
theorem PlacesFreed.ecc_eq {s t : State} (h : PlacesFreed s t) : t.ecc = s.ecc := by rw [h.rest]

end Sys2Proof.Machine
end

section
/-! SUPPORT. A completion reaches the ledger (R138, R139, R208). -/

namespace Sys2Proof.Machine

open Sys2Proof

/-! ## What a completion changes -/

/-- Queue `e` has been offered again, and placement entries have been freed: of the queues only that of `e` differs. -/
structure Reoffered (s t : State) (e : Nat) : Prop where
  rest : t = { s with queues := t.queues, net := t.net, places := t.places, spreads := t.spreads, cells := t.cells }
  cells : SameCells s t
  other : OtherQueues s t e

theorem Reoffered.trans {s t u : State} {e : Nat} (h1 : Reoffered s t e) (h2 : Reoffered t u e) : Reoffered s u e := by
  refine ⟨?_, h1.cells.trans h2.cells, fun x hx => (h2.other x hx).trans (h1.other x hx)⟩
  rw [h2.rest, h1.rest]

theorem Reoffered.ecc_eq {s t : State} {e : Nat} (h : Reoffered s t e) : t.ecc = s.ecc := by rw [h.rest]

theorem Offered.reoffered {s t : State} {e : Nat} (h : Offered s t e) : Reoffered s t e := by
  refine ⟨?_, h.cells, h.other⟩
  rw [h.rest]

theorem PlacesFreed.reoffered {s t : State} (h : PlacesFreed s t) (e : Nat) : Reoffered s t e := by
  refine ⟨?_, h.cells, fun x _ => h.queue_eq x⟩
  rw [h.rest]

/-! ## The queue after a completion -/

/-- The queue once one of its entries is complete, with the holders that are left: with the last one a LEVEL queue samples its input again, and
the queue is PENDING where something waits (R138, R139, R208). -/
def doneQueue (s : State) (e : Nat) (left : List Holder) : Queue :=
  let q := s.queue e
  let r := { q with
    holders := left
    activeN := if q.mode = .count then q.activeN - 1 else q.activeN
    count := if left = [] ∧ q.mode = .level then (if asserted s e then 1 else 0) else q.count }
  if left = [] then { r with state := if waiting r then .pending else .idle } else r

/-- The queue gives up the holder of a completed entry (R138, R139). -/
def giveUpHolder (s : State) (e : Nat) (left : List Holder) : State :=
  s.modQueue e fun x => { x with holders := left, activeN := if x.mode = .count then x.activeN - 1 else x.activeN }

/-- The queue without holders: a LEVEL one has sampled its input again (R138, R208). -/
def giveUpSampled (s : State) (e : Nat) : State :=
  if (s.queue e).mode = .level then (giveUpHolder s e []).modQueue e fun x => { x with count := if asserted s e then 1 else 0 }
  else giveUpHolder s e []

/-- The queue has given up its last holder: it is IDLE or PENDING again, and its placement entry is free (R138, R176). -/
def giveUpLast (s : State) (e : Nat) : State :=
  let w := waiting ((giveUpSampled s e).queue e)
  freePlace ((giveUpSampled s e).modQueue e fun x => { x with state := if w then .pending else .idle }) e

theorem reoffered_giveUpHolder (s : State) (e : Nat) (left : List Holder) : Reoffered s (giveUpHolder s e left) e :=
  (offered_modQueue s e _).reoffered

theorem giveUpHolder_queue (s : State) (e : Nat) {left : List Holder} (hl : left ≠ []) : (giveUpHolder s e left).queue e = doneQueue s e left := by
  rw [giveUpHolder, queue_modQueue, if_pos rfl, doneQueue]
  simp [hl]

theorem reoffered_giveUpSampled (s : State) (e : Nat) : Reoffered s (giveUpSampled s e) e := by
  unfold giveUpSampled
  split
  · exact (reoffered_giveUpHolder s e []).trans (offered_modQueue _ e _).reoffered
  · exact reoffered_giveUpHolder s e []

theorem reoffered_giveUpLast {s : State} (he : s.ecc = []) (e : Nat) : Reoffered s (giveUpLast s e) e := by
  have hstate := (reoffered_giveUpSampled s e).trans (offered_modQueue _ e fun x =>
    { x with state := if waiting ((giveUpSampled s e).queue e) then .pending else .idle }).reoffered
  exact hstate.trans ((placesFreed_freePlace (hstate.ecc_eq.trans he) e).reoffered e)

theorem giveUpSampled_queue (s : State) (e : Nat) : ∃ r, (giveUpSampled s e).queue e = r ∧
    doneQueue s e [] = { r with state := if waiting r then .pending else .idle } := by
  refine ⟨_, rfl, ?_⟩
  unfold giveUpSampled
  split <;> rename_i hmode <;> simp [giveUpHolder, queue_modQueue, doneQueue, hmode]

theorem giveUpLast_queue {s : State} (he : s.ecc = []) (e : Nat) : (giveUpLast s e).queue e = doneQueue s e [] := by
  obtain ⟨r, hr, hdone⟩ := giveUpSampled_queue s e
  have hecc := (reoffered_giveUpSampled s e).ecc_eq.trans he
  simp only [giveUpLast]
  rw [(placesFreed_freePlace (by exact hecc) e).queue_eq, queue_modQueue, if_pos rfl, hr, hdone]

/-- The completion of an entry of an ACTIVE queue as the ledger applies it (R138). -/
theorem completeApply_eq {s : State} {e : Nat} {h : Holder} (he : s.ecc = []) (hb : (s.queue e).bound = true) (hp : (s.queue e).poisoned = false)
    (hh : h ∈ (s.queue e).holders) (hst : (s.queue e).state = .active) :
    completeApply s e h = offer (settle ((bump (if eraseHolder h (s.queue e).holders ≠ [] then giveUpHolder s e (eraseHolder h (s.queue e).holders)
      else giveUpLast s e) (ledgerCell s e) 0x24).modQueue e fun x => { x with cached := x.keptCache }) e) e := by
  have hno : ¬ ((s.queue e).bound = false ∨ (s.queue e).poisoned = true ∨ h ∉ (s.queue e).holders) := by simp [hb, hp, hh]
  unfold completeApply
  simp only [descRead_clean he]
  rw [if_neg hno]
  split
  · rfl
  · rename_i hl
    rw [not_not] at hl
    simp only [hst, hl]
    rfl

/-- A completion leaves the queue with its holders that are left, settled and offered: it may be PRESENTED where it was PENDING, and be offered early
where entries are left. -/
theorem completeApply_queue {s : State} {e : Nat} {h : Holder} (he : s.ecc = []) (hb : (s.queue e).bound = true) (hp : (s.queue e).poisoned = false)
    (hh : h ∈ (s.queue e).holders) (hst : (s.queue e).state = .active) :
    let q := doneQueue s e (eraseHolder h (s.queue e).holders)
    let r := (completeApply s e h).queue e
    Reoffered s (completeApply s e h) e ∧ r.holders = q.holders ∧ r.count = q.count ∧ r.activeN = q.activeN ∧
      (r.state = q.state ∨ (q.state = .pending ∧ r.state = .presented) ∨ (q.state = .active ∧ r.state = .activePresented)) := by
  rw [completeApply_eq he hb hp hh hst]
  generalize eraseHolder h (s.queue e).holders = left
  obtain ⟨s2, hs2, hframe, hqueue⟩ : ∃ s2, s2 = (if left ≠ [] then giveUpHolder s e left else giveUpLast s e) ∧ Reoffered s s2 e ∧
      s2.queue e = doneQueue s e left := by
    refine ⟨_, rfl, ?_⟩
    split <;> rename_i hl
    · exact ⟨reoffered_giveUpHolder s e left, giveUpHolder_queue s e hl⟩
    · rw [not_not.mp hl]; exact ⟨reoffered_giveUpLast he e, giveUpLast_queue he e⟩
  rw [← hs2]
  have hcached : ∃ cs, ((bump s2 (ledgerCell s e) 0x24).modQueue e fun x => { x with cached := x.keptCache }).queue e =
      { doneQueue s e left with cached := cs } := ⟨(doneQueue s e left).keptCache, by rw [queue_modQueue, if_pos rfl, queue_bump, hqueue]⟩
  have hcounted := hframe.trans ((offered_bump s2 (ledgerCell s e) 0x24 e).trans (offered_modQueue _ e fun x => { x with cached := x.keptCache })).reoffered
  generalize (bump s2 (ledgerCell s e) 0x24).modQueue e (fun x => { x with cached := x.keptCache }) = s3 at hcached hcounted
  obtain ⟨cs, hcs⟩ := hcached
  have hsettled := settle_queue s3 e
  have hse : (settle s3 e).ecc = [] := (offered_settle s3 e).ecc_eq.trans (hcounted.ecc_eq.trans he)
  obtain ⟨hpres, hstate⟩ := offer_queue hse e
  rw [hcs] at hsettled
  refine ⟨hcounted.trans ((offered_settle s3 e).trans (offered_offer hse e)).reoffered, ?_, ?_, ?_, ?_⟩
  · rw [hpres, hsettled]
  · rw [hpres, hsettled]
  · rw [hpres, hsettled]
  · rw [hsettled] at hstate
    exact hstate.imp_right fun hs => hs.imp_right fun hs => ⟨hs.1, hs.2.2⟩

/-! ## The completion message -/

/-- The first message is the first report of its EVID. -/
theorem firstReport_next {s : State} {m : Msg} {e : Nat} (h : Next s m)
    (hm : (∃ hd want st ovf lost, m = .claimed e hd want st ovf lost) ∨ ∃ hd, m = .completed e hd) : firstReport s e = some m := by
  obtain ⟨⟨p, rest, hnet, rfl, -⟩, -⟩ := h
  rw [firstReport, hnet]
  obtain ⟨hd, want, st, ovf, lost, hp⟩ | ⟨hd, hp⟩ := hm <;> simp [hp]

/-- A completion reaches its enabled ledger cell, which counts it and applies it (R61, R208). -/
theorem exec_completionMessage {s : State} {e : Nat} {h : Holder} (hn : Next s (.completed e h)) (he : e ≠ 0) (hon : LedgerOn s e) :
    ∃ u, Started { s with net := s.net.tail } u ∧
      exec (.completionMessage e) s = .next (completeApply (bump u (ledgerCell u e) 0x01) e h) := by
  obtain ⟨p, u, hmsg, hst, harr⟩ := arrive_next hn
  refine ⟨u, hst, ?_⟩
  rw [exec, execCompletionMessage, if_neg he]
  simp only [firstReport_next hn (.inr ⟨h, rfl⟩), if_pos hon]
  rw [harr _ (by simp)]
  simp only [hmsg, serveToken_clean (hst.ecc_eq.trans hn.2.1)]

end Sys2Proof.Machine
end

section
/-! SUPPORT. A claim reaches the ledger (R29, R133, R134, R138, R140, R142). -/

namespace Sys2Proof.Machine

open Sys2Proof

/-! ## What a claim changes -/

/-- A claim of queue `e` has been applied: queues, pool and parcels' accounts have changed, withdrawals are taken back, and event counters have counted. -/
structure Consumed (s t : State) (e : Nat) : Prop where
  rest : t = { s with queues := t.queues, net := t.net, cells := t.cells, pool := t.pool, parcels := t.parcels, parcel0 := t.parcel0, isl := t.isl }
  cells : SameCells s t
  net : ∀ p ∈ s.net, (∀ r, p.msg ≠ .withdrawal e r) → p ∈ t.net

theorem Consumed.trans {s t u : State} {e : Nat} (h1 : Consumed s t e) (h2 : Consumed t u e) : Consumed s u e := by
  refine ⟨?_, h1.cells.trans h2.cells, fun p hp hw => h2.net p (h1.net p hp hw) hw⟩
  rw [h2.rest, h1.rest]

theorem Consumed.ecc_eq {s t : State} {e : Nat} (h : Consumed s t e) : t.ecc = s.ecc := by rw [h.rest]

theorem Offered.consumed {s t : State} {e : Nat} (h : Offered s t e) : Consumed s t e := by
  refine ⟨?_, h.cells, fun p hp _ => h.net p hp⟩
  rw [h.rest]

theorem Offered.pool_eq {s t : State} {e : Nat} (h : Offered s t e) : t.pool = s.pool := by rw [h.rest]

/-- The withdrawals of queue `e` on their way find no candidate any more (R140). -/
theorem consumed_dropWithdrawals (s : State) (e : Nat) (f : Msg → Bool) (hf : ∀ m, f m = true → ∃ r, m = .withdrawal e r) :
    Consumed s (dropMsgs s f) e := by
  refine ⟨rfl, SameCells.refl s, fun p hp hw => List.mem_filter.mpr ⟨hp, ?_⟩⟩
  cases hfp : f p.msg with
  | false => rfl
  | true => exact absurd (hf _ hfp).choose_spec (hw _)

/-! ## Parcels' accounts -/

theorem touch_eq (s : State) (p : Nat) : touch s p = { s with isl := (touch s p).isl } := by
  unfold touch
  split <;> rfl

theorem modParcel_eq (s : State) (p : Nat) (f : Parcel → Parcel) :
    s.modParcel p f = { s with parcels := (s.modParcel p f).parcels, parcel0 := (s.modParcel p f).parcel0 } := by
  unfold State.modParcel
  split <;> rfl

theorem consumed_touch (s : State) (p e : Nat) : Consumed s (touch s p) e := by
  refine ⟨?_, ?_, fun q hq _ => ?_⟩
  · rw [touch_eq]
  · rw [touch_eq]; exact SameCells.refl s
  · rw [touch_eq]; exact hq

theorem consumed_modParcel (s : State) (p e : Nat) (f : Parcel → Parcel) : Consumed s (s.modParcel p f) e := by
  refine ⟨?_, ?_, fun q hq _ => ?_⟩
  · rw [modParcel_eq]
  · rw [modParcel_eq]; exact SameCells.refl s
  · rw [modParcel_eq]; exact hq

@[simp] theorem queue_touch (s : State) (p e : Nat) : (touch s p).queue e = s.queue e := by rw [touch_eq]; rfl
@[simp] theorem pool_touch (s : State) (p : Nat) : (touch s p).pool = s.pool := by rw [touch_eq]
@[simp] theorem queue_modParcel (s : State) (p e : Nat) (f : Parcel → Parcel) : (s.modParcel p f).queue e = s.queue e := by rw [modParcel_eq]; rfl

/-- A deferred occurrence that is claimed counts against its parcel: of the queues that of `e` keeps all but its list of such places (R42, R150). -/
theorem dueCount_effect (s : State) (e : Nat) : Consumed s (dueCount s e) e ∧ OtherQueues s (dueCount s e) e ∧ (dueCount s e).pool = s.pool ∧
    (dueCount s e).queue e = { s.queue e with due := ((s.queue e).due.filter (· ≠ 0)).map (· - 1) } := by
  have hmod := offered_modQueue s e fun x => { x with due := (x.due.filter (· ≠ 0)).map (· - 1) }
  have hq := queue_modQueue s e e fun x => { x with due := (x.due.filter (· ≠ 0)).map (· - 1) }
  rw [if_pos rfl] at hq
  unfold dueCount parcelBooked
  simp only
  split
  · refine ⟨hmod.consumed.trans ((consumed_modParcel _ _ _ _).trans (consumed_touch _ _ _)), fun x hx => ?_, ?_, ?_⟩
    · rw [queue_touch, queue_modParcel]; exact hmod.other x hx
    · rw [pool_touch]; simp
    · rw [queue_touch, queue_modParcel]; exact hq
  · exact ⟨hmod.consumed, hmod.other, rfl, hq⟩

/-! ## The head of a PAYLOAD queue -/

/-- A change of what stands in a table, by number and content, shows where it is read. -/
theorem tget_map {α : Type} {d : α} {f : Nat × α → Nat × α} (hf : ∀ e, (f e).1 = e.1) {P : α → α → Prop} (hd : P d d) (hP : ∀ e, P e.2 (f e).2)
    (t : Tab α) (n : Nat) : P (tget d t n) (tget d (t.map f) n) := by
  induction t with
  | nil => exact hd
  | cons e t ih =>
    rw [List.map_cons, show f e = (e.1, (f e).2) by rw [← hf e]]
    simp only [tget]
    split
    · exact hP e
    · exact ih

/-- The over-quota flags that freed slots clear are all that changes of the queues (R147). -/
theorem quotaCheck_effect (s : State) (p e : Nat) : Consumed s (quotaCheck s p) e ∧ (quotaCheck s p).pool = s.pool ∧
    ∃ b, (quotaCheck s p).queue e = { s.queue e with overQ := b } := by
  have hparcel : ∀ t, t = (if (s.parcel p).overQ ∧ (s.parcel p).used < share s p then touch (s.modParcel p fun x => { x with overQ := false }) p else s) →
      Consumed s t e ∧ t.pool = s.pool ∧ t.queue e = s.queue e := by
    rintro t rfl
    split
    · exact ⟨(consumed_modParcel _ _ _ _).trans (consumed_touch _ _ _), by simp, by simp⟩
    · exact ⟨(Offered.refl s e).consumed, rfl, rfl⟩
  obtain ⟨hframe, hpool, hqueue⟩ := hparcel _ rfl
  unfold quotaCheck
  simp only
  generalize (if (s.parcel p).overQ ∧ (s.parcel p).used < share s p then touch (s.modParcel p fun x => { x with overQ := false }) p else s) = t at *
  refine ⟨hframe.trans ⟨rfl, SameCells.refl t, fun _ h _ => h⟩, hpool, ?_⟩
  rw [← hqueue]
  refine tget_map (d := ({} : Queue)) (P := fun q r => ∃ b, r = { q with overQ := b }) (fun x => ?_) ⟨false, rfl⟩ (fun x => ?_) t.queues e
  · split <;> rfl
  · split
    · exact ⟨false, rfl⟩
    · exact ⟨x.2.overQ, rfl⟩

/-- A freed slot is on the free list again (R142, R390). -/
theorem poolFreeSlot_effect (s : State) (n e : Nat) : Consumed s (poolFreeSlot s n) e ∧ ((poolFreeSlot s n).slot n).used = false ∧
    ∃ b, (poolFreeSlot s n).queue e = { s.queue e with overQ := b } := by
  unfold poolFreeSlot
  simp only
  have hslot : Consumed s (s.setSlot n {}) e := ⟨rfl, SameCells.refl s, fun _ h _ => h⟩
  have hparcel := hslot.trans (consumed_modParcel _ (s.slot n).parcel e fun x => { x with used := x.used - 1, owed := x.owed - 1 })
  obtain ⟨hquota, hpool, b, hqueue⟩ := quotaCheck_effect ((s.setSlot n {}).modParcel (s.slot n).parcel fun x => { x with used := x.used - 1, owed := x.owed - 1 })
    (s.slot n).parcel e
  refine ⟨(hparcel.trans hquota).trans (consumed_touch _ _ _), ?_, b, ?_⟩
  · rw [State.slot, pool_touch, hpool]
    simp [State.setSlot]
  · rw [queue_touch, hqueue, queue_modParcel]; rfl

/-- The head of a PAYLOAD queue is unlinked and its slot freed; an empty one has none (R142). -/
theorem unlinkHead_effect (s : State) (e : Nat) : Consumed s (unlinkHead s e) e ∧
    ((s.queue e).count = 0 → unlinkHead s e = s) ∧
    ((s.queue e).count ≠ 0 → ((unlinkHead s e).slot (headSlot s (s.queue e))).used = false ∧
      ∃ tl b, (unlinkHead s e).queue e = { s.queue e with tail := tl, count := (s.queue e).count - 1, overQ := b }) := by
  unfold unlinkHead
  simp only
  split <;> rename_i hcount
  · exact ⟨(Offered.refl s e).consumed, fun _ => rfl, fun h => absurd hcount h⟩
  · have hlink : ∀ t, t = (if (s.queue e).count = 1 then s.modQueue e fun x => { x with tail := 0 }
        else s.setSlot (s.queue e).tail { (s.slot (s.queue e).tail) with link := (s.slot (headSlot s (s.queue e))).link }) →
        Consumed s t e ∧ ∃ tl, t.queue e = { s.queue e with tail := tl } := by
      rintro t rfl
      split
      · exact ⟨(offered_modQueue s e _).consumed, 0, (queue_modQueue s e e _).trans (if_pos rfl)⟩
      · exact ⟨⟨rfl, SameCells.refl s, fun _ h _ => h⟩, (s.queue e).tail, rfl⟩
    obtain ⟨hframe, tl, hqueue⟩ := hlink _ rfl
    generalize (if (s.queue e).count = 1 then s.modQueue e fun x => { x with tail := 0 }
        else s.setSlot (s.queue e).tail { (s.slot (s.queue e).tail) with link := (s.slot (headSlot s (s.queue e))).link }) = t at *
    obtain ⟨hfree, hslot, b, hafter⟩ := poolFreeSlot_effect (t.modQueue e fun x => { x with count := x.count - 1 }) (headSlot s (s.queue e)) e
    refine ⟨(hframe.trans (offered_modQueue t e _).consumed).trans hfree, fun h => absurd h hcount, fun _ => ⟨hslot, tl, b, ?_⟩⟩
    rw [hafter, queue_modQueue, if_pos rfl, hqueue]

/-! ## The occurrence that a claim takes -/

/-- Mode by mode, what a claim takes out of its queue (R133, R134, R140). -/
def takeOccurrence (s : State) (e : Nat) : State :=
  match (s.queue e).mode with
  | .level => dueCount s e
  | .count => (dueCount s e).modQueue e fun x => { x with count := x.count - (if x.count = 0 then 0 else 1), activeN := x.activeN + 1, stampSet := false }
  | .payload => unlinkHead (dueCount s e) e
  | .latest => if (s.queue e).slotTaken then (dueCount s e).modQueue e fun x => { x with count := 0, slotTaken := false } else s

/-- What taking an occurrence changes of its queue: counts, places and the marks that go with them. -/
def Taken (q r : Queue) : Prop :=
  r = { q with count := r.count, activeN := r.activeN, stampSet := r.stampSet, tail := r.tail, overQ := r.overQ, slotTaken := r.slotTaken, due := r.due }

/-- What a claim takes out of its queue, by the queue's mode (R133, R134, R140). -/
structure OccurrenceTaken (s t : State) (e : Nat) : Prop where
  frame : Consumed s t e
  queue : Taken (s.queue e) (t.queue e)
  level : (s.queue e).mode = .level → (t.queue e).count = (s.queue e).count
  count : (s.queue e).mode = .count → (t.queue e).count = (s.queue e).count - (if (s.queue e).count = 0 then 0 else 1) ∧
    (t.queue e).activeN = (s.queue e).activeN + 1 ∧ (t.queue e).stampSet = false
  payload : (s.queue e).mode = .payload → (s.queue e).count ≠ 0 →
    (t.queue e).count = (s.queue e).count - 1 ∧ (t.slot (headSlot s (s.queue e))).used = false
  latest : (s.queue e).mode = .latest → (t.queue e).count = if (s.queue e).slotTaken then 0 else (s.queue e).count
  others : (s.queue e).mode ≠ .payload → OtherQueues s t e ∧ t.pool = s.pool

theorem takeOccurrence_taken (s : State) (e : Nat) : OccurrenceTaken s (takeOccurrence s e) e := by
  obtain ⟨hdue, hother, hpool, hqueue⟩ := dueCount_effect s e
  have hmod : ∀ f : Queue → Queue, OtherQueues s ((dueCount s e).modQueue e f) e ∧ ((dueCount s e).modQueue e f).pool = s.pool :=
    fun f => ⟨fun x hx => ((offered_modQueue _ e f).other x hx).trans (hother x hx), hpool⟩
  unfold takeOccurrence
  split <;> rename_i hmode
  · exact ⟨hdue, by rw [hqueue]; rfl, fun _ => by rw [hqueue], by simp [hmode], by simp [hmode], by simp [hmode], fun _ => ⟨hother, hpool⟩⟩
  · refine ⟨hdue.trans (offered_modQueue _ e _).consumed, ?_, by simp [hmode], fun _ => ?_, by simp [hmode], by simp [hmode], fun _ => hmod _⟩ <;>
      rw [queue_modQueue, if_pos rfl, hqueue]
    · rfl
    · exact ⟨rfl, rfl, rfl⟩
  · obtain ⟨hframe, hempty, hhead⟩ := unlinkHead_effect (dueCount s e) e
    rw [hqueue] at hempty hhead
    have hslot : headSlot (dueCount s e) (s.queue e) = headSlot s (s.queue e) := by rw [headSlot, headSlot, State.slot, State.slot, hpool]
    refine ⟨hdue.trans hframe, ?_, by simp [hmode], by simp [hmode], fun _ hcount => ?_, by simp [hmode], fun h => absurd hmode h⟩
    · by_cases hcount : (s.queue e).count = 0
      · rw [hempty hcount, hqueue]; rfl
      · obtain ⟨-, tl, b, hq⟩ := hhead hcount
        rw [hq]; rfl
    · obtain ⟨hfree, tl, b, hq⟩ := hhead hcount
      exact ⟨by rw [hq], hslot ▸ hfree⟩
  · by_cases hslot : (s.queue e).slotTaken = true
    · rw [if_pos hslot]
      refine ⟨hdue.trans (offered_modQueue _ e _).consumed, ?_, by simp [hmode], by simp [hmode], by simp [hmode], fun _ => ?_, fun _ => hmod _⟩ <;>
        rw [queue_modQueue, if_pos rfl, hqueue]
      · rfl
      · rw [if_pos hslot]
    · rw [if_neg hslot]
      exact ⟨(Offered.refl s e).consumed, rfl, by simp [hmode], by simp [hmode], by simp [hmode], fun _ => by rw [if_neg hslot], fun _ => ⟨fun _ _ => rfl, rfl⟩⟩

/-! ## The claim -/

/-- The withdrawals of queue `e` are taken back, and the queue is active for one more holder (R138, R140). -/
def claimMarked (s : State) (e : Nat) (h : Holder) (ovf : Bool) : State :=
  (dropMsgs s fun m => match m with | .withdrawal a _ => decide (a = e) | _ => false).modQueue e fun x =>
    { x with state := .active, recalled := false, again := false, holders := x.holders ++ [h], heldFor := none, ovf := x.ovf && !ovf }

theorem claimApply_eq {s : State} {e : Nat} (he : s.ecc = []) (hb : (s.queue e).bound = true) (hp : (s.queue e).poisoned = false) (h : Holder) (ovf : Bool) :
    claimApply s e h ovf false = offer (bump (takeOccurrence (claimMarked s e h ovf) e) (ledgerCell s e) 0x23) e := by
  have hq : ∀ f, (dropMsgs s f).queue e = s.queue e := fun _ => rfl
  have hl : ∀ f, ledgerCell (dropMsgs s f) e = ledgerCell s e := fun _ => rfl
  unfold claimApply
  simp only [descRead_clean he, hq, hl]
  rw [if_neg (by simp [hb, hp]), if_neg (by simp)]
  unfold takeOccurrence claimMarked
  simp only [queue_modQueue, if_true, hq] <;> cases (s.queue e).mode <;> rfl

/-- A claim as the ledger has applied it: what becomes of its queue, and what it leaves (R133, R134, R138, R140). -/
structure ClaimApplied (s t : State) (e : Nat) (h : Holder) : Prop where
  frame : Consumed s t e
  holders : (t.queue e).holders = (s.queue e).holders ++ [h]
  recalled : (t.queue e).recalled = false
  state : (t.queue e).state = .active ∨ ((s.queue e).early = true ∧ (t.queue e).state = .activePresented)
  level : (s.queue e).mode = .level → (t.queue e).count = (s.queue e).count
  count : (s.queue e).mode = .count → (t.queue e).count = (s.queue e).count - (if (s.queue e).count = 0 then 0 else 1) ∧
    (t.queue e).activeN = (s.queue e).activeN + 1 ∧ (t.queue e).stampSet = false
  payload : (s.queue e).mode = .payload → (s.queue e).count ≠ 0 →
    (t.queue e).count = (s.queue e).count - 1 ∧ (t.slot (headSlot s (s.queue e))).used = false
  latest : (s.queue e).mode = .latest → (t.queue e).count = if (s.queue e).slotTaken then 0 else (s.queue e).count
  others : (s.queue e).mode ≠ .payload → OtherQueues s t e ∧ t.pool = s.pool

theorem claimApply_applied {s : State} {e : Nat} (he : s.ecc = []) (hb : (s.queue e).bound = true) (hp : (s.queue e).poisoned = false)
    (h : Holder) (ovf : Bool) : ClaimApplied s (claimApply s e h ovf false) e h := by
  rw [claimApply_eq he hb hp]
  have hmark : Consumed s (claimMarked s e h ovf) e :=
    (consumed_dropWithdrawals s e _ (fun m hm => by split at hm <;> simp_all)).trans (offered_modQueue _ e _).consumed
  have hmarked : (claimMarked s e h ovf).queue e = { s.queue e with
      state := .active, recalled := false, again := false, holders := (s.queue e).holders ++ [h], heldFor := none, ovf := (s.queue e).ovf && !ovf } :=
    (queue_modQueue _ e e _).trans (if_pos rfl)
  have hrest : OtherQueues s (claimMarked s e h ovf) e ∧ (claimMarked s e h ovf).pool = s.pool :=
    ⟨(offered_modQueue (dropMsgs s _) e _).other, rfl⟩
  generalize claimMarked s e h ovf = s1 at *
  obtain ⟨hframe, hqueue, hlevel, hcount, hpayload, hlatest, hothers⟩ := takeOccurrence_taken s1 e
  generalize takeOccurrence s1 e = s2 at *
  have hbump := offered_bump s2 (ledgerCell s e) 0x23 e
  have hbq := queue_bump s2 (ledgerCell s e) 0x23 e
  generalize bump s2 (ledgerCell s e) 0x23 = s3 at *
  have he3 : s3.ecc = [] := hbump.ecc_eq.trans (hframe.ecc_eq.trans (hmark.ecc_eq.trans he))
  have hoffer := hbump.trans (offered_offer he3 e)
  obtain ⟨hpres, hstate⟩ := offer_queue he3 e
  rw [hbq] at hpres hstate
  generalize offer s3 e = t at *
  have hhead : headSlot s1 (s1.queue e) = headSlot s (s.queue e) := by rw [hmarked, headSlot, headSlot, State.slot, State.slot, hrest.2]
  have hslot : ∀ n, t.slot n = s2.slot n := fun n => by rw [State.slot, State.slot, hoffer.pool_eq]
  have hcounts : (t.queue e).count = (s2.queue e).count ∧ (t.queue e).activeN = (s2.queue e).activeN ∧ (t.queue e).stampSet = (s2.queue e).stampSet := by
    rw [hpres]; exact ⟨rfl, rfl, rfl⟩
  rw [hhead] at hpayload
  rw [hmarked] at hlevel hcount hpayload hlatest hothers hqueue
  refine ⟨(hmark.trans hframe).trans hoffer.consumed, ?_, ?_, ?_, fun hm => ?_, fun hm => ?_, fun hm hc => ?_, fun hm => ?_, fun hm => ?_⟩
  · rw [hpres, hqueue]
  · rw [hpres, hqueue]
  · rw [hqueue] at hstate
    obtain hs | ⟨hs, -⟩ | ⟨-, hearly, hs⟩ := hstate
    · exact .inl hs
    · cases hs
    · refine .inr ⟨?_, hs⟩
      unfold earlyOk at hearly
      simp only [Bool.and_eq_true] at hearly
      exact hearly.1.1.1.1
  · rw [hcounts.1]; exact hlevel hm
  · rw [hcounts.1, hcounts.2.1, hcounts.2.2]; exact hcount hm
  · rw [hcounts.1, hslot]; exact hpayload hm hc
  · rw [hcounts.1]; exact hlatest hm
  · obtain ⟨ho, hpl⟩ := hothers hm
    exact ⟨fun x hx => (hoffer.other x hx).trans ((ho x hx).trans (hrest.1 x hx)), hoffer.pool_eq.trans (hpl.trans hrest.2)⟩

end Sys2Proof.Machine
end

section
/-! SUPPORT. The ledger's two reports: the claim and the completion (R29, R133, R138, R208, R375). -/

namespace Sys2Proof.Machine

open Sys2Proof

/-! ## The claim report -/

/-- The data that the ledger sends for a claim which asks for them (R29, R375). -/
def dataOf (s : State) (e : Nat) (h : Holder) : Msg :=
  .claimData e (holderPage h) (headOf s e).1 (headOf s e).2.1 (s.queue e).aged ((s.queue e).ovf && decide ((s.queue e).mode = .count))
    (decide ((s.queue e).mode = .count) && !(s.queue e).stampSet) false (headOf s e).2.2

/-- The occurrence in the slot of a LATEST queue counts as claimed; no other field of its queue changes (R140). -/
theorem takeSlot_effect (s : State) (e : Nat) : Offered s (takeSlot s e) e ∧ ∃ b, (takeSlot s e).queue e = { s.queue e with slotTaken := b } := by
  unfold takeSlot
  split
  · exact ⟨offered_modQueue s e _, true, (queue_modQueue s e e _).trans (if_pos rfl)⟩
  · exact ⟨Offered.refl s e, (s.queue e).slotTaken, rfl⟩

/-- A claim that asks for its data is applied once the ledger has sent them. -/
theorem ledgerClaim_eq {s : State} (he : s.ecc = []) (e : Nat) (h : Holder) :
    ∃ s1 ovf, Offered s s1 e ∧ (∃ b, s1.queue e = { s.queue e with slotTaken := b }) ∧ Sent s1 (dataOf s e h) ∧
      ledgerClaim s e h = claimApply s1 e h ovf false := by
  unfold ledgerClaim
  simp only [strike_clean he, ite_self, Bool.false_eq_true, if_false]
  refine ⟨_, _, (offered_sendFrom s _ _ _ _ e).trans (takeSlot_effect _ e).1, ?_, ?_, rfl⟩
  · obtain ⟨b, hb⟩ := (takeSlot_effect (sendFrom s _ _ _ _) e).2
    exact ⟨b, hb.trans (by rw [queue_sendFrom])⟩
  · obtain ⟨p, hp, hm⟩ := sent_sendFrom s _ _ _ _
    exact ⟨p, (takeSlot_effect _ e).1.net p hp, hm⟩

/-- A claim report reaches its enabled ledger cell, which counts it, sends the data that the claim asks for, and applies the claim (R29, R61, R138). -/
theorem exec_claimReport {s : State} {e : Nat} {h : Holder} {want ovf : Bool} {st : Stamp23} (hn : Next s (.claimed e h want st ovf false)) (he : e ≠ 0)
    (hon : LedgerOn s e) :
    ∃ u s1 o, Started { s with net := s.net.tail } u ∧ Offered u s1 e ∧ (∃ b, s1.queue e = { u.queue e with slotTaken := b }) ∧
      (want = false → s1.queue e = u.queue e) ∧ (want = true → Sent s1 (dataOf u e h)) ∧ exec (.claimReport e) s = .next (claimApply s1 e h o false) := by
  obtain ⟨p, u, hmsg, hst, harr⟩ := arrive_next hn
  have hecc : (bump u (ledgerCell u e) 0x01).ecc = [] := (ecc_bump _ _ _).trans (hst.ecc_eq.trans hn.2.1)
  have hrun : exec (.claimReport e) s = if want then .next (ledgerClaim (bump u (ledgerCell u e) 0x01) e h)
      else .next (claimApply (bump u (ledgerCell u e) 0x01) e h ovf false) := by
    rw [exec, execClaimReport, if_neg he]
    simp only [firstReport_next hn (.inl ⟨h, want, st, ovf, false, rfl⟩), if_pos hon]
    rw [harr _ (by simp)]
    simp only [hmsg, serveToken_clean (hst.ecc_eq.trans hn.2.1)]
  refine ⟨bump u (ledgerCell u e) 0x01, ?_⟩
  cases want with
  | false => exact ⟨_, ovf, hst.trans (started_bump u _ _), Offered.refl _ e, ⟨_, rfl⟩, fun _ => rfl, nofun, hrun⟩
  | true =>
    obtain ⟨s1, o, hoff, hq, hsent, heq⟩ := ledgerClaim_eq hecc e h
    exact ⟨s1, o, hst.trans (started_bump u _ _), hoff, hq, nofun, fun _ => hsent, hrun.trans (by rw [if_pos rfl, heq])⟩

/-! ## What a served message leaves to its ledger -/

theorem Started.served_queue {s u : State} (h : Started { s with net := s.net.tail } u) (e : Nat) : u.queue e = s.queue e := by rw [h.rest]; rfl
theorem Started.served_slot {s u : State} (h : Started { s with net := s.net.tail } u) (n : Nat) : u.slot n = s.slot n := by rw [h.rest]; rfl

/-- The data that go out are those of the queue as it stood. -/
theorem dataOf_congr {s u : State} {e : Nat} (hq : u.queue e = s.queue e) (hs : ∀ n, u.slot n = s.slot n) (h : Holder) : dataOf u e h = dataOf s e h := by
  have hhead : headOf u e = headOf s e := by simp only [headOf, headSlot, hq, hs]
  simp only [dataOf, hhead, hq]

/-- The queue that a completion leaves depends on its descriptor and its input alone. -/
theorem doneQueue_congr {s u : State} {e : Nat} (hq : u.queue e = s.queue e) (hi : u.inputs = s.inputs) (left : List Holder) :
    doneQueue u e left = doneQueue s e left := by
  have hlevel : asserted u e = asserted s e := by rw [asserted, asserted, State.input, State.input, hi]
  rw [doneQueue, doneQueue, hq, hlevel]

theorem doneQueue_count (s : State) (e : Nat) (left : List Holder) : (doneQueue s e left).count =
    if left = [] ∧ (s.queue e).mode = .level then (if asserted s e then 1 else 0) else (s.queue e).count := by
  unfold doneQueue; simp only; split <;> rfl
theorem doneQueue_activeN (s : State) (e : Nat) (left : List Holder) :
    (doneQueue s e left).activeN = if (s.queue e).mode = .count then (s.queue e).activeN - 1 else (s.queue e).activeN := by
  unfold doneQueue; simp only; split <;> rfl
theorem doneQueue_holders (s : State) (e : Nat) (left : List Holder) : (doneQueue s e left).holders = left := by
  unfold doneQueue; simp only; split <;> rfl

/-- With holders left, the queue stays as it was: ACTIVE. -/
theorem doneQueue_state_left (s : State) (e : Nat) {left : List Holder} (hl : left ≠ []) : (doneQueue s e left).state = (s.queue e).state := by
  simp [doneQueue, hl]

/-- With no holder left, a LEVEL queue is PENDING where its input is asserted (R138, R208). -/
theorem doneQueue_state_level {s : State} {e : Nat} (hm : (s.queue e).mode = .level) (ha : (s.queue e).activeN = 0) :
    (doneQueue s e []).state = if asserted s e then .pending else .idle := by
  cases h : asserted s e <;> simp [doneQueue, waiting, hm, ha, h]

/-- With no holder left, any other queue is PENDING where something waits (R138). -/
theorem doneQueue_state_other {s : State} {e : Nat} (hm : (s.queue e).mode ≠ .level) :
    (doneQueue s e []).state = if waiting (s.queue e) then .pending else .idle := by
  cases h : (s.queue e).mode <;> simp_all [doneQueue, waiting]

/-! ## The statement -/

/-- Settles O17: each report arrives at its ledger cell, and what the ledger makes of it is read off by the queue's mode. -/
theorem claimsAndCompletionsReachTheLedger : Obligations.ClaimsAndCompletionsReachTheLedger := by
  refine ⟨fun s e h want ovf st hn he hon _ hb hp => ?_, fun s e h hn he hon _ hb hp _ hh hst => ?_⟩
  · obtain ⟨u, s1, o, hserved, hoff, ⟨b, hq1⟩, hkeep, hsend, hexec⟩ := exec_claimReport hn he hon
    have hq : u.queue e = s.queue e := hserved.served_queue e
    have hslot : ∀ n, s1.slot n = s.slot n := fun n => (by rw [State.slot, hoff.pool_eq]; rfl : s1.slot n = u.slot n).trans (hserved.served_slot n)
    rw [hq] at hq1 hkeep
    have hhead : headSlot s1 (s1.queue e) = headSlot s (s.queue e) := by rw [hq1, headSlot, headSlot, hslot]
    have happ := claimApply_applied (s := s1) (hoff.ecc_eq.trans (hserved.ecc_eq.trans hn.2.1)) (by rw [hq1]; exact hb) (by rw [hq1]; exact hp) h o
    generalize claimApply s1 e h o false = t at hexec happ
    obtain ⟨hframe, hholders, hrecalled, hstate, hlevel, hcount, hpayload, hlatest, hothers⟩ := happ
    rw [hhead] at hpayload
    have hlatest' : want = false → (s.queue e).mode = .latest → (t.queue e).count = if (s.queue e).slotTaken then 0 else (s.queue e).count := by
      intro hw; rw [← hkeep hw]; exact hlatest
    rw [hq1] at hholders hlevel hcount hpayload hothers hstate
    refine ⟨t, hexec, hholders, hrecalled, hstate.imp_right fun hs => hs.2, fun hearly => ?_, hlevel, hcount, hpayload, fun hm hw => hlatest' hw hm,
      fun hw => ?_, fun hm => ?_, ?_⟩
    · exact hstate.resolve_right fun hs => by simp [hearly] at hs
    · obtain ⟨p, hp, hm⟩ := hsend hw
      rw [dataOf_congr hq hserved.served_slot] at hm
      exact ⟨p, hframe.net p hp (fun r hr => by rw [hr] at hm; cases hm), hm⟩
    · obtain ⟨ho, hpl⟩ := hothers hm
      exact ⟨fun x hx => (ho x hx).trans ((hoff.other x hx).trans (hserved.served_queue x)), by rw [hpl, hoff.rest, hserved.rest]⟩
    · have hcells : CountersOnly s t := SameCells.counters (SameCells.trans hserved.cells (hoff.cells.trans hframe.cells))
      have hall : t.tally = s.tally ∧ t.fb = s.fb ∧ t.inputs = s.inputs ∧ t.stns = s.stns ∧ t.ctxs = s.ctxs ∧ SameSetup s t := by
        rw [hframe.rest, hoff.rest, hserved.rest]
        exact ⟨rfl, rfl, rfl, rfl, rfl, rfl, rfl, rfl, rfl, rfl, rfl⟩
      obtain ⟨htally, hfb, hinputs, hstns, hctxs, hsetup⟩ := hall
      exact ⟨htally, hfb, hinputs, hstns, hctxs, hsetup, hcells⟩
  · obtain ⟨u, hserved, hexec⟩ := exec_completionMessage hn he hon
    have hs1 := hserved.trans (started_bump u (ledgerCell u e) 0x01)
    generalize bump u (ledgerCell u e) 0x01 = s1 at hexec hs1
    have hq : s1.queue e = s.queue e := hs1.served_queue e
    obtain ⟨hframe, hholders, hcount, hactive, hstate⟩ :=
      completeApply_queue (s := s1) (hs1.ecc_eq.trans hn.2.1) (by rw [hq]; exact hb) (by rw [hq]; exact hp) (by rw [hq]; exact hh) (by rw [hq]; exact hst)
    generalize completeApply s1 e h = t at *
    rw [doneQueue_congr hq (by rw [hs1.rest]), hq] at hholders hcount hactive hstate
    generalize eraseHolder h (s.queue e).holders = left at *
    rw [doneQueue_holders] at hholders
    rw [doneQueue_count] at hcount
    rw [doneQueue_activeN] at hactive
    have hoffered : ∀ w : Bool, (doneQueue s e left).state = (if w then .pending else .idle) →
        (w = false → (t.queue e).state = .idle) ∧ (w = true → (t.queue e).state = .pending ∨ (t.queue e).state = .presented) := by
      intro w hw
      rw [hw] at hstate
      cases w <;> simp at hstate ⊢ <;> exact hstate
    refine ⟨t, hexec, hholders, fun hm => ?_, fun hl => ?_, fun hl hm ha => ?_, fun hl hm => ?_,
      fun x hx => (hframe.other x hx).trans (hs1.served_queue x), SameCells.counters (SameCells.trans hs1.cells hframe.cells), ?_, ?_⟩
    · rw [hcount, hactive, if_neg (by simp [hm]), if_pos hm]
      exact ⟨rfl, rfl⟩
    · rw [doneQueue_state_left s e hl, hst] at hstate
      simpa using hstate
    · subst hl
      exact ⟨hcount.trans (if_pos ⟨rfl, hm⟩), hoffered _ (doneQueue_state_level hm ha)⟩
    · subst hl
      exact hoffered _ (doneQueue_state_other hm)
    · rw [hframe.rest, hs1.rest]
    · rw [hframe.rest]; exact hs1.links

end Sys2Proof.Machine
end

section
/-! SUPPORT. What leaves the outposts' own state alone (R187, R246, R420). -/

namespace Sys2Proof.Machine

open Sys2Proof

/-! ## The outposts' table -/

@[simp] theorem outs_ite (c : Prop) [Decidable c] (a b : State) : (if c then a else b).outs = if c then a.outs else b.outs := by split <;> rfl

@[simp] theorem outs_forAll {α : Type} (s : State) (xs : List α) (f : State → α → State) (hf : ∀ t a, (f t a).outs = t.outs) :
    (forAll s xs f).outs = s.outs := forAll_rel (R := fun s t => t.outs = s.outs) (fun _ => rfl) (fun h1 h2 => h2.trans h1) f hf xs s

@[simp] theorem outs_bump (s : State) (c : Option Nat) (code : Nat) : (bump s c code).outs = s.outs := by rw [bump_eq]

@[simp] theorem outs_bumpBy (s : State) (c : Option Nat) (code n : Nat) : (bumpBy s c code n).outs = s.outs := by
  induction n with
  | zero => rfl
  | succ n ih => rw [bumpBy, outs_bump, ih]

/-! ## Messages, log and faults -/

@[simp] theorem outs_send (s : State) (m : Msg) (up : Option Nat) (down : Option Nat) (c : Option Nat := none) : (send s m up down c).outs = s.outs := rfl

@[simp] theorem outs_sendFrom (s : State) (c : Option Nat) (m : Msg) (up : Option Nat) (down : Option Nat) : (sendFrom s c m up down).outs = s.outs := by simp [sendFrom]

@[simp] theorem outs_dropMsgs (s : State) (f : Msg → Bool) : (dropMsgs s f).outs = s.outs := rfl

@[simp] theorem outs_logTake (s : State) (e : LogEntry) : (logTake s e).outs = s.outs := rfl

@[simp] theorem outs_log (s : State) (code : Nat) (unit : Nat) (sec : Bool) (a0 : Word) (a1 : Word) (a2 : Word) : (log s code unit sec a0 a1 a2).outs = s.outs := rfl

@[simp] theorem outs_aggFlush (s : State) (code : Nat) (key : Nat) : (aggFlush s code key).outs = s.outs := by
  unfold aggFlush
  repeat' split
  all_goals simp

@[simp] theorem outs_logAgg (s : State) (code : Nat) (unit : Nat) (sec : Bool) (a0 : Word) (a1 : Word) (key : Nat) : (logAgg s code unit sec a0 a1 key).outs = s.outs := by
  unfold logAgg
  simp only
  split <;> simp

@[simp] theorem outs_touch (s : State) (p : Nat) : (touch s p).outs = s.outs := by simp [touch]

@[simp] theorem outs_perfAdd (s : State) (p : Nat) (off : Nat) (n : Nat) : (perfAdd s p off n).outs = s.outs := by simp [perfAdd]

@[simp] theorem outs_intakeHub (s : State) (e : Nat) (pl : Payload) (st : Stamp) (pre : Nat) (src : Source) (lock : Lock) (sec : Bool) : (intakeHub s e pl st pre src lock sec).outs = s.outs := rfl

@[simp] theorem outs_raiseHub (s : State) (code : Nat) (pre : Nat) : (raiseHub s code pre).outs = s.outs := rfl

@[simp] theorem outs_raise (s : State) (code : Nat) (unit : Nat) (sec : Bool) (a0 : Word) (a1 : Word) (a2 : Word) (key : Option Nat) : (raise s code unit sec a0 a1 a2 key).outs = s.outs := by
  unfold raise
  simp only
  split <;> simp

@[simp] theorem outs_speedNote (s0 : State) (s : State) : (speedNote s0 s).outs = s.outs := by simp [speedNote]

@[simp] theorem outs_faultReason (s : State) (r : BitVec 4) (word : Word) (arg1 : Word) (sec : Bool) : (faultReason s r word arg1 sec).outs = s.outs := by
  unfold faultReason
  split <;> simp

@[simp] theorem outs_rejectDb (s : State) (r : BitVec 4) (port : Nat) (win : Bool) (data : Word) (rid : BitVec 16) (sec : Bool) (e : Nat) : (rejectDb s r port win data rid sec e).outs = s.outs := by simp [rejectDb]

@[simp] theorem outs_pageReject (s : State) (p : Page) (r : BitVec 4) : (pageReject s p r).outs = s.outs := by
  unfold pageReject
  split <;> simp

@[simp] theorem outs_rejectParcel (s : State) (e : Nat) (r : BitVec 4) (bySource : Bool) : (rejectParcel s e r bySource).outs = s.outs := by simp [rejectParcel]

@[simp] theorem outs_rejectToken (s : State) (c : Option Nat) (t : Token) (r : BitVec 4) (late : Bool) : (rejectToken s c t r late).outs = s.outs := by
  unfold rejectToken
  repeat' split
  all_goals simp

/-! ## Stores, pool and placement entries -/

@[simp] theorem outs_strike (s : State) (x : Store) (e : Nat) (c : Option Nat) : (strike s x e c).2.outs = s.outs := by
  unfold strike
  split
  · simp
  · split <;> simp

@[simp] theorem outs_quotaCheck (s : State) (p : Nat) : (quotaCheck s p).outs = s.outs := by simp [quotaCheck]

@[simp] theorem outs_poolFreeSlot (s : State) (n : Nat) : (poolFreeSlot s n).outs = s.outs := by simp [poolFreeSlot]

@[simp] theorem outs_unlinkHead (s : State) (e : Nat) : (unlinkHead s e).outs = s.outs := by simp [unlinkHead]

@[simp] theorem outs_unlinkAll (s : State) (e n : Nat) : (unlinkAll s e n).outs = s.outs := by
  induction n generalizing s with
  | zero => rfl
  | succ n ih => rw [unlinkAll, ih, outs_unlinkHead]

@[simp] theorem outs_dropGates (s : State) (e : Nat) : (dropGates s e).outs = s.outs := rfl

@[simp] theorem outs_sendReOffer (s : State) (u : Nat) (c : Option Nat) (d : Dest) : (sendReOffer s u c d).outs = s.outs := by simp [sendReOffer]

@[simp] theorem outs_placeOffers (s : State) (c : Nat) : (placeOffers s c).outs = s.outs := by simp [placeOffers]

@[simp] theorem outs_dropPlaces (s : State) (e : Nat) (f : Place → Bool) : (dropPlaces s e f).outs = s.outs := by
  unfold dropPlaces
  split <;> simp

@[simp] theorem outs_freePlace (s : State) (e : Nat) : (freePlace s e).outs = s.outs := by simp [freePlace]

/-! ## Offers, withdrawals and poisoned queues -/

@[simp] theorem outs_handOut (s : State) (e : Nat) (st : QState) : (handOut s e st).outs = s.outs := by
  unfold handOut
  simp only
  repeat' split
  all_goals simp

@[simp] theorem outs_withdraw (s : State) (e : Nat) : (withdraw s e).outs = s.outs := by simp [withdraw]

@[simp] theorem outs_orphan (s : State) (e : Nat) : (orphan s e).outs = s.outs := rfl

@[simp] theorem outs_killRecs (s : State) (e : Nat) (why : BitVec 4) : (killRecs s e why).outs = s.outs := rfl

@[simp] theorem outs_poison (s : State) (e : Nat) : (poison s e).outs = s.outs := by simp [poison]

@[simp] theorem outs_descRead (s : State) (e : Nat) : (descRead s e).outs = s.outs := by simp [descRead]

@[simp] theorem outs_offer (s' : State) (e : Nat) : (offer s' e).outs = s'.outs := by
  unfold offer
  simp only
  repeat' split
  all_goals simp

@[simp] theorem outs_offerAgain (s : State) (e : Nat) : (offerAgain s e).outs = s.outs := by simp [offerAgain]

@[simp] theorem outs_settle (s : State) (e : Nat) : (settle s e).outs = s.outs := by simp [settle]

@[simp] theorem outs_parcelBooked (s : State) (p : Nat) : (parcelBooked s p).outs = s.outs := by simp [parcelBooked]

/-! ## Parity and the guard -/

@[simp] theorem outs_revokeWord (s : State) (c : Nat) (w : Nat) : (revokeWord s c w).outs = s.outs := by simp [revokeWord]

@[simp] theorem outs_takeSafe (s : State) (off : Nat) : (takeSafe s off).2.outs = s.outs := by
  unfold takeSafe
  simp only
  repeat' split
  all_goals simp

@[simp] theorem outs_parityCheck (s : State) (off : Nat) : (parityCheck s off).outs = s.outs := by simp [parityCheck]

@[simp] theorem outs_parityAll (s : State) (offs : List Nat) : (parityAll s offs).outs = s.outs := by simp [parityAll]

@[simp] theorem outs_rodParityAll (s : State) (cs : List Nat) : (rodParityAll s cs).outs = s.outs := by simp [rodParityAll]

@[simp] theorem outs_rodParity (s : State) (c : Nat) : (rodParity s c).outs = s.outs := by simp [rodParity]

@[simp] theorem outs_speedJudge (s0 : State) (s : State) : (speedJudge s0 s).outs = s.outs := by simp [speedJudge]

/-! ## Claims and completions -/

@[simp] theorem outs_dueCount (s : State) (e : Nat) : (dueCount s e).outs = s.outs := by simp [dueCount]

@[simp] theorem outs_claimApply (s' : State) (e : Nat) (h : Holder) (ovf : Bool) (lost : Bool) : (claimApply s' e h ovf lost).outs = s'.outs := by
  unfold claimApply
  simp only
  repeat' split
  all_goals simp

@[simp] theorem outs_completeApply (s' : State) (e : Nat) (h : Holder) : (completeApply s' e h).outs = s'.outs := by
  unfold completeApply
  simp only
  repeat' split
  all_goals simp

@[simp] theorem outs_takeSlot (s : State) (e : Nat) : (takeSlot s e).outs = s.outs := by simp [takeSlot]

/-! ## Stations, contexts and gangs -/

@[simp] theorem outs_putSeats (s : State) (n : Nat) (t : Tour) (xs : List Seat) : (putSeats s n t xs).outs = s.outs := by
  unfold putSeats
  repeat' split
  all_goals simp

@[simp] theorem outs_setPark (s : State) (n : Nat) (t : Tour) (b : Bool) : (setPark s n t b).outs = s.outs := by
  unfold setPark
  split <;> simp

@[simp] theorem outs_reportLoad (s : State) (n : Nat) (g : Grp) : (reportLoad s n g).outs = s.outs := by simp [reportLoad]

@[simp] theorem outs_checkPark (s : State) (n : Nat) (t : Tour) : (checkPark s n t).outs = s.outs := by simp [checkPark]

@[simp] theorem outs_giveBack (s : State) (c : Cand) (parked : Bool) (n : Nat) : (giveBack s c parked n).outs = s.outs := by simp [giveBack]

@[simp] theorem outs_parkAt (s : State) (n : Nat) (t : Tour) (c : Cand) : (parkAt s n t c).outs = s.outs := by
  unfold parkAt
  split <;> simp

@[simp] theorem outs_settleStation (s0 : State) (s : State) (n : Nat) : (settleStation s0 s n).outs = s.outs := by
  unfold settleStation
  simp only [outs_ite, outs_checkPark, outs_reportLoad, ite_self]
  split
  · split <;> simp
  · rfl

@[simp] theorem outs_settleStations (s0 : State) (s : State) (ns : List Nat) : (settleStations s0 s ns).outs = s.outs := by simp [settleStations]

@[simp] theorem outs_countCtx (s : State) (v : Nat) (c : Cand) : (countCtx s v c).outs = s.outs := by
  unfold countCtx
  simp only
  repeat' split
  all_goals simp

@[simp] theorem outs_countHeld (s : State) (v : Nat) : (countHeld s v).outs = s.outs := by simp [countHeld]

@[simp] theorem outs_moveDoorbells (s : State) : (moveDoorbells s).outs = s.outs := by simp [moveDoorbells]

@[simp] theorem outs_unhand (s : State) (e : Nat) : (unhand s e).outs = s.outs := rfl

@[simp] theorem outs_vctxLeave (s : State) (n : Nat) : (vctxLeave s n).outs = s.outs := by
  unfold vctxLeave
  split <;> simp

@[simp] theorem outs_intakeGang (s' : State) (c : Nat) (e : Nat) (pl : Payload) (st : Stamp) (risky : Bool) (src : Source) (lock : Lock) (sec : Bool) : (intakeGang s' c e pl st risky src lock sec).outs = s'.outs := by simp [intakeGang]

@[simp] theorem outs_gatherOffers (s0 : State) (s : State) : (gatherOffers s0 s).outs = s.outs := by simp [gatherOffers]

@[simp] theorem outs_gatherFree (s : State) (r : Gather) (risky : Bool) (post : Bool) : (gatherFree s r risky post).outs = s.outs := by simp [gatherFree]

@[simp] theorem outs_claimWhole (s : State) (e : Nat) (g : Nat) : (claimWhole s e g).outs = s.outs := by simp [claimWhole]

@[simp] theorem outs_gatherEnd (s : State) (r : Gather) (risky : Bool) (post : Bool) : (gatherEnd s r risky post).outs = s.outs := by simp [gatherEnd]

@[simp] theorem outs_memberClear (s : State) (r : Gather) (n : Nat) (risky : Bool) (post : Bool := true) : (memberClear s r n risky post).outs = s.outs := by simp [memberClear]

@[simp] theorem outs_dropMembers (s : State) (id : Nat) : (dropMembers s id).outs = s.outs := rfl

/-! ## What a die gives up -/

@[simp] theorem outs_takeBack (s : State) (e : Nat) : (takeBack s e).outs = s.outs := by simp [takeBack]

@[simp] theorem outs_skipMember (s : State) (r : Gather) (n : Nat) : (skipMember s r n).outs = s.outs := by simp [skipMember]

@[simp] theorem outs_moveMember (s : State) (c : Cand) (n : Nat) : (moveMember s c n).outs = s.outs := by
  unfold moveMember
  repeat' split
  all_goals simp

@[simp] theorem outs_moveParked (s : State) (k : Nat) : (moveParked s k).outs = s.outs := by simp [moveParked]

@[simp] theorem outs_clearStation (s : State) (n : Nat) : (clearStation s n).outs = s.outs := by simp [clearStation]

@[simp] theorem outs_clearFlight (s : State) (k : Nat) : (clearFlight s k).outs = s.outs := by simp [clearFlight]

@[simp] theorem outs_giveUpDie (s : State) (k : Nat) : (giveUpDie s k).outs = s.outs := by simp [giveUpDie]

@[simp] theorem outs_settleUp (s : State) (k : Nat) : (settleUp s k).outs = s.outs := by
  unfold settleUp
  refine (outs_forAll _ _ _ fun t p => ?_).trans rfl
  split <;> simp only [outs_ite, outs_claimApply, outs_takeSlot, outs_completeApply, outs_send, outs_moveMember, outs_takeBack, ite_self]
  exact outs_forAll _ _ _ fun t n => by split <;> simp

@[simp] theorem outs_forceEntry (n : Nat) (g : Grp) (k : Nat) (s : State) (x : Entry) : (forceEntry n g k s x).outs = s.outs := by
  unfold forceEntry
  repeat' split
  all_goals simp

@[simp] theorem outs_forceStation (k : Nat) (s : State) (n : Nat) : (forceStation k s n).outs = s.outs := by simp [forceStation]

@[simp] theorem outs_resetWired (s : State) (e : Nat) : (resetWired s e).outs = s.outs := by
  have hmembers : ∀ (t : State) (ids : List Nat), (forAll t ids dropMembers).outs = t.outs := fun t ids => outs_forAll t ids _ outs_dropMembers
  simp [resetWired, hmembers]

end Sys2Proof.Machine
end

section
/-! SUPPORT. Link errors and replays (R32, R33, R481, R482). -/

namespace Sys2Proof.Machine

open Sys2Proof

/-! ## The loss of an outpost -/

/-- An outpost that is declared lost is marked lost, and so is its link, whatever the settling of its die does (R187, R482). -/
theorem declareLost_marks {s : State} {k : Nat} (hp : populated s k = true) (hl : (s.op k).lost = false) :
    ((declareLost s k).op k).lost = true ∧ ((declareLost s k).op k).link = .lost := by
  have houts : (declareLost s k).outs = (s.modOp k fun o => { o with lost := true, link := .lost, returns := 0, fails := 0 }).outs := by
    unfold declareLost
    rw [if_neg (by simp [hp, hl])]
    simp
  have hop : (declareLost s k).op k = { s.op k with lost := true, link := .lost, returns := 0, fails := 0 } := by
    rw [State.op, houts]
    exact (op_modOp s k k _).trans (if_pos rfl)
  rw [hop]
  exact ⟨rfl, rfl⟩

/-! ## A link in error -/

/-- LINK of a hub that is on: the seen bit, the count and the occurrence of R476, and an entry for the log. -/
theorem raise_link_eq {s : State} (hon : s.pwr.hubl = .on) (hrst : s.pwr.rst = false) (u : Nat) (sec : Bool) (a0 a1 a2 : Word) :
    ∃ tok isl, raise s 0x0D u sec a0 a1 a2 none = { s with
      hub := { s.hub with seen := s.hub.seen ||| (1#22 <<< 0x0D), faultCnt := tset 0 s.hub.faultCnt 0x0D (satInc (tget 0 s.hub.faultCnt 0x0D)) }
      net := s.net ++ [{ msg := .event tok }], isl := isl } := by
  have hr : raise s 0x0D u sec a0 a1 a2 none = log (raiseHub s 0x0D 0) 0x0D u sec a0 a1 a2 := by
    simp [raise, faultParcel, hon, hrst]
  exact ⟨_, _, hr⟩

/-- Everything that has yet to cross link `k` is to be replayed (R33, R481). -/
def replayAll (s : State) (k : Nat) : List Packet :=
  s.net.map fun p => if p.waitsAt k true ∨ p.waitsAt k false then { p with replay := true, failed := none, long := true } else p

theorem replayAll_replay {s : State} {k : Nat} {p : Packet} (h : p ∈ replayAll s k) (hw : p.waitsAt k true = true ∨ p.waitsAt k false = true) :
    p.replay = true := by
  obtain ⟨q, -, rfl⟩ := List.mem_map.mp h
  split
  · rfl
  · rename_i hq
    rw [if_neg hq] at hw
    exact absurd hw hq

/-- A link declared in error for fewer than the 17th time within 1 s goes into retraining (R33, R481, R482). -/
structure LinkInError (s t : State) (k : Nat) : Prop where
  rest : t = { s with net := t.net, outs := t.outs, hub := { s.hub with seen := t.hub.seen, faultCnt := t.hub.faultCnt }, isl := t.isl }
  link : (t.op k).link = .error
  retrains : (t.op k).retrains = incByte (s.op k).retrains
  align : (t.op k).align = .training
  replay : ∀ p ∈ t.net, p.waitsAt k true = true ∨ p.waitsAt k false = true → p.replay = true
  fault : tget 0 t.hub.faultCnt 0x0D = satInc (tget 0 s.hub.faultCnt 0x0D)
  others : ∀ j, j ≠ k → t.op j = s.op j

/-- Outpost `k` as the error of its link leaves it: the error is the latest of those within 1 s (R33, R482). -/
def errorOutpost (s : State) (k : Nat) : Outpost :=
  { s.op k with link := .error, errorAt := recent s 1000000000 (s.op k).errorAt ++ [s.mer.now], replayAt := [], accFail := none }

/-- The link is marked, its messages are to be replayed, and LINK is raised (R33, R481). -/
def linkMarked (s : State) (k cause : Nat) (up : Bool) : State :=
  raise { s.setOp k (errorOutpost s k) with net := replayAll s k } 0x0D k false (w32 k) (w32 cause ||| flag 8 (!up)) (w32 (s.op k).retrains.toNat) none

theorem linkError_eq (s : State) (k cause : Nat) (up : Bool) : linkError s k cause up =
    if 16 ≤ (recent s 1000000000 (s.op k).errorAt).length then declareLost (linkMarked s k cause up) k else startRetrain (linkMarked s k cause up) k := by
  simp only [linkError, List.length_append, List.length_singleton, ge_iff_le, Nat.reduceLeDiff]
  rfl

theorem op_linkMarked (s : State) (k cause : Nat) (up : Bool) (j : Nat) :
    (linkMarked s k cause up).op j = if j = k then errorOutpost s k else s.op j := by
  rw [State.op, linkMarked, outs_raise]
  exact op_setOp s k j _

theorem linkMarked_eq {s : State} (hon : s.pwr.hubl = .on) (hrst : s.pwr.rst = false) (k cause : Nat) (up : Bool) :
    ∃ tok isl, linkMarked s k cause up = { s.setOp k (errorOutpost s k) with
      hub := { s.hub with seen := s.hub.seen ||| (1#22 <<< 0x0D), faultCnt := tset 0 s.hub.faultCnt 0x0D (satInc (tget 0 s.hub.faultCnt 0x0D)) }
      net := replayAll s k ++ [{ msg := .event tok }], isl := isl } :=
  raise_link_eq (s := { s.setOp k (errorOutpost s k) with net := replayAll s k }) hon hrst _ _ _ _ _

theorem op_startRetrain (s : State) (k j : Nat) : (startRetrain s k).op j = if j = k then { s.op k with
    retrains := incByte (s.op k).retrains, align := .training, lostSeen := (s.op k).lostSeen || decide ((s.op k).align = .aligned), good := 0, bad := 0 }
    else s.op j := op_modOp s k j _

theorem linkError_retrains {s : State} {k : Nat} (hon : s.pwr.hubl = .on) (hrst : s.pwr.rst = false)
    (hfew : (recent s 1000000000 (s.op k).errorAt).length < 16) (cause : Nat) (up : Bool) : LinkInError s (linkError s k cause up) k := by
  rw [linkError_eq, if_neg (by omega)]
  have hop := op_startRetrain (linkMarked s k cause up) k
  simp only [op_linkMarked, if_true] at hop
  have hk := (hop k).trans (if_pos rfl)
  obtain ⟨tok, isl, heq⟩ := linkMarked_eq hon hrst k cause up
  refine ⟨?_, congrArg Outpost.link hk, congrArg Outpost.retrains hk, congrArg Outpost.align hk, fun p hp hw => ?_, ?_, fun j hj => ?_⟩
  · rw [heq]; rfl
  · rw [heq] at hp
    obtain hp | hp := List.mem_append.mp hp
    · exact replayAll_replay hp hw
    · rw [List.mem_singleton.mp hp] at hw
      simp [Packet.waitsAt] at hw
  · rw [heq]
    exact tget_tset_same _ _ _ _
  · rw [hop, if_neg hj, if_neg hj]

/-- The 17th error within 1 s loses the outpost (R482). -/
theorem linkError_loses {s : State} {k : Nat} (hp : populated s k = true) (hl : (s.op k).lost = false)
    (hmany : 16 ≤ (recent s 1000000000 (s.op k).errorAt).length) (hon : s.pwr.hubl = .on) (hrst : s.pwr.rst = false) (cause : Nat) (up : Bool) :
    ((linkError s k cause up).op k).lost = true ∧ ((linkError s k cause up).op k).link = .lost := by
  rw [linkError_eq, if_pos hmany]
  refine declareLost_marks ?_ ?_
  · obtain ⟨tok, isl, heq⟩ := linkMarked_eq hon hrst k cause up
    rw [heq]; exact hp
  · rw [op_linkMarked, if_pos rfl]; exact hl

/-! ## Replays -/

/-- A flit is sent again: its link counts the replay, and what it belongs to is marked (R32, R33, R262). -/
def replayed (s : State) (k : Nat) (f : LinkFlit) : State :=
  let s1 := bump (s.modOp k fun x => { x with replays := satInc x.replays, replayAt := recent s 1000 (s.op k).replayAt ++ [s.mer.now] }) (linkCell s k) 0x72
  match f.msg with
  | some m => markReplay s1 k f.up m f.flit
  | none => s1.modOp k fun x => { x with accFail := some (f.up, f.flit) }

theorem exec_replayRequest {s : State} {k : Nat} (hk : k < 12) (hup : linkUp s k = true) (f : LinkFlit) :
    exec (.replayRequest k f) s = .next (if failsAgain s k f then linkError (replayed s k f) k 1 f.up
      else if 8 ≤ (recent s 1000 (s.op k).replayAt).length then linkError (replayed s k f) k 2 f.up else replayed s k f) := by
  rw [exec, execReplayRequest, if_neg (by simp [hup, hk])]
  simp only [List.length_append, List.length_singleton, gt_iff_lt, Order.lt_add_one_iff]
  split
  · rfl
  · split <;> rfl

theorem exec_flitAckTimeout {s : State} {k : Nat} (hk : k < 12) (hup : linkUp s k = true) (up : Bool) :
    exec (.flitAckTimeout k up) s = .next (linkError s k 3 up) := by
  rw [exec, execFlitAckTimeout, if_neg (by simp [hup, hk])]

/-- The marks of a replay change messages alone. -/
theorem markReplay_eq (s : State) (k : Nat) (up : Bool) (m n : Nat) : markReplay s k up m n = { s with net := (markReplay s k up m n).net } := by
  unfold markReplay
  split
  · rfl
  · split <;> rfl

/-- Which messages are marked depends on the messages alone. -/
theorem markReplay_net {s t : State} (h : t.net = s.net) (k : Nat) (up : Bool) (m n : Nat) : (markReplay t k up m n).net = (markReplay s k up m n).net := by
  unfold markReplay
  rw [h]
  split
  · exact h
  · split
    · exact h
    · rfl

/-- Outpost `k` once a replay is counted (R33). -/
def replayOutpost (s : State) (k : Nat) : Outpost :=
  { s.op k with replays := satInc (s.op k).replays, replayAt := recent s 1000 (s.op k).replayAt ++ [s.mer.now] }

/-- A replay has been counted at its link and marked at what it belongs to: a message, or a forwarded access (R32, R33). -/
structure Replayed (s t : State) (k : Nat) (f : LinkFlit) : Prop where
  rest : t = { s with net := t.net, outs := t.outs, cells := t.cells }
  cells : SameCells s t
  op : t.op k = { replayOutpost s k with accFail := (t.op k).accFail }
  others : ∀ j, j ≠ k → t.op j = s.op j
  message : ∀ m, f.msg = some m → t.net = (markReplay s k f.up m f.flit).net ∧ (t.op k).accFail = (s.op k).accFail
  access : f.msg = none → t.net = s.net ∧ (t.op k).accFail = some (f.up, f.flit)

theorem replayed_replayed (s : State) (k : Nat) (f : LinkFlit) : Replayed s (replayed s k f) k f := by
  have hcount : ∀ j, (bump (s.setOp k (replayOutpost s k)) (linkCell s k) 0x72).op j = if j = k then replayOutpost s k else s.op j := by
    intro j
    rw [State.op, outs_bump]
    exact op_setOp s k j _
  have hrest : bump (s.setOp k (replayOutpost s k)) (linkCell s k) 0x72 =
      { s with outs := (bump (s.setOp k (replayOutpost s k)) (linkCell s k) 0x72).outs, cells := (bump (s.setOp k (replayOutpost s k)) (linkCell s k) 0x72).cells } := by
    rw [bump_eq]; rfl
  have hcells : SameCells s (bump (s.setOp k (replayOutpost s k)) (linkCell s k) 0x72) := bump_same (s.setOp k (replayOutpost s k)) _ _
  have heq : replayed s k f = match f.msg with
      | some m => markReplay (bump (s.setOp k (replayOutpost s k)) (linkCell s k) 0x72) k f.up m f.flit
      | none => (bump (s.setOp k (replayOutpost s k)) (linkCell s k) 0x72).modOp k fun x => { x with accFail := some (f.up, f.flit) } := rfl
  generalize bump (s.setOp k (replayOutpost s k)) (linkCell s k) 0x72 = u at hcount hrest hcells heq
  have hnet : u.net = s.net := by rw [hrest]
  rw [heq]
  cases hf : f.msg with
  | some m =>
    have hop : ∀ j, (markReplay u k f.up m f.flit).op j = u.op j := fun j => by rw [markReplay_eq]; rfl
    simp only
    refine ⟨?_, ?_, ?_, fun j hj => ?_, fun m' hm' => ?_, fun hn => absurd (hf.symm.trans hn) nofun⟩
    · rw [markReplay_eq, hrest]
    · rw [markReplay_eq]; exact hcells
    · rw [hop, hcount, if_pos rfl]
    · rw [hop, hcount, if_neg hj]
    · obtain rfl : m = m' := Option.some.inj (hf.symm.trans hm')
      refine ⟨markReplay_net hnet k f.up m f.flit, ?_⟩
      rw [hop, hcount, if_pos rfl]; rfl
  | none =>
    have hop := op_modOp u k k fun x => { x with accFail := some (f.up, f.flit) }
    rw [if_pos rfl, hcount, if_pos rfl] at hop
    simp only
    refine ⟨?_, hcells, ?_, fun j hj => ?_, fun m hm => absurd (hf.symm.trans hm) nofun, fun _ => ⟨hnet, ?_⟩⟩
    · rw [State.modOp, State.setOp, hrest]
    · rw [hop]
    · rw [op_modOp, if_neg hj, hcount, if_neg hj]
    · rw [hop]

/-- What stands of link `k` when it is declared in error: the replay of the flit that failed may have been counted before (R33). -/
structure LinkBefore (s u : State) (k : Nat) : Prop where
  rest : u = { s with net := u.net, outs := u.outs, cells := u.cells }
  cells : SameCells s u
  retrains : (u.op k).retrains = (s.op k).retrains
  errors : recent u 1000000000 (u.op k).errorAt = recent s 1000000000 (s.op k).errorAt
  others : ∀ j, j ≠ k → u.op j = s.op j

theorem LinkBefore.refl (s : State) (k : Nat) : LinkBefore s s k := ⟨rfl, SameCells.refl s, rfl, rfl, fun _ _ => rfl⟩

theorem Replayed.before {s u : State} {k : Nat} {f : LinkFlit} (h : Replayed s u k f) : LinkBefore s u k := by
  have hmer : u.mer = s.mer := by rw [h.rest]
  refine ⟨h.rest, h.cells, by rw [h.op]; rfl, ?_, h.others⟩
  have herr : (u.op k).errorAt = (s.op k).errorAt := by rw [h.op]; rfl
  rw [recent, recent, hmer, herr]

/-- A replay request for a link whose flit fails again or whose replays are too many, and a flit that is not acknowledged, declare the link in error (R33). -/
theorem exec_linkError {s : State} {k : Nat} {up : Bool} (hk : k < 12) (hup : linkUp s k = true) {i : Instr}
    (hi : i = .flitAckTimeout k up ∨ ∃ f, i = .replayRequest k f ∧ (8 ≤ (recent s 1000 (s.op k).replayAt).length ∨ failsAgain s k f = true)) :
    ∃ u cause dir, LinkBefore s u k ∧ exec i s = .next (linkError u k cause dir) := by
  obtain rfl | ⟨f, rfl, hf⟩ := hi
  · exact ⟨s, 3, up, LinkBefore.refl s k, exec_flitAckTimeout hk hup up⟩
  · have hbefore := (replayed_replayed s k f).before
    rw [exec_replayRequest hk hup]
    by_cases hagain : failsAgain s k f = true
    · exact ⟨_, 1, f.up, hbefore, by rw [if_pos hagain]⟩
    · exact ⟨_, 2, f.up, hbefore, by rw [if_neg hagain, if_pos (hf.resolve_right hagain)]⟩

/-! ## The statement -/

/-- Settles O29: a replay is counted and marked; the errors are one lemma, and the 17th is the loss of the outpost. -/
theorem linkErrorsAreRetried : Obligations.LinkErrorsAreRetried := by
  intro s k up hk hup hon hrst
  refine ⟨fun f hagain hfew => ?_, fun i hi hfew => ?_, fun hp hl hmany => ?_⟩
  · have h := replayed_replayed s k f
    have hexec := exec_replayRequest hk hup f
    rw [if_neg (by simp [hagain]), if_neg (by omega)] at hexec
    have hlink : (s.op k).link = .up := by simpa [linkUp] using hup
    refine ⟨_, hexec, ?_, h.message, h.access, ?_, h.others, h.cells.counters, h.rest⟩
    · rw [h.op]; rfl
    · rw [h.op]; exact hlink
  · obtain ⟨u, cause, dir, hbefore, hexec⟩ := exec_linkError hk hup hi
    have hhub : u.hub = s.hub := by rw [hbefore.rest]
    have hpwr : u.pwr = s.pwr := by rw [hbefore.rest]
    have h := linkError_retrains (s := u) (k := k) (by rw [hpwr]; exact hon) (by rw [hpwr]; exact hrst) (by rw [hbefore.errors]; exact hfew) cause dir
    generalize linkError u k cause dir = t at h hexec
    have hrest : t = { s with net := t.net, outs := t.outs, cells := t.cells, hub := { s.hub with seen := t.hub.seen, faultCnt := t.hub.faultCnt }, isl := t.isl } := by
      rw [h.rest, hhub, hbefore.rest]
    have hcells : t.cells = u.cells := by rw [h.rest]
    refine ⟨t, hexec, h.link, by rw [h.retrains, hbefore.retrains], h.align, h.replay, by rw [h.fault, hhub],
      fun j hj => (h.others j hj).trans (hbefore.others j hj), ?_, (hbefore.cells.trans (SameCells.of_cells hcells)).counters, hrest⟩
    rw [hrest]
    exact ⟨rfl, rfl, rfl, rfl, rfl⟩
  · exact ⟨_, exec_flitAckTimeout hk hup up, linkError_loses hp hl hmany hon hrst 3 up⟩

end Sys2Proof.Machine
end

section
/-! SUPPORT. A claim that finds nothing presented sweeps withdrawn gang members out of the tournament (R138, R140, R203). -/

namespace Sys2Proof.Machine

open Sys2Proof

/-! ## A station that holds a withdrawn member -/

/-- An enabled cell of this role, the first of it, joined on one port. -/
def firstCellOf (role : Nat) : Cell := { plat := [(0, BitVec.ofNat 32 role), (1, 0x8000)], en := true, datum := 1 }

/-- The seat of a member candidate of queue 0x1001, handed out by gather record 3. -/
def memberSeat : Seat := { cand := { evid := 0x1001, rank := 5, gather := some 3 } }

/-- Gather record 3: one occurrence of queue 0x1001 at station 0, which no claim has taken yet. -/
def openGather : Gather :=
  { id := 3, cell := 0, gang := 0, evid := 0x1001, done := 0, post := false, opened := true, pending := [0], sent := [0], parked := [],
    claimed := false, risky := false, late := false }

/-- A device whose station 0 still seats the member of a gathering that its ledger has withdrawn; the station's mask lets nothing through. -/
def withdrawnMember : State := { State.reset with
  hub := { populated := 1, en := true }
  outs := [(0, { logic := .on, mem := .on, trav := .on, link := .up, iso := false, align := .aligned, cold := false })]
  cells := [(0, firstCellOf 6), (768, firstCellOf 4), (769, firstCellOf 3), (770, firstCellOf 7)]
  queues := [(0x1001, { bound := true, mode := .count, route := .gang 0, state := .pending, count := 1, recalled := true })]
  gathers := [openGather]
  stns := [(0, { norm := { seats := [memberSeat] } })] }

/-- An access reaches the normal page of station 0, and nothing is presented there. -/
theorem withdrawnMember_ready : Serves withdrawnMember {} ∧ PageReady withdrawnMember (.stn 0 .normal) ∧ Reaches {} (.stn 0 .normal) ∧
    Clean withdrawnMember ∧ presented withdrawnMember 0 .normal = none := by decide +kernel

/-- `NoneRecalled` speaks of the queues' own candidates only: the one seat is a member's. -/
theorem withdrawnMember_noneRecalled : NoneRecalled withdrawnMember 0 (tourOf .normal) := by
  intro x hx hg
  have hx : x = memberSeat := List.mem_singleton.mp hx
  subst hx
  cases hg

/-- The seat is there before the claim. -/
theorem withdrawnMember_seats : (withdrawnMember.grp 0 .normal).seats = [memberSeat] := rfl

/-- The claim takes the withdrawn member out of the tournament before it looks for a winner. -/
theorem withdrawnMember_claim {t : State} (h : exec (.stnClaim 0 .normal {}) withdrawnMember = .next t) : (t.grp 0 .normal).seats = [] := by
  have ht : t = regAccess withdrawnMember { offset := pageOffset 0 .normal 0, write := false, data := 0, acc := {} } := by
    cases h
    rfl
  subst ht
  decide +kernel

/-- Refutes O11: a claim that finds nothing presented may still change its tournament. `sweepRecalled` empties the seats of a gathering that
its ledger has withdrawn and none has claimed (R138, R140), which `NoneRecalled` does not exclude, so the group is not the same but for its
window. -/
theorem not_otherClaimsAreAnsweredOrWait : ¬ Obligations.OtherClaimsAreAnsweredOrWait := by
  intro h
  obtain ⟨hs, hp, hr, hc, hnone⟩ := withdrawnMember_ready
  obtain ⟨t, ht, -, hgrp, -⟩ := h.1 withdrawnMember 0 .normal {} hs hp hr hc withdrawnMember_noneRecalled hnone
  have hkept : (t.grp 0 .normal).seats = [memberSeat] := by rw [hgrp, withdrawnMember_seats]
  rw [withdrawnMember_claim ht] at hkept
  cases hkept

end Sys2Proof.Machine
end

section
/-! SUPPORT. A re-offer reaches a unit: its enabled ledger cells offer their queues on the route (R61, R170, R177, R186). -/

namespace Sys2Proof.Machine

open Sys2Proof

/-! ## What a route depends on -/

/-- Routes lead to the same places: the dies' marks and fallbacks, the stations that are on, the spread sets' members and the views of the loads. -/
structure SameRoutes (s t : State) : Prop where
  away : ∀ k b, awayFor t k b = awayFor s k b
  marked : ∀ k, dieMarked t k = dieMarked s k
  fall : ∀ k b, fallback t k b = fallback s k b
  on : ∀ n, stnOn t n = stnOn s n
  choosers : ∀ n, spreadCell t n = spreadCell s n
  spreads : t.spreads = s.spreads
  views : t.views = s.views

theorem SameRoutes.trans {s t u : State} (h1 : SameRoutes s t) (h2 : SameRoutes t u) : SameRoutes s u :=
  ⟨fun k b => (h2.away k b).trans (h1.away k b), fun k => (h2.marked k).trans (h1.marked k), fun k b => (h2.fall k b).trans (h1.fall k b),
    fun n => (h2.on n).trans (h1.on n), fun n => (h2.choosers n).trans (h1.choosers n), h2.spreads.trans h1.spreads, h2.views.trans h1.views⟩

theorem SameCells.spreadCell {s t : State} (h : SameCells s t) (n : Nat) : spreadCell t n = spreadCell s n := by
  unfold Machine.spreadCell
  rw [h.roleCells, h.roleCell]

theorem SameCells.ledgerCell {s t : State} (h : SameCells s t) (e : Nat) : ledgerCell t e = ledgerCell s e := by
  unfold Machine.ledgerCell
  simp only [h.roleCells, h.roleCell]

/-- Counters of cells change no route. -/
theorem SameCells.routes {s t : State} (h : SameCells s t) (ho : t.outs = s.outs) (hs : t.spreads = s.spreads) (hv : t.views = s.views) :
    SameRoutes s t := by
  have hop : ∀ k, t.op k = s.op k := fun k => by unfold State.op; rw [ho]
  refine ⟨fun k b => ?_, fun k => ?_, fun k b => ?_, h.stnOn, h.spreadCell, hs, hv⟩
  · unfold awayFor dieMarked; rw [hop]
  · unfold dieMarked; rw [hop]
  · unfold fallback; rw [hop]

/-- Starts of messages on links change no route. -/
theorem Started.routes {s t : State} (h : Started s t) : SameRoutes s t := by
  refine ⟨fun k b => ?_, fun k => ?_, fun k b => ?_, h.cells.stnOn, h.cells.spreadCell, by rw [h.rest], by rw [h.rest]⟩
  · unfold awayFor dieMarked; rw [h.links.1 k]
  · unfold dieMarked; rw [h.links.1 k]
  · unfold fallback; rw [h.links.1 k]

theorem SameRoutes.resolve {s t : State} (h : SameRoutes s t) (n : Nat) (b : Bool) : resolve t n b = resolve s n b := by
  unfold Machine.resolve
  simp only [h.away, h.fall, h.marked]

theorem SameRoutes.routedTo {s t : State} (h : SameRoutes s t) (d : Dest) (q : Queue) : routedTo t d q = routedTo s d q := by
  unfold Machine.routedTo
  simp only [h.resolve]

theorem SameRoutes.spreadHeld {s t : State} (h : SameRoutes s t) (n : Nat) (q : Queue) : spreadHeld t n q = spreadHeld s n q := by
  have hm : ∀ m, t.spread m = s.spread m := fun m => by unfold State.spread; rw [h.spreads]
  unfold Machine.spreadHeld chooseMember leastLoad eligible lowMember
  simp only [hm, h.away, h.marked, h.on, h.choosers, h.views, h.resolve]

/-- Offers change no route. -/
theorem SameRoutes.of_offered {s t : State} {e : Nat} (h : Offered s t e) : SameRoutes s t :=
  h.cells.routes (by rw [h.rest]) (by rw [h.rest]) (by rw [h.rest])

/-! ## One queue is offered again -/

/-- Why queue `q` keeps its candidate: its die holds it, by its station or by its spread set (R174, R186). -/
def HeldBack (s : State) (q r : Queue) : Prop :=
  (∃ n, q.route = .station n ∧ r.heldFor = some (n / 48)) ∨ (∃ n, q.route = .spread n ∧ spreadHeld s n q = true ∧ r.heldFor = q.heldFor)

/-- Queue `r` is what a PENDING queue `q` is after an offer: PRESENTED, or held back for its die. -/
def Retried (s : State) (q r : Queue) : Prop := Presents q r ∧ (r.state = .presented ∨ r.state = .pending ∧ HeldBack s q r)

/-- A hand-out presents the queue's candidate, or its die holds it back (R138, R186). -/
theorem handOut_retried {s : State} {e : Nat} (hp : (s.queue e).state = .pending) :
    Retried s (s.queue e) ((handOut s e .presented).queue e) := by
  refine ⟨(handOut_queue s e .presented).1, ?_⟩
  cases hr : (s.queue e).route with
  | station n =>
    cases hd : resolve s n (s.queue e).secure with
    | none =>
      have h : handOut s e .presented = s.modQueue e fun x => { x with heldFor := some (n / 48) } := by simp [handOut, hr, hd]
      rw [h, queue_modQueue, if_pos rfl]
      exact .inr ⟨hp, .inl ⟨n, hr, rfl⟩⟩
    | some d =>
      refine .inl ?_
      simp only [handOut, hr, hd]
      split <;> rw [queue_sendFrom, queue_modQueue, if_pos rfl]
  | spread n =>
    by_cases hh : spreadHeld s n (s.queue e) = true
    · have h : handOut s e .presented = s := by simp [handOut, hr, hh]
      rw [h]
      exact .inr ⟨hp, .inr ⟨n, hr, hh, rfl⟩⟩
    · refine .inl ?_
      simp only [handOut, hr]
      rw [if_neg hh, queue_sendFrom, queue_modQueue, if_pos rfl]
  | context v => exact .inl (by simp only [handOut, hr, queue_sendFrom, queue_modQueue, if_true])
  | gang g => exact .inl (by simp only [handOut, hr, queue_sendFrom, queue_modQueue, if_true])

theorem Retried.of_routes {s t : State} {q r : Queue} (hroute : SameRoutes s t) (h : Retried t q r) : Retried s q r := by
  refine ⟨h.1, h.2.imp_right fun ⟨hp, hwhy⟩ => ⟨hp, hwhy.imp_right fun ⟨n, hn, hf, hk⟩ => ⟨n, hn, ?_, hk⟩⟩⟩
  rwa [← hroute.spreadHeld]

/-- A queue that may be offered: R137 and R170 allow it and its ledger cell is on. -/
structure Offerable (s : State) (e : Nat) (q : Queue) : Prop where
  bound : q.bound = true
  sound : q.poisoned = false
  kept : q.recalled = false
  on : LedgerOn s e
  waits : waiting q = true

theorem waiting_congr {q r : Queue} (hm : r.mode = q.mode) (hc : r.count = q.count) (ha : r.activeN = q.activeN) : waiting r = waiting q := by
  unfold waiting
  rw [hm, hc, ha]

theorem Offerable.presents {s : State} {e : Nat} {q r : Queue} (h : Offerable s e q) (hr : Presents q r) : Offerable s e r := by
  obtain ⟨hb, hs, hk, ho, hw⟩ := h
  rw [hr]
  exact ⟨hb, hs, hk, ho, (waiting_congr rfl rfl rfl).trans hw⟩

theorem offer_presented {s : State} (he : s.ecc = []) {e : Nat} (hp : (s.queue e).state = .presented) : offer s e = s := by
  unfold offer
  simp only [descRead_clean he, hp]
  split <;> rfl

theorem offer_pending {s : State} (he : s.ecc = []) {e : Nat} (h : Offerable s e (s.queue e)) (hpark : (s.queue e).parked = false)
    (hp : (s.queue e).state = .pending) : offer s e = handOut s e .presented := by
  obtain ⟨hb, hs, hk, ho, hw⟩ := h
  unfold offer
  simp only [descRead_clean he, hp, hb, hs, hk, hpark, hw]
  rw [if_neg (by simpa using ho)]
  rfl

theorem offered_offerAgain {s : State} (he : s.ecc = []) (e : Nat) : Offered s (offerAgain s e) e :=
  (offered_modQueue s e _).trans (offered_offer (s := s.modQueue e fun x => { x with parked := false }) he e)

/-- An offer of a queue that was `q` and PENDING, and that has been presented or held back for its station's die at most. -/
theorem offer_retried {s t : State} {e : Nat} {q : Queue} (hroute : SameRoutes s t) (he : t.ecc = []) (hq : Offerable t e q)
    (hpres : Presents q (t.queue e)) (hpark : (t.queue e).parked = false) (hst : (t.queue e).state = .presented ∨
      (t.queue e).state = .pending ∧ ((t.queue e).heldFor = q.heldFor ∨ ∃ n, q.route = .station n)) :
    Retried s q ((offer t e).queue e) := by
  obtain hst | ⟨hst, hheld⟩ := hst
  · rw [offer_presented he hst]
    exact ⟨hpres, .inl hst⟩
  · rw [offer_pending he (hq.presents hpres) hpark hst]
    obtain ⟨hr, hout⟩ := handOut_retried hst
    have hroute' : (t.queue e).route = q.route := by rw [hpres]
    have hsec : (t.queue e).secure = q.secure := by rw [hpres]
    refine ⟨?_, hout.imp_right fun ⟨hs, hwhy⟩ => ⟨hs, ?_⟩⟩
    · unfold Presents at hr hpres ⊢; rw [hr, hpres]
    · obtain ⟨n, hn, hf⟩ | ⟨n, hn, hf, hk⟩ := hwhy
      · exact .inl ⟨n, hroute' ▸ hn, hf⟩
      · obtain hheld | ⟨m, hm⟩ := hheld
        · refine .inr ⟨n, hroute' ▸ hn, ?_, hk.trans hheld⟩
          rw [hroute.spreadHeld] at hf
          unfold spreadHeld at hf ⊢
          rwa [hsec, hheld] at hf
        · rw [hroute', hm] at hn; cases hn

/-- A queue `q` that was PENDING is so still, or has been offered already; then a further offer leaves it offered. -/
theorem offerAgain_retried {s t : State} {e : Nat} {q : Queue} (hroute : SameRoutes s t) (he : t.ecc = []) (hq : Offerable t e q)
    (hp : q.state = .pending) (h : t.queue e = q ∨ Retried s q (t.queue e)) : Retried s q ((offerAgain t e).queue e) := by
  have hmod : (t.modQueue e fun x => { x with parked := false }).queue e = { t.queue e with parked := false } :=
    (queue_modQueue t e e _).trans (if_pos rfl)
  have hnow : Presents q (t.queue e) ∧ ((t.queue e).state = .presented ∨
      (t.queue e).state = .pending ∧ ((t.queue e).heldFor = q.heldFor ∨ ∃ n, q.route = .station n)) := by
    obtain h | ⟨hpres, hst | ⟨hst, ⟨n, hr, -⟩ | ⟨n, -, -, hheld⟩⟩⟩ := h
    · rw [h]; exact ⟨rfl, .inr ⟨hp, .inl rfl⟩⟩
    · exact ⟨hpres, .inl hst⟩
    · exact ⟨hpres, .inr ⟨hst, .inr ⟨n, hr⟩⟩⟩
    · exact ⟨hpres, .inr ⟨hst, .inl hheld⟩⟩
  obtain ⟨hpres, hst⟩ := hnow
  obtain ⟨hb, hs, hk, ho, hw⟩ := hq
  refine offer_retried (hroute.trans (.of_offered (offered_modQueue t e _))) he ⟨hb, hs, hk, ho, hw⟩ ?_ ?_ ?_
  · rw [hmod]; unfold Presents at hpres ⊢; rw [hpres]
  · rw [hmod]
  · rw [hmod]; exact hst

/-! ## The queues of a list are offered again -/

/-- The queues of `es` have been offered again: no other queue differs, messages have been sent, and event counters have counted. -/
structure OffersMade (s t : State) (es : List Nat) : Prop where
  rest : t = { s with queues := t.queues, net := t.net, cells := t.cells }
  cells : SameCells s t
  other : ∀ x, x ∉ es → t.queue x = s.queue x
  net : ∀ p ∈ s.net, p ∈ t.net

theorem offersMade_forAll {s : State} (he : s.ecc = []) (es : List Nat) : OffersMade s (forAll s es offerAgain) es := by
  unfold forAll
  induction es generalizing s with
  | nil => exact ⟨rfl, SameCells.refl s, fun _ _ => rfl, fun _ h => h⟩
  | cons e es ih =>
    have h1 := offered_offerAgain he e
    obtain ⟨hrest, hcells, hother, hnet⟩ := ih (h1.ecc_eq.trans he)
    refine ⟨?_, h1.cells.trans hcells, fun x hx => ?_, fun p hp => hnet p (h1.net p hp)⟩
    · rw [List.foldl_cons, hrest, h1.rest]
    · rw [List.mem_cons, not_or] at hx
      exact (hother x hx.2).trans (h1.other x hx.1)

/-- A queue that has been offered once stays so through the offers that follow. -/
theorem forAll_retried {s t : State} {e : Nat} {q : Queue} (es : List Nat) (hroute : SameRoutes s t) (he : t.ecc = []) (hq : Offerable t e q)
    (hp : q.state = .pending) (h : t.queue e = q ∧ e ∈ es ∨ Retried s q (t.queue e)) : Retried s q ((forAll t es offerAgain).queue e) := by
  unfold forAll
  induction es generalizing t with
  | nil => exact h.resolve_left fun h => List.not_mem_nil h.2
  | cons x es ih =>
    have h1 := offered_offerAgain he x
    have hq' : Offerable (offerAgain t x) e q := by
      obtain ⟨hb, hs, hk, ho, hw⟩ := hq
      exact ⟨hb, hs, hk, by rw [LedgerOn, h1.cells.ledgerCell, h1.cells.onCell]; exact ho, hw⟩
    refine ih (hroute.trans (.of_offered h1)) (h1.ecc_eq.trans he) hq' ?_
    by_cases hx : x = e
    · subst hx
      exact .inr (offerAgain_retried hroute he hq hp (h.imp_left And.left))
    · rw [h1.other e (Ne.symm hx)]
      exact h.imp_left fun ⟨ht, hm⟩ => ⟨ht, (List.mem_cons.mp hm).resolve_left (Ne.symm hx)⟩

/-! ## The route at the ledgers -/

/-- Messages have been sent, and event counters have counted. -/
structure OnlySent (s t : State) : Prop where
  rest : t = { s with net := t.net, cells := t.cells }
  cells : SameCells s t
  net : ∀ p ∈ s.net, p ∈ t.net

theorem OnlySent.refl (s : State) : OnlySent s s := ⟨rfl, SameCells.refl s, fun _ h => h⟩

theorem OnlySent.trans {s t u : State} (h1 : OnlySent s t) (h2 : OnlySent t u) : OnlySent s u := by
  refine ⟨?_, h1.cells.trans h2.cells, fun p hp => h2.net p (h1.net p hp)⟩
  rw [h2.rest, h1.rest]

theorem onlySent_bump (s : State) (c : Option Nat) (k : Nat) : OnlySent s (bump s c k) := by
  refine ⟨?_, bump_same s c k, fun p hp => ?_⟩
  · rw [bump_eq]
  · rw [bump_eq]; exact hp

theorem onlySent_sendFrom (s : State) (c : Option Nat) (m : Msg) (up down : Option Nat) : OnlySent s (sendFrom s c m up down) :=
  OnlySent.trans (t := send s m up down c) ⟨rfl, SameCells.refl s, fun _ hp => List.mem_append_left _ hp⟩ (onlySent_bump _ c 0x02)

theorem onlySent_sendReOffer (s : State) (u : Nat) (c : Option Nat) (d : Dest) : OnlySent s (sendReOffer s u c d) :=
  OnlySent.trans (forAll_rel OnlySent.refl OnlySent.trans _ (fun _ _ => onlySent_sendFrom _ _ _ _ _) _ s) (onlySent_bump _ c 0x32)

theorem OnlySent.sent {s t : State} (h : OnlySent s t) {m : Msg} (hm : Sent s m) : Sent t m :=
  hm.imp fun _ ⟨hk, hkm⟩ => ⟨h.net _ hk, hkm⟩

theorem OnlySent.spreads_eq {s t : State} (h : OnlySent s t) : t.spreads = s.spreads := by rw [h.rest]
theorem OnlySent.spread_eq {s t : State} (h : OnlySent s t) (m : Nat) : t.spread m = s.spread m := by unfold State.spread; rw [h.spreads_eq]
theorem OnlySent.queues_eq {s t : State} (h : OnlySent s t) : t.queues = s.queues := by rw [h.rest]

/-- A message that is no candidate on its way back, which a re-offer may let go out again at its owner. -/
def Msg.staysOut : Msg → Bool
  | .returned .. => false
  | _ => true

/-- A change of the messages that leaves all but returned candidates as they are. -/
theorem sent_map {s : State} {f : Packet → Packet} (hf : ∀ p, p.msg.staysOut = true → f p = p) {m : Msg} (hm : m.staysOut = true)
    (h : Sent s m) : Sent { s with net := s.net.map f } m := by
  obtain ⟨p, hp, rfl⟩ := h
  exact ⟨p, List.mem_map.mpr ⟨p, hp, hf p hm⟩, rfl⟩

/-- The queues that a re-offer of `d` offers at the ledger cells `cs`. -/
def offeredBy (s : State) (d : Dest) (cs : List Nat) : List Nat :=
  (s.queues.filter fun x => routedTo s d x.2 && x.2.bound && (match ledgerCell s x.1 with | some c => cs.contains c | none => false)).map (·.1)

/-- The candidates on their way back there are offered when they are back, then the queues that wait are (R170). -/
theorem offerRoute_eq (s : State) (d : Dest) (cs : List Nat) : ∃ f : Packet → Packet, (∀ p, p.msg.staysOut = true → f p = p) ∧
    offerRoute s d cs = forAll { s with net := s.net.map f } (offeredBy s d cs) offerAgain := by
  refine ⟨_, fun p hp => ?_, rfl⟩
  split
  · rename_i hmsg; rw [hmsg] at hp; cases hp
  · rfl

/-- A queue that is listed is found by its number, if its entry shows it bound. -/
theorem mem_queues {s : State} {e : Nat} (hb : (s.queue e).bound = true) : (e, s.queue e) ∈ s.queues := by
  unfold State.queue at hb ⊢
  generalize s.queues = q at hb ⊢
  induction q with
  | nil => cases hb
  | cons x q ih =>
    obtain ⟨m, v⟩ := x
    rw [tget] at hb ⊢
    split
    · rename_i h; subst h; exact List.mem_cons_self
    · rename_i h; rw [if_neg h] at hb; exact List.mem_cons_of_mem _ (ih hb)

theorem mem_offeredBy {s : State} {d : Dest} {cs : List Nat} {e : Nat} : e ∈ offeredBy s d cs ↔
    ∃ q, (e, q) ∈ s.queues ∧ routedTo s d q = true ∧ q.bound = true ∧ ∃ c ∈ cs, ledgerCell s e = some c := by
  simp only [offeredBy, List.mem_map, List.mem_filter, Bool.and_eq_true]
  constructor
  · rintro ⟨⟨_, q⟩, ⟨hq, ⟨hr, hb⟩, hc⟩, rfl⟩
    refine ⟨q, hq, hr, hb, ?_⟩
    simp only at hc
    split at hc
    · rename_i c hl; exact ⟨c, by simpa using hc, hl⟩
    · cases hc
  · rintro ⟨q, hq, hr, hb, c, hc, hl⟩
    exact ⟨(e, q), ⟨hq, ⟨hr, hb⟩, by simpa [hl] using hc⟩, rfl⟩

/-! ## The stations' members at the hub -/

/-- A station stops being a parked destination of a set, whose hub rank cell sends the set's re-offers (R177). -/
def unparkSet (n : Nat) (s : State) (k : Nat) : State :=
  sendReOffer (s.modSpread k fun x => { x with parkedD := x.parkedD.filter (· ≠ n) }) 12 (spreadCell s k) (.spread k)

theorem spread_unparkSet (n : Nat) (s : State) (k m : Nat) : (unparkSet n s k).spread m =
    if m = k then { s.spread k with parkedD := (s.spread k).parkedD.filter (· ≠ n) } else s.spread m := by
  have h := onlySent_sendReOffer (s.modSpread k fun x => { x with parkedD := x.parkedD.filter (· ≠ n) }) 12 (spreadCell s k) (.spread k)
  rw [unparkSet, h.spread_eq, spread_modSpread]

/-- Stations have stopped being parked destinations: spread sets have changed, messages have been sent, and event counters have counted. -/
structure Unparked (s t : State) : Prop where
  rest : t = { s with net := t.net, spreads := t.spreads, cells := t.cells }
  cells : SameCells s t
  net : ∀ p ∈ s.net, p ∈ t.net

theorem Unparked.refl (s : State) : Unparked s s := ⟨rfl, SameCells.refl s, fun _ h => h⟩

theorem Unparked.trans {s t u : State} (h1 : Unparked s t) (h2 : Unparked t u) : Unparked s u := by
  refine ⟨?_, h1.cells.trans h2.cells, fun p hp => h2.net p (h1.net p hp)⟩
  rw [h2.rest, h1.rest]

theorem unparked_unparkSet (n : Nat) (s : State) (k : Nat) : Unparked s (unparkSet n s k) := by
  obtain ⟨hrest, hcells, hnet⟩ := onlySent_sendReOffer (s.modSpread k fun x => { x with parkedD := x.parkedD.filter (· ≠ n) }) 12 (spreadCell s k) (.spread k)
  exact ⟨by rw [unparkSet, hrest]; rfl, hcells, hnet⟩

theorem Unparked.queues_eq {s t : State} (h : Unparked s t) : t.queues = s.queues := by rw [h.rest]
theorem Unparked.gathers_eq {s t : State} (h : Unparked s t) : t.gathers = s.gathers := by rw [h.rest]

/-- A set that is asked to, or that did not hold the station as parked, does not hold it so afterwards. -/
theorem forAll_unparkSet {n m : Nat} (ks : List Nat) (s : State) (h : m ∈ ks ∨ n ∉ (s.spread m).parkedD) :
    n ∉ ((forAll s ks (unparkSet n)).spread m).parkedD := by
  unfold forAll
  induction ks generalizing s with
  | nil => exact h.resolve_left (List.not_mem_nil)
  | cons k ks ih =>
    refine ih (unparkSet n s k) ?_
    rw [spread_unparkSet]
    by_cases hk : m = k
    · rw [if_pos hk]; exact .inr fun hm => by simp at hm
    · rw [if_neg hk]; exact h.imp_left fun hm => (List.mem_cons.mp hm).resolve_left hk

/-- The sets that hold the station as parked are listed. -/
theorem mem_parkingSets {s : State} {n m : Nat} (h : n ∈ (s.spread m).parkedD) :
    m ∈ (s.spreads.filter fun x => x.2.parkedD.contains n).map (·.1) := by
  refine List.mem_map.mpr ⟨(m, s.spread m), List.mem_filter.mpr ⟨?_, by simpa using h⟩, rfl⟩
  unfold State.spread at h ⊢
  generalize s.spreads = q at h ⊢
  induction q with
  | nil => cases h
  | cons x q ih =>
    obtain ⟨j, v⟩ := x
    rw [tget] at h ⊢
    split
    · rename_i hj; subst hj; exact List.mem_cons_self
    · rename_i hj; rw [if_neg hj] at h; exact List.mem_cons_of_mem _ (ih h)

/-- What a re-offer may change beside messages: queues, spread sets and gather records; event counters have counted. -/
structure RouteOpened (s t : State) : Prop where
  rest : t = { s with queues := t.queues, net := t.net, spreads := t.spreads, gathers := t.gathers, cells := t.cells }
  cells : SameCells s t
  sent : ∀ m, m.staysOut = true → Sent s m → Sent t m

theorem RouteOpened.trans {s t u : State} (h1 : RouteOpened s t) (h2 : RouteOpened t u) : RouteOpened s u := by
  refine ⟨?_, h1.cells.trans h2.cells, fun m hm hs => h2.sent m hm (h1.sent m hm hs)⟩
  rw [h2.rest, h1.rest]

theorem OnlySent.opened {s t : State} (h : OnlySent s t) : RouteOpened s t := by
  refine ⟨?_, h.cells, fun _ _ hs => h.sent hs⟩
  rw [h.rest]

theorem Unparked.opened {s t : State} (h : Unparked s t) : RouteOpened s t := by
  refine ⟨?_, h.cells, fun _ _ hs => hs.imp fun _ ⟨hk, hkm⟩ => ⟨h.net _ hk, hkm⟩⟩
  rw [h.rest]

/-- Sends for a list: each message of it has been sent. -/
theorem forAll_sent {α : Type} {f : State → α → State} {m : α → Msg} (hf : ∀ s a, OnlySent s (f s a)) (hm : ∀ s a, Sent (f s a) (m a))
    (xs : List α) (s : State) : ∀ a ∈ xs, Sent (forAll s xs f) (m a) := by
  unfold forAll
  induction xs generalizing s with
  | nil => intro a ha; cases ha
  | cons x xs ih =>
    intro a ha
    obtain rfl | ha := List.mem_cons.mp ha
    · exact (forAll_rel OnlySent.refl OnlySent.trans f hf xs (f s a)).sent (hm s a)
    · exact ih (f s x) a ha

/-- What a station's re-offer does at the hub beside the offers (R170, R177): the queues stay, no set holds the station as parked, and the members
that gather records keep as parked for it go there. -/
theorem unpark_effect (s : State) (n : Nat) : RouteOpened s (unpark s n) ∧ (unpark s n).queues = s.queues ∧
    (∀ m, n ∉ ((unpark s n).spread m).parkedD) ∧ ∀ r ∈ s.gathers, ∀ c, (n, c) ∈ r.parked → Sent (unpark s n) (.candStation n (candTour c) c) := by
  unfold unpark
  extract_lets back s1 sets s2 ms s3
  have h1 : RouteOpened s s1 := ⟨rfl, SameCells.refl s, fun m hm hs => sent_map (fun p hp => by
    simp only [back]
    split
    · rename_i hmsg; rw [hmsg] at hp; cases hp
    · rfl) hm hs⟩
  have h12 : Unparked s1 s2 := forAll_rel Unparked.refl Unparked.trans (unparkSet n) (unparked_unparkSet n) sets s1
  have h23 : RouteOpened s2 s3 := ⟨rfl, SameCells.refl s2, fun _ _ hs => hs⟩
  have hsend : ∀ (t : State) (c : Nat × Cand), OnlySent t (sendFrom t (some c.1) (.candStation n (candTour c.2) c.2) none (some (n / 48))) :=
    fun _ _ => onlySent_sendFrom _ _ _ _ _
  have h3 := forAll_rel OnlySent.refl OnlySent.trans _ hsend ms s3
  refine ⟨((h1.trans h12.opened).trans h23).trans h3.opened, ?_, fun m => ?_, fun r hr c hc => ?_⟩
  · exact h3.queues_eq.trans h12.queues_eq
  · have hm : n ∉ (s2.spread m).parkedD := by
      refine forAll_unparkSet sets s1 ?_
      by_cases h : n ∈ (s1.spread m).parkedD
      · exact .inl (mem_parkingSets h)
      · exact .inr h
    rwa [h3.spread_eq]
  · have hg : s2.gathers = s.gathers := h12.gathers_eq
    refine forAll_sent (m := fun c => .candStation n (candTour c.2) c.2) hsend (fun t c => sent_sendFrom _ _ _ _ _) ms s3 (r.cell, c) ?_
    simp only [ms, hg, List.mem_flatMap, List.mem_map, List.mem_filter]
    exact ⟨r, hr, (n, c), ⟨hc, by simp⟩, rfl⟩

/-! ## The re-offer arrives -/

/-- The ledger cells that a re-offer is for: all of its unit, or those for which it has waited (R61, R170). -/
def reOfferCells (s : State) (u : Nat) (left : Option (List Nat)) : List Nat := left.getD (roleCells s u roleLedger)
def reOfferOn (s : State) (u : Nat) (left : Option (List Nat)) : List Nat := (reOfferCells s u left).filter fun c => (s.cell c).en
def reOfferOff (s : State) (u : Nat) (left : Option (List Nat)) : List Nat :=
  (reOfferCells s u left).filter fun c => !(s.cell c).en && decide ((s.cell c).role = roleLedger)

/-- What is left of a re-offer for the cells that are off waits (R61). -/
def reOfferKept (s : State) (d : Dest) (u : Nat) (left : Option (List Nat)) : State :=
  if reOfferOff s u left = [] then s else send s (.reOffer d u (some (reOfferOff s u left))) none none

/-- What a re-offer's arrival makes of the state. -/
def reOffered (s : State) (d : Dest) (u : Nat) (left : Option (List Nat)) : State :=
  let s2 := offerRoute (reOfferKept s d u left) d (reOfferOn s u left)
  match d, left with
  | .station n, none => if u = 12 then unpark s2 n else s2
  | _, _ => s2

theorem onlySent_reOfferKept (s : State) (d : Dest) (u : Nat) (left : Option (List Nat)) : OnlySent s (reOfferKept s d u left) := by
  unfold reOfferKept
  split
  · exact OnlySent.refl s
  · exact ⟨rfl, SameCells.refl s, fun _ hp => List.mem_append_left _ hp⟩

theorem exec_reOffer {s : State} {d : Dest} {u : Nat} {left : Option (List Nat)} (h : Next s (.reOffer d u left))
    (hon : ∀ cs, left = some cs → ∃ c ∈ cs, (s.cell c).en = true) :
    ∃ w, Started { s with net := s.net.tail } w ∧ exec (.reOffer d) s = .next (reOffered w d u left) := by
  obtain ⟨p, w, hp, hw, harr⟩ := arrive_next h
  have he : ∀ t : State, t.ecc = w.ecc → ∀ cs, overrunAll t cs = t := fun t ht cs => by
    rw [overrunAll, if_pos (ht.trans (hw.ecc_eq.trans h.2.1))]
  refine ⟨w, hw, ?_⟩
  show execReOffer d s = _
  unfold execReOffer
  rw [harr]
  · simp only [hp]
    rw [he _ (by split <;> rfl)]
    unfold reOffered
    cases left <;> cases d <;> rfl
  · cases left with
    | none => simp
    | some cs => simpa using hon cs rfl

/-- The offers of the route: of the queues only those of the route at these cells are offered, and each is offered once at least. -/
theorem offerRoute_effect {s : State} (he : s.ecc = []) (d : Dest) (cs : List Nat) :
    RouteOpened s (offerRoute s d cs) ∧ (offerRoute s d cs).gathers = s.gathers ∧
      (∀ e, e ∉ offeredBy s d cs → (offerRoute s d cs).queue e = s.queue e) ∧
      ∀ e ∈ offeredBy s d cs, Offerable s e (s.queue e) → (s.queue e).state = .pending → Retried s (s.queue e) ((offerRoute s d cs).queue e) := by
  obtain ⟨f, hf, h⟩ := offerRoute_eq s d cs
  rw [h]
  have hoffers := offersMade_forAll (s := { s with net := s.net.map f }) he (offeredBy s d cs)
  obtain ⟨hrest, hcells, hother, hnet⟩ := hoffers
  refine ⟨⟨?_, hcells, fun m hm hs => (sent_map hf hm hs).imp fun _ ⟨hk, hkm⟩ => ⟨hnet _ hk, hkm⟩⟩, ?_, hother, fun e hmem hoff hp => ?_⟩
  · rw [hrest]
  · rw [hrest]
  · obtain ⟨hb, hs, hk, ho, hw⟩ := hoff
    have hroute : SameRoutes s { s with net := s.net.map f } := SameCells.routes (SameCells.of_cells rfl) rfl rfl rfl
    exact forAll_retried _ hroute he ⟨hb, hs, hk, ho, hw⟩ hp (.inl ⟨rfl, hmem⟩)

/-- The stages of a re-offer: what is left waits, the route is offered, and at the hub the station is no longer parked. -/
theorem reOffered_cases (s : State) (d : Dest) (u : Nat) (left : Option (List Nat)) :
    reOffered s d u left = offerRoute (reOfferKept s d u left) d (reOfferOn s u left) ∧ (∀ n, d = .station n → u = 12 → left ≠ none) ∨
      ∃ n, d = .station n ∧ u = 12 ∧ left = none ∧ reOffered s d u left = unpark (offerRoute (reOfferKept s d u left) d (reOfferOn s u left)) n := by
  unfold reOffered
  cases d with
  | station n =>
    cases left with
    | none =>
      by_cases hu : u = 12
      · exact .inr ⟨n, rfl, hu, rfl, if_pos hu⟩
      · exact .inl ⟨if_neg hu, fun _ _ h => absurd h hu⟩
    | some cs => exact .inl ⟨rfl, fun _ _ _ h => nomatch h⟩
  | spread n => exact .inl ⟨rfl, fun _ h => nomatch h⟩
  | context v => exact .inl ⟨rfl, fun _ h => nomatch h⟩
  | gang g => exact .inl ⟨rfl, fun _ h => nomatch h⟩

/-- The owning ledger cell of an EVID is a ledger cell of the unit that owns its queue (R50, R124). -/
theorem ledgerCell_owner {s : State} {e c : Nat} (h : ledgerCell s e = some c) : c ∈ roleCells s (ownerUnit e) roleLedger ∧ unitOf c = ownerUnit e := by
  have hrole : ∀ {u i}, roleCell s u roleLedger i = some c → c ∈ roleCells s u roleLedger ∧ unitOf c = u := by
    intro u i h
    refine ⟨?_, unitOf_roleCell h⟩
    obtain ⟨x, hx, rfl⟩ := Option.map_eq_some_iff.mp h
    have hp := List.find?_some hx
    simp only [Bool.and_eq_true, decide_eq_true_eq] at hp
    exact List.mem_map.mpr ⟨x, List.mem_filter.mpr ⟨List.mem_of_find?_eq_some hx, by simp [hp.1]⟩, rfl⟩
  unfold ledgerCell at h
  unfold ownerUnit
  split at h <;> rename_i hw
  · rw [if_pos hw]; exact hrole h
  · rw [if_neg hw]; exact hrole h

theorem unitOf_roleCells {s : State} {u r c : Nat} (h : c ∈ roleCells s u r) : unitOf c = u := by
  obtain ⟨x, hx, rfl⟩ := List.mem_map.mp h
  have hp := (List.mem_filter.mp hx).2
  simp only [Bool.and_eq_true, decide_eq_true_eq] at hp
  exact hp.1

/-- The queue's owner is among those that the re-offer is for. -/
def ReOfferFor (s : State) (u : Nat) (left : Option (List Nat)) (e : Nat) : Prop :=
  match left with | none => ownerUnit e = u | some cs => ∃ c ∈ cs, ledgerCell s e = some c

theorem mem_reOfferCells {s : State} {u e c : Nat} {left : Option (List Nat)} (hl : ledgerCell s e = some c) :
    c ∈ reOfferCells s u left ↔ ReOfferFor s u left e := by
  obtain ⟨hmem, howner⟩ := ledgerCell_owner hl
  cases left with
  | none => exact ⟨fun h => howner.symm.trans (unitOf_roleCells h), fun h => (show ownerUnit e = u from h) ▸ hmem⟩
  | some cs => exact ⟨fun h => ⟨c, h, hl⟩, fun ⟨d, hd, hl'⟩ => Option.some.inj (hl'.symm.trans hl) ▸ hd⟩

/-! ## The statement -/

/-- What the arrival of a re-offer changes, in the terms of the state before its stages. -/
theorem reOffered_effect {s : State} (he : s.ecc = []) (d : Dest) (u : Nat) (left : Option (List Nat)) :
    RouteOpened s (reOffered s d u left) ∧
      (∀ e, e ∉ offeredBy s d (reOfferOn s u left) → (reOffered s d u left).queue e = s.queue e) ∧
      (∀ e ∈ offeredBy s d (reOfferOn s u left), Offerable s e (s.queue e) → (s.queue e).state = .pending →
        Retried s (s.queue e) ((reOffered s d u left).queue e)) ∧
      (∀ c ∈ reOfferOff s u left, Sent (reOffered s d u left) (.reOffer d u (some (reOfferOff s u left)))) ∧
      ∀ n, d = .station n → u = 12 → left = none → (∀ m, n ∉ ((reOffered s d u left).spread m).parkedD) ∧
        ∀ r ∈ s.gathers, ∀ c, (n, c) ∈ r.parked → Sent (reOffered s d u left) (.candStation n (candTour c) c) := by
  have hk := onlySent_reOfferKept s d u left
  have hroute : SameRoutes s (reOfferKept s d u left) := hk.cells.routes (by rw [hk.rest]) (by rw [hk.rest]) (by rw [hk.rest])
  have hsent : ∀ c ∈ reOfferOff s u left, Sent (reOfferKept s d u left) (.reOffer d u (some (reOfferOff s u left))) := by
    intro c hc
    rw [reOfferKept, if_neg (List.ne_nil_of_mem hc)]
    exact ⟨_, List.mem_append_right _ (List.mem_singleton.mpr rfl), rfl⟩
  have hlist : offeredBy (reOfferKept s d u left) d (reOfferOn s u left) = offeredBy s d (reOfferOn s u left) := by
    unfold offeredBy
    simp only [hk.queues_eq, hroute.routedTo, hk.cells.ledgerCell]
  have hqueue : ∀ e, (reOfferKept s d u left).queue e = s.queue e := fun e => by unfold State.queue; rw [hk.queues_eq]
  obtain ⟨hopen, hgath, hother, hretry⟩ := offerRoute_effect (s := reOfferKept s d u left) (by rw [hk.rest]; exact he) d (reOfferOn s u left)
  simp only [hlist, hqueue] at hother hretry
  have hretry' : ∀ e ∈ offeredBy s d (reOfferOn s u left), Offerable s e (s.queue e) → (s.queue e).state = .pending →
      Retried s (s.queue e) ((offerRoute (reOfferKept s d u left) d (reOfferOn s u left)).queue e) := fun e hm ⟨hb, hs, hkept, ho, hw⟩ hp =>
    (hretry e hm ⟨hb, hs, hkept, by rw [LedgerOn, hk.cells.ledgerCell, hk.cells.onCell]; exact ho, hw⟩ hp).of_routes hroute
  have hgath' : (offerRoute (reOfferKept s d u left) d (reOfferOn s u left)).gathers = s.gathers := by rw [hgath, hk.rest]
  have hopen' := hk.opened.trans hopen
  have hkept : ∀ c ∈ reOfferOff s u left, Sent (offerRoute (reOfferKept s d u left) d (reOfferOn s u left))
      (.reOffer d u (some (reOfferOff s u left))) := fun c hc => hopen.sent _ rfl (hsent c hc)
  obtain ⟨h, hno⟩ | ⟨n, rfl, rfl, rfl, h⟩ := reOffered_cases s d u left <;> rw [h]
  · exact ⟨hopen', hother, hretry', hkept, fun n hn hu hl => absurd hl (hno n hn hu)⟩
  · obtain ⟨hun, hqs, hsets, hmembers⟩ := unpark_effect (offerRoute (reOfferKept s (.station n) 12 none) (.station n) (reOfferOn s 12 none)) n
    have hq : ∀ e, (unpark (offerRoute (reOfferKept s (.station n) 12 none) (.station n) (reOfferOn s 12 none)) n).queue e =
        (offerRoute (reOfferKept s (.station n) 12 none) (.station n) (reOfferOn s 12 none)).queue e := fun e => by
      unfold State.queue; rw [hqs]
    simp only [hq]
    rw [hgath'] at hmembers
    refine ⟨hopen'.trans hun, hother, hretry', fun c hc => hun.sent _ rfl (hkept c hc), ?_⟩
    rintro _ ⟨⟩ - -
    exact ⟨hsets, hmembers⟩

/-- Settles O21: the queues of the route are offered one after the other, each at least once, and at the hub the station is no longer parked. -/
theorem reOfferHandsCandidatesOut : Obligations.ReOfferHandsCandidatesOut := by
  intro s d u left h hon
  obtain ⟨w, hw, hexec⟩ := exec_reOffer h hon
  have he : w.ecc = [] := hw.ecc_eq.trans h.2.1
  obtain ⟨⟨hrest, hcells, -⟩, hother, hretry, hoff, hhub⟩ := reOffered_effect he d u left
  have hroute : SameRoutes s w := SameRoutes.trans (t := { s with net := s.net.tail }) (SameCells.routes (SameCells.of_cells rfl) rfl rfl rfl) hw.routes
  have hqueues : w.queues = s.queues := by rw [hw.rest]
  have hqueue : ∀ e, w.queue e = s.queue e := fun e => by unfold State.queue; rw [hqueues]
  have hledger : ∀ e, ledgerCell w e = ledgerCell s e := fun e => hw.cells.ledgerCell e
  have hen : ∀ c, (w.cell c).en = (s.cell c).en := hw.cells.en
  have hcs : reOfferCells w u left = reOfferCells s u left := by unfold reOfferCells; rw [hw.cells.roleCells]; rfl
  have hmem : ∀ e c, ledgerCell s e = some c → (c ∈ reOfferCells s u left ↔ ReOfferFor s u left e) := fun e c hl => mem_reOfferCells hl
  refine ⟨_, hexec, ?_, ?_, ?_, ?_, ?_, ?_, ?_⟩
  · intro e hr hfor hb hs hk ho hp hwait
    have hon' : onCell w (ledgerCell w e) = true := by rw [hledger, hw.cells.onCell]; exact ho
    cases hl : ledgerCell s e with
    | none => rw [hledger, hl] at hon'; cases hon'
    | some c =>
      rw [hledger, hl] at hon'
      have hin : e ∈ offeredBy w d (reOfferOn w u left) := by
        refine mem_offeredBy.mpr ⟨w.queue e, mem_queues (by rw [hqueue]; exact hb), ?_, by rw [hqueue]; exact hb, c, List.mem_filter.mpr ⟨?_, hon'⟩, by rw [hledger, hl]⟩
        · rw [hroute.routedTo, hqueue]; exact hr
        · rw [hcs, hmem e c hl]; exact hfor
      have hret := hretry e hin (by rw [hqueue]; exact ⟨hb, hs, hk, by rw [LedgerOn, hledger, hw.cells.onCell]; exact ho, hwait⟩) (by rw [hqueue]; exact hp)
      rw [hqueue] at hret
      exact (hret.of_routes hroute).2.imp_right fun ⟨hst, hwhy⟩ => ⟨hst, hwhy.imp_right fun ⟨n, hn, hf, _⟩ => ⟨n, hn, hf⟩⟩
  · intro e hnone
    rw [hother e ?_, hqueue]
    intro hin
    obtain ⟨q, hq, hr, -, c, hc, hl⟩ := mem_offeredBy.mp hin
    rw [hqueues] at hq
    rw [hledger] at hl
    have hfor := (hmem e c hl).mp (hcs ▸ (List.mem_filter.mp hc).1)
    obtain hno | hno := hnone _ hq rfl
    · rw [hroute.routedTo, hno] at hr; cases hr
    · cases left with
      | none => exact hno hfor
      | some cs => obtain ⟨c, hc, hl⟩ := hfor; exact hno c hc hl
  · intro c hc hrole hdis
    have hcell : c ∈ reOfferOff w u left := by
      refine List.mem_filter.mpr ⟨?_, ?_⟩
      · rw [hcs]; cases left <;> exact hc
      · have hrole' : (w.cell c).role = roleLedger := (still_role (hw.cells.cell c)).trans hrole
        simp [hen, hdis, hrole']
    exact ⟨_, hcell, hoff c hcell⟩
  · intro n hd hu hl
    have hg : w.gathers = s.gathers := by rw [hw.rest]
    rw [← hg]
    exact hhub n hd hu hl
  · rw [hrest, hw.rest]
  · exact (hw.cells.trans hcells).counters
  · refine ⟨fun k => ?_, fun g hg => ?_⟩
    · have hop : (reOffered w d u left).op k = w.op k := by rw [hrest]; rfl
      rw [hop]
      exact hw.links.1 k
    · rw [hrest] at hg
      exact hw.links.2 g hg

end Sys2Proof.Machine
end

section
/-! SUPPORT. A record that is put into the spill ring notes its place there (R148, R149, R151). -/

namespace Sys2Proof.Machine

open Sys2Proof

/-! ## A field book that spills -/

/-- An occurrence of hub queue 0x1001. -/
def spilledToken : Token := { evid := 0x1001 }

/-- A record of another queue, as it waits in the on-chip buffer. -/
def otherRecord : FbRec := { evid := 0x1002, payload := 0, rid := 0, sec := false, deferred := false, cause := 1, stamp := 0, src := .device, lock := .none }

/-- A device whose ledger cell of queue 0x1001 is off, and whose field book has a full buffer and a ring of 4,096 places, of which the next one to
be written is place 1. -/
def spillingBook : State := { State.reset with
  hub := { populated := 1, en := true }
  cells := [(0, { plat := [(0, 0x002), (1, 0x8000), (0x12, 12)], en := true, datum := 1 }), (1, { plat := [(0, 0x202), (1, 0x8000)], datum := 1 })]
  net := [{ msg := .event spilledToken }]
  fb := { recs := List.replicate 8192 otherRecord, place := 1 } }

/-- The token reaches its ledger next, nothing is held or struck, and the field book has space. -/
theorem spillingBook_ready : Next spillingBook (.event spilledToken) ∧ NoGangSends spillingBook ∧ Clean spillingBook ∧
    (∀ c, ledgerCell spillingBook spilledToken.evid = some c → (spillingBook.cell c).ledgerHold = none) ∧ spillingBook.waits = [] ∧
    onCell spillingBook (ledgerCell spillingBook spilledToken.evid) = false ∧ fbFull spillingBook = false := by
  refine ⟨⟨⟨_, _, rfl, rfl, rfl, by decide +kernel, by decide +kernel⟩, rfl, ?_⟩, ?_, ⟨rfl, rfl⟩, ?_, rfl, by decide +kernel, by decide +kernel⟩
  · rintro _ ⟨⟩
    decide +kernel
  · intro p hp k hk
    rw [List.mem_singleton.mp hp] at hk
    cases hk
    rfl
  · have hcell : ledgerCell spillingBook spilledToken.evid = some 1 := by decide +kernel
    rintro c hc
    rw [hcell] at hc
    cases hc
    rfl

/-- What LEDGER_TAKE does (R119, R152, R216). -/
theorem exec_ledgerTake (s : State) (e : Nat) : exec (.ledgerTake e) s = .next (serveWaits (answerHeld (freeIntakes s (ledgerTake s e)))) := rfl

/-- LEDGER_TAKE puts the record into the ring at place 1 (R151). -/
theorem spillingBook_take : fbOf (serveWaits (answerHeld (freeIntakes spillingBook (ledgerTake spillingBook spilledToken.evid)))) spilledToken.evid =
    [{ recOf spilledToken true 0 with place := 1 }] := by decide +kernel

/-- No record of the queue waits before. -/
theorem spillingBook_empty : fbOf spillingBook spilledToken.evid = [] := by decide +kernel

/-- Refutes O15: an occurrence that finds its ledger cell disabled is not put behind the queue's records as `recOf` writes it where the field book
spills: with the on-chip buffer full `fbPut` writes the record into the ring, where it notes its place, and `recOf` has it at place 0. -/
theorem not_ledgerChecksAndEntersOccurrences : ¬ Obligations.LedgerChecksAndEntersOccurrences := by
  intro h
  obtain ⟨hnext, hgang, hclean, hhold, hwaits, hoff, hfull⟩ := spillingBook_ready
  obtain ⟨-, hdisabled⟩ := h.2.2 spillingBook spilledToken hnext hgang hclean hhold hwaits
  obtain ⟨t, ht, hrec, -⟩ := hdisabled hoff rfl hfull
  rw [exec_ledgerTake] at ht
  obtain rfl := Host.Outcome.next.inj ht
  have hplace := congrArg (List.map (·.place)) spillingBook_take
  rw [hrec, spillingBook_empty] at hplace
  cases hplace

end Sys2Proof.Machine
end

section
/-! SUPPORT. Frames: what the functions of the model leave as it is. `State.standing` gathers the sides of a state that enables, the Datum check, plat
commands and bring-ups speak of, and for each function one lemma `standing_<function>` says which of them it leaves: a flag that is `false` there marks
a side that the function may change. -/

namespace Sys2Proof.Machine

open Sys2Proof

/-! ## What stands -/

/-- The power side: how far the hub's bring-up is, the stakes, and which outposts are there. -/
abbrev PowerSide := DomSt × DomSt × Nat × Bool × List (Nat × Dom) × BitVec 12
def powerSide (w : Pwr) (h : Hub) : PowerSide := (w.hubl, w.hubm, w.bring, w.cold, w.stakes, h.populated)

/-- The plat side of a cell slot: its region, what enables it, and what its checks found. -/
abbrev CellSide := Tab Word × Tab Word × Bool × Bool × Bool × BitVec 2 × Bool × BitVec 2 × Bool
def Cell.side (x : Cell) : CellSide := (x.plat, x.shadow, x.en, x.quiet, x.enKept, x.datum, x.fenced, x.bist, x.unserved)

/-- The slot is listed with a role. -/
def listed (cs : Tab Cell) (c : Nat) : Prop := ∃ x : Cell, (c, x) ∈ cs ∧ x.role ≠ 0

/-- The plat side: the Datum unit, the plat in force, the plat store, every cell slot, and which slots with a role are UNSERVED. -/
abbrev PlatSide := Datum × Word × Bool × Bool × Option PlatImage × Option PlatImage × (Nat → CellSide × Prop)
def slotSide (cs : Tab Cell) (c : Nat) : CellSide × Prop := ((tget {} cs c).side, (tget {} cs c).unserved = true ∧ listed cs c)
def platSide (h : Hub) (x : Isl) (cs : Tab Cell) : PlatSide := (h.datum, h.platId, h.compact, h.staged, x.store0, x.store1, slotSide cs)

/-- What the ledgers and stores hold. -/
abbrev StoreSide := Tab Queue × Tab Word × Tab Slot × FieldBook × Tab Input

/-- The results of self-tests, and the count of Datum mismatches. -/
abbrev ResultSide := Tab (BitVec 2) × Word
def resultSide (h : Hub) : ResultSide := (h.bistPhys, tget 0 h.faultCnt 4)

/-- A re-offer. -/
def Msg.asks : Msg → Bool
  | .reOffer .. => true
  | _ => false

/-- The re-offers that are under way. -/
def askSide (ns : List Packet) : List Packet := ns.filter (·.msg.asks)

/-- The power side, and of the other sides those that are asked for: plat, stores, the outposts' own state, results, re-offers. -/
def standingOf (plat stores dies results asks : Bool) (pw : PowerSide) (pl : PlatSide) (st : StoreSide) (os : Tab Outpost) (re : ResultSide) (rs : List Packet) :=
  (pw, (if plat then some pl else none), (if stores then some st else none), (if dies then some os else none),
    (if results then some re else none), if asks then some rs else none)

/-- What stands of a state, as far as it is asked for. -/
def State.standing (plat stores dies results asks : Bool) (s : State) :=
  standingOf plat stores dies results asks (powerSide s.pwr s.hub) (platSide s.hub s.isl s.cells) (s.queues, s.tally, s.pool, s.fb, s.inputs) s.outs
    (resultSide s.hub) (askSide s.net)

variable {wp ws wd wm wa : Bool}

/-- Into the sides of a state that is written out, and back. -/
theorem standing_mk (x0 ns x2 h os cs ins qs ty po fb x11 x12 x13 x14 x15 x16 x17 x18 x19 x20 x21 x22 x23 x24 x25 w x x28 x29 x30 x31 x32 x33 x34) :
    State.standing wp ws wd wm wa ⟨x0, ns, x2, h, os, cs, ins, qs, ty, po, fb, x11, x12, x13, x14, x15, x16, x17, x18, x19, x20, x21, x22, x23, x24, x25, w, x, x28, x29, x30, x31, x32, x33, x34⟩ =
      standingOf wp ws wd wm wa (powerSide w h) (platSide h x cs) (qs, ty, po, fb, ins) os (resultSide h) (askSide ns) := rfl

theorem mk_standing (s : State) :
    standingOf wp ws wd wm wa (powerSide s.pwr s.hub) (platSide s.hub s.isl s.cells) (s.queues, s.tally, s.pool, s.fb, s.inputs) s.outs (resultSide s.hub) (askSide s.net) =
      s.standing wp ws wd wm wa := rfl

/-- What is not asked for may differ. -/
theorem mk_standing_plat (s : State) (pl : PlatSide) :
    standingOf false ws wd wm wa (powerSide s.pwr s.hub) pl (s.queues, s.tally, s.pool, s.fb, s.inputs) s.outs (resultSide s.hub) (askSide s.net) =
      s.standing false ws wd wm wa := rfl
theorem mk_standing_stores (s : State) (st : StoreSide) :
    standingOf wp false wd wm wa (powerSide s.pwr s.hub) (platSide s.hub s.isl s.cells) st s.outs (resultSide s.hub) (askSide s.net) =
      s.standing wp false wd wm wa := rfl
theorem mk_standing_asks (s : State) (rs : List Packet) :
    standingOf wp ws wd wm false (powerSide s.pwr s.hub) (platSide s.hub s.isl s.cells) (s.queues, s.tally, s.pool, s.fb, s.inputs) s.outs (resultSide s.hub) rs =
      s.standing wp ws wd wm false := rfl

/-! ## The updates of State -/

@[simp] theorem standing_ite (c : Prop) [Decidable c] (a b : State) :
    (if c then a else b).standing wp ws wd wm wa = if c then a.standing wp ws wd wm wa else b.standing wp ws wd wm wa := by split <;> rfl

@[simp] theorem standing_forAll {α : Type} (s : State) (xs : List α) (f : State → α → State) (hf : ∀ t a, (f t a).standing wp ws wd wm wa = t.standing wp ws wd wm wa) :
    (forAll s xs f).standing wp ws wd wm wa = s.standing wp ws wd wm wa :=
  forAll_rel (R := fun s t => t.standing wp ws wd wm wa = s.standing wp ws wd wm wa) (fun _ => rfl) (fun h1 h2 => h2.trans h1) f hf xs s

/-- The plat side of two cell slots is the same. -/
@[simp] abbrev Cell.SameSide (x y : Cell) : Prop :=
  x.plat = y.plat ∧ x.shadow = y.shadow ∧ x.en = y.en ∧ x.quiet = y.quiet ∧ x.enKept = y.enKept ∧ x.datum = y.datum ∧ x.fenced = y.fenced ∧
    x.bist = y.bist ∧ x.unserved = y.unserved

/-- The two images of the plat store are the same. -/
@[simp] abbrev Isl.SameSide (x y : Isl) : Prop := x.store0 = y.store0 ∧ x.store1 = y.store1

/-- The hub's bring-up is as far, and the stakes are the same. -/
@[simp] abbrev Pwr.SameSide (x y : Pwr) : Prop := x.hubl = y.hubl ∧ x.hubm = y.hubm ∧ x.bring = y.bring ∧ x.cold = y.cold ∧ x.stakes = y.stakes

/-- What stands of the hub's block is the same. -/
@[simp] abbrev Hub.SameSide (x y : Hub) : Prop :=
  x.populated = y.populated ∧ x.datum = y.datum ∧ x.platId = y.platId ∧ x.compact = y.compact ∧ x.staged = y.staged ∧ x.bistPhys = y.bistPhys ∧
    tget 0 x.faultCnt 4 = tget 0 y.faultCnt 4

/-! ## Slots that are listed with a role -/

theorem tget_mem {t : Tab Cell} {n : Nat} (h : (tget {} t n).role ≠ 0) : (n, tget {} t n) ∈ t := by
  induction t with
  | nil => exact absurd rfl h
  | cons e t ih =>
    obtain ⟨m, w⟩ := e
    unfold tget at h ⊢
    split at h
    · next hm => simp [hm]
    · next hm =>
      rw [if_neg hm]
      exact List.mem_cons_of_mem _ (ih h)

/-- An update that keeps the role keeps which numbers are listed with one. -/
theorem listed_tput {t : Tab Cell} {n : Nat} {v : Cell} (hv : v.role = (tget {} t n).role) (c : Nat) :
    listed (tput n v t) c ↔ listed t c := by
  have hnew : ∀ u : Tab Cell, v.role = (tget {} u n).role →
      (listed ((n, v) :: u) c ↔ listed u c) := by
    intro u hu
    constructor
    · rintro ⟨x, hx, hrole⟩
      rcases List.mem_cons.mp hx with heq | hmem
      · obtain ⟨rfl, rfl⟩ := Prod.mk.inj heq
        exact ⟨_, tget_mem (hu ▸ hrole), hu ▸ hrole⟩
      · exact ⟨x, hmem, hrole⟩
    · rintro ⟨x, hx, hrole⟩
      exact ⟨x, List.mem_cons_of_mem _ hx, hrole⟩
  induction t with
  | nil => exact hnew [] hv
  | cons e t ih =>
    obtain ⟨m, w⟩ := e
    unfold tput
    split
    · exact hnew _ hv
    · split
      · next hm =>
        have hw : v.role = w.role := by simpa [tget, hm] using hv
        simp only [listed, List.mem_cons, Prod.mk.injEq, hm, or_and_right, exists_or]
        have hboth : (∃ x : Cell, (c = m ∧ x = v) ∧ x.role ≠ 0) ↔ ∃ x : Cell, (c = m ∧ x = w) ∧ x.role ≠ 0 := by
          constructor <;> rintro ⟨x, ⟨hc, rfl⟩, hrole⟩
          · exact ⟨w, ⟨hc, rfl⟩, hw ▸ hrole⟩
          · exact ⟨v, ⟨hc, rfl⟩, hw ▸ hrole⟩
        rw [hboth]
      · next hm =>
        have hrest := ih (by rwa [tget, if_neg (Ne.symm hm)] at hv)
        simp only [listed] at hrest ⊢
        simp only [List.mem_cons, or_and_right, exists_or, hrest]

/-- An update that takes an entry away takes none that is UNSERVED and has a role. -/
theorem slotSide_tset (t : Tab Cell) (c : Nat) (x : Cell) (hx : x.SameSide (tget {} t c)) : slotSide (tset {} t c x) = slotSide t := by
  obtain ⟨hplat, hshadow, hen, hquiet, hkept, hdatum, hfenced, hbist, hunserved⟩ := hx
  have hside : ∀ d, (tget {} (tset {} t c x) d).side = (tget {} t d).side := by
    intro d
    rw [tget_tset]
    split
    · next h => simp only [Cell.side, h, hplat, hshadow, hen, hquiet, hkept, hdatum, hfenced, hbist, hunserved]
    · rfl
  funext d
  refine Prod.ext (hside d) (propext ?_)
  have hu : (tget {} (tset {} t c x) d).unserved = (tget {} t d).unserved := congrArg (·.2.2.2.2.2.2.2.2) (hside d)
  simp only [slotSide, hu]
  refine and_congr_right fun hd => ?_
  unfold tset
  split
  · next hdel =>
    have hne : d ≠ c := by
      rintro rfl
      rw [← hunserved, hdel] at hd
      simp at hd
    unfold listed tdel
    simp [hne]
  · exact listed_tput (by rw [Cell.role, Cell.role, hplat]) d

/-! ## Updates of one entry -/

@[simp] theorem standing_modCell (s : State) (c : Nat) (f : Cell → Cell) (hf : ∀ x, (f x).SameSide x) :
    (s.modCell c f).standing wp ws wd wm wa = s.standing wp ws wd wm wa := by
  simp only [State.modCell, State.setCell, State.standing, platSide, slotSide_tset s.cells c (f (s.cell c)) (hf _)]

@[simp] theorem standing_modCell_plain (s : State) (c : Nat) (f : Cell → Cell) :
    (s.modCell c f).standing false ws wd wm wa = s.standing false ws wd wm wa := rfl
@[simp] theorem standing_setCell_plain (s : State) (c : Nat) (x : Cell) : (s.setCell c x).standing false ws wd wm wa = s.standing false ws wd wm wa := rfl
@[simp] theorem standing_modOp (s : State) (k : Nat) (f : Outpost → Outpost) : (s.modOp k f).standing wp ws false wm wa = s.standing wp ws false wm wa := rfl
@[simp] theorem standing_modInput (s : State) (e : Nat) (f : Input → Input) : (s.modInput e f).standing wp false wd wm wa = s.standing wp false wd wm wa := rfl
@[simp] theorem standing_setQueue (s : State) (e : Nat) (x : Queue) : (s.setQueue e x).standing wp false wd wm wa = s.standing wp false wd wm wa := rfl
@[simp] theorem standing_modQueue (s : State) (e : Nat) (f : Queue → Queue) : (s.modQueue e f).standing wp false wd wm wa = s.standing wp false wd wm wa := rfl
@[simp] theorem standing_setSlot (s : State) (n : Nat) (x : Slot) : (s.setSlot n x).standing wp false wd wm wa = s.standing wp false wd wm wa := rfl
@[simp] theorem standing_setStn (s : State) (n : Nat) (x : Station) : (s.setStn n x).standing wp ws wd wm wa = s.standing wp ws wd wm wa := rfl
@[simp] theorem standing_modStn (s : State) (n : Nat) (f : Station → Station) : (s.modStn n f).standing wp ws wd wm wa = s.standing wp ws wd wm wa := rfl
@[simp] theorem standing_modGrp (s : State) (n : Nat) (g : Grp) (f : Group → Group) : (s.modGrp n g f).standing wp ws wd wm wa = s.standing wp ws wd wm wa := rfl
@[simp] theorem standing_setCtx (s : State) (v : Nat) (x : Ctx) : (s.setCtx v x).standing wp ws wd wm wa = s.standing wp ws wd wm wa := rfl
@[simp] theorem standing_modCtx (s : State) (v : Nat) (f : Ctx → Ctx) : (s.modCtx v f).standing wp ws wd wm wa = s.standing wp ws wd wm wa := rfl
@[simp] theorem standing_modSpread (s : State) (n : Nat) (f : Spread → Spread) : (s.modSpread n f).standing wp ws wd wm wa = s.standing wp ws wd wm wa := rfl
@[simp] theorem standing_modGang (s : State) (g : Nat) (f : Gang → Gang) : (s.modGang g f).standing wp ws wd wm wa = s.standing wp ws wd wm wa := rfl
@[simp] theorem standing_setRes (s : State) (r : Nat) (x : Resv) : (s.setRes r x).standing wp ws wd wm wa = s.standing wp ws wd wm wa := rfl
@[simp] theorem standing_modMer (s : State) (f : Mer → Mer) : (s.modMer f).standing wp ws wd wm wa = s.standing wp ws wd wm wa := rfl
@[simp] theorem standing_modAlarm (s : State) (a : Nat) (f : Alarm → Alarm) : (s.modAlarm a f).standing wp ws wd wm wa = s.standing wp ws wd wm wa := by
  unfold State.modAlarm
  rfl
@[simp] theorem standing_modMbx (s : State) (b : Box) (f : Mbx → Mbx) : (s.modMbx b f).standing wp ws wd wm wa = s.standing wp ws wd wm wa := by
  cases b <;> rfl
@[simp] theorem standing_modParcel (s : State) (n : Nat) (f : Parcel → Parcel) : (s.modParcel n f).standing wp ws wd wm wa = s.standing wp ws wd wm wa := by
  unfold State.modParcel
  split <;> rfl
@[simp] theorem standing_modIsl (s : State) (f : Isl → Isl) (hf : ∀ x, (f x).SameSide x) :
    (s.modIsl f).standing wp ws wd wm wa = s.standing wp ws wd wm wa := by
  obtain ⟨h0, h1⟩ := hf s.isl
  simp only [State.modIsl, State.standing, platSide, h0, h1]
@[simp] theorem standing_modIsl_plain (s : State) (f : Isl → Isl) : (s.modIsl f).standing false ws wd wm wa = s.standing false ws wd wm wa := rfl
@[simp] theorem standing_modPwr (s : State) (f : Pwr → Pwr) (hf : ∀ x, (f x).SameSide x) :
    (s.modPwr f).standing wp ws wd wm wa = s.standing wp ws wd wm wa := by
  obtain ⟨hl, hm, hb, hc, hs⟩ := hf s.pwr
  simp only [State.modPwr, State.standing, powerSide, hl, hm, hb, hc, hs]
@[simp] theorem standing_modHub (s : State) (f : Hub → Hub) (hf : ∀ x, (f x).SameSide x) :
    (s.modHub f).standing wp ws wd wm wa = s.standing wp ws wd wm wa := by
  obtain ⟨hpop, hdatum, hid, hcompact, hstaged, hbist, hcnt⟩ := hf s.hub
  simp only [State.modHub, State.standing, powerSide, platSide, resultSide, hpop, hdatum, hid, hcompact, hstaged, hbist, hcnt]
@[simp] theorem standing_modHub_plain (s : State) (f : Hub → Hub) (hf : ∀ x, (f x).populated = x.populated) :
    (s.modHub f).standing false ws wd false wa = s.standing false ws wd false wa := by
  simp [State.modHub, State.standing, standingOf, powerSide, hf]

/-- The event counters of a slot are no part of its role. -/
theorem listed_still (t : Tab Cell) (c : Nat) : listed t c ↔ listed (t.map fun e => (e.1, e.2.still)) c := by
  simp only [listed, List.mem_map, Prod.mk.injEq, Prod.exists]
  constructor
  · rintro ⟨x, hx, hrole⟩
    exact ⟨x.still, ⟨c, x, hx, rfl, rfl⟩, hrole⟩
  · rintro ⟨_, ⟨_, x, hx, rfl, rfl⟩, hrole⟩
    exact ⟨x, hx, hrole⟩

@[simp] theorem standing_bump (s : State) (c : Option Nat) (code : Nat) : (bump s c code).standing wp ws wd wm wa = s.standing wp ws wd wm wa := by
  have hcells : slotSide (bump s c code).cells = slotSide s.cells := by
    funext e
    have h := congrArg Cell.side ((bump_same s c code).cell e)
    have hside : (tget {} (bump s c code).cells e).side = (tget {} s.cells e).side := by simpa [Cell.still, Cell.side, State.cell] using h
    have hu : (tget {} (bump s c code).cells e).unserved = (tget {} s.cells e).unserved := congrArg (·.2.2.2.2.2.2.2.2) hside
    have hlisted : listed (bump s c code).cells e ↔ listed s.cells e := by
      rw [listed_still, show (bump s c code).cells.map _ = _ from bump_same s c code, ← listed_still]
    exact Prod.ext hside (propext (by simp only [slotSide, hu, hlisted]))
  rw [bump_eq]
  simp only [State.standing, platSide, hcells]

@[simp] theorem standing_bumpBy (s : State) (c : Option Nat) (code n : Nat) : (bumpBy s c code n).standing wp ws wd wm wa = s.standing wp ws wd wm wa := by
  induction n with
  | zero => rfl
  | succ n ih => rw [bumpBy, standing_bump, ih]

/-! ## Messages, log and faults -/

@[simp] theorem asks_eq_false (x : Msg) (h : ∀ d u l, x ≠ .reOffer d u l) : x.asks = false := by
  unfold Msg.asks
  split
  · exact absurd rfl (h _ _ _)
  · rfl

/-- A message that is no re-offer adds to no side. -/
@[simp] theorem standing_send (s : State) (x : Msg) (up : Option Nat) (down : Option Nat) (c : Option Nat := none) (hx : x.asks = false) :
    (send s x up down c).standing wp ws wd wm wa = s.standing wp ws wd wm wa := by
  simp [send, State.standing, askSide, hx]
@[simp] theorem standing_send_asks (s : State) (x : Msg) (up : Option Nat) (down : Option Nat) (c : Option Nat := none) :
    (send s x up down c).standing wp ws wd wm false = s.standing wp ws wd wm false := rfl

@[simp] theorem standing_sendFrom (s : State) (c : Option Nat) (x : Msg) (up : Option Nat) (down : Option Nat) (hx : x.asks = false) :
    (sendFrom s c x up down).standing wp ws wd wm wa = s.standing wp ws wd wm wa := by
  simp [sendFrom, hx]
@[simp] theorem standing_sendFrom_asks (s : State) (c : Option Nat) (x : Msg) (up : Option Nat) (down : Option Nat) :
    (sendFrom s c x up down).standing wp ws wd wm false = s.standing wp ws wd wm false := by simp [sendFrom]

@[simp] theorem standing_dropMsgs (s : State) (f : Msg → Bool) (hf : ∀ d u l, f (.reOffer d u l) = false) :
    (dropMsgs s f).standing wp ws wd wm wa = s.standing wp ws wd wm wa := by
  have hasks : ∀ p : Packet, p.msg.asks = true → f p.msg = false := by
    intro p hp
    cases hm : p.msg <;> simp_all [Msg.asks]
  have hkept : askSide (dropMsgs s f).net = askSide s.net := by
    simp only [askSide, dropMsgs, List.filter_filter]
    refine List.filter_congr fun p _ => ?_
    cases hp : p.msg.asks <;> simp [hasks, hp]
  simp only [State.standing, hkept]
  rfl
@[simp] theorem standing_dropMsgs_asks (s : State) (f : Msg → Bool) : (dropMsgs s f).standing wp ws wd wm false = s.standing wp ws wd wm false := rfl

@[simp] theorem standing_intakeHub (s : State) (e : Nat) (pl : Payload) (st : Stamp) (pre : Nat) (src : Source) (lock : Lock) (sec : Bool) :
    (intakeHub s e pl st pre src lock sec).standing wp ws wd wm wa = s.standing wp ws wd wm wa := standing_send _ _ _ _ _ rfl

@[simp] theorem standing_raiseHub (s : State) (code : Nat) (pre : Nat) : (raiseHub s code pre).standing wp ws wd false wa = s.standing wp ws wd false wa := by
  unfold raiseHub
  rw [standing_intakeHub]
  rfl

/-- Only fault 0x04 counts a Datum mismatch. -/
@[simp] theorem standing_raiseHub_other (s : State) (code : Nat) (pre : Nat) (h : code ≠ 4) :
    (raiseHub s code pre).standing wp ws wd wm wa = s.standing wp ws wd wm wa := by
  unfold raiseHub
  rw [standing_intakeHub]
  exact standing_modHub s _ fun x => by simp [tget_tset, Ne.symm h]

@[simp] theorem standing_touch (s : State) (n : Nat) : (touch s n).standing wp ws wd wm wa = s.standing wp ws wd wm wa := by simp [touch]

@[simp] theorem standing_logTake (s : State) (e : LogEntry) : (logTake s e).standing wp ws wd wm wa = s.standing wp ws wd wm wa :=
  standing_modIsl s _ fun x => by split <;> simp

@[simp] theorem standing_perfAdd (s : State) (n : Nat) (off k : Nat) : (perfAdd s n off k).standing wp ws wd wm wa = s.standing wp ws wd wm wa := by simp [perfAdd]
@[simp] theorem standing_log (s : State) (code unit : Nat) (sec : Bool) (a0 a1 a2 : Word) :
    (log s code unit sec a0 a1 a2).standing wp ws wd wm wa = s.standing wp ws wd wm wa := by
  simp [log]
@[simp] theorem standing_speedNote (s0 s : State) : (speedNote s0 s).standing wp ws wd wm wa = s.standing wp ws wd wm wa := by simp [speedNote]
@[simp] theorem standing_aggFlush (s : State) (code : Nat) (key : Nat) : (aggFlush s code key).standing wp ws wd wm wa = s.standing wp ws wd wm wa := by
  unfold aggFlush
  repeat' split
  all_goals simp
@[simp] theorem standing_logAgg (s : State) (code : Nat) (unit : Nat) (sec : Bool) (a0 : Word) (a1 : Word) (key : Nat) :
    (logAgg s code unit sec a0 a1 key).standing wp ws wd wm wa = s.standing wp ws wd wm wa := by
  unfold logAgg
  simp only
  split <;> simp

@[simp] theorem standing_raise (s : State) (code unit : Nat) (sec : Bool) (a0 a1 a2 : Word) (key : Option Nat) :
    (raise s code unit sec a0 a1 a2 key).standing wp ws wd false wa = s.standing wp ws wd false wa := by
  unfold raise
  simp only
  split <;> simp

/-- Only fault 0x04 counts a Datum mismatch. -/
@[simp] theorem standing_raise_other (s : State) (code unit : Nat) (sec : Bool) (a0 a1 a2 : Word) (key : Option Nat) (h : code ≠ 4) :
    (raise s code unit sec a0 a1 a2 key).standing wp ws wd wm wa = s.standing wp ws wd wm wa := by
  unfold raise
  simp only
  split <;> simp [h]

/-! ## Refusals and leases -/

@[simp] theorem standing_faultReason (s : State) (r : BitVec 4) (word : Word) (arg1 : Word) (sec : Bool) :
    (faultReason s r word arg1 sec).standing wp ws wd wm wa = s.standing wp ws wd wm wa := by
  unfold faultReason
  repeat' split
  all_goals simp

/-- The counters of refused writes are no side of the hub that stands. -/
theorem countReason_side (h : Hub) (r : BitVec 4) : (countReason h r).SameSide h := by
  unfold countReason
  split <;> simp

@[simp] theorem standing_countReason (s : State) (r : BitVec 4) : (s.modHub (countReason · r)).standing wp ws wd wm wa = s.standing wp ws wd wm wa :=
  standing_modHub s _ (countReason_side · r)

@[simp] theorem standing_rejectDb (s : State) (r : BitVec 4) (port : Nat) (win : Bool) (data : Word) (rid : BitVec 16) (sec : Bool) (e : Nat) :
    (rejectDb s r port win data rid sec e).standing wp ws wd wm wa = s.standing wp ws wd wm wa := by
  unfold rejectDb captureDb
  simp only [standing_faultReason]
  refine standing_modHub _ _ fun x => ?_
  split <;> exact countReason_side x r

@[simp] theorem standing_revokeWord (s : State) (c : Nat) (w : Nat) : (revokeWord s c w).standing wp ws wd wm wa = s.standing wp ws wd wm wa := by
  refine standing_forAll _ _ _ fun t key => ?_
  simp only
  split <;> simp

/-! ## Parity, doorbells and what an input sends -/

@[simp] theorem standing_takeSafe (s : State) (off : Nat) : (takeSafe s off).2.standing wp ws wd wm wa = s.standing wp ws wd wm wa := by
  unfold takeSafe
  simp only
  repeat' split
  all_goals simp

@[simp] theorem standing_parityCheck (s : State) (off : Nat) :
    (parityCheck s off).standing wp ws wd wm wa = s.standing wp ws wd wm wa := by simp [parityCheck, ↓standing_mk, ↓mk_standing]

@[simp] theorem standing_parityAll (s : State) (offs : List Nat) : (parityAll s offs).standing wp ws wd wm wa = s.standing wp ws wd wm wa := by simp [parityAll]

@[simp] theorem standing_rodParity (s : State) (c : Nat) : (rodParity s c).standing wp ws wd wm wa = s.standing wp ws wd wm wa := by simp [rodParity]

@[simp] theorem standing_overrun (s : State) (c : Option Nat) : (overrun s c).standing wp ws wd wm wa = s.standing wp ws wd wm wa := by
  unfold overrun
  repeat' split
  all_goals simp [↓standing_mk, ↓mk_standing]

@[simp] theorem standing_stampSend (s' : State) (c : Nat) (t : Token) (held : Bool) :
    (stampSend s' c t held).standing wp ws wd wm wa = s'.standing wp ws wd wm wa := by simp [stampSend]

@[simp] theorem standing_takeDoorbell (s : State) (c : Nat) (d : DbWrite) (win : Bool) (handed : Bool) :
    (takeDoorbell s c d win handed).standing wp ws wd wm wa = s.standing wp ws wd wm wa := by simp [takeDoorbell]

@[simp] theorem standing_portWrite (s : State) (d : DbWrite) (win : Bool) : (portWrite s d win).standing wp ws wd wm wa = s.standing wp ws wd wm wa := by
  unfold portWrite
  repeat' split
  all_goals simp

@[simp] theorem standing_drainPorts (s : State) : (drainPorts s).standing wp ws wd wm wa = s.standing wp ws wd wm wa := by
  unfold drainPorts
  refine standing_forAll _ _ _ fun t n => ?_
  simp

@[simp] theorem standing_sendLevel (s' : State) (e : Nat) : (sendLevel s' e).standing wp false wd wm wa = s'.standing wp false wd wm wa := by
  unfold sendLevel
  simp only
  repeat' split
  all_goals simp

@[simp] theorem standing_releaseHeld (s : State) (c : Nat) (e : Nat) :
    (releaseHeld s c e).standing wp false wd wm wa = s.standing wp false wd wm wa := by simp [releaseHeld]

@[simp] theorem standing_secureParity (s : State) (n : Nat) : (secureParity s n).standing wp ws wd wm wa = s.standing wp ws wd wm wa := by simp [secureParity]

/-! ## Stations, pages and contexts -/

@[simp] theorem standing_modPage (s : State) (p : Page) (f : Group → Group) : (modPage s p f).standing wp ws wd wm wa = s.standing wp ws wd wm wa := by
  unfold modPage
  repeat' split
  all_goals simp

@[simp] theorem standing_strike (s : State) (x : Store) (e : Nat) (c : Option Nat) : (strike s x e c).2.standing wp ws wd wm wa = s.standing wp ws wd wm wa := by
  unfold strike
  repeat' split
  all_goals simp [↓standing_mk, ↓mk_standing]

/-- Only messages that are no re-offers are changed, and into no re-offers. -/
theorem askSide_map (ns : List Packet) (f : Packet → Packet) (hkept : ∀ p, p.msg.asks = true → f p = p) (hother : ∀ p, p.msg.asks = false → (f p).msg.asks = false) :
    askSide (ns.map f) = askSide ns := by
  induction ns with
  | nil => rfl
  | cons p ns ih =>
    unfold askSide at ih ⊢
    cases hp : p.msg.asks with
    | true => simp [hkept p hp, hp, ih]
    | false => simp [hother p hp, hp, ih]

@[simp] theorem standing_sendMember (s : State) (id : Nat) (e : Nat) (n : Nat) : (sendMember s id e n).standing wp ws wd wm wa = s.standing wp ws wd wm wa := by
  unfold sendMember
  simp only
  split
  · rw [standing_mk, askSide_map]
    · rfl
    · rintro ⟨msg, _⟩ hp
      cases msg <;> simp_all
    · rintro ⟨msg, _⟩ hp
      cases msg <;> simp_all
      split <;> simp
  · simp

@[simp] theorem standing_reqWatch (n : Nat) (s0 : State) (s1 : State) : (reqWatch n s0 s1).standing wp ws wd wm wa = s1.standing wp ws wd wm wa := by simp [reqWatch]

@[simp] theorem standing_setPark (s : State) (n : Nat) (t : Tour) (b : Bool) : (setPark s n t b).standing wp ws wd wm wa = s.standing wp ws wd wm wa := by
  unfold setPark
  repeat' split
  all_goals simp

@[simp] theorem standing_giveBack (s : State) (c : Cand) (parked : Bool) (n : Nat) :
    (giveBack s c parked n).standing wp ws wd wm wa = s.standing wp ws wd wm wa := by simp [giveBack]

@[simp] theorem standing_parkAt (s : State) (n : Nat) (t : Tour) (c : Cand) : (parkAt s n t c).standing wp ws wd wm wa = s.standing wp ws wd wm wa := by
  unfold parkAt
  repeat' split
  all_goals simp

@[simp] theorem standing_putSeats (s : State) (n : Nat) (t : Tour) (xs : List Seat) : (putSeats s n t xs).standing wp ws wd wm wa = s.standing wp ws wd wm wa := by
  unfold putSeats
  repeat' split
  all_goals simp

@[simp] theorem standing_reportLoad (s : State) (n : Nat) (g : Grp) : (reportLoad s n g).standing wp ws wd wm wa = s.standing wp ws wd wm wa := by simp [reportLoad]

@[simp] theorem standing_sendReOffer (s : State) (u : Nat) (c : Option Nat) (d : Dest) :
    (sendReOffer s u c d).standing wp ws wd wm false = s.standing wp ws wd wm false := by simp [sendReOffer]

@[simp] theorem standing_checkPark (s : State) (n : Nat) (t : Tour) : (checkPark s n t).standing wp ws wd wm false = s.standing wp ws wd wm false := by simp [checkPark]

@[simp] theorem standing_settleStation (s0 s : State) (n : Nat) : (settleStation s0 s n).standing wp ws wd wm false = s.standing wp ws wd wm false := by
  unfold settleStation
  simp only [standing_ite, standing_checkPark, standing_reportLoad, ite_self]
  split
  · split <;> simp
  · rfl

@[simp] theorem standing_complete (s' : State) (p : Page) (data : Word) : (complete s' p data).standing wp ws wd wm false = s'.standing wp ws wd wm false := by
  unfold complete
  simp only
  repeat' split
  all_goals simp

@[simp] theorem standing_pageParity (s : State) (p : Page) : (pageParity s p).standing wp ws wd wm wa = s.standing wp ws wd wm wa := by
  unfold pageParity
  repeat' split
  all_goals simp

@[simp] theorem standing_watchPage (s0 : State) (s1 : State) (p : Page) : (watchPage s0 s1 p).standing wp ws wd wm wa = s1.standing wp ws wd wm wa := by
  unfold watchPage
  repeat' split
  all_goals simp

@[simp] theorem standing_writeRunning (s' : State) (p : Page) (data : Word) : (writeRunning s' p data).standing wp ws wd wm wa = s'.standing wp ws wd wm wa := by
  unfold writeRunning
  simp only
  repeat' split
  all_goals simp

@[simp] theorem standing_writeMask (s' : State) (p : Page) (data : Word) :
    (writeMask s' p data).standing wp ws wd wm wa = s'.standing wp ws wd wm wa := by simp [writeMask]

@[simp] theorem standing_writePreBits (s' : State) (p : Page) (data : Word) :
    (writePreBits s' p data).standing wp ws wd wm wa = s'.standing wp ws wd wm wa := by simp [writePreBits]

@[simp] theorem standing_rodParityAll (s : State) (cs : List Nat) : (rodParityAll s cs).standing wp ws wd wm wa = s.standing wp ws wd wm wa := by simp [rodParityAll]

@[simp] theorem standing_sendServe (s : State) (c : Nat) (k : Option Nat) : (sendServe s c k).standing wp ws wd wm wa = s.standing wp ws wd wm wa := by simp [sendServe]

@[simp] theorem standing_pageReject (s : State) (p : Page) (r : BitVec 4) : (pageReject s p r).standing wp ws wd wm wa = s.standing wp ws wd wm wa := by
  unfold pageReject
  repeat' split
  all_goals simp

@[simp] theorem standing_rejectSend (s : State) (p : Page) (r : BitVec 4) (rid : BitVec 16) (sec : Bool) (e : Nat) (data : Word) :
    (rejectSend s p r rid sec e data).standing wp ws wd wm wa = s.standing wp ws wd wm wa := by simp [rejectSend]

@[simp] theorem standing_sendToken (s : State) (p : Page) (c : Nat) (k : Option Nat) (key : Nat) (t : Token) :
    (sendToken s p c k key t).standing wp ws wd wm wa = s.standing wp ws wd wm wa := by
  unfold sendToken
  simp only
  rw [standing_sendFrom _ _ _ _ _ rfl, standing_mk, mk_standing]
  split <;> simp

@[simp] theorem standing_writeSend (s : State) (p : Page) (data : Word) (a : Acc) : (writeSend s p data a).standing wp ws wd wm wa = s.standing wp ws wd wm wa := by
  unfold writeSend
  repeat' split
  all_goals simp

@[simp] theorem standing_writeSendGang (s : State) (p : Page) (data : Word) (a : Acc) :
    (writeSendGang s p data a).standing wp ws wd wm wa = s.standing wp ws wd wm wa := by
  unfold writeSendGang
  repeat' split
  all_goals simp

@[simp] theorem standing_groupWrite (s : State) (p : Page) (o : Nat) (data : Word) (a : Acc) :
    (groupWrite s p o data a).standing wp ws wd wm false = s.standing wp ws wd wm false := by
  unfold groupWrite
  repeat' split
  all_goals simp

@[simp] theorem standing_countCtx (s : State) (v : Nat) (c : Cand) : (countCtx s v c).standing wp ws wd wm wa = s.standing wp ws wd wm wa := by
  unfold countCtx
  simp only
  repeat' split
  all_goals simp

@[simp] theorem standing_countHeld (s : State) (v : Nat) : (countHeld s v).standing wp ws wd wm wa = s.standing wp ws wd wm wa := by simp [countHeld]

@[simp] theorem standing_vctxLeave (s : State) (n : Nat) : (vctxLeave s n).standing wp ws wd wm wa = s.standing wp ws wd wm wa := by
  unfold vctxLeave
  repeat' split
  all_goals simp

@[simp] theorem standing_settleStations (s0 : State) (s : State) (ns : List Nat) :
    (settleStations s0 s ns).standing wp ws wd wm false = s.standing wp ws wd wm false := by simp [settleStations]

@[simp] theorem standing_poisonCtx (s : State) (v : Nat) : (poisonCtx s v).standing wp ws wd wm false = s.standing wp ws wd wm false := by
  unfold poisonCtx
  repeat' split
  all_goals simp

@[simp] theorem standing_ctxRead (s : State) (v : Nat) : (ctxRead s v).standing wp ws wd wm false = s.standing wp ws wd wm false := by simp [ctxRead]

@[simp] theorem standing_vctxEnter (s' : State) (n : Nat) (low : BitVec 31) : (vctxEnter s' n low).standing wp ws wd wm false = s'.standing wp ws wd wm false := by
  unfold vctxEnter
  simp only
  repeat' split
  all_goals simp

@[simp] theorem standing_vctxSwitch (s : State) (n : Nat) (data : Word) :
    (vctxSwitch s n data).standing wp ws wd wm false = s.standing wp ws wd wm false := by simp [vctxSwitch]

@[simp] theorem standing_parityClear (s : State) (off : Nat) : (parityClear s off).standing wp ws wd wm wa = s.standing wp ws wd wm wa := rfl

@[simp] theorem standing_pageWriteNow (s : State) (off : Nat) (data : Word) (a : Acc) :
    (pageWriteNow s off data a).standing wp ws wd wm false = s.standing wp ws wd wm false := by simp [pageWriteNow]

@[simp] theorem standing_applyHeld (s : State) (n : Nat) : (applyHeld s n).standing wp ws wd wm false = s.standing wp ws wd wm false := by simp [applyHeld]

/-! ## Enable and disable of a cell -/

@[simp] theorem standing_speedJudge (s0 : State) (s : State) : (speedJudge s0 s).standing wp ws wd wm wa = s.standing wp ws wd wm wa := by simp [speedJudge]

@[simp] theorem standing_secureParityAll (s : State) : (secureParityAll s).standing wp ws wd wm wa = s.standing wp ws wd wm wa := by simp [secureParityAll]

@[simp] theorem standing_reqWatchAll (s0 : State) (s1 : State) : (reqWatchAll s0 s1).standing wp ws wd wm wa = s1.standing wp ws wd wm wa := by simp [reqWatchAll]

/-- The enable of a cell changes only that cell of the plat side. -/
theorem standing_enableCell {s : State} {c : Nat} (h : (s.cell c).en = false) :
    (enableCell s c).standing wp false wd wm false = (s.modCell c fun y => { y with en := true, quiet := true }).standing wp false wd wm false := by
  have hinputs : ∀ (t : State) (es : List Nat), (forAll t es fun t e => sendLevel (releaseHeld t c e) e).standing wp false wd wm false = t.standing wp false wd wm false :=
    fun t es => standing_forAll t es _ fun _ _ => by simp
  have hlevels : ∀ (t : State) (es : List Nat), (forAll t es sendLevel).standing wp false wd wm false = t.standing wp false wd wm false :=
    fun t es => standing_forAll t es _ standing_sendLevel
  have hheld : ∀ (t : State) (ns : List Nat) (g : State → Nat → State), (∀ u n, (g u n).standing wp false wd wm false = u.standing wp false wd wm false) →
      (forAll t ns g).standing wp false wd wm false = t.standing wp false wd wm false := fun t ns g hg => standing_forAll t ns g hg
  unfold enableCell
  simp only [h, Bool.false_eq_true, if_false, standing_speedJudge, standing_reqWatchAll]
  split
  · rw [standing_drainPorts, hinputs]
  · split
    · rw [hlevels]
      split <;> rfl
    · split
      · exact hheld _ _ _ fun u n => by simp
      · split
        · rw [hheld _ _ _ fun u n => by simp, hheld _ _ _ fun u n => by simp]
        · rfl

@[simp] theorem standing_enableCell_plain (s : State) (c : Nat) : (enableCell s c).standing false false wd wm false = s.standing false false wd wm false := by
  cases h : (s.cell c).en with
  | true => simp [enableCell, h]
  | false => exact (standing_enableCell h).trans (standing_modCell_plain _ _ _)

@[simp] theorem standing_reportTour (s : State) (n : Nat) (t : Tour) : (reportTour s n t).standing wp ws wd wm wa = s.standing wp ws wd wm wa := by
  unfold reportTour
  repeat' split
  all_goals simp

@[simp] theorem standing_drainSeats (s : State) (n : Nat) (t : Tour) : (drainSeats s n t).standing wp ws wd wm wa = s.standing wp ws wd wm wa := by simp [drainSeats]

/-- The disable of a cell changes only that cell of the plat side. -/
theorem standing_disableCell {s : State} {c : Nat} (h : (s.cell c).en = true) :
    (disableCell s c).standing wp ws wd wm wa = (s.modCell c fun y => { y with en := false, quiet := false }).standing wp ws wd wm wa := by
  unfold disableCell
  simp only [h, Bool.not_true, Bool.false_eq_true, if_false, standing_speedJudge]
  split
  · exact standing_forAll _ _ _ fun t n => by simp
  · split
    · refine standing_forAll _ _ _ fun t n => ?_
      rw [standing_forAll _ _ _ fun v a => standing_giveBack _ _ _ _]
      simp
    · rfl

@[simp] theorem standing_disableCell_plain (s : State) (c : Nat) : (disableCell s c).standing false ws wd wm wa = s.standing false ws wd wm wa := by
  cases h : (s.cell c).en with
  | true => exact (standing_disableCell h).trans (standing_modCell_plain _ _ _)
  | false => simp [disableCell, h]

/-! ## Offers, and what takes them back -/

@[simp] theorem standing_moveDoorbells (s : State) : (moveDoorbells s).standing wp ws wd wm false = s.standing wp ws wd wm false := by simp [moveDoorbells]

@[simp] theorem standing_orphan (s : State) (e : Nat) : (orphan s e).standing wp ws wd wm wa = s.standing wp ws wd wm wa := rfl

@[simp] theorem standing_killRecs (s : State) (e : Nat) (why : BitVec 4) : (killRecs s e why).standing wp false wd wm wa = s.standing wp false wd wm wa := rfl

@[simp] theorem standing_dropGates (s : State) (e : Nat) : (dropGates s e).standing wp ws wd wm wa = s.standing wp ws wd wm wa := rfl

@[simp] theorem standing_withdraw (s : State) (e : Nat) : (withdraw s e).standing wp false wd wm wa = s.standing wp false wd wm wa := by simp [withdraw]

@[simp] theorem standing_placeOffers (s : State) (c : Nat) : (placeOffers s c).standing wp ws wd wm false = s.standing wp ws wd wm false := by simp [placeOffers]

@[simp] theorem standing_dropPlaces (s : State) (e : Nat) (f : Place → Bool) : (dropPlaces s e f).standing wp ws wd wm false = s.standing wp ws wd wm false := by
  unfold dropPlaces
  split
  · rfl
  · simp [↓standing_forAll, ↓standing_mk, ↓mk_standing]

@[simp] theorem standing_poison (s : State) (e : Nat) : (poison s e).standing wp false wd wm false = s.standing wp false wd wm false := by simp [poison]

@[simp] theorem standing_descRead (s : State) (e : Nat) : (descRead s e).standing wp false wd wm false = s.standing wp false wd wm false := by simp [descRead]

@[simp] theorem standing_handOut (s : State) (e : Nat) (st : QState) : (handOut s e st).standing wp false wd wm wa = s.standing wp false wd wm wa := by
  unfold handOut
  simp only
  repeat' split
  all_goals simp

@[simp] theorem standing_offer (s' : State) (e : Nat) : (offer s' e).standing wp false wd wm false = s'.standing wp false wd wm false := by
  unfold offer
  simp only
  repeat' split
  all_goals simp

@[simp] theorem standing_offerAgain (s : State) (e : Nat) : (offerAgain s e).standing wp false wd wm false = s.standing wp false wd wm false := by simp [offerAgain]

@[simp] theorem standing_routesReturn (s' : State) : (routesReturn s').standing wp false wd wm false = s'.standing wp false wd wm false := by simp [routesReturn]

/-! ## Claims, completions and gathers -/

@[simp] theorem standing_parcelBooked (s : State) (p : Nat) : (parcelBooked s p).standing wp ws wd wm wa = s.standing wp ws wd wm wa := by simp [parcelBooked]

@[simp] theorem standing_dueCount (s : State) (e : Nat) : (dueCount s e).standing wp false wd wm wa = s.standing wp false wd wm wa := by simp [dueCount]

@[simp] theorem standing_quotaCheck (s : State) (p : Nat) : (quotaCheck s p).standing wp false wd wm wa = s.standing wp false wd wm wa := by
  unfold quotaCheck
  simp only
  split <;> simp [↓standing_mk, ↓mk_standing_stores]

@[simp] theorem standing_poolFreeSlot (s : State) (n : Nat) : (poolFreeSlot s n).standing wp false wd wm wa = s.standing wp false wd wm wa := by simp [poolFreeSlot]

@[simp] theorem standing_unlinkHead (s : State) (e : Nat) : (unlinkHead s e).standing wp false wd wm wa = s.standing wp false wd wm wa := by simp [unlinkHead]

@[simp] theorem standing_claimApply (s' : State) (e : Nat) (ovf : Bool) (lost : Bool) :
    (claimApply s' e h ovf lost).standing wp false wd wm false = s'.standing wp false wd wm false := by
  unfold claimApply
  simp only
  repeat' split
  all_goals simp

@[simp] theorem standing_takeSlot (s : State) (e : Nat) : (takeSlot s e).standing wp false wd wm wa = s.standing wp false wd wm wa := by simp [takeSlot]

@[simp] theorem standing_freePlace (s : State) (e : Nat) : (freePlace s e).standing wp false wd wm false = s.standing wp false wd wm false := by simp [freePlace]

@[simp] theorem standing_settle (s : State) (e : Nat) : (settle s e).standing wp false wd wm false = s.standing wp false wd wm false := by simp [settle]

@[simp] theorem standing_completeApply (s' : State) (e : Nat) : (completeApply s' e h).standing wp false wd wm false = s'.standing wp false wd wm false := by
  unfold completeApply
  simp only
  repeat' split
  all_goals simp

@[simp] theorem standing_rejectParcel (s : State) (e : Nat) (r : BitVec 4) (bySource : Bool) :
    (rejectParcel s e r bySource).standing wp ws wd wm wa = s.standing wp ws wd wm wa := by simp [rejectParcel]

@[simp] theorem standing_rejectToken (s : State) (c : Option Nat) (t : Token) (r : BitVec 4) (late : Bool) :
    (rejectToken s c t r late).standing wp ws wd wm wa = s.standing wp ws wd wm wa := by
  unfold rejectToken
  repeat' split
  all_goals simp

@[simp] theorem standing_intakeGang (s' : State) (c : Nat) (e : Nat) (pl : Payload) (st : Stamp) (risky : Bool) (src : Source) (lock : Lock) (sec : Bool) :
    (intakeGang s' c e pl st risky src lock sec).standing wp ws wd wm wa = s'.standing wp ws wd wm wa := by simp [intakeGang]

@[simp] theorem standing_gatherOffers (s0 : State) (s : State) :
    (gatherOffers s0 s).standing wp false wd wm false = s.standing wp false wd wm false := by simp [gatherOffers]

@[simp] theorem standing_gatherFree (s : State) (r : Gather) (risky : Bool) (post : Bool) :
    (gatherFree s r risky post).standing wp false wd wm false = s.standing wp false wd wm false := by simp [gatherFree, ↓standing_mk, ↓mk_standing]

@[simp] theorem standing_claimWhole (s : State) (e : Nat) (g : Nat) :
    (claimWhole s e g).standing wp false wd wm false = s.standing wp false wd wm false := by simp [claimWhole]

@[simp] theorem standing_gatherEnd (s : State) (r : Gather) (risky : Bool) (post : Bool) :
    (gatherEnd s r risky post).standing wp false wd wm false = s.standing wp false wd wm false := by simp [gatherEnd]

@[simp] theorem standing_memberClear (s : State) (r : Gather) (n : Nat) (risky : Bool) (post : Bool := true) :
    (memberClear s r n risky post).standing wp false wd wm false = s.standing wp false wd wm false := by simp [memberClear, ↓standing_mk, ↓mk_standing]

@[simp] theorem standing_unhand (s : State) (e : Nat) : (unhand s e).standing wp false wd wm wa = s.standing wp false wd wm wa := rfl

@[simp] theorem standing_takeBack (s : State) (e : Nat) : (takeBack s e).standing wp false wd wm false = s.standing wp false wd wm false := by simp [takeBack]

@[simp] theorem standing_skipMember (s : State) (r : Gather) (n : Nat) :
    (skipMember s r n).standing wp false wd wm false = s.standing wp false wd wm false := by simp [skipMember, ↓standing_mk, ↓mk_standing]

/-! ## What a lost outpost leaves -/

@[simp] theorem standing_moveMember (s : State) (c : Cand) (n : Nat) : (moveMember s c n).standing wp false wd wm false = s.standing wp false wd wm false := by
  unfold moveMember
  repeat' split
  all_goals simp [↓standing_mk, ↓mk_standing, ↓standing_sendFrom]

@[simp] theorem standing_settleUp (s : State) (k : Nat) : (settleUp s k).standing wp false wd wm false = s.standing wp false wd wm false := by
  unfold settleUp
  refine (standing_forAll _ _ _ fun t p => ?_).trans rfl
  split <;> simp only [standing_ite, standing_claimApply, standing_takeSlot, standing_completeApply, standing_send_asks, standing_moveMember, standing_takeBack, ite_self]
  exact standing_forAll _ _ _ fun t n => by split <;> simp

@[simp] theorem standing_moveParked (s : State) (k : Nat) :
    (moveParked s k).standing wp false wd wm false = s.standing wp false wd wm false := by simp [moveParked, ↓standing_mk, ↓mk_standing, ↓standing_forAll]

@[simp] theorem standing_clearFlight (s : State) (k : Nat) : (clearFlight s k).standing wp false wd wm false = s.standing wp false wd wm false := by simp [clearFlight]

@[simp] theorem standing_clearStation (s : State) (n : Nat) : (clearStation s n).standing wp false wd wm false = s.standing wp false wd wm false := by simp [clearStation]

@[simp] theorem standing_giveUpDie (s : State) (k : Nat) : (giveUpDie s k).standing wp false wd wm false = s.standing wp false wd wm false := by
  simp [giveUpDie]

@[simp] theorem standing_forceEntry (n : Nat) (g : Grp) (k : Nat) (s : State) (x : Entry) :
    (forceEntry n g k s x).standing wp false wd wm false = s.standing wp false wd wm false := by
  unfold forceEntry
  repeat' split
  all_goals simp

@[simp] theorem standing_forceStation (k : Nat) (s : State) (n : Nat) :
    (forceStation k s n).standing wp false wd wm false = s.standing wp false wd wm false := by simp [forceStation]

@[simp] theorem standing_unlinkAll (s : State) (e n : Nat) : (unlinkAll s e n).standing wp false wd wm wa = s.standing wp false wd wm wa := by
  induction n generalizing s with
  | zero => rfl
  | succ n ih => rw [unlinkAll, ih, standing_unlinkHead]

@[simp] theorem standing_dropMembers (s : State) (id : Nat) :
    (dropMembers s id).standing wp ws wd wm wa = s.standing wp ws wd wm wa := by simp [dropMembers, ↓standing_mk, ↓mk_standing]

@[simp] theorem standing_resetWired (s : State) (e : Nat) : (resetWired s e).standing wp false wd wm false = s.standing wp false wd wm false := by
  have hmembers : ∀ (t : State) (ids : List Nat), (forAll t ids dropMembers).standing wp false wd wm false = t.standing wp false wd wm false :=
    fun t ids => standing_forAll t ids _ standing_dropMembers
  unfold resetWired
  simp only [standing_modQueue, standing_gatherOffers, standing_settleStations, hmembers, standing_dropMsgs_asks, ↓standing_mk, ↓mk_standing, standing_orphan, standing_dropPlaces,
    standing_dropGates, standing_ite, standing_unlinkAll, ite_self]

/-- The slots of a die that is declared lost, which are disabled (R482). -/
def lostCells (k : Nat) (t : Tab Cell) : Tab Cell :=
  t.map fun e => (e.1, if unitOf e.1 = k then { e.2 with enKept := e.2.en || e.2.enKept, en := false, quiet := true } else e.2)

/-- A die as its loss marks it (R187, R482). -/
def lostMark (o : Outpost) : Outpost := { o with lost := true, link := .lost, returns := 0, fails := 0 }
def lostDie (s : State) (k : Nat) : State := { s.modOp k lostMark with cells := lostCells k s.cells }

theorem standing_declareLost_lost {s : State} {k : Nat} (hp : populated s k = true) (hl : (s.op k).lost = false) :
    (declareLost s k).standing wp false wd wm false = (lostDie s k).standing wp false wd wm false := by
  have hreset : ∀ (t : State) (es : List Nat), (forAll t es resetWired).standing wp false wd wm false = t.standing wp false wd wm false :=
    fun t es => standing_forAll t es _ standing_resetWired
  have hforce : ∀ (t : State) (ns : List Nat), (forAll t ns (forceStation k)).standing wp false wd wm false = t.standing wp false wd wm false :=
    fun t ns => standing_forAll t ns _ (standing_forceStation k)
  unfold declareLost
  simp only [hp, hl, Bool.not_true, Bool.false_eq_true, or_self, if_false]
  rw [standing_raise_other _ _ _ _ _ _ _ _ (by decide), standing_speedJudge, hreset, hforce, standing_settleUp, standing_giveUpDie]
  rfl

@[simp] theorem standing_declareLost (s : State) (k : Nat) : (declareLost s k).standing false false false wm false = s.standing false false false wm false := by
  by_cases hp : populated s k = true
  · by_cases hl : (s.op k).lost = true
    · simp [declareLost, hl]
    · exact standing_declareLost_lost hp (by simpa using hl)
  · simp [declareLost, hp]

/-! ## Stores that fail -/

@[simp] theorem standing_ringError (s : State) (lost : Nat) :
    (ringError s lost).standing wp false wd wm false = s.standing wp false wd wm false := by simp [ringError, ↓standing_mk, ↓mk_standing_stores]

@[simp] theorem standing_fbNote (s : State) (e : Nat) :
    (fbNote s e).standing wp false wd wm false = s.standing wp false wd wm false := by simp [fbNote, ↓standing_mk, ↓mk_standing_stores]

@[simp] theorem standing_fbRefill (s : State) : (fbRefill s).standing false false wd wm false = s.standing false false wd wm false := by
  unfold fbRefill
  repeat' split
  all_goals simp [↓standing_mk, ↓mk_standing_stores]

@[simp] theorem standing_fbTake (s : State) (e : Nat) :
    (fbTake s e).standing false false wd wm false = s.standing false false wd wm false := by simp [fbTake, ↓standing_mk, ↓mk_standing_stores]

@[simp] theorem standing_gangLost (s : State) (g : Nat) : (gangLost s g).standing false false wd wm false = s.standing false false wd wm false := rfl

@[simp] theorem standing_storeLost (s : State) (x : Store) : (storeLost s x).standing false false wd wm false = s.standing false false wd wm false := by
  unfold storeLost
  repeat' split
  all_goals simp

@[simp] theorem standing_readThrough (s : State) (x : Store) :
    (readThrough s x).standing false false wd wm false = s.standing false false wd wm false := by simp [readThrough]

@[simp] theorem standing_scrub (s : State) (u : Nat) : (scrub s u).standing false false wd wm false = s.standing false false wd wm false := by simp [scrub]

@[simp] theorem standing_lostStore (s : State) (c : Nat) : (lostStore s c).standing false false wd wm false = s.standing false false wd wm false := by
  unfold lostStore
  simp only
  split
  · exact standing_forAll _ _ _ fun t e => standing_poison t e
  · split
    · exact standing_forAll _ _ _ fun t v => standing_poisonCtx t v
    · split
      · rw [standing_gatherOffers, standing_mk, mk_standing]
        exact standing_forAll _ _ _ fun t g => standing_modGang t g _
      · split
        · exact standing_forAll _ _ _ fun t e => standing_modInput t e _
        · rfl

/-! ## Plat writes and self-tests -/

@[simp] theorem standing_journalPut (s : State) (off : Nat) (w : Word) : (journalPut s off w).standing wp ws wd wm wa = s.standing wp ws wd wm wa := rfl

@[simp] theorem standing_writeTune (s : State) (c : Nat) : (writeTune s c).standing wp ws wd wm wa = s.standing wp ws wd wm wa := by
  unfold writeTune
  simp only
  refine (standing_forAll _ _ _ fun t i => standing_journalPut t _ _).trans ?_
  rw [standing_modCell _ _ _ (by simp)]
  rfl

@[simp] theorem standing_swapPhys (s : State) (a : Nat) (b : Nat) : (swapPhys s a b).standing false ws wd wm wa = s.standing false ws wd wm wa := rfl

@[simp] theorem standing_writeRod (s : State) (c : Nat) : (writeRod s c).standing wp ws wd wm wa = s.standing wp ws wd wm wa := by simp [writeRod]

@[simp] theorem standing_substWith (spare : Nat → Bool) (s : State) (c : Nat) : (substWith spare s c).standing false ws wd wm wa = s.standing false ws wd wm wa := by
  unfold substWith
  simp only
  repeat' split
  all_goals simp

@[simp] theorem standing_substitute (s : State) (c : Nat) : (substitute s c).standing false ws wd wm wa = s.standing false ws wd wm wa := by simp [substitute]

@[simp] theorem standing_takeShadow (s : State) (c : Nat) : (takeShadow s c).standing false ws wd wm wa = s.standing false ws wd wm wa := rfl

@[simp] theorem standing_retainedTest (s : State) (u : Nat) (fails : List Nat) :
    (retainedTest s u fails).standing false false wd false false = s.standing false false wd false false := by simp [retainedTest]

@[simp] theorem standing_unswap (s : State) (u : Nat) : (unswap s u).standing false ws wd wm wa = s.standing false ws wd wm wa :=
  standing_forAll _ _ _ fun t c => standing_modCell_plain t c _

@[simp] theorem standing_selfTest (s : State) (u : Nat) (fails : List Nat) :
    (selfTest s u fails).standing false ws wd false wa = s.standing false ws wd false wa := by simp [selfTest]

@[simp] theorem standing_modUnit (s : State) (u : Nat) (f : Cell → Cell) : (modUnit s u f).standing false ws wd wm wa = s.standing false ws wd wm wa := rfl

@[simp] theorem standing_clearCounters (s : State) (u : Nat) : (clearCounters s u).standing false ws wd wm wa = s.standing false ws wd wm wa := rfl

@[simp] theorem standing_writeSlot (p : PlatImage) (s : State) (r : Nat × List Word) :
    (writeSlot p s r).standing false ws wd wm wa = s.standing false ws wd wm wa := by simp [writeSlot]

@[simp] theorem standing_platWrite (s : State) (p : PlatImage) (cs : Nat → Bool) (hub : Bool) :
    (platWrite s p cs hub).standing false ws wd wm wa = s.standing false ws wd wm wa := by
  have hslots : ∀ (t : State) (rs : List (Nat × List Word)), (forAll t rs (writeSlot p)).standing false ws wd wm wa = t.standing false ws wd wm wa :=
    fun t rs => standing_forAll t rs _ (standing_writeSlot p)
  have htunes : ∀ (t : State) (cs : List Nat), (forAll t cs writeTune).standing false ws wd wm wa = t.standing false ws wd wm wa :=
    fun t cs => standing_forAll t cs _ standing_writeTune
  have hcells : ∀ (t : State) (cs : Tab Cell) (ps : List Nat), ({ t with cells := cs, parity := ps } : State).standing false ws wd wm wa = t.standing false ws wd wm wa :=
    fun _ _ _ => rfl
  have hhub : ∀ (t : State) (i : Word) (b : Bool), (t.modHub fun h => { h with platId := i, compact := b, staged := true }).standing false ws wd wm wa =
      t.standing false ws wd wm wa := fun _ _ _ => rfl
  cases hub
  · simp only [platWrite, Bool.false_eq_true, if_false, standing_ite, hcells, htunes, hslots, ite_self]
  · simp only [platWrite, if_true, standing_ite, hcells, hhub, htunes, hslots, ite_self]

@[simp] theorem standing_bootPlat (s : State) (us : List Nat) : (bootPlat s us).standing false ws wd wm wa = s.standing false ws wd wm wa := by
  unfold bootPlat
  repeat' split
  all_goals simp

/-! ## The sequencer -/

@[simp] theorem standing_portTake (s : State) (d : DbWrite) (win : Bool) :
    (portTake s d win).standing false false false false false = s.standing false false false false false := by simp [portTake]

@[simp] theorem standing_releaseDb (s : State) : (releaseDb s).standing false false false false false = s.standing false false false false false := by
  unfold releaseDb
  refine (standing_forAll _ _ _ fun t d => ?_).trans (standing_modPwr _ _ (by simp))
  split
  · exact standing_portTake _ _ _
  · rfl

@[simp] theorem standing_isoAnswer (s : State) (k : Nat) : (isoAnswer s k).standing wp ws false wm wa = s.standing wp ws false wm wa := rfl

@[simp] theorem standing_keepEn (s : State) (k : Nat) (f : Cell → Bool) : (keepEn s k f).standing false ws wd wm wa = s.standing false ws wd wm wa := by simp [keepEn]

@[simp] theorem standing_reopenDie (s : State) (k : Nat) :
    (reopenDie s k).standing false false false wm false = s.standing false false false wm false := by simp [reopenDie]

@[simp] theorem standing_closeDie (s : State) (k : Nat) : (closeDie s k).standing false false false wm false = s.standing false false false wm false := by
  rw [closeDie, standing_giveUpDie, standing_keepEn, standing_modOp]

@[simp] theorem standing_raiseDie (s : State) (k : Nat) : (raiseDie s k).standing false false false wm false = s.standing false false false wm false := rfl

@[simp] theorem standing_sequenceDie (s : State) (k : Nat) : (sequenceDie s k).standing false false false wm false = s.standing false false false wm false := by
  unfold sequenceDie
  simp only
  repeat' split
  all_goals simp

/-! ## Links and accesses -/

@[simp] theorem standing_respond (s : State) (data : BitVec 64) (err : Bool) :
    (respond s data err).standing false false false false false = s.standing false false false false false := rfl

@[simp] theorem standing_doorbell (s : State) (d : DbWrite) : (doorbell s d).standing false false false false false = s.standing false false false false false := by
  unfold doorbell
  repeat' split
  all_goals simp

@[simp] theorem standing_openGate (s : State) (k : Nat) (up : Bool) (p : Packet) :
    (openGate s k up p).standing false false false false false = s.standing false false false false false := by
  unfold openGate
  repeat' split
  all_goals simp [↓standing_mk, ↓mk_standing]

@[simp] theorem standing_bumpIn (s : State) (c : Option Nat) (timed : Bool) :
    (bumpIn s c timed).standing false false false false false = s.standing false false false false false := by simp [bumpIn]

@[simp] theorem standing_linkToken (s : State) (k : Nat) (m : Msg) :
    (linkToken s k m).standing false false false false false = s.standing false false false false false := by simp [linkToken]

@[simp] theorem standing_overrunAll (s : State) (cs : List Nat) :
    (overrunAll s cs).standing false false false false false = s.standing false false false false false := by simp [overrunAll]

@[simp] theorem standing_crossCount (s : State) (k : Nat) (up : Bool) (p : Packet) :
    (crossCount s k up p).standing false false false false false = s.standing false false false false false := by simp [crossCount]

@[simp] theorem standing_startAt (s : State) (k : Nat) (up : Bool) (i : Nat) :
    (startAt s k up i).standing false false false false false = s.standing false false false false false := by
  unfold startAt
  repeat' split
  all_goals simp [↓standing_mk, ↓mk_standing_asks]

@[simp] theorem standing_runClass (s : State) (k : Nat) (up : Bool) (c n : Nat) :
    (runClass s k up c n).standing false false false false false = s.standing false false false false false := by
  induction n generalizing s with
  | zero => rfl
  | succ n ih =>
    unfold runClass
    split
    · rfl
    · split
      · rw [ih, standing_startAt]
      · rfl

@[simp] theorem standing_forwardFlits (s : State) (r : HeldAcc) (k : Nat) (up : Bool) (n : Nat) :
    (forwardFlits s r k up n).standing false false false false false = s.standing false false false false false := by simp [forwardFlits]

@[simp] theorem standing_returnedAcc (s : State) (r : HeldAcc) (k : Option Nat) :
    (returnedAcc s r k).standing false false false false false = s.standing false false false false false := by
  unfold returnedAcc
  repeat' split
  all_goals simp

@[simp] theorem standing_accRaise (s : State) (r : HeldAcc) (code : Nat) :
    (accRaise s r code).standing false false false false false = s.standing false false false false false := by simp [accRaise]

@[simp] theorem standing_accNote (s : State) (r : HeldAcc) (reason : Nat) :
    (accNote s r reason).standing false false false false false = s.standing false false false false false :=
  standing_modHub_plain s _ fun x => by split <;> rfl

@[simp] theorem standing_alignFault (s : State) (r : HeldAcc) :
    (alignFault s r).standing false false false false false = s.standing false false false false false := by simp [alignFault]

@[simp] theorem standing_unimplWrite (s : State) (r : HeldAcc) :
    (unimplWrite s r).standing false false false false false = s.standing false false false false false := by simp [unimplWrite]

@[simp] theorem standing_refuse (s : State) (r : HeldAcc) (off : Nat) :
    (refuse s r off).standing false false false false false = s.standing false false false false false := by simp [refuse]

@[simp] theorem standing_widthFault (s : State) (r : HeldAcc) (reason : Nat) :
    (widthFault s r reason).standing false false false false false = s.standing false false false false false := by simp [widthFault]

/-! ## Register writes -/

@[simp] theorem standing_pageUse (s : State) (off : Nat) :
    (pageUse s off).standing false false false false false = s.standing false false false false false := by simp [pageUse]

@[simp] theorem standing_readParity (s : State) (off : Nat) :
    (readParity s off).standing false false false false false = s.standing false false false false false := by simp [readParity]

@[simp] theorem standing_pageWrite (s : State) (off : Nat) (data : Word) (a : Acc) :
    (pageWrite s off data a).standing false false false false false = s.standing false false false false false := by
  unfold pageWrite
  repeat' split
  all_goals simp

@[simp] theorem standing_writeTestCtl (s : State) (off issued : Nat) (data : Word) (cap : State → State)
    (hcap : ∀ t, (cap t).standing false false false false false = t.standing false false false false false) :
    (writeTestCtl s off issued data cap).standing false false false false false = s.standing false false false false false := by
  unfold writeTestCtl
  simp only
  split
  · rfl
  · rw [standing_raise, hcap]
    rfl

@[simp] theorem standing_takeSendStatus (s : State) (p : Page) :
    (takeSendStatus s p).2.standing false false false false false = s.standing false false false false false := by simp [takeSendStatus]

@[simp] theorem standing_answerHeld (s : State) :
    (answerHeld s).standing false false false false false = s.standing false false false false false := by simp [answerHeld, ↓standing_mk, ↓mk_standing, ↓standing_forAll]

@[simp] theorem standing_freeIntakes (s0 : State) (s : State) :
    (freeIntakes s0 s).standing false false false false false = s.standing false false false false false := by simp [freeIntakes]

@[simp] theorem standing_gradeParity (s : State) (e : Nat) :
    (gradeParity s e).standing false false false false false = s.standing false false false false false := by simp [gradeParity]

@[simp] theorem standing_ringProbe (s : State) : (ringProbe s).standing false false false false false = s.standing false false false false false := by simp [ringProbe]

@[simp] theorem standing_holdToken (s : State) (lc : Option Nat) (t : Token) (replayed : Bool) :
    (holdToken s lc t replayed).standing false false false false false = s.standing false false false false false := by
  unfold holdToken
  repeat' split
  all_goals simp

@[simp] theorem standing_poolTake (s : State) (p : Nat) :
    (poolTake s p).2.standing false false false false false = s.standing false false false false false := by simp [poolTake, ↓standing_mk, ↓mk_standing_stores]

@[simp] theorem standing_linkTail (s : State) (e : Nat) (pl : Payload) (st : Stamp23) (g : Bool) :
    (linkTail s e pl st g).standing false false false false false = s.standing false false false false false := by simp [linkTail]

@[simp] theorem standing_enter (s : State) (e : Nat) (edge : Edge) (pl : Payload) (st : Stamp) (g deferred : Bool) :
    (enter s e edge pl st g deferred).standing false false false false false = s.standing false false false false false := by
  unfold enter
  simp only [standing_offer, standing_settle, standing_ite, standing_modQueue, ite_self]
  split
  · split
    · split <;> simp
    · simp
  · split <;> simp
  · split <;> split <;> simp
  · simp

@[simp] theorem standing_viewAdd (s : State) (c : Nat) (n : Nat) (g : Grp) :
    (viewAdd s c n g).standing false false false false false = s.standing false false false false false := rfl

@[simp] theorem standing_takePlan (s : State) (e : Nat) (plan : List Nat × Option Nat) :
    (takePlan s e plan).standing false false false false false = s.standing false false false false false := by
  unfold takePlan
  simp only
  repeat' split
  all_goals simp [↓standing_mk, ↓mk_standing]

@[simp] theorem standing_resvTake (s : State) (u : Nat) (key : Nat) :
    (resvTake s u key).standing false false false false false = s.standing false false false false false := rfl

@[simp] theorem standing_grant (s : State) (t : Token) : (grant s t).standing false false false false false = s.standing false false false false false := by
  unfold grant
  split
  · rfl
  · rw [standing_takePlan, standing_forAll _ _ _ fun t k => standing_resvTake t _ k]

@[simp] theorem standing_countBooked (s : State) (e cause : Nat) (deferred : Bool) :
    (countBooked s e cause deferred).standing false false false false false = s.standing false false false false false := by
  have hparcel : ∀ (t : State) (n : Nat), (if deferred then t else parcelBooked t n).standing false false false false false = t.standing false false false false false := by
    intro t n
    split <;> simp
  unfold countBooked
  simp only
  split
  · split <;> simp only [standing_bump, standing_perfAdd, hparcel] <;> split <;> rfl
  · simp only [standing_perfAdd, hparcel]
    split <;> rfl

@[simp] theorem standing_fbPut (s : State) (r : FbRec) :
    (fbPut s r).standing false false false false false = s.standing false false false false false := by simp [fbPut, ↓standing_mk, ↓mk_standing_stores]

@[simp] theorem standing_acceptToken (s : State) (t : Token) (replayed : Bool) :
    (acceptToken s t replayed).standing false false false false false = s.standing false false false false false := by
  unfold acceptToken
  simp only
  repeat' split
  all_goals simp

@[simp] theorem standing_placeToken (s : State) (t : Token) (replayed : Bool) :
    (placeToken s t replayed).standing false false false false false = s.standing false false false false false := by
  unfold placeToken
  simp only
  repeat' split
  all_goals simp

@[simp] theorem standing_retryHolds (s : State) : (retryHolds s).standing false false false false false = s.standing false false false false false := by
  refine standing_forAll _ _ _ fun t c => ?_
  split
  · rfl
  · split
    · rfl
    · rw [standing_placeToken, standing_modCell_plain]

@[simp] theorem standing_writeHubEn (s : State) (on : Bool) : (writeHubEn s on).standing false false false false false = s.standing false false false false false := by
  unfold writeHubEn
  split
  · split
    · rfl
    · split
      · simp only [standing_answerHeld, standing_freeIntakes, standing_retryHolds]
        rfl
      · simp
  · simp

@[simp] theorem standing_hubCfgWhileEn (s : State) (o : Nat) :
    (hubCfgWhileEn s o).standing false false false false false = s.standing false false false false false := by simp [hubCfgWhileEn]

@[simp] theorem standing_writeSpeedCfg (s : State) (data : Word) :
    (writeSpeedCfg s data).standing false false false false false = s.standing false false false false false := by simp [writeSpeedCfg]

@[simp] theorem standing_hubWrite (s : State) (o : Nat) (data : Word) :
    (hubWrite s o data).standing false false false false false = s.standing false false false false false := by
  unfold hubWrite
  repeat' split
  all_goals simp [↓standing_mk, ↓mk_standing_stores]

@[simp] theorem standing_notifyPost (s : State) (b : Box) :
    (notifyPost s b).standing false false false false false = s.standing false false false false false := by simp [notifyPost]

@[simp] theorem standing_mbxEnd (s : State) (b : Box) (code : Nat) (resp : List Word) :
    (mbxEnd s b code resp).standing false false false false false = s.standing false false false false false := by simp [mbxEnd]

@[simp] theorem standing_notifyParity (s : State) (b : Box) : (notifyParity s b).standing false false false false false = s.standing false false false false false := by
  unfold notifyParity
  repeat' split
  all_goals simp

@[simp] theorem standing_mbxRing (s : State) (b : Box) : (mbxRing s b).standing false false false false false = s.standing false false false false false := by
  unfold mbxRing
  repeat' split
  all_goals simp

@[simp] theorem standing_mbxWrite (s : State) (b : Box) (o : Nat) (data : Word) :
    (mbxWrite s b o data).standing false false false false false = s.standing false false false false false := by
  unfold mbxWrite
  repeat' split
  all_goals simp

@[simp] theorem standing_swdtService (s : State) :
    (swdtService s).standing false false false false false = s.standing false false false false false := by simp [swdtService]

@[simp] theorem standing_writeAdj (s : State) (op : Nat) : (writeAdj s op).standing false false false false false = s.standing false false false false false := by
  unfold writeAdj
  repeat' split
  all_goals simp

@[simp] theorem standing_fireAlarm (s : State) (a : Nat) (t : Stamp) (pre : Nat) :
    (fireAlarm s a t pre).standing false false false false false = s.standing false false false false false := by simp [fireAlarm]

@[simp] theorem standing_writeAlarmCtrl (s : State) (a : Nat) (arm : Bool) (keep : Bool) :
    (writeAlarmCtrl s a arm keep).standing false false false false false = s.standing false false false false false := by simp [writeAlarmCtrl]

@[simp] theorem standing_pwrWrite (s : State) (o : Nat) (data : Word) :
    (pwrWrite s o data).standing false false false false false = s.standing false false false false false := by
  unfold pwrWrite
  repeat' split
  all_goals simp

@[simp] theorem standing_cellCfgWhileEn (s : State) (c : Nat) (o : Nat) :
    (cellCfgWhileEn s c o).standing false false false false false = s.standing false false false false false := by simp [cellCfgWhileEn]

@[simp] theorem standing_writePlatWord (s : State) (c : Nat) (i : Nat) (data : Word) :
    (writePlatWord s c i data).standing false false false false false = s.standing false false false false false := rfl

@[simp] theorem standing_writeTuneWord (s : State) (off : Nat) (data : Word) :
    (writeTuneWord s off data).standing false false false false false = s.standing false false false false false := rfl

@[simp] theorem standing_writeCellEn (s : State) (c : Nat) (on : Bool) :
    (writeCellEn s c on).standing false false false false false = s.standing false false false false false := by
  unfold writeCellEn
  split
  · split <;> simp
  · simp

@[simp] theorem standing_writeTest (s : State) (off : Nat) (data : Word) (cap : State → State)
    (hcap : ∀ t, (cap t).standing false false false false false = t.standing false false false false false) :
    (writeTest s off data cap).standing false false false false false = s.standing false false false false false := by
  unfold writeTest
  simp only
  split
  · rfl
  · rw [standing_raise, hcap]
    rfl

@[simp] theorem standing_cellWrite (s : State) (off : Nat) (data : Word) (cap : State → State)
    (hcap : ∀ t, (cap t).standing false false false false false = t.standing false false false false false) :
    (cellWrite s off data cap).standing false false false false false = s.standing false false false false false := by
  unfold cellWrite
  simp only
  repeat' split
  all_goals simp [hcap]

@[simp] theorem standing_writeWord (s : State) (r : HeldAcc) (off : Nat) (data : Word) :
    (writeWord s r off data).standing false false false false false = s.standing false false false false false := by simp [writeWord]

/-! ## Claims that are read -/

@[simp] theorem standing_sweepRecalled (s : State) (n : Nat) (t : Tour) :
    (sweepRecalled s n t).standing false false false false false = s.standing false false false false false := by simp [sweepRecalled]

@[simp] theorem standing_claimNone (s : State) (p : Page) (n : Option Nat) :
    (claimNone s p n).2.standing false false false false false = s.standing false false false false false := by
  unfold claimNone
  repeat' split
  all_goals simp

@[simp] theorem standing_pushEntry (s : State) (p : Page) (c : Cand) (kind : Bool) (ctx : Nat) :
    (pushEntry s p c kind ctx).standing false false false false false = s.standing false false false false false := by simp [pushEntry]

@[simp] theorem standing_pushClaim (s : State) (p : Page) (c : Cand) (kind : Bool) (ctx : Nat) (gang : Bool) :
    (pushClaim s p c kind ctx gang).standing false false false false false = s.standing false false false false false := by simp [pushClaim]

@[simp] theorem standing_countGrade (s : State) (p : Page) (grade : Bool) :
    (countGrade s p grade).standing false false false false false = s.standing false false false false false := by simp [countGrade]

@[simp] theorem standing_agedClaim (s : State) (aged : Bool) (e : Nat) (p : Page) :
    (agedClaim s aged e p).standing false false false false false = s.standing false false false false false := by simp [agedClaim]

@[simp] theorem standing_claimDoorbell (s : State) (n : Nat) (c : Cand) :
    (claimDoorbell s n c).2.standing false false false false false = s.standing false false false false false := by
  unfold claimDoorbell
  repeat' split
  all_goals simp [↓standing_mk, ↓mk_standing, ↓standing_sendFrom]

@[simp] theorem standing_countClaim (s : State) (n : Nat) (parcel : Nat) :
    (countClaim s n parcel).standing false false false false false = s.standing false false false false false := by simp [countClaim]

@[simp] theorem standing_holdClaim (s : State) (p : Page) (c : Cand) (m : Stamp) :
    (holdClaim s p c m).standing false false false false false = s.standing false false false false false := by simp [holdClaim, ↓standing_mk, ↓mk_standing]

@[simp] theorem standing_claimSeat (s : State) (n : Nat) (g : Grp) (c : Cand) :
    (claimSeat s n g c).2.standing false false false false false = s.standing false false false false false := by
  unfold claimSeat
  simp only
  split
  · split
    · split
      · simp
      · simp only [standing_reportLoad, standing_checkPark, standing_agedClaim, standing_countGrade, standing_modPage, standing_takeSlot, standing_sendFrom_asks, standing_mk, mk_standing]
        split
        · simp
        · split <;> simp
    · simp
  · split
    · split
      · simp
      · split <;> simp
    · simp

@[simp] theorem standing_strikeSeat (s : State) (n : Nat) (t : Tour) (c : Cand) :
    (strikeSeat s n t c).2.standing false false false false false = s.standing false false false false false := by
  unfold strikeSeat
  simp only
  repeat' split
  all_goals simp

@[simp] theorem standing_claimStation (s' : State) (n : Nat) (g : Grp) :
    (claimStation s' n g).2.standing false false false false false = s'.standing false false false false false := by
  unfold claimStation
  simp only
  repeat' split
  all_goals simp

@[simp] theorem standing_claimVirt (s' : State) (v : Nat) : (claimVirt s' v).2.standing false false false false false = s'.standing false false false false false := by
  unfold claimVirt
  simp only
  repeat' split
  all_goals simp

@[simp] theorem standing_claimRead (s : State) (p : Page) : (claimRead s p).2.standing false false false false false = s.standing false false false false false := by
  unfold claimRead
  simp only
  repeat' split
  all_goals simp

/-! ## Register reads -/

@[simp] theorem standing_sendStatusRead (s : State) (p : Page) :
    (sendStatusRead s p).2.standing false false false false false = s.standing false false false false false := by
  unfold sendStatusRead
  repeat' split
  all_goals simp [↓standing_mk, ↓mk_standing]

@[simp] theorem standing_ctxCapture (s' : State) (v : Nat) : (ctxCapture s' v).2.standing false false false false false = s'.standing false false false false false := by
  unfold ctxCapture
  simp only
  repeat' split
  all_goals simp

@[simp] theorem standing_pageRead (s : State) (off : Nat) : (pageRead s off).2.standing false false false false false = s.standing false false false false false := by
  unfold pageRead
  simp only
  repeat' split
  all_goals simp

@[simp] theorem standing_hubClear (s : State) (o : Nat) : (hubClear s o).standing false false false false false = s.standing false false false false false := by
  unfold hubClear
  repeat' split
  all_goals simp [↓standing_mk, ↓mk_standing_stores]

@[simp] theorem standing_mbxClear (s : State) (b : Box) (o : Nat) :
    (mbxClear s b o).standing false false false false false = s.standing false false false false false := by simp [mbxClear]

@[simp] theorem standing_merCapture (s : State) : (merCapture s).2.standing false false false false false = s.standing false false false false false := rfl

@[simp] theorem standing_pwrClear (s : State) (o : Nat) : (pwrClear s o).standing false false false false false = s.standing false false false false false := by
  unfold pwrClear
  split <;> rfl

@[simp] theorem standing_cellClear184 (s : State) (c : Nat) : (cellClear184 s c).standing false false false false false = s.standing false false false false false := rfl

@[simp] theorem standing_ctrCapture (s : State) (c : Nat) : (ctrCapture s c).2.standing false false false false false = s.standing false false false false false := rfl

@[simp] theorem standing_readWord (s : State) (off : Nat) : (readWord s off).2.standing false false false false false = s.standing false false false false false := by
  unfold readWord
  repeat' split
  all_goals simp

@[simp] theorem standing_serveWord (s : State) (r : HeldAcc) (sz : Size) (off : Nat) (data : Word) :
    (serveWord s r sz off data).2.standing false false false false false = s.standing false false false false false := by
  unfold serveWord
  simp only
  repeat' split
  all_goals simp

/-! ## Accesses that are held -/

@[simp] theorem standing_tagHeld (s : State) (tag : BitVec 16) (wide : Bool) :
    (tagHeld s tag wide).standing false false false false false = s.standing false false false false false := by
  unfold tagHeld
  repeat' split
  all_goals simp [↓standing_mk, ↓mk_standing]

@[simp] theorem standing_serveWide (s : State) (r : HeldAcc) (off : Nat) :
    (serveWide s r off).standing false false false false false = s.standing false false false false false := by
  unfold serveWide
  simp only [standing_ite, standing_tagHeld, standing_respond, standing_serveWord, ite_self]

@[simp] theorem standing_serveReg (s : State) (r : HeldAcc) :
    (serveReg s r).standing false false false false false = s.standing false false false false false := by simp [serveReg]

@[simp] theorem standing_forwarded (s : State) (r : HeldAcc) (k : Option Nat) :
    (forwarded s r k).standing false false false false false = s.standing false false false false false := by
  unfold forwarded
  repeat' split
  all_goals simp

@[simp] theorem standing_regServe (s : State) (r : HeldAcc) : (regServe s r).standing false false false false false = s.standing false false false false false := by
  unfold regServe
  repeat' split
  all_goals simp [↓standing_mk, ↓mk_standing]

@[simp] theorem standing_serveWaits (s : State) :
    (serveWaits s).standing false false false false false = s.standing false false false false false := by simp [serveWaits, ↓standing_mk, ↓mk_standing, ↓standing_forAll]

@[simp] theorem standing_regAccess (s : State) (r : HeldAcc) :
    (regAccess s r).standing false false false false false = s.standing false false false false false := by simp [regAccess]

@[simp] theorem standing_serveHeld (s : State) : (serveHeld s).standing false false false false false = s.standing false false false false false := by simp [serveHeld]

@[simp] theorem standing_deliverFaults (s : State) :
    (deliverFaults s).standing false false false false false = s.standing false false false false false := by simp [deliverFaults]

/-! ## A die that starts -/

@[simp] theorem standing_resetStations (s : State) (k : Nat) : (resetStations s k).standing false false wd wm false = s.standing false false wd wm false := rfl

@[simp] theorem standing_restoreSlots (s : State) (k : Nat) :
    (restoreSlots s k).standing false false wd wm false = s.standing false false wd wm false := by simp [restoreSlots]

@[simp] theorem standing_loadDie (s : State) (k : Nat) : (loadDie s k).standing false false false wm false = s.standing false false false wm false := by simp [loadDie]

@[simp] theorem standing_freshStores (s : State) (k : Nat) : (freshStores s k).standing wp false wd wm false = s.standing wp false wd wm false := by
  unfold freshStores
  simp only
  refine (standing_forAll _ _ _ fun t e => standing_modInput t e _).trans ?_
  rw [standing_mk, mk_standing]
  exact standing_forAll _ _ _ standing_resetWired

/-! ## The meridian -/

@[simp] theorem standing_lateGather (s : State) (id : Option Nat) : (lateGather s id).standing wp ws wd wm false = s.standing wp ws wd wm false := by
  unfold lateGather
  repeat' split
  all_goals simp [↓standing_mk, ↓mk_standing]

@[simp] theorem standing_regradeArmed (s : State) (f : Nat → Armed → Bool) :
    (regradeArmed s f).standing wp ws wd wm false = s.standing wp ws wd wm false := by simp [regradeArmed, ↓standing_mk, ↓mk_standing_asks, ↓standing_forAll]

@[simp] theorem standing_masterHoldover (s : State) : (masterHoldover s).standing wp ws wd wm false = s.standing wp ws wd wm false := by simp [masterHoldover]

@[simp] theorem standing_unalign (s : State) (k : Nat) (arg1 : Word) : (unalign s k arg1).standing wp ws false wm wa = s.standing wp ws false wm wa := by simp [unalign]

end Sys2Proof.Machine
end

section
/-! SUPPORT. The bring-up of a die and of the hub. -/

namespace Sys2Proof.Machine
open Sys2Proof

variable {wp ws wd wm wa : Bool} {s t : State}

/-! ## What the sides say -/

theorem standing_power (h : t.standing wp ws wd wm wa = s.standing wp ws wd wm wa) :
    t.pwr.hubl = s.pwr.hubl ∧ t.pwr.hubm = s.pwr.hubm ∧ t.pwr.bring = s.pwr.bring ∧ t.pwr.cold = s.pwr.cold ∧ t.pwr.stakes = s.pwr.stakes ∧
      t.hub.populated = s.hub.populated := by
  simpa [State.standing, standingOf, powerSide] using congrArg Prod.fst h

theorem standing_dies (h : t.standing wp ws true wm wa = s.standing wp ws true wm wa) : t.outs = s.outs := by
  simpa [State.standing, standingOf] using congrArg (·.2.2.2.1) h

theorem standing_results (h : t.standing wp ws wd true wa = s.standing wp ws wd true wa) :
    t.hub.bistPhys = s.hub.bistPhys ∧ tget 0 t.hub.faultCnt 4 = tget 0 s.hub.faultCnt 4 := by
  simpa [State.standing, standingOf, resultSide] using congrArg (·.2.2.2.2.1) h

theorem standing_stores (h : t.standing wp true wd wm wa = s.standing wp true wd wm wa) : SameQueues s t := by
  simpa [State.standing, standingOf, SameQueues] using congrArg (·.2.2.1) h

theorem standing_wantL (h : t.standing wp ws wd wm wa = s.standing wp ws wd wm wa) (k : Nat) : wantL t k = wantL s k := by
  obtain ⟨-, -, -, -, hstakes, -⟩ := standing_power h
  unfold wantL staked
  rw [hstakes]

theorem standing_wantM (h : t.standing wp ws wd wm wa = s.standing wp ws wd wm wa) (k : Nat) : wantM t k = wantM s k := by
  have hl := standing_wantL h k
  obtain ⟨-, -, -, -, hstakes, -⟩ := standing_power h
  unfold wantM
  rw [hl]
  unfold staked
  rw [hstakes]

theorem standing_populated (h : t.standing wp ws wd wm wa = s.standing wp ws wd wm wa) (k : Nat) : populated t k = populated s k := by
  obtain ⟨-, -, -, -, -, hpop⟩ := standing_power h
  unfold populated
  rw [hpop]

/-! ## The rows -/

theorem exec_pdGood_die (s : State) {k : Nat} (x : Bist) (hk : k < 12) (hrst : s.pwr.rst = false) :
    exec (.pdGood k x) s = .next (dieStep s k (bistFailing s x)) := by
  show execPdGood k x s = _
  simp [execPdGood, hrst, hk, Nat.ne_of_lt hk]

theorem exec_pdGood_hub (s : State) (x : Bist) (hrst : s.pwr.rst = false) : exec (.pdGood 12 x) s = .next (hubStep s x) := by
  show execPdGood 12 x s = _
  simp [execPdGood, hrst]

theorem exec_pdGood_trav (s : State) {k : Nat} (x : Bist) (hk : k < 12) (hrst : s.pwr.rst = false) :
    exec (.pdGood (16 + k) x) s = .next (travStep s k) := by
  show execPdGood (16 + k) x s = _
  have h1 : ¬16 + k = 12 := by omega
  have h2 : ¬16 + k < 12 := by omega
  have h3 : 16 + k < 28 := by omega
  simp [execPdGood, hrst, h1, h2, h3]

/-! ## Steps of a die -/

theorem op_modOp_same (s : State) (k : Nat) (f : Outpost → Outpost) : (s.modOp k f).op k = f (s.op k) := (op_modOp s k k f).trans (if_pos rfl)
theorem op_modOp_other {j k : Nat} (s : State) (f : Outpost → Outpost) (h : j ≠ k) : (s.modOp k f).op j = s.op j := (op_modOp s k j f).trans (if_neg h)

/-- The next state's entry of a die that a step changes alone. -/
theorem modOp_effect (s : State) (k : Nat) (f : Outpost → Outpost) :
    (s.modOp k f).op k = f (s.op k) ∧ (∀ j, j ≠ k → (s.modOp k f).op j = s.op j) ∧ s.modOp k f = { s with outs := (s.modOp k f).outs } :=
  ⟨op_modOp_same s k f, fun _ h => op_modOp_other s f h, rfl⟩

/-- Link domain `k` is on after its power-up (R312). -/
theorem linkPower_trav (o : Outpost) : (linkPower o).trav = .on := by
  unfold linkPower
  split
  · assumption
  · rfl

/-- Each ready signal but the last takes the bring-up of a die a step on (R417). -/
theorem dieStep_early {k n : Nat} (fails : List Nat) (hp : populated s k = true) (hn : (s.op k).bring = n) (h1 : 1 ≤ n) (h3 : n ≤ 3) :
    ∃ f : Outpost → Outpost, dieStep s k fails = s.modOp k f ∧ (f (s.op k)).bring = n + 1 ∧ (n = 1 → (f (s.op k)).trav = .on) ∧
      (n = 2 → (f (s.op k)).holdover = false) := by
  have hcases : n = 1 ∨ n = 2 ∨ n = 3 := by omega
  rcases hcases with rfl | rfl | rfl
  · exact ⟨fun x => { linkPower x with bring := 2 }, by simp [dieStep, hp, hn], rfl, fun _ => linkPower_trav _, by simp⟩
  · exact ⟨fun x => { x with bring := 3, holdover := false }, by simp [dieStep, hp, hn], rfl, by simp, fun _ => rfl⟩
  · exact ⟨fun x => { x with bring := 4 }, by simp [dieStep, hp, hn], rfl, by simp, by simp⟩

/-! ## The last step of a die -/

/-- The pair of the die is on, its clamps are open, and no bring-up runs. -/
def Outpost.Up (o : Outpost) : Prop := o.logic = .on ∧ o.mem = .on ∧ o.iso = false ∧ o.bring = 0

theorem op_of_outs (h : t.outs = s.outs) (k : Nat) : t.op k = s.op k := by
  unfold State.op
  rw [h]

theorem loadDie_up {k : Nat} (h : (s.op k).Up) : ((loadDie s k).op k).Up := by
  have hrods : ∀ (u : State) (cs : List Nat), (forAll u cs writeRod).outs = u.outs := fun u cs =>
    standing_dies (standing_forAll (wp := false) (ws := false) (wm := false) (wa := false) u cs _ standing_writeRod)
  unfold loadDie
  split
  · rw [op_of_outs (standing_dies (standing_bootPlat (ws := false) (wm := false) (wa := false) _ _)), op_of_outs (hrods _ _), op_modOp_same]
    exact h
  · rwa [op_of_outs (standing_dies (standing_restoreSlots (wm := false) _ _))]

theorem declareLost_up {k : Nat} (h : (s.op k).Up) : ((declareLost s k).op k).Up := by
  by_cases hp : populated s k = true
  · by_cases hl : (s.op k).lost = true
    · rwa [show declareLost s k = s by simp [declareLost, hl]]
    · rw [op_of_outs (standing_dies (standing_declareLost_lost (wp := false) (wm := false) hp (by simpa using hl)))]
      exact (congrArg Outpost.Up (op_modOp_same s k lostMark)).mpr h
  · rwa [show declareLost s k = s by simp [declareLost, hp]]

theorem isoAnswer_up {k : Nat} (h : (s.op k).Up) : ((isoAnswer s k).op k).Up := by
  rw [isoAnswer, op_modOp_same]
  exact h

/-- What the sequencer makes of the logic domain of a die (R413, R414, R434). -/
def sequenceLogic (s : State) (k : Nat) : State :=
  match (s.op k).logic with
  | .on => if wantL s k then (if (s.op k).closing then reopenDie s k else s) else if (s.op k).closing then s else closeDie s k
  | .off => if wantL s k ∧ (s.op k).mem ≠ .failed then raiseDie s k else s
  | .failed => if wantL s k then s else s.modOp k fun x => { x with logic := .off, fresh := true }
  | _ => s

/-- The memory and the link of a die whose logic is off, as they are wanted (R413). -/
def offDie (wantM wantT : Bool) (x : Outpost) : Outpost :=
  let m : DomSt := if wantM then (if x.mem = .off then .retained else x.mem) else .off
  let t : DomSt := if wantT then (if x.trav = .off then .ramping else x.trav) else .off
  linkDown { x with mem := m, fresh := x.fresh || decide (m = .off), trav := t }
def sequenceRest (s u : State) (k : Nat) : State :=
  if (u.op k).logic ≠ .off then u else u.modOp k (offDie (wantM s k) (wantT s k))

theorem sequenceDie_eq {k : Nat} (hp : populated s k = true) (hn : (s.op k).noSupply = false) :
    sequenceDie s k = isoAnswer (sequenceRest s (sequenceLogic s k) k) k := by
  unfold sequenceDie
  rw [if_neg (by simp [hp]), if_neg (by simp [hn])]
  rfl
theorem sequenceDie_absent {k : Nat} (hp : populated s k = false) : sequenceDie s k = s := by
  unfold sequenceDie
  rw [if_pos (by simp [hp])]
theorem sequenceDie_noSupply {k : Nat} (hp : populated s k = true) (hn : (s.op k).noSupply = true) : sequenceDie s k = isoAnswer s k := by
  unfold sequenceDie
  rw [if_neg (by simp [hp]), if_pos hn]

theorem closeDie_op (s : State) (k : Nat) : (closeDie s k).op k = { s.op k with closing := true, stays := false } := by
  rw [closeDie, op_of_outs (standing_dies (standing_giveUpDie (wp := false) (wm := false) _ _)),
    op_of_outs (standing_dies (standing_keepEn (ws := false) (wm := false) (wa := false) _ _ _)), op_modOp_same]

theorem reopenDie_op (s : State) (k : Nat) : (reopenDie s k).op k = { s.op k with closing := false, stays := false } := by
  rw [reopenDie, op_of_outs (standing_dies (standing_routesReturn (wp := false) (wm := false) _)),
    op_of_outs (standing_dies (standing_keepEn (ws := false) (wm := false) (wa := false) _ _ _)), op_modOp_same]

theorem sequenceLogic_up {k : Nat} (h : (s.op k).Up) : ((sequenceLogic s k).op k).Up := by
  unfold sequenceLogic
  rw [h.1]
  dsimp only
  split
  · split
    · rw [reopenDie_op]
      exact h
    · exact h
  · split
    · exact h
    · rw [closeDie_op]
      exact h

/-- A die whose pair is on stays so in the sequencer's hands (R413, R414). -/
theorem sequenceDie_up {k : Nat} (h : (s.op k).Up) : ((sequenceDie s k).op k).Up := by
  cases hp : populated s k with
  | false => rwa [sequenceDie_absent hp]
  | true =>
    cases hn : (s.op k).noSupply with
    | true =>
      rw [sequenceDie_noSupply hp hn]
      exact isoAnswer_up h
    | false =>
      have hlogic := sequenceLogic_up h
      rw [sequenceDie_eq hp hn, sequenceRest, if_pos (by simp [hlogic.1])]
      exact isoAnswer_up hlogic


/-! ## The end of a die's bring-up -/

theorem bistPhys_modHub_tset (s : State) (c d : Nat) (r : BitVec 2) :
    tget 0 (s.modHub fun h => { h with bistPhys := tset 0 h.bistPhys c r }).hub.bistPhys d = if d = c then r else tget 0 s.hub.bistPhys d := tget_tset _ _ _ _ _

/-- Each tested cell has its result, whatever is tested after it. -/
theorem forAll_bistPhys {f : State → Nat → State} {r : Nat → BitVec 2}
    (hf : ∀ u c d, tget 0 (f u c).hub.bistPhys d = if d = c then r d else tget 0 u.hub.bistPhys d) (cs : List Nat) (s : State) {c : Nat}
    (h : c ∈ cs ∨ tget 0 s.hub.bistPhys c = r c) : tget 0 (forAll s cs f).hub.bistPhys c = r c := by
  unfold forAll
  induction cs generalizing s with
  | nil => simpa using h
  | cons d cs ih =>
    refine ih (f s d) ?_
    rw [hf]
    by_cases hd : c = d
    · exact .inr (if_pos hd)
    · rw [if_neg hd]
      simpa [hd] using h

/-- The self-test of a unit leaves the result of every physical cell of it (R63). -/
theorem selfTest_bistPhys (s : State) (u : Nat) (fails : List Nat) {c : Nat} (hc : c ∈ unitCells u) :
    tget 0 (selfTest s u fails).hub.bistPhys c = if c ∈ fails then 2 else 1 := by
  unfold selfTest
  simp only
  rw [(standing_results (wp := false) (ws := false) (wd := false) (wa := false) (standing_forAll _ _ _ fun t c => standing_substitute t c)).1]
  refine forAll_bistPhys (r := fun c => if c ∈ fails then 2 else 1) (fun u c d => ?_) _ _ (.inl hc)
  rw [bistPhys_modHub_tset]
  split
  · next h => rw [h]
  · rfl

theorem finishDie_up (s : State) (k : Nat) (fails : List Nat) : ((finishDie s k fails).op k).Up := by
  unfold finishDie
  refine sequenceDie_up ?_
  have hstart : ∀ u : State, (u.op k).Up → ((if unitUnserved u k then declareLost u k else u).op k).Up := by
    intro u hu
    split
    · exact declareLost_up hu
    · exact hu
  refine hstart _ ?_
  have houts : ∀ u : State, (resetStations (clearCounters u k) k).outs = u.outs := fun u =>
    standing_dies ((standing_resetStations (wm := false) _ _).trans (standing_clearCounters (ws := false) (wa := false) _ _))
  split
  · refine loadDie_up ?_
    rw [op_of_outs (standing_dies (standing_selfTest (ws := false) (wa := false) _ _ _)),
      op_of_outs (standing_dies (standing_freshStores (wp := false) (wm := false) _ _)), op_of_outs (houts _), op_modOp_same]
    exact ⟨rfl, rfl, rfl, rfl⟩
  · rw [op_of_outs (standing_dies (standing_retainedTest _ _ _)), op_of_outs (houts _), op_modOp_same]
    exact ⟨rfl, rfl, rfl, rfl⟩

theorem finishDie_bistPhys {k c : Nat} (fails : List Nat) (hf : (s.op k).fresh = true) (hc : c ∈ unitCells k) :
    tget 0 (finishDie s k fails).hub.bistPhys c = if c ∈ fails then 2 else 1 := by
  have hlost : ∀ u : State, (if unitUnserved u k then declareLost u k else u).hub.bistPhys = u.hub.bistPhys := by
    intro u
    split
    · exact (standing_results (standing_declareLost u k)).1
    · rfl
  unfold finishDie
  simp only [hf, if_true]
  rw [(standing_results (standing_sequenceDie _ _)).1, hlost, (standing_results (standing_loadDie _ _)).1]
  exact selfTest_bistPhys _ _ _ hc

/-! ## The hub's own bring-up -/

theorem standing_finishDie (s : State) (k : Nat) (fails : List Nat) :
    (finishDie s k fails).standing false false false false false = s.standing false false false false false := by
  unfold finishDie
  simp only [standing_sequenceDie, standing_ite, standing_declareLost, standing_loadDie, standing_selfTest, standing_freshStores, standing_retainedTest,
    standing_resetStations, standing_clearCounters, standing_modOp, ite_self]

theorem standing_restartDie (fails : List Nat) (s : State) (k : Nat) :
    (restartDie fails s k).standing false false false false false = s.standing false false false false false := by
  unfold restartDie
  split
  · exact standing_finishDie s k fails
  · exact standing_raiseDie s k
  · rfl

/-- While the hub's logic is on the sequencer leaves its power side alone (R414). -/
theorem standing_sequenceHub (h : s.pwr.hubl = .on) : (sequenceHub s).standing false false false false false = s.standing false false false false false := by
  unfold sequenceHub reopenHub
  rw [h]
  dsimp only
  split
  · rfl
  · split
    · split <;> simp
    · split <;> simp

theorem standing_sequence (h : s.pwr.hubl = .on) : (sequence s).standing false false false false false = s.standing false false false false false := by
  have hdies := standing_forAll s (List.range 12) sequenceDie standing_sequenceDie (wp := false) (ws := false) (wd := false) (wm := false) (wa := false)
  unfold sequence
  rw [standing_sequenceHub, hdies]
  rw [(standing_power hdies).1, h]

/-- A cold start of the hub, whose logic is on, keeps the power side but for its own mark (R84). -/
theorem standing_coldStart (fails : List Nat) (h : s.pwr.hubl = .on) :
    (coldStart s fails).standing false false false false false = (s.modPwr fun p => { p with cold := false }).standing false false false false false := by
  have hrods : ∀ (u : State) (cs : List Nat), (forAll u cs writeRod).standing false false false false false = u.standing false false false false false :=
    fun u cs => standing_forAll u cs _ standing_writeRod
  have hdies : ∀ (u : State) (ks : List Nat), (forAll u ks (restartDie fails)).standing false false false false false = u.standing false false false false false :=
    fun u ks => standing_forAll u ks _ (standing_restartDie fails)
  have hcold : ∀ u : State, u.standing false false false false false = s.standing false false false false false →
      (u.modPwr fun p => { p with cold := false }).standing false false false false false =
        (s.modPwr fun p => { p with cold := false }).standing false false false false false := by
    intro u hu
    obtain ⟨hl, hm, hb, -, hs, hp⟩ := standing_power hu
    simp [State.modPwr, State.standing, standingOf, powerSide, hl, hm, hb, hs, hp]
  have hsequence : ∀ u : State, u.standing false false false false false = (s.modPwr fun p => { p with cold := false }).standing false false false false false →
      (sequence u).standing false false false false false = (s.modPwr fun p => { p with cold := false }).standing false false false false false :=
    fun u hu => (standing_sequence ((standing_power hu).1.trans h)).trans hu
  unfold coldStart
  refine hsequence _ ?_
  rw [standing_serveHeld, standing_releaseDb, standing_deliverFaults, hdies, standing_bootPlat]
  exact hcold _ ((hrods _ _).trans ((standing_selfTest _ _ _).trans ((standing_clearCounters _ _).trans rfl)))

/-- The hub's pair is on, nothing of its bring-up is left, and its cold start has run. -/
theorem hubUp_power (s : State) (fails : List Nat) (hrun : s.pwr.mode = .run) :
    (hubUp s fails).pwr.hubl = .on ∧ (hubUp s fails).pwr.hubm = .on ∧ (hubUp s fails).pwr.bring = 0 ∧ (hubUp s fails).pwr.cold = false ∧
      (hubUp s fails).hub.populated = s.hub.populated := by
  unfold hubUp
  simp only [hrun, if_true]
  set u := sweepAgain _ with hu
  obtain ⟨hl, hm, hb, hc, -, hp⟩ := standing_power (standing_coldStart fails (s := u) rfl)
  exact ⟨hl, hm, hb, hc, hp⟩

/-- Each ready signal of the hub's pair but the last takes its bring-up a step on, and the second says that the PLL has locked (R417). -/
theorem hubStep_early (x : Bist) (h1 : 1 ≤ s.pwr.bring) (h3 : s.pwr.bring ≤ 3) :
    ∃ mer : Mer, hubStep s x = { s with pwr := { s.pwr with bring := s.pwr.bring + 1 }, mer := mer } ∧ (s.pwr.bring = 2 → mer.locked = true) := by
  have h6 : ¬s.pwr.bring = 6 := by omega
  have h0 : ¬s.pwr.bring = 0 := by omega
  unfold hubStep hubRamps
  simp only [if_neg h6, if_neg h0, if_pos h3]
  split
  · exact ⟨_, rfl, fun _ => rfl⟩
  · next h2 => exact ⟨_, rfl, fun h => absurd h h2⟩

theorem hubStep_wakeFromSleep (x : Bist) (h6 : s.pwr.bring = 6) :
    hubStep s x = { s with pwr := { s.pwr with hubl := .ramping, hubm := .ramping, bring := 2 } } := by
  unfold hubStep hubRamps
  rw [if_pos h6]
  rfl

theorem hubStep_run (x : Bist) (h4 : s.pwr.bring = 4) (hrun : s.pwr.mode = .run) (hsleep : s.pwr.toSleep = false) :
    hubStep s x = hubUp (samplePresent s x) (bistFailing (samplePresent s x) x) := by
  unfold hubStep hubRamps
  simp [h4, hrun, hsleep]

/-- A wake, and a power-up for the save book, wait for what comes after the self-test (R417, R425, R428). -/
theorem hubStep_wake (x : Bist) (h4 : s.pwr.bring = 4) (h : s.pwr.mode = .wakeKeep ∨ s.pwr.mode = .wakeSleep ∨ s.pwr.toSleep = true) :
    ∃ u : State, hubStep s x = u.modPwr (fun p => { p with bring := 5 }) ∧
      u.standing false false false false false = (samplePresent s x).standing false false false false false := by
  have hretained := standing_retainedTest (wd := false) (samplePresent s x) 12 (bistFailing (samplePresent s x) x)
  unfold hubStep hubRamps
  simp only [h4, Nat.reduceEqDiff, Nat.reduceLeDiff, if_false, if_true]
  split
  · exact ⟨_, rfl, hretained⟩
  · exact ⟨_, rfl, standing_selfTest (ws := false) (wd := false) (wa := false) _ _ _⟩
  · next hk hs =>
    have hsleep : s.pwr.toSleep = true := by
      rcases h with h | h | h
      · exact absurd h hk
      · exact absurd h hs
      · exact h
    rw [if_pos hsleep]
    exact ⟨_, rfl, hretained⟩

/-! ## Bring-ups that fail -/

theorem exec_timeout_die (s : State) {k : Nat} (hk : k < 12) (hrst : s.pwr.rst = false) (hb : (s.op k).bring ≠ 0) :
    exec (.powerStepTimeout k) s = .next (
      if (s.op k).bring = 2 then unalign (raise (s.modOp k fun x => { x with bring := 3, holdover := true }) 0x0B k false 2 (w32 k) 0 none) k 0
      else if (s.op k).tries < 2 then s.modOp k fun x => { x with bring := 1, tries := x.tries + 1 }
      else dieFailed (s.modOp k fun x => { x with bring := 0, tries := 0, logic := .failed, mem := .failed, iso := true, fresh := true }) k 0
        (s.op k).bring ((s.op k).tries + 1)) := by
  show execPowerStepTimeout k s = _
  unfold execPowerStepTimeout
  simp only [hrst, Bool.false_eq_true, if_false, Nat.ne_of_lt hk, hk, if_true, hb]
  split
  · rfl
  · split <;> rfl

/-- A die whose alignment is lost is unaligned, and its bring-up and the others stay (R435). -/
theorem unalign_op (s : State) (k : Nat) (arg1 : Word) :
    ((unalign s k arg1).op k).align = .unaligned ∧ ((unalign s k arg1).op k).bring = (s.op k).bring ∧ ((unalign s k arg1).op k).holdover = (s.op k).holdover ∧
      ∀ j, j ≠ k → (unalign s k arg1).op j = s.op j := by
  unfold unalign
  split
  · next h => exact ⟨h, rfl, rfl, fun _ _ => rfl⟩
  · simp only [op_of_outs (outs_raise _ _ _ _ _ _ _ _), op_modOp_same]
    exact ⟨trivial, trivial, trivial, fun j h => op_modOp_other _ _ h⟩

/-- What the sequencer leaves of a die whose pair has failed (R413, R434). -/
structure FailedAfter (s t : State) (k : Nat) : Prop where
  iso : (t.op k).iso = (s.op k).iso
  bring : (t.op k).bring = (s.op k).bring
  lost : (t.op k).lost = (s.op k).lost
  wanted : wantL s k = true → (t.op k).logic = .failed
  memory : wantM s k = true → (t.op k).mem = .failed
  off : wantL s k = false → populated s k = true → (s.op k).noSupply = false → (t.op k).logic = .off
  memoryOff : wantM s k = false → populated s k = true → (s.op k).noSupply = false → (t.op k).mem = .off

theorem wantM_of_wantL {k : Nat} (h : wantL s k = true) : wantM s k = true := by simp [wantM, h]

theorem sequenceDie_failed {k : Nat} (hl : (s.op k).logic = .failed) (hm : (s.op k).mem = .failed) : FailedAfter s (sequenceDie s k) k := by
  have hiso : ∀ u : State, (isoAnswer u k).op k = { u.op k with isoGnt := ((isoAnswer u k).op k).isoGnt } := by
    intro u
    rw [isoAnswer, op_modOp_same]
  cases hp : populated s k with
  | false =>
    rw [sequenceDie_absent hp]
    exact ⟨rfl, rfl, rfl, fun _ => hl, fun _ => hm, by simp [hp], by simp [hp]⟩
  | true =>
    cases hn : (s.op k).noSupply with
    | true =>
      rw [sequenceDie_noSupply hp hn]
      constructor <;> rw [hiso] <;> simp [hl, hm, hn]
    | false =>
      cases hw : wantL s k with
      | true =>
        have hM := wantM_of_wantL hw
        rw [sequenceDie_eq hp hn, sequenceLogic, hl, sequenceRest]
        dsimp only
        rw [if_pos hw, if_pos (by simp [hl])]
        constructor <;> rw [hiso] <;> simp [hl, hm, hw, hM]
      | false =>
        rw [sequenceDie_eq hp hn, sequenceLogic, hl, sequenceRest]
        dsimp only
        rw [if_neg (Bool.eq_false_iff.mp hw), if_neg (not_not.mpr (congrArg Outpost.logic (op_modOp_same s k _)))]
        constructor <;> rw [hiso, op_modOp_same, op_modOp_same] <;> simp +contextual [offDie, linkDown, hm, hw]

/-- The die's own entry as a bring-up that has failed leaves it (R434). -/
def failedDie (x : Outpost) : Outpost := { x with bring := 0, tries := 0, logic := .failed, mem := .failed, iso := true, fresh := true }

theorem declareLost_already {k : Nat} (h : (s.op k).lost = true) : declareLost s k = s := by simp [declareLost, h]
theorem declareLost_absent {k : Nat} (h : populated s k = false) : declareLost s k = s := by simp [declareLost, h]

/-- What becomes of the entry of an outpost that is declared lost (R483). -/
theorem declareLost_op (s : State) (k : Nat) :
    (declareLost s k).op k = if populated s k = true ∧ (s.op k).lost = false then lostMark (s.op k) else s.op k := by
  split
  · next h =>
    rw [op_of_outs (standing_dies (standing_declareLost_lost (wp := false) (wm := false) h.1 h.2))]
    exact op_modOp_same s k lostMark
  · next h =>
    cases hp : populated s k with
    | false => rw [declareLost_absent hp]
    | true => rw [declareLost_already (by simpa [hp] using h)]


/-- The entry of a die whose bring-up has failed, before the sequencer has it: lost too, where it was wanted and there. -/
def failedEntry (wanted there : Bool) (x : Outpost) : Outpost :=
  if wanted = true ∧ there = true ∧ x.lost = false then lostMark (failedDie x) else failedDie x

/-- After the last try a die fails, and an outpost that was wanted is lost; then the sequencer has it (R434, R482). -/
theorem dieFailed_eq (s : State) (k step tries : Nat) :
    ∃ u : State, dieFailed (s.modOp k failedDie) k 0 step tries = sequenceDie u k ∧
      u.standing false false false false false = s.standing false false false false false ∧ u.op k = failedEntry (wantM s k) (populated s k) (s.op k) := by
  set v := raise (s.modOp k failedDie) 0x0A k false (w32 (k + 16 * 0)) (w32 step) (w32 tries) none with hv
  have hstand : v.standing false false false false false = s.standing false false false false false :=
    (standing_raise _ _ _ _ _ _ _ _).trans (standing_modOp _ _ _)
  have hentry : v.op k = failedDie (s.op k) := (op_of_outs (outs_raise _ _ _ _ _ _ _ _) k).trans (op_modOp_same _ _ _)
  have hpop : populated v k = populated s k := standing_populated hstand k
  refine ⟨if wantM s k then declareLost v k else v, rfl, ?_, ?_⟩
  · rw [standing_ite, standing_declareLost, ite_self, hstand]
  · unfold failedEntry
    cases hw : wantM s k with
    | false => simp [hentry]
    | true => simp [declareLost_op, hentry, hpop, failedDie]

theorem failedEntry_fields (wanted there : Bool) (x : Outpost) :
    (failedEntry wanted there x).logic = .failed ∧ (failedEntry wanted there x).mem = .failed ∧ (failedEntry wanted there x).iso = true ∧
      (failedEntry wanted there x).bring = 0 ∧ (failedEntry wanted there x).noSupply = x.noSupply := by
  unfold failedEntry
  split <;> exact ⟨rfl, rfl, rfl, rfl, rfl⟩

theorem failedEntry_lost (wanted there : Bool) (x : Outpost) : (failedEntry wanted there x).lost = (x.lost || (wanted && there)) := by
  cases hl : x.lost <;> cases wanted <;> cases there <;> simp [failedEntry, failedDie, lostMark, hl]

/-- A timeout of a die's bring-up after the last try (R434, R482). -/
theorem dieFailed_effect (s : State) (k step tries : Nat) :
    ∃ t, dieFailed (s.modOp k failedDie) k 0 step tries = t ∧ (t.op k).iso = true ∧ (t.op k).bring = 0 ∧
      (wantL s k = true → (t.op k).logic = .failed ∧ (t.op k).mem = .failed) ∧
      (wantM s k = true → populated s k = true → (t.op k).lost = true ∧ (t.op k).mem = .failed) ∧
      (wantL s k = false → populated s k = true → (s.op k).noSupply = false → (t.op k).logic = .off) ∧
      (wantM s k = false → populated s k = true → (s.op k).noSupply = false → (t.op k).mem = .off ∧ (t.op k).lost = (s.op k).lost) := by
  obtain ⟨u, heq, hstand, hentry⟩ := dieFailed_eq s k step tries
  obtain ⟨hlogic, hmem, hiso, hbring, hsupply⟩ := failedEntry_fields (wantM s k) (populated s k) (s.op k)
  have hlost := failedEntry_lost (wantM s k) (populated s k) (s.op k)
  rw [← hentry] at hlogic hmem hiso hbring hsupply hlost
  have after := sequenceDie_failed hlogic hmem
  rw [← standing_wantL hstand k, ← standing_wantM hstand k, ← standing_populated hstand k] at *
  refine ⟨_, heq, after.iso.trans hiso, after.bring.trans hbring, fun h => ⟨after.wanted h, after.memory (wantM_of_wantL h)⟩,
    fun h hp => ⟨?_, after.memory h⟩, fun h hp hn => after.off h hp (hsupply.trans hn), fun h hp hn => ⟨after.memoryOff h hp (hsupply.trans hn), ?_⟩⟩
  · rw [after.lost, hlost, h, hp]
    simp
  · rw [after.lost, hlost, h]
    simp

/-! ## What a bring-up step of the hub leaves of the meridian -/

theorem mer_log (s : State) (code unit : Nat) (sec : Bool) (a0 a1 a2 : Word) : (log s code unit sec a0 a1 a2).mer = s.mer := rfl
theorem mer_touch (s : State) (p : Nat) : (touch s p).mer = s.mer := by
  unfold touch
  split <;> rfl

theorem mer_raise (s : State) (code unit : Nat) (sec : Bool) (a0 a1 a2 : Word) : (raise s code unit sec a0 a1 a2 none).mer = s.mer := by
  have hhub : ∀ u : State, (raiseHub u code 0).mer = u.mer := fun _ => rfl
  unfold raise
  simp only [mer_log]
  split <;> split <;> simp [mer_touch, hhub, apply_ite State.mer]

theorem mer_lateGather (s : State) (id : Option Nat) : (lateGather s id).mer = s.mer := by
  unfold lateGather
  split
  · split <;> simp
  · rfl

theorem mer_regradeArmed (s : State) (f : Nat → Armed → Bool) : (regradeArmed s f).mer = s.mer :=
  forAll_rel (R := fun s t => t.mer = s.mer) (fun _ => rfl) (fun h1 h2 => h2.trans h1) lateGather mer_lateGather _ _

theorem mer_masterHoldover (s : State) : (masterHoldover s).mer = { s.mer with degraded := true, degSeen := true, locked := false } := by
  unfold masterHoldover
  rw [mer_regradeArmed, mer_raise]
  rfl

/-! ## The clauses -/

/-- The entry of a die whose supply comes back: it starts its bring-up, its link first (R312, R417). -/
def supplied (x : Outpost) : Outpost :=
  { linkPower { x with
      noSupply := false, logic := .ramping, mem := .ramping, trav := if x.trav = .on then .on else .ramping, bring := 1, tries := 0, isoGnt := false
      fresh := x.fresh || decide (x.mem = .off) } with bring := 2 }

theorem supplied_fields (x : Outpost) :
    (supplied x).noSupply = false ∧ (supplied x).logic = .ramping ∧ (supplied x).mem = .ramping ∧ (supplied x).trav = .on ∧ (supplied x).bring = 2 := by
  refine ⟨?_, ?_, ?_, linkPower_trav _, rfl⟩
  all_goals
    unfold supplied linkPower
    dsimp only
    split <;> rfl

theorem modOp_raiseDie_op (s : State) (k j : Nat) (f g : Outpost → Outpost) :
    ((raiseDie (s.modOp k f) k).modOp k g).op j = if j = k then g ((raiseDie (s.modOp k f) k).op k) else s.op j := by
  rw [op_modOp]
  split
  · rfl
  · next h => rw [raiseDie, op_modOp_other _ _ h, op_modOp_other _ _ h]

theorem dieStep_supplyBack {k : Nat} (fails : List Nat) (hp : populated s k = true) (hb : (s.op k).bring = 0) (hn : (s.op k).noSupply = true)
    (hw : wantL s k = true) : dieStep s k fails = { s with outs := (dieStep s k fails).outs } ∧
      ∀ j, (dieStep s k fails).op j = if j = k then supplied (s.op k) else s.op j := by
  have hstep : dieStep s k fails = (raiseDie (s.modOp k fun x => { x with noSupply := false }) k).modOp k fun x => { linkPower x with bring := 2 } := by
    unfold dieStep
    simp only [hp, hb, hn, Bool.not_true, Bool.false_eq_true, if_false, if_true]
    exact if_pos hw
  rw [hstep]
  refine ⟨rfl, fun j => ?_⟩
  rw [modOp_raiseDie_op, raiseDie, op_modOp_same, op_modOp_same]
  rfl

theorem travStep_ramping {k : Nat} (h : (s.op k).trav = .ramping) (hb : (s.op k).bring = 0) : travStep s k = s.modOp k linkPower := by
  simp [travStep, h, hb]

/-- A die's PLL that does not lock: the bring-up goes on in holdover (R435). -/
theorem holdoverDie_effect (s : State) (k : Nat) :
    ∃ t, unalign (raise (s.modOp k fun x => { x with bring := 3, holdover := true }) 0x0B k false 2 (w32 k) 0 none) k 0 = t ∧ (t.op k).bring = 3 ∧
      (t.op k).holdover = true ∧ (t.op k).align = .unaligned ∧ (∀ j, j ≠ k → t.op j = s.op j) ∧ SameQueues s t := by
  set u := raise (s.modOp k fun x => { x with bring := 3, holdover := true }) 0x0B k false 2 (w32 k) 0 none with hu
  have hraised : ∀ j, u.op j = (s.modOp k fun x => { x with bring := 3, holdover := true }).op j := op_of_outs (outs_raise _ _ _ _ _ _ _ _)
  have hstores : SameQueues s (unalign u k 0) :=
    standing_stores (wp := false) (wd := false) (wm := false) (wa := false) ((standing_unalign u k 0).trans ((standing_raise _ _ _ _ _ _ _ _).trans (standing_modOp s k _)))
  obtain ⟨halign, hbring, hhold, hother⟩ := unalign_op u k 0
  rw [hraised, op_modOp_same] at hbring hhold
  exact ⟨_, rfl, hbring, hhold, halign, fun j h => (hother j h).trans ((hraised j).trans (op_modOp_other _ _ h)), hstores⟩

/-- The state of the hub's pair that its bring-up leaves after the last try (R434). -/
def failedHub (p : Pwr) : Pwr :=
  let m : Mode := match p.mode with | .wakeKeep => .keep | .wakeSleep => .sleep | x => x
  { p with bring := 0, tries := 0, mode := m, hubl := .failed, hubm := if m = .keep then .retained else .failed, toSleep := false }

theorem failedHub_hubm (p : Pwr) : (failedHub p).hubm = if p.mode = .wakeKeep ∨ p.mode = .keep then .retained else .failed := by
  cases h : p.mode <;> simp [failedHub, h]

theorem exec_timeout_hub (s : State) (hrst : s.pwr.rst = false) (h1 : 1 ≤ s.pwr.bring) (h4 : s.pwr.bring ≤ 4) :
    exec (.powerStepTimeout 12) s = .next (
      if s.pwr.bring = 2 then masterHoldover (raise (s.modPwr fun q => { q with bring := 3 }) 0x0B 12 false 1 12 0 none)
      else if s.pwr.tries < 2 then s.modPwr fun q => { q with bring := 1, tries := q.tries + 1 }
      else raise (s.modPwr failedHub) 0x0A 12 false (w32 12) (w32 s.pwr.bring) (w32 (s.pwr.tries + 1)) none) := by
  have h6 : ¬s.pwr.bring = 6 := by omega
  have h0 : ¬(s.pwr.bring = 0 ∨ s.pwr.bring > 4) := by omega
  show execPowerStepTimeout 12 s = _
  unfold execPowerStepTimeout hubRamps
  simp only [hrst, Bool.false_eq_true, if_false, if_true, h6, h0]
  split
  · rfl
  · split <;> rfl

theorem dieStep_last {k : Nat} (fails : List Nat) (hp : populated s k = true) (hb : (s.op k).bring = 4) : dieStep s k fails = finishDie s k fails := by
  simp [dieStep, hp, hb]

/-- What the ready signals of a die do. -/
theorem dieReadySignal_effect (s : State) (k : Nat) (x : Bist) (hk : k < 12) (hrst : s.pwr.rst = false) (hp : populated s k = true) :
    (∀ n, (s.op k).bring = n → 1 ≤ n → n ≤ 3 → ∃ t, exec (.pdGood k x) s = .next t ∧ (t.op k).bring = n + 1 ∧ (n = 1 → (t.op k).trav = .on) ∧
      (n = 2 → (t.op k).holdover = false) ∧ (∀ j, j ≠ k → t.op j = s.op j) ∧ t = { s with outs := t.outs }) ∧
    ((s.op k).bring = 0 → (s.op k).noSupply = true → wantL s k = true → ∃ t, exec (.pdGood k x) s = .next t ∧ (t.op k).noSupply = false ∧
      (t.op k).logic = .ramping ∧ (t.op k).mem = .ramping ∧ (t.op k).trav = .on ∧ (t.op k).bring = 2 ∧ (∀ j, j ≠ k → t.op j = s.op j) ∧
      t = { s with outs := t.outs }) ∧
    ((s.op k).bring = 4 → ∃ t, exec (.pdGood k x) s = .next t ∧ (t.op k).logic = .on ∧ (t.op k).mem = .on ∧ (t.op k).iso = false ∧ (t.op k).bring = 0 ∧
      ((s.op k).fresh = true → ∀ c ∈ unitCells k, tget 0 t.hub.bistPhys c = if c ∈ bistFailing s x then 2 else 1)) := by
  rw [exec_pdGood_die s x hk hrst]
  refine ⟨fun n hn h1 h3 => ?_, fun hb hn hw => ?_, fun hb => ?_⟩
  · obtain ⟨f, heq, hbring, htrav, hhold⟩ := dieStep_early (bistFailing s x) hp hn h1 h3
    obtain ⟨hsame, hother, hframe⟩ := modOp_effect s k f
    rw [heq]
    refine ⟨_, rfl, ?_, ?_, ?_, hother, hframe⟩ <;> rwa [hsame]
  · obtain ⟨hframe, hop⟩ := dieStep_supplyBack (bistFailing s x) hp hb hn hw
    have hsame := (hop k).trans (if_pos rfl)
    obtain ⟨hsupply, hlogic, hmem, htrav, hbring⟩ := supplied_fields (s.op k)
    refine ⟨_, rfl, ?_, ?_, ?_, ?_, ?_, fun j h => (hop j).trans (if_neg h), hframe⟩ <;> rwa [hsame]
  · rw [dieStep_last _ hp hb]
    obtain ⟨hlogic, hmem, hiso, hbring⟩ := finishDie_up s k (bistFailing s x)
    exact ⟨_, rfl, hlogic, hmem, hiso, hbring, fun hf c hc => finishDie_bistPhys _ hf hc⟩

/-- What the ready signals of the hub's pair, and of a link alone, do. -/
theorem hubReadySignal_effect (s : State) (x : Bist) (hrst : s.pwr.rst = false) :
    (1 ≤ s.pwr.bring → s.pwr.bring ≤ 3 → ∃ t, exec (.pdGood 12 x) s = .next t ∧ t.pwr = { s.pwr with bring := s.pwr.bring + 1 } ∧
      t = { s with pwr := t.pwr, mer := t.mer } ∧ (s.pwr.bring = 2 → t.mer.locked = true)) ∧
    (s.pwr.bring = 6 → exec (.pdGood 12 x) s = .next { s with pwr := { s.pwr with hubl := .ramping, hubm := .ramping, bring := 2 } }) ∧
    (s.pwr.bring = 4 → s.pwr.mode = .run → s.pwr.toSleep = false → ∃ t, exec (.pdGood 12 x) s = .next t ∧ t.pwr.hubl = .on ∧ t.pwr.hubm = .on ∧
      t.pwr.bring = 0 ∧ t.pwr.cold = false ∧ t.hub.populated = x.present.getD s.isl.straps.present) ∧
    (s.pwr.bring = 4 → (s.pwr.mode = .wakeKeep ∨ s.pwr.mode = .wakeSleep ∨ s.pwr.toSleep = true) → ∃ t, exec (.pdGood 12 x) s = .next t ∧
      t.pwr.bring = 5 ∧ t.hub.populated = x.present.getD s.isl.straps.present) ∧
    (∀ k, k < 12 → (s.op k).trav = .ramping → (s.op k).bring = 0 → exec (.pdGood (16 + k) x) s = .next (s.modOp k linkPower)) := by
  rw [exec_pdGood_hub s x hrst]
  refine ⟨fun h1 h3 => ?_, fun h6 => by rw [hubStep_wakeFromSleep x h6], fun h4 hrun hsleep => ?_, fun h4 hwake => ?_, fun k hk htrav hb => ?_⟩
  · obtain ⟨mer, heq, hlocked⟩ := hubStep_early x h1 h3
    rw [heq]
    exact ⟨_, rfl, rfl, rfl, hlocked⟩
  · rw [hubStep_run x h4 hrun hsleep]
    obtain ⟨hl, hm, hb, hc, hpop⟩ := hubUp_power (samplePresent s x) (bistFailing (samplePresent s x) x) hrun
    exact ⟨_, rfl, hl, hm, hb, hc, hpop⟩
  · obtain ⟨u, heq, hu⟩ := hubStep_wake x h4 hwake
    obtain ⟨-, -, -, -, -, hpop⟩ := standing_power hu
    rw [heq]
    exact ⟨_, rfl, rfl, hpop⟩
  · rw [exec_pdGood_trav s x hk hrst, travStep_ramping htrav hb]

/-- What a timeout of a die's bring-up does. -/
theorem dieTimeout_effect (s : State) (k : Nat) (hk : k < 12) (hrst : s.pwr.rst = false) (hb : (s.op k).bring ≠ 0) :
    ((s.op k).bring ≠ 2 → (s.op k).tries < 2 → exec (.powerStepTimeout k) s = .next (s.modOp k fun o => { o with bring := 1, tries := o.tries + 1 })) ∧
    ((s.op k).bring = 2 → ∃ t, exec (.powerStepTimeout k) s = .next t ∧ (t.op k).bring = 3 ∧ (t.op k).holdover = true ∧ (t.op k).align = .unaligned ∧
      (∀ j, j ≠ k → t.op j = s.op j) ∧ SameQueues s t) ∧
    ((s.op k).bring ≠ 2 → 2 ≤ (s.op k).tries → ∃ t, exec (.powerStepTimeout k) s = .next t ∧ (t.op k).iso = true ∧ (t.op k).bring = 0 ∧
      (wantL s k = true → (t.op k).logic = .failed ∧ (t.op k).mem = .failed) ∧
      (wantM s k = true → populated s k = true → (t.op k).lost = true ∧ (t.op k).mem = .failed) ∧
      (wantL s k = false → populated s k = true → (s.op k).noSupply = false → (t.op k).logic = .off) ∧
      (wantM s k = false → populated s k = true → (s.op k).noSupply = false → (t.op k).mem = .off ∧ (t.op k).lost = (s.op k).lost)) := by
  rw [exec_timeout_die s hk hrst hb]
  refine ⟨fun h2 ht => by rw [if_neg h2, if_pos ht], fun h2 => ?_, fun h2 ht => ?_⟩
  · obtain ⟨t, heq, heffect⟩ := holdoverDie_effect s k
    rw [if_pos h2, heq]
    exact ⟨t, rfl, heffect⟩
  · obtain ⟨t, heq, heffect⟩ := dieFailed_effect s k (s.op k).bring ((s.op k).tries + 1)
    rw [if_neg h2, if_neg (not_lt.mpr ht)]
    exact ⟨t, by rw [← heq]; rfl, heffect⟩

/-- What a timeout of the bring-up of the hub's pair does. -/
theorem hubTimeout_effect (s : State) (hrst : s.pwr.rst = false) (h1 : 1 ≤ s.pwr.bring) (h4 : s.pwr.bring ≤ 4) :
    (s.pwr.bring = 2 → ∃ t, exec (.powerStepTimeout 12) s = .next t ∧ t.pwr.bring = 3 ∧
      t.mer = { s.mer with degraded := true, degSeen := true, locked := false } ∧ SameQueues s t) ∧
    (s.pwr.bring ≠ 2 → s.pwr.tries < 2 → exec (.powerStepTimeout 12) s = .next { s with pwr := { s.pwr with bring := 1, tries := s.pwr.tries + 1 } }) ∧
    (s.pwr.bring ≠ 2 → 2 ≤ s.pwr.tries → ∃ t, exec (.powerStepTimeout 12) s = .next t ∧ t.pwr.hubl = .failed ∧ t.pwr.bring = 0 ∧
      t.pwr.hubm = (if s.pwr.mode = .wakeKeep ∨ s.pwr.mode = .keep then .retained else .failed) ∧ SameQueues s t) := by
  have hraise : ∀ (f : Pwr → Pwr) (code : Nat) (a0 a1 a2 : Word),
      (raise (s.modPwr f) code 12 false a0 a1 a2 none).standing false true false false false = (s.modPwr f).standing false true false false false :=
    fun f code a0 a1 a2 => standing_raise _ _ _ _ _ _ _ _
  rw [exec_timeout_hub s hrst h1 h4]
  refine ⟨fun h2 => ?_, fun h2 ht => by rw [if_neg h2, if_pos ht]; rfl, fun h2 ht => ?_⟩
  · rw [if_pos h2]
    have hstand := (standing_masterHoldover (raise (s.modPwr fun q => { q with bring := 3 }) 0x0B 12 false 1 12 0 none)).trans (hraise _ 0x0B 1 12 0)
    obtain ⟨-, -, hbring, -⟩ := standing_power hstand
    have hstores := standing_stores hstand
    exact ⟨_, rfl, hbring, (mer_masterHoldover _).trans (by rw [mer_raise]; rfl), hstores⟩
  · rw [if_neg h2, if_neg (not_lt.mpr ht)]
    have hstand := hraise failedHub 0x0A (w32 12) (w32 s.pwr.bring) (w32 (s.pwr.tries + 1))
    obtain ⟨hl, hm, hbring, -⟩ := standing_power hstand
    have hstores := standing_stores hstand
    exact ⟨_, rfl, hl, hbring, hm.trans (failedHub_hubm s.pwr), hstores⟩

/-- Settles O52: a ready signal is one update of the unit's own entry, the last one runs the tests and the loads, which keep a pair that is on,
and a timeout is retried, taken over in holdover, or ends in a failed unit that the sequencer then has. -/
theorem bringUpGoesByReadySignals : Obligations.BringUpGoesByReadySignals :=
  ⟨dieReadySignal_effect, hubReadySignal_effect, dieTimeout_effect, hubTimeout_effect⟩

end Sys2Proof.Machine
end

section
/-! SUPPORT. The Datum sweep (R73 to R80). -/

namespace Sys2Proof.Machine
open Sys2Proof

variable {wp ws wd wm wa : Bool} {s t : State}

/-! ## What the plat side says -/

theorem standing_datum (h : t.standing true ws wd wm wa = s.standing true ws wd wm wa) : t.hub.datum = s.hub.datum := by
  simpa [State.standing, standingOf, platSide] using congrArg (fun x => x.2.1.map (·.1)) h

theorem standing_side (h : t.standing true ws wd wm wa = s.standing true ws wd wm wa) (c : Nat) : (t.cell c).side = (s.cell c).side := by
  have hsides := congrArg (fun x => x.2.1.map (·.2.2.2.2.2.2)) h
  simp only [State.standing, standingOf, platSide, if_true, Option.map_some, Option.some.injEq] at hsides
  exact congrArg Prod.fst (congrFun hsides c)

theorem side_checks {x y : Cell} (h : x.side = y.side) : x.datum = y.datum ∧ x.fenced = y.fenced := by
  simp only [Cell.side, Prod.mk.injEq] at h
  exact ⟨h.2.2.2.2.2.1, h.2.2.2.2.2.2.1⟩

theorem cells_touch (s : State) (p : Nat) : (touch s p).cells = s.cells := by
  unfold touch
  split <;> rfl

theorem cells_raise (s : State) (code unit : Nat) (sec : Bool) (a0 a1 a2 : Word) : (raise s code unit sec a0 a1 a2 none).cells = s.cells := by
  have hlog : ∀ u : State, (log u code unit sec a0 a1 a2).cells = u.cells := fun _ => rfl
  have hhub : ∀ u : State, (raiseHub u code 0).cells = u.cells := fun _ => rfl
  unfold raise
  simp only [hlog]
  split <;> split <;> simp [cells_touch, hhub, apply_ite State.cells]

theorem cell_raise (s : State) (code unit : Nat) (sec : Bool) (a0 a1 a2 : Word) (c : Nat) : (raise s code unit sec a0 a1 a2 none).cell c = s.cell c := by
  unfold State.cell
  rw [cells_raise]

/-- A fault that the hub counts, while its logic is on and no reset is asserted. -/
theorem faultCnt_raise (code unit : Nat) (sec : Bool) (a0 a1 a2 : Word) (hl : s.pwr.hubl = .on) (hr : s.pwr.rst = false) :
    tget 0 (raise s code unit sec a0 a1 a2 none).hub.faultCnt code = satInc (tget 0 s.hub.faultCnt code) := by
  have htouch : ∀ (u : State) (p : Nat), (touch u p).hub = u.hub := fun u p => by unfold touch; split <;> rfl
  have hlog : ∀ u : State, (log u code unit sec a0 a1 a2).hub = u.hub := fun _ => rfl
  have hhub : tget 0 (raiseHub s code 0).hub.faultCnt code = satInc (tget 0 s.hub.faultCnt code) := tget_tset_same _ _ _ _
  unfold raise
  simp only [hl, hr, if_true, Bool.false_eq_true, if_false, hlog]
  split
  · exact hhub
  · rw [htouch, hub_modParcel]
    exact hhub

/-! ## The slots of the stream -/

theorem mem_streamCells {c : Nat} : c ∈ streamCells s ↔ listed s.cells c ∧ (unitOf c = 12 ∨ populated s (unitOf c) = true) := by
  simp only [streamCells, List.mem_map, List.mem_filter, Bool.and_eq_true, Bool.or_eq_true, decide_eq_true_eq, Prod.exists, exists_and_right, exists_eq_right]
  exact ⟨fun ⟨x, hx, hrole, hunit⟩ => ⟨⟨x, hx, hrole⟩, hunit⟩, fun ⟨⟨x, hx, hrole⟩, hunit⟩ => ⟨x, hx, hrole, hunit⟩⟩

/-- Two states have the same slots in their streams. -/
def SameStream (s t : State) : Prop := ∀ c, c ∈ streamCells t ↔ c ∈ streamCells s

theorem sameStream_modCell {c : Nat} {f : Cell → Cell} (hrole : (f (s.cell c)).role = (s.cell c).role) (hlisted : f (s.cell c) ≠ {}) :
    SameStream s (s.modCell c f) := by
  intro d
  have hcells : (s.modCell c f).cells = tput c (f (s.cell c)) s.cells := if_neg hlisted
  have hpop : populated (s.modCell c f) (unitOf d) = populated s (unitOf d) := rfl
  rw [mem_streamCells, mem_streamCells, hcells, listed_tput hrole, hpop]

theorem sameStream_of_cells (hcells : t.cells = s.cells) (hpop : ∀ k, populated t k = populated s k) : SameStream s t := by
  intro c
  rw [mem_streamCells, mem_streamCells, hcells, hpop]

/-! ## The comparison of one slot -/

/-- A slot agrees with its reference, or does not (R76). -/
def Matches (s : State) (c : Nat) : Prop := (s.cell c).refVal = some (s.cell c).localCrc ∧ canRead s c = true ∧ (s.cell c).refBad = false
def Differs (s : State) (c : Nat) : Prop :=
  ∃ r, (s.cell c).refVal = some r ∧ canRead s c = true ∧ ((s.cell c).localCrc = r → (s.cell c).refBad = true)

/-- The comparison's marks in a slot (R76, R78, R79). -/
def matched (global : Bool) (x : Cell) : Cell := { x with datum := 1, fenced := x.fenced && (x.en || !x.quiet || global) }
def mismatched (x : Cell) : Cell := { x with datum := 2, fenced := x.fenced || (x.en && decide (x.datum ≠ 2)) }

theorem sweepSlot_matches {c : Nat} (h : Matches s c) : sweepSlot s c = s.modCell c (matched s.hub.datum.global) := by
  obtain ⟨href, hread, hgood⟩ := h
  unfold sweepSlot
  simp [href, hread, hgood]
  rfl

theorem sweepSlot_skips {c : Nat} (hm : ¬Matches s c) (hd : ¬Differs s c) : sweepSlot s c = s := by
  unfold sweepSlot
  cases hr : (s.cell c).refVal with
  | none => simp [hr]
  | some r =>
    have hread : canRead s c = false := by
      by_contra hread
      rw [Bool.not_eq_false] at hread
      by_cases heq : (s.cell c).localCrc = r
      · cases hbad : (s.cell c).refBad with
        | true => exact hd ⟨r, hr, hread, fun _ => hbad⟩
        | false => exact hm ⟨heq ▸ hr, hread, hbad⟩
      · exact hd ⟨r, hr, hread, fun h => absurd h heq⟩
    simp [hr, hread]

/-- What the hub notes of a slot that does not agree with its reference. -/
def noteSeen (x : Cell) (d : Datum) : Datum := { d with seen := d.seen || (x.en && decide (x.datum ≠ 2)) }

theorem modCell_congr {c : Nat} {f g : Cell → Cell} (h : f (s.cell c) = g (s.cell c)) : s.modCell c f = s.modCell c g := by
  unfold State.modCell
  rw [h]

/-- A comparison that fails: an enabled slot found so for the first time is fenced and noted, with a fault (R78, R79). -/
theorem sweepSlot_differs {c : Nat} (h : Differs s c) :
    (sweepSlot s c).cells = (s.modCell c mismatched).cells ∧ (sweepSlot s c).hub.datum = noteSeen (s.cell c) s.hub.datum ∧
      (sweepSlot s c).outs = s.outs ∧ (sweepSlot s c).hub.populated = s.hub.populated := by
  obtain ⟨r, href, hread, hbad⟩ := h
  have hno : ¬((s.cell c).localCrc = r ∧ (!(s.cell c).refBad) = true) := fun ⟨heq, hgood⟩ => by simp [hbad heq] at hgood
  unfold sweepSlot
  simp only [href, hread, Bool.not_true, Bool.false_eq_true, if_false, hno]
  split
  · next hnew =>
    have hmarks : ((s.cell c).en && decide ((s.cell c).datum ≠ 2)) = true := by simpa using hnew
    set u := (s.modCell c fun y => { y with datum := 2, fenced := true }).modHub fun h => { h with datum := { h.datum with seen := true } } with hu
    have hstand := standing_raise (wp := true) (ws := false) (wd := false) (wa := false) u 4 (unitOf c) false (w32 c) r (s.cell c).localCrc none
    have hcell : s.modCell c mismatched = s.modCell c fun y => { y with datum := 2, fenced := true } := modCell_congr (by simp only [mismatched, hmarks, Bool.or_true])
    obtain ⟨-, -, -, -, -, hpop⟩ := standing_power hstand
    refine ⟨(cells_raise _ _ _ _ _ _ _).trans (by rw [hcell]; rfl), (standing_datum hstand).trans ?_, outs_raise _ _ _ _ _ _ _ _, hpop⟩
    simp only [noteSeen, hmarks, Bool.or_true]
    rfl
  · next hold =>
    have hmarks : ((s.cell c).en && decide ((s.cell c).datum ≠ 2)) = false := by
      cases hen : (s.cell c).en <;> simp_all
    have hcell : s.modCell c mismatched = s.modCell c fun y => { y with datum := 2 } := modCell_congr (by simp only [mismatched, hmarks, Bool.or_false])
    refine ⟨by rw [hcell], ?_, rfl, rfl⟩
    simp only [noteSeen, hmarks, Bool.or_false]
    rfl

/-! ## All slots of the stream -/

/-- What each step keeps, all of them keep. -/
theorem forAll_keeps {α : Type} {P : State → Prop} {f : State → α → State} {xs : List α} (hf : ∀ u, P u → ∀ x ∈ xs, P (f u x)) (h : P s) :
    P (forAll s xs f) := by
  unfold forAll
  induction xs generalizing s with
  | nil => exact h
  | cons x xs ih => exact ih (fun u hu y hy => hf u hu y (List.mem_cons_of_mem _ hy)) (hf s h x List.mem_cons_self)

/-- What the step for one element brings about, and each step keeps, stands at the end. -/
theorem forAll_marks {α : Type} {P Q : State → Prop} {f : State → α → State} {xs : List α} {c : α} (hP : ∀ u, P u → ∀ x ∈ xs, P (f u x))
    (hQ : ∀ u, P u → Q u → ∀ x ∈ xs, Q (f u x)) (hc : ∀ u, P u → Q (f u c)) (h : P s) (hmem : c ∈ xs) : Q (forAll s xs f) := by
  obtain ⟨before, after, rfl⟩ := List.append_of_mem hmem
  have hsplit : forAll s (before ++ c :: after) f = forAll (f (forAll s before f) c) after f := by simp [forAll]
  have hbefore : P (forAll s before f) := forAll_keeps (fun u hu x hx => hP u hu x (List.mem_append_left _ hx)) h
  rw [hsplit]
  refine (forAll_keeps (P := fun u => P u ∧ Q u) (fun u hu x hx => ?_) ⟨hP _ hbefore c hmem, hc _ hbefore⟩).2
  have hx' : x ∈ before ++ c :: after := List.mem_append_right _ (List.mem_cons_of_mem _ hx)
  exact ⟨hP u hu.1 x hx', hQ u hu.1 hu.2 x hx'⟩

/-- A slot of which a comparison reads the same. -/
abbrev SameReading (x y : Cell) : Prop := y.refVal = x.refVal ∧ y.localCrc = x.localCrc ∧ y.refBad = x.refBad ∧ y.role = x.role

/-- The comparison of other slots has run: every slot reads the same, and the hub has at most noted a mismatch. -/
structure Compared (s t : State) : Prop where
  slots : ∀ c, SameReading (s.cell c) (t.cell c)
  datum : t.hub.datum = { s.hub.datum with seen := t.hub.datum.seen }
  seen : s.hub.datum.seen = true → t.hub.datum.seen = true
  outs : t.outs = s.outs
  populated : t.hub.populated = s.hub.populated
  stream : SameStream s t

theorem Compared.refl (s : State) : Compared s s := ⟨fun _ => ⟨rfl, rfl, rfl, rfl⟩, rfl, id, rfl, rfl, fun _ => Iff.rfl⟩
theorem Compared.trans {u : State} (h : Compared s t) (h' : Compared t u) : Compared s u where
  slots c := by
    obtain ⟨href, hlocal, hbad, hrole⟩ := h.slots c
    obtain ⟨href', hlocal', hbad', hrole'⟩ := h'.slots c
    exact ⟨href'.trans href, hlocal'.trans hlocal, hbad'.trans hbad, hrole'.trans hrole⟩
  datum := by rw [h'.datum, h.datum]
  seen := h'.seen ∘ h.seen
  outs := h'.outs.trans h.outs
  populated := h'.populated.trans h.populated
  stream c := (h'.stream c).trans (h.stream c)

theorem Compared.canRead (h : Compared s t) (c : Nat) : canRead t c = canRead s c := by
  unfold Machine.canRead linkUp
  rw [op_of_outs h.outs]

theorem Compared.global (h : Compared s t) : t.hub.datum.global = s.hub.datum.global := by rw [h.datum]

theorem Compared.matches (h : Compared s t) {c : Nat} (hm : Matches s c) : Matches t c := by
  obtain ⟨href, hlocal, hbad, -⟩ := h.slots c
  obtain ⟨href', hread, hgood⟩ := hm
  exact ⟨by rw [href, hlocal, href'], (h.canRead c).trans hread, hbad.trans hgood⟩

theorem Compared.differs (h : Compared s t) {c : Nat} (hd : Differs s c) : Differs t c := by
  obtain ⟨href, hlocal, hbad, -⟩ := h.slots c
  obtain ⟨r, href', hread, hno⟩ := hd
  exact ⟨r, href.trans href', (h.canRead c).trans hread, by rwa [hlocal, hbad]⟩

theorem cell_of_cells (h : t.cells = s.cells) (c : Nat) : t.cell c = s.cell c := by
  unfold State.cell
  rw [h]

theorem sameReading_modCell {c : Nat} {f : Cell → Cell} (hf : ∀ x, SameReading x (f x)) (d : Nat) : SameReading (s.cell d) ((s.modCell c f).cell d) := by
  rw [cell_modCell]
  split
  · next h => rw [h]; exact hf _
  · exact ⟨rfl, rfl, rfl, rfl⟩

theorem ne_default_of_refVal {x : Cell} {r : Word} (h : x.refVal = some r) : x ≠ {} := by
  rintro rfl
  simp at h

/-- The comparison of one slot marks that slot alone, and keeps what the other comparisons read. -/
theorem compared_sweepSlot (s : State) (c : Nat) : Compared s (sweepSlot s c) := by
  by_cases hm : Matches s c
  · rw [sweepSlot_matches hm]
    exact ⟨sameReading_modCell fun _ => ⟨rfl, rfl, rfl, rfl⟩, rfl, id, rfl, rfl, sameStream_modCell rfl (ne_default_of_refVal hm.1)⟩
  · by_cases hd : Differs s c
    · obtain ⟨hcells, hdatum, houts, hpop⟩ := sweepSlot_differs hd
      obtain ⟨r, href, -⟩ := hd
      refine ⟨fun d => ?_, by rw [hdatum]; rfl, fun h => by rw [hdatum, noteSeen, h]; rfl, houts, hpop, fun d => ?_⟩
      · rw [cell_of_cells hcells]
        exact sameReading_modCell (f := mismatched) (fun _ => ⟨rfl, rfl, rfl, rfl⟩) d
      · have hmod := sameStream_modCell (s := s) (c := c) (f := mismatched) rfl (ne_default_of_refVal (r := r) href) d
        have hlike := sameStream_of_cells (s := s.modCell c mismatched) hcells (fun k => by unfold populated; rw [hpop]; rfl) d
        exact hlike.trans hmod
    · rw [sweepSlot_skips hm hd]
      exact Compared.refl s

theorem sweepSlot_cell_other {c d : Nat} (h : c ≠ d) : (sweepSlot s d).cell c = s.cell c := by
  by_cases hm : Matches s d
  · rw [sweepSlot_matches hm, cell_modCell, if_neg h]
  · by_cases hd : Differs s d
    · rw [cell_of_cells (sweepSlot_differs hd).1, cell_modCell, if_neg h]
    · rw [sweepSlot_skips hm hd]

theorem matched_matched (b : Bool) (x : Cell) : matched b (matched b x) = matched b x := by
  simp only [matched, Bool.and_assoc, Bool.and_self]

theorem mismatched_mismatched (x : Cell) : mismatched (mismatched x) = mismatched x := by
  simp [mismatched]

/-- A slot's marks are those of its own comparison, in whatever order the slots come. -/
theorem forAll_sweepSlot_cell {c : Nat} {cs : List Nat} {g : Cell → Cell} (hidem : ∀ x, g (g x) = g x)
    (hown : ∀ u, Compared s u → (sweepSlot u c).cell c = g (u.cell c)) (hc : c ∈ cs) : (forAll s cs sweepSlot).cell c = g (s.cell c) := by
  have hone : ∀ u : State, Compared s u → (u.cell c = s.cell c ∨ u.cell c = g (s.cell c)) → (sweepSlot u c).cell c = g (s.cell c) := by
    rintro u hu (hcell | hcell) <;> rw [hown u hu, hcell]
    exact hidem _
  refine forAll_marks (P := fun u => Compared s u ∧ (u.cell c = s.cell c ∨ u.cell c = g (s.cell c))) (Q := fun u => u.cell c = g (s.cell c)) ?_ ?_ ?_ ?_ hc
  · intro u hu d _
    refine ⟨hu.1.trans (compared_sweepSlot u d), ?_⟩
    by_cases hd : c = d
    · exact .inr (hd ▸ hone u hu.1 hu.2)
    · rw [sweepSlot_cell_other hd]
      exact hu.2
  · intro u hu hq d _
    by_cases hd : c = d
    · exact hd ▸ hone u hu.1 hu.2
    · rw [sweepSlot_cell_other hd]
      exact hq
  · exact fun u hu => hone u hu.1 hu.2
  · exact ⟨Compared.refl s, .inl rfl⟩

theorem forAll_sweepSlot_matched {c : Nat} {cs : List Nat} (hm : Matches s c) (hc : c ∈ cs) :
    (forAll s cs sweepSlot).cell c = matched s.hub.datum.global (s.cell c) :=
  forAll_sweepSlot_cell (matched_matched _) (fun u hu => by rw [sweepSlot_matches (hu.matches hm), cell_modCell, if_pos rfl, hu.global]) hc

theorem forAll_sweepSlot_mismatched {c : Nat} {cs : List Nat} (hd : Differs s c) (hc : c ∈ cs) :
    (forAll s cs sweepSlot).cell c = mismatched (s.cell c) :=
  forAll_sweepSlot_cell mismatched_mismatched (fun u hu => by rw [cell_of_cells (sweepSlot_differs (hu.differs hd)).1, cell_modCell, if_pos rfl]) hc

theorem compared_forAll (s : State) (cs : List Nat) : Compared s (forAll s cs sweepSlot) :=
  forAll_rel Compared.refl Compared.trans sweepSlot compared_sweepSlot cs s

/-- An enabled slot that is found wrong for the first time is noted (R78). -/
theorem forAll_sweepSlot_seen {c : Nat} {cs : List Nat} (hd : Differs s c) (hen : (s.cell c).en = true) (hnew : (s.cell c).datum ≠ 2) (hc : c ∈ cs) :
    (forAll s cs sweepSlot).hub.datum.seen = true := by
  have hone : ∀ u : State, Compared s u → u.cell c = s.cell c → (sweepSlot u c).hub.datum.seen = true := by
    intro u hu hcell
    rw [(sweepSlot_differs (hu.differs hd)).2.1, hcell]
    simp only [noteSeen, hen, decide_eq_true hnew, Bool.and_self, Bool.or_true]
  refine forAll_marks (P := fun u => Compared s u ∧ (u.cell c = s.cell c ∨ u.hub.datum.seen = true)) (Q := fun u => u.hub.datum.seen = true) ?_ ?_ ?_ ?_ hc
  · intro u hu d _
    refine ⟨hu.1.trans (compared_sweepSlot u d), ?_⟩
    rcases hu.2 with hcell | hseen
    · by_cases hcd : c = d
      · exact .inr (hcd ▸ hone u hu.1 hcell)
      · exact .inl ((sweepSlot_cell_other hcd).trans hcell)
    · exact .inr ((compared_sweepSlot u d).seen hseen)
  · exact fun u _ hseen d _ => (compared_sweepSlot u d).seen hseen
  · rintro u ⟨hu, hcell | hseen⟩
    · exact hone u hu hcell
    · exact (compared_sweepSlot u c).seen hseen
  · exact ⟨Compared.refl s, .inl rfl⟩

/-- Where every slot agrees, a comparison changes slots alone. -/
theorem forAll_sweepSlot_slotsOnly {cs : List Nat} (hall : ∀ c ∈ cs, Matches s c) : forAll s cs sweepSlot = { s with cells := (forAll s cs sweepSlot).cells } := by
  refine (forAll_keeps (P := fun u => Compared s u ∧ u = { s with cells := u.cells }) (fun u hu c hc => ?_) ⟨Compared.refl s, rfl⟩).2
  refine ⟨hu.1.trans (compared_sweepSlot u c), ?_⟩
  rw [sweepSlot_matches (hu.1.matches (hall c hc)), hu.2]
  rfl

/-! ## The sweep -/

/-- The comparisons of a sweep, then its value and its number, and where that value is not the reference the fence of every slot (R74, R76, R80). -/
def compareAll (s : State) : State := forAll s (streamCells s) sweepSlot
def countSweep (s : State) : State :=
  (compareAll s).modHub fun h => { h with datum := { h.datum with last := streamValue (compareAll s) false, sweeps := h.datum.sweeps + 1 } }
def fenceAll (t : State) : State :=
  forAll (t.modHub fun h => { h with datum := { h.datum with global := true, seen := true } }) (streamCells t) fun u c => u.modCell c fun x => { x with fenced := true }
def globalMismatch (s : State) : Bool :=
  s.hub.datum.committed && !s.hub.datum.global && (streamCells s).all (fun c => decide ((s.cell c).datum ≠ 2)) && decide (s.hub.datum.last ≠ s.hub.datum.ref)

theorem sweep_eq (h : s.parity = []) :
    sweep s = if globalMismatch (countSweep s) then
        raise (fenceAll (countSweep s)) 0x04 12 false 0x7FF (countSweep s).hub.datum.ref (countSweep s).hub.datum.last none
      else countSweep s := by
  have hclean : parityAll s s.parity = s := by rw [h]; rfl
  unfold sweep
  simp only [hclean]
  rfl

/-- The datum unit and the marks of every slot are the same. -/
structure SameChecks (s t : State) : Prop where
  datum : t.hub.datum = s.hub.datum
  count : tget 0 t.hub.faultCnt 4 = tget 0 s.hub.faultCnt 4
  marks : ∀ c, (t.cell c).datum = (s.cell c).datum ∧ (t.cell c).fenced = (s.cell c).fenced

theorem SameChecks.refl (s : State) : SameChecks s s := ⟨rfl, rfl, fun _ => ⟨rfl, rfl⟩⟩
theorem SameChecks.trans {u : State} (h : SameChecks s t) (h' : SameChecks t u) : SameChecks s u :=
  ⟨h'.datum.trans h.datum, h'.count.trans h.count, fun c => ⟨(h'.marks c).1.trans (h.marks c).1, (h'.marks c).2.trans (h.marks c).2⟩⟩

theorem sameChecks_of_standing (h : t.standing true ws wd true wa = s.standing true ws wd true wa) : SameChecks s t :=
  ⟨standing_datum h, (standing_results h).2, fun c => side_checks (standing_side h c)⟩

theorem sameChecks_modCell {c : Nat} {f : Cell → Cell} (hf : ∀ x, (f x).datum = x.datum ∧ (f x).fenced = x.fenced) : SameChecks s (s.modCell c f) := by
  refine ⟨rfl, rfl, fun d => ?_⟩
  rw [cell_modCell]
  split
  · next h => rw [h]; exact hf _
  · exact ⟨rfl, rfl⟩

theorem sameChecks_enableCell (s : State) (c : Nat) : SameChecks s (enableCell s c) := by
  cases h : (s.cell c).en with
  | true =>
    rw [show enableCell s c = s by simp [enableCell, h]]
    exact SameChecks.refl s
  | false =>
    have henabled : SameChecks s (s.modCell c fun y => { y with en := true, quiet := true }) := sameChecks_modCell fun _ => ⟨rfl, rfl⟩
    exact henabled.trans (sameChecks_of_standing (standing_enableCell (wp := true) (wd := false) (wm := true) h))

theorem sameChecks_reEnable (s : State) (cs : List Nat) : SameChecks s (reEnable s cs) := by
  refine forAll_rel SameChecks.refl SameChecks.trans _ (fun u c => ?_) cs s
  dsimp only
  split
  · refine SameChecks.trans ?_ (sameChecks_modCell fun _ => ⟨rfl, rfl⟩)
    split
    · exact sameChecks_enableCell u c
    · exact SameChecks.refl u
  · exact SameChecks.refl u

/-- The slots that are enabled again after a sweep, and the queues that return, change nothing that the sweep has found. -/
theorem exec_datumSweep (hl : s.pwr.hubl = .on) (hr : s.pwr.rst = false) : ∃ t, exec .datumSweep s = .next t ∧ SameChecks (sweep s) t := by
  have hrow : exec .datumSweep s = execDatumSweep s := rfl
  rw [hrow, execDatumSweep, if_neg (by simp [hl, hr])]
  refine ⟨_, rfl, (sameChecks_reEnable (sweep s) (streamCells (sweep s))).trans ?_⟩
  split
  · exact sameChecks_of_standing (standing_routesReturn (wp := true) (wd := false) (wm := true) _)
  · exact SameChecks.refl _

/-! ## What the sweep finds -/

theorem fenceAll_frame (t : State) :
    fenceAll t = { (t.modHub fun h => { h with datum := { h.datum with global := true, seen := true } }) with cells := (fenceAll t).cells } :=
  forAll_keeps (P := fun u => u = { (t.modHub fun h => { h with datum := { h.datum with global := true, seen := true } }) with cells := u.cells })
    (fun u hu c _ => by rw [hu]; rfl) rfl

theorem fenceAll_cell (t : State) (c : Nat) : ((fenceAll t).cell c).datum = (t.cell c).datum ∧ ((t.cell c).fenced = true → ((fenceAll t).cell c).fenced = true) := by
  refine forAll_keeps (P := fun u => (u.cell c).datum = (t.cell c).datum ∧ ((t.cell c).fenced = true → (u.cell c).fenced = true)) (fun u hu d _ => ?_) ⟨rfl, id⟩
  rw [cell_modCell]
  split
  · next h => exact ⟨h ▸ hu.1, fun _ => rfl⟩
  · exact hu

theorem fenceAll_fenced {c : Nat} (h : c ∈ streamCells t) : ((fenceAll t).cell c).fenced = true := by
  refine forAll_marks (P := fun _ => True) (Q := fun u => (u.cell c).fenced = true) (fun _ _ _ _ => trivial) (fun u _ hu d _ => ?_) (fun u _ => ?_) trivial h
  · rw [cell_modCell]
    split
    · rfl
    · exact hu
  · rw [cell_modCell, if_pos rfl]

/-- What a sweep leaves of the Datum unit and of the slots' marks: what the comparisons found, and over it the fence of R80. -/
theorem sweep_checks (h : s.parity = []) :
    (globalMismatch (countSweep s) = false ∧ sweep s = countSweep s) ∨
    (globalMismatch (countSweep s) = true ∧ (sweep s).hub.datum = { (countSweep s).hub.datum with global := true, seen := true } ∧
      (∀ c, (sweep s).cell c = (fenceAll (countSweep s)).cell c)) := by
  rw [sweep_eq h]
  cases hg : globalMismatch (countSweep s) with
  | false => exact .inl ⟨rfl, rfl⟩
  | true =>
    refine .inr ⟨rfl, ?_, fun c => cell_raise _ _ _ _ _ _ _ c⟩
    rw [if_pos rfl, standing_datum (standing_raise (ws := false) (wd := false) (wa := false) _ _ _ _ _ _ _ _), fenceAll_frame]
    rfl

theorem stream_countSweep (s : State) : SameStream s (countSweep s) := (compared_forAll s (streamCells s)).stream

theorem globalMismatch_slots (h : globalMismatch s = true) {c : Nat} (hc : c ∈ streamCells s) : (s.cell c).datum ≠ 2 := by
  simp only [globalMismatch, Bool.and_eq_true, List.all_eq_true, decide_eq_true_eq] at h
  exact h.1.2 c hc

/-- The marks of one slot that a sweep can read, before the fence of every slot (R76, R78, R79). -/
theorem datumSweep_slot {c : Nat} {r : Word} (hp : s.parity = []) (hdone : SameChecks (sweep s) t) (hc : c ∈ streamCells s) (href : (s.cell c).refVal = some r)
    (hread : canRead s c = true) (hgood : (s.cell c).refBad = false) :
    ((s.cell c).localCrc = r → (t.cell c).datum = 1 ∧
      ((s.cell c).en = false → (s.cell c).quiet = true → t.hub.datum.global = false → (t.cell c).fenced = false)) ∧
    ((s.cell c).localCrc ≠ r → (t.cell c).datum = 2 ∧
      ((s.cell c).en = true → (s.cell c).datum ≠ 2 → (t.cell c).fenced = true ∧ t.hub.datum.seen = true) ∧
      ((s.cell c).en = false → t.hub.datum.global = s.hub.datum.global → (t.cell c).fenced = (s.cell c).fenced)) := by
  have hcompared := compared_forAll s (streamCells s)
  have hglobal : (countSweep s).hub.datum.global = s.hub.datum.global := hcompared.global
  rw [hdone.datum, (hdone.marks c).1, (hdone.marks c).2]
  refine ⟨fun heq => ?_, fun hne => ?_⟩
  · have hcell : (countSweep s).cell c = matched s.hub.datum.global (s.cell c) := forAll_sweepSlot_matched ⟨heq ▸ href, hread, hgood⟩ hc
    rcases sweep_checks hp with ⟨-, hsweep⟩ | ⟨-, hdatum, hcells⟩
    · rw [hsweep, hcell, hglobal]
      exact ⟨rfl, fun hen hquiet hg => by simp [matched, hen, hquiet, hg]⟩
    · rw [hdatum, hcells, (fenceAll_cell _ c).1, hcell]
      exact ⟨rfl, fun _ _ hg => by simp at hg⟩
  · have hdiffers : Differs s c := ⟨r, href, hread, fun heq => absurd heq hne⟩
    have hcell : (countSweep s).cell c = mismatched (s.cell c) := forAll_sweepSlot_mismatched hdiffers hc
    rcases sweep_checks hp with ⟨-, hsweep⟩ | ⟨hg, -⟩
    · rw [hsweep, hcell]
      refine ⟨rfl, fun hen hnew => ⟨?_, forAll_sweepSlot_seen hdiffers hen hnew hc⟩, fun hen _ => ?_⟩
      · simp only [mismatched, hen, decide_eq_true hnew, Bool.and_self, Bool.or_true]
      · simp only [mismatched, hen, Bool.false_and, Bool.or_false]
    · exact absurd (by rw [hcell]; rfl) (globalMismatch_slots hg ((stream_countSweep s c).mpr hc))

/-- Where every slot agrees, the value of the stream decides (R80). -/
theorem datumSweep_global (hl : s.pwr.hubl = .on) (hr : s.pwr.rst = false) (hp : s.parity = []) (hdone : SameChecks (sweep s) t)
    (hcommitted : s.hub.datum.committed = true) (hopen : s.hub.datum.global = false) (hall : ∀ c ∈ streamCells s, Matches s c) :
    (t.hub.datum.last = s.hub.datum.ref → t.hub.datum.global = false) ∧
    (t.hub.datum.last ≠ s.hub.datum.ref → t.hub.datum.global = true ∧ t.hub.datum.seen = true ∧ (∀ c ∈ streamCells s, (t.cell c).fenced = true) ∧
      tget 0 t.hub.faultCnt 4 = satInc (tget 0 s.hub.faultCnt 4)) := by
  have honly := forAll_sweepSlot_slotsOnly hall
  have hcounted : countSweep s = { (s.modHub fun h => { h with datum := { h.datum with last := streamValue (compareAll s) false, sweeps := h.datum.sweeps + 1 } })
      with cells := (compareAll s).cells } := by
    rw [countSweep, compareAll, honly]
    rfl
  have hmatched : (streamCells (countSweep s)).all (fun c => decide (((countSweep s).cell c).datum ≠ 2)) = true := by
    refine List.all_eq_true.mpr fun c hc => ?_
    have hc' := (stream_countSweep s c).mp hc
    have hcell : (countSweep s).cell c = matched s.hub.datum.global (s.cell c) := forAll_sweepSlot_matched (hall c hc') hc'
    simp [hcell, matched]
  have hjudged : globalMismatch (countSweep s) = decide ((countSweep s).hub.datum.last ≠ s.hub.datum.ref) := by
    have hdatum : (countSweep s).hub.datum.committed = true ∧ (countSweep s).hub.datum.global = false ∧ (countSweep s).hub.datum.ref = s.hub.datum.ref := by
      rw [hcounted]
      exact ⟨hcommitted, hopen, rfl⟩
    obtain ⟨hcm, hgl, href⟩ := hdatum
    rw [globalMismatch, hmatched, hcm, hgl, href]
    rfl
  rw [hdone.datum, hdone.count]
  rcases sweep_checks hp with ⟨hg, hsweep⟩ | ⟨hg, hdatum, hcells⟩
  · have hlast : (countSweep s).hub.datum.last = s.hub.datum.ref := by simpa [hjudged] using hg
    rw [hsweep]
    refine ⟨fun _ => ?_, fun hne => absurd hlast hne⟩
    rw [hcounted]
    exact hopen
  · have hlast : (countSweep s).hub.datum.last ≠ s.hub.datum.ref := by simpa [hjudged] using hg
    rw [hdatum]
    refine ⟨fun heq => absurd heq hlast, fun _ => ⟨rfl, rfl, fun c hc => ?_, ?_⟩⟩
    · rw [(hdone.marks c).2, hcells]
      exact fenceAll_fenced ((stream_countSweep s c).mpr hc)
    · rw [sweep_eq hp, if_pos hg, faultCnt_raise, fenceAll_frame, hcounted]
      · rfl
      · rw [fenceAll_frame, hcounted]
        exact hl
      · rw [fenceAll_frame, hcounted]
        exact hr

/-- Settles O39: the comparisons of a sweep mark each slot by its own reading, whatever the order; what the sweep enables or returns afterwards
keeps their marks. -/
theorem datumChecksTheSlots : Obligations.DatumChecksTheSlots := by
  refine ⟨fun s c hc => ⟨_, if_neg (by omega), rfl⟩, fun s hl hr hp => ?_⟩
  obtain ⟨t, hrow, hdone⟩ := exec_datumSweep hl hr
  have hcounted : (countSweep s).hub.datum.sweeps = s.hub.datum.sweeps + 1 ∧ (countSweep s).hub.datum.ref = s.hub.datum.ref ∧
      (countSweep s).hub.datum.committed = s.hub.datum.committed := by
    have hcompared := (compared_forAll s (streamCells s)).datum
    refine ⟨congrArg (·.sweeps + 1) hcompared, congrArg (·.ref) hcompared, congrArg (·.committed) hcompared⟩
  have hdatum : (sweep s).hub.datum.sweeps = s.hub.datum.sweeps + 1 ∧ (sweep s).hub.datum.ref = s.hub.datum.ref ∧
      (sweep s).hub.datum.committed = s.hub.datum.committed := by
    rcases sweep_checks hp with ⟨-, hsweep⟩ | ⟨-, hdatum, -⟩
    · rwa [hsweep]
    · rwa [hdatum]
  rw [← hdone.datum] at hdatum
  obtain ⟨hsweeps, href, hcommitted⟩ := hdatum
  exact ⟨t, hrow, hsweeps, href, hcommitted, fun c hc r hr' hread hgood => datumSweep_slot hp hdone hc hr' hread hgood,
    fun hcm hopen hall => datumSweep_global hl hr hp hdone hcm hopen hall⟩

end Sys2Proof.Machine
end

section
/-! SUPPORT. Cells and the hub are enabled and drained (R58 to R62, R170). -/

namespace Sys2Proof.Machine
open Sys2Proof

variable {wp ws wd wm wa : Bool} {s t : State}

/-! ## The rows -/

theorem writeWord_cellEn (r : HeldAcc) {c : Nat} (hc : c < 1536) (data : Word) :
    writeWord s r (cellBase c + 0x180) data = writeCellEn s c (data.getLsbD 0) := by
  have hge := cellBase_ge c 0x180
  have hlt := cellBase_lt hc (show 0x180 < 0x200 by decide)
  have hmod := cellBase_mod c (show 0x180 < 0x200 by decide)
  have hcell := offCell_cellBase c (show 0x180 < 0x200 by decide)
  generalize cellBase c + 0x180 = x at *
  have hp : ¬onPage x = true := by simp [onPage]; omega
  have ht : testWord x = 0 := by rw [testWord, if_neg (by omega), if_neg (by omega)]
  rw [writeWord, if_neg hp, if_neg (by simp [ht]), if_neg (by omega), if_neg (by omega), if_neg (by omega), if_neg (by omega), if_pos (by omega), cellWrite]
  simp [hmod, hcell]

theorem cellAccess_en {c : Nat} (d : Word) {a : Acc} (hr : CellReady s c a) (hz : a.size = .b32) :
    cellAccess c 0x180 true d a s = .next (respond (writeCellEn s c (d.getLsbD 0)) 0 false) := by
  have ⟨hs, hc, _⟩ := hr
  rw [cellAccess, if_pos hc, access_write _ hs hz (hubReg_cell hr (by decide) (by decide))
    (by simp [needsSec_cellCounters hc (o := 0x180) (by decide) (by decide)]), lo32_zeroExtend, writeWord_cellEn _ hc]

theorem exec_hubEn {a : Acc} (on : Bool) (hs : Serves s a) (hz : a.size = .b32) :
    exec (if on then .hubEnable a else .hubDisable a) s = .next (respond (writeHubEn s on) 0 false) := by
  cases on
  · exact access_write_low 0 hs hz (by decide) (by decide) (by decide) (by decide)
  · exact access_write_low 1 hs hz (by decide) (by decide) (by decide) (by decide)

/-! ## Re-offers that are under way stay so -/

/-- A re-offer that has been sent is still under way. -/
def AsksKept (s t : State) : Prop := ∀ d u l, Sent s (.reOffer d u l) → Sent t (.reOffer d u l)

theorem AsksKept.refl (s : State) : AsksKept s s := fun _ _ _ h => h
theorem AsksKept.trans {u : State} (h : AsksKept s t) (h' : AsksKept t u) : AsksKept s u := fun d v l hs => h' d v l (h d v l hs)

theorem OnlySent.asksKept (h : OnlySent s t) : AsksKept s t := fun _ _ _ hs => h.sent hs

theorem sent_reOffer_iff (d : Dest) (u : Nat) (l : Option (List Nat)) : Sent s (.reOffer d u l) ↔ ∃ p ∈ askSide s.net, p.msg = .reOffer d u l := by
  refine exists_congr fun p => ?_
  rw [askSide, List.mem_filter]
  exact ⟨fun ⟨hp, hm⟩ => ⟨⟨hp, by rw [hm]; rfl⟩, hm⟩, fun ⟨hp, hm⟩ => ⟨hp.1, hm⟩⟩

theorem asksKept_of_standing (h : t.standing false false false false true = s.standing false false false false true) : AsksKept s t := by
  have hasks : askSide t.net = askSide s.net := by
    simpa [State.standing, standingOf] using congrArg (·.2.2.2.2.2) h
  intro d u l
  rw [sent_reOffer_iff, sent_reOffer_iff, hasks]
  exact id

theorem AsksKept.then {u : State} (h : AsksKept s t) (h' : u.standing false false false false true = t.standing false false false false true) : AsksKept s u :=
  h.trans (asksKept_of_standing h')

theorem asksKept_sendReOffer_if (h : AsksKept s t) (b : Bool) (u : Nat) (c : Option Nat) (d : Dest) : AsksKept s (if b then sendReOffer t u c d else t) := by
  split
  · exact h.trans (onlySent_sendReOffer _ _ _ _).asksKept
  · exact h

theorem asksKept_checkPark (s : State) (n : Nat) (r : Tour) : AsksKept s (checkPark s n r) := by
  unfold checkPark
  split
  · exact (asksKept_of_standing (standing_setPark s n r false)).trans (onlySent_sendReOffer _ _ _ _).asksKept
  · exact AsksKept.refl s

theorem asksKept_settleStation (s0 s : State) (n : Nat) : AsksKept s (settleStation s0 s n) := by
  have hite : ∀ (u : State) (r : Tour), AsksKept u (if seatCount u n r < seatCount s0 n r then checkPark u n r else u) := by
    intro u r
    split
    · exact asksKept_checkPark u n r
    · exact AsksKept.refl u
  unfold settleStation
  refine AsksKept.trans (asksKept_of_standing ?_) ((hite _ .normal).trans ((hite _ .secure).trans (hite _ .virt)))
  simp only [standing_ite, standing_reportLoad, ite_self]
  split
  · split <;> simp
  · rfl

theorem asksKept_settleStations (s0 s : State) (ns : List Nat) : AsksKept s (settleStations s0 s ns) :=
  forAll_rel AsksKept.refl AsksKept.trans _ (fun u n => asksKept_settleStation s0 u n) ns s

theorem asksKept_complete (s : State) (p : Page) (data : Word) : AsksKept s (complete s p data) := by
  unfold complete
  cases p with
  | stn k g =>
    dsimp only [pageStation]
    split
    · exact asksKept_of_standing (by simp)
    · refine AsksKept.then (AsksKept.trans (asksKept_of_standing ?_) (asksKept_settleStation s _ k)) (standing_reqWatch _ _ _)
      repeat' split
      all_goals simp
  | vst v =>
    cases hn : pageStation s (.vst v) <;> refine asksKept_of_standing ?_
    all_goals
      dsimp only
      repeat' split
      all_goals simp

theorem asksKept_groupWrite (s : State) (p : Page) (o : Nat) (data : Word) (a : Acc) : AsksKept s (groupWrite s p o data a) := by
  by_cases ho : o = 0x020
  · rw [ho]
    exact asksKept_complete s p data
  · refine asksKept_of_standing ?_
    unfold groupWrite
    repeat' split
    all_goals simp_all

theorem asksKept_poisonCtx (s : State) (v : Nat) : AsksKept s (poisonCtx s v) := by
  unfold poisonCtx
  refine AsksKept.then (AsksKept.trans (asksKept_of_standing ?_)
    (asksKept_settleStations _ _ _)) (standing_touch _ _)
  simp only [standing_modCtx]
  split <;> simp

theorem asksKept_ctxRead (s : State) (v : Nat) : AsksKept s (ctxRead s v) := by
  have hstrike := asksKept_of_standing (standing_strike s (.ctx v) 0 (contextCell s v))
  unfold ctxRead
  simp only
  split
  · exact hstrike.trans (asksKept_poisonCtx _ v)
  · exact hstrike

theorem asksKept_vctxEnter (s : State) (n : Nat) (low : BitVec 31) : AsksKept s (vctxEnter s n low) := by
  have hread : AsksKept s (ctxRead (secureParity s n) (low.toNat % 16384)) :=
    (asksKept_of_standing (standing_secureParity s n)).trans (asksKept_ctxRead _ _)
  unfold vctxEnter
  dsimp only
  generalize ctxRead (secureParity s n) (low.toNat % 16384) = u at *
  refine hread.trans ?_
  split
  · exact asksKept_of_standing (by simp)
  · split
    · exact asksKept_of_standing (by simp)
    · refine AsksKept.then (asksKept_sendReOffer_if ?_ _ _ _ _) (standing_reqWatch _ _ _)
      refine AsksKept.then (AsksKept.trans (asksKept_of_standing ?_) (asksKept_settleStations _ _ _)) (standing_touch _ _)
      simp only [standing_modCtx, standing_modStn]
      split <;> simp

theorem asksKept_vctxSwitch (s : State) (n : Nat) (data : Word) : AsksKept s (vctxSwitch s n data) := by
  unfold vctxSwitch
  dsimp only
  split
  · exact asksKept_vctxEnter s n _
  · refine asksKept_of_standing ?_
    repeat' split
    all_goals simp

theorem asksKept_pageWriteNow (s : State) (off : Nat) (data : Word) (a : Acc) : AsksKept s (pageWriteNow s off data a) := by
  unfold pageWriteNow
  dsimp only
  split
  · split
    · exact AsksKept.refl s
    · split
      · exact asksKept_of_standing (standing_modCtx s _ _)
      · split
        · exact asksKept_groupWrite s _ _ _ _
        · exact AsksKept.refl s
  · split
    · split
      · exact asksKept_vctxSwitch s _ _
      · exact AsksKept.refl s
    · refine AsksKept.trans (asksKept_of_standing ?_) (asksKept_groupWrite _ _ _ _ _)
      split <;> simp

theorem asksKept_applyHeld (s : State) (n : Nat) : AsksKept s (applyHeld s n) :=
  (asksKept_of_standing (standing_modStn s n _)).trans
    (forAll_rel AsksKept.refl AsksKept.trans _ (fun u _ => asksKept_pageWriteNow u _ _ _) _ _)

/-! ## Re-offers that an enable asks for -/

theorem reOfferUnits_of_standing (h : t.standing wp true true wm wa = s.standing wp true true wm wa) (d : Dest) : reOfferUnits t d = reOfferUnits s d := by
  have hop : ∀ k, t.op k = s.op k := op_of_outs (standing_dies h)
  have hqueues : t.queues = s.queues := (standing_stores h).1
  have hpop : ∀ k, populated t k = populated s k := standing_populated h
  have hroute : ∀ q, routedTo t d q = routedTo s d q := fun q => by
    unfold routedTo resolve awayFor fallback dieMarked
    simp only [hop]
  unfold reOfferUnits outpostsOf dieAway
  simp only [hop, hqueues, hroute, funext hpop]

/-- A re-offer goes to every unit that may hold a queue for its place (R170). -/
theorem sendReOffer_sent (s : State) (u : Nat) (c : Option Nat) (d : Dest) : ∀ v ∈ reOfferUnits s d, Sent (sendReOffer s u c d) (.reOffer d v none) := by
  intro v hv
  have hlist := forAll_sent (m := fun v => Msg.reOffer d v none) (f := fun t v =>
    sendFrom t c (.reOffer d v none) (if v = u then none else upFrom u) (if v = u ∨ v = 12 then none else some v))
    (fun _ _ => onlySent_sendFrom _ _ _ _ _) (fun _ _ => sent_sendFrom _ _ _ _ _) (reOfferUnits s d) s v hv
  exact (onlySent_bump _ c 0x32).sent hlist

/-- Every station of a list has its re-offer, where each step sends its own and keeps those of the others. -/
theorem forAll_asks {f : State → Nat → State} {ns : List Nat} {n : Nat}
    (hstand : ∀ u m, (f u m).standing false true true false false = u.standing false true true false false)
    (hkept : ∀ u m, AsksKept u (f u m)) (hsent : ∀ u, ∀ v ∈ reOfferUnits u (.station n), Sent (f u n) (.reOffer (.station n) v none)) (hn : n ∈ ns) :
    ∀ v ∈ reOfferUnits s (.station n), Sent (forAll s ns f) (.reOffer (.station n) v none) := by
  intro v hv
  refine forAll_marks (P := fun u => u.standing false true true false false = s.standing false true true false false)
    (Q := fun u => Sent u (.reOffer (.station n) v none)) (fun u hu m _ => (hstand u m).trans hu) (fun u _ hq m _ => hkept u m _ _ _ hq) (fun u hu => ?_) rfl hn
  exact hsent u v (by rwa [reOfferUnits_of_standing hu])

/-- A cell as its enable leaves it, and as its disable does (R58, R60, R61). -/
def enabled (x : Cell) : Cell := { x with en := true, quiet := true }
def drained (x : Cell) : Cell := { x with en := false, quiet := false }

/-- What the enable of a delivery cell does for a station: held writes are applied and a re-offer is asked for (R61, R93). -/
def openStation (t : State) (n : Nat) : State :=
  sendReOffer (applyHeld (t.modStn n fun y => { y with wasOn := true }) n) (n / 48) (rankCell (applyHeld (t.modStn n fun y => { y with wasOn := true }) n) n) (.station n)

theorem standing_openStation (t : State) (n : Nat) : (openStation t n).standing wp ws wd wm false = t.standing wp ws wd wm false := by
  simp [openStation]

theorem asksKept_openStation (t : State) (n : Nat) : AsksKept t (openStation t n) :=
  ((asksKept_of_standing (standing_modStn t n _)).trans (asksKept_applyHeld _ n)).trans (onlySent_sendReOffer _ _ _ _).asksKept

theorem openStation_sent (t : State) (n : Nat) : ∀ v ∈ reOfferUnits t (.station n), Sent (openStation t n) (.reOffer (.station n) v none) := by
  intro v hv
  refine sendReOffer_sent _ _ _ _ v ?_
  rwa [reOfferUnits_of_standing (wp := false) (wm := false) (wa := false) ((standing_applyHeld _ n).trans (standing_modStn t n _))]

theorem cellStations_modCell (s : State) (c : Nat) (f : Cell → Cell) (hf : (f (s.cell c)).index = (s.cell c).index) :
    cellStations (s.modCell c f) c = cellStations s c := by
  unfold cellStations
  rw [cell_modCell, if_pos rfl, hf]

theorem enableCell_delivery {c : Nat} (hen : (s.cell c).en = false) (hrole : (s.cell c).role = roleDelivery) :
    enableCell s c = speedJudge s (reqWatchAll s (forAll (s.modCell c enabled) (cellStations s c) openStation)) := by
  rw [← cellStations_modCell s c enabled rfl]
  unfold enableCell
  simp only [hen, hrole, Bool.false_eq_true, if_false, if_true, show ¬roleDelivery = roleIntake by decide, show ¬roleDelivery = roleLedger by decide]
  rfl

theorem enableCell_rank {c : Nat} (hen : (s.cell c).en = false) (hrole : (s.cell c).role = roleRank) :
    ∃ u, OnlySent (forAll (s.modCell c enabled) (rankStations (s.modCell c enabled) c) fun u n => sendReOffer u (n / 48) (some c) (.station n)) u ∧
      enableCell s c = speedJudge s (reqWatchAll s u) := by
  unfold enableCell
  simp only [hen, hrole, Bool.false_eq_true, if_false, if_true, show ¬roleRank = roleIntake by decide, show ¬roleRank = roleLedger by decide,
    show ¬roleRank = roleDelivery by decide]
  exact ⟨_, forAll_rel OnlySent.refl OnlySent.trans _ (fun _ _ => onlySent_sendReOffer _ _ _ _) _ _, rfl⟩

/-- After an enable the requests of every station are watched and the speed judged; no re-offer is lost by that. -/
theorem asksKept_afterEnable (s0 s : State) : AsksKept s (speedJudge s0 (reqWatchAll s0 s)) :=
  (asksKept_of_standing (standing_reqWatchAll s0 s)).then (standing_speedJudge s0 _)

/-- A delivery cell that is enabled asks for the re-offers of its stations (R61, R170). -/
theorem enableCell_delivery_sent {c n : Nat} (hen : (s.cell c).en = false) (hrole : (s.cell c).role = roleDelivery) (hn : n ∈ cellStations s c) :
    ∀ u ∈ reOfferUnits s (.station n), Sent (enableCell s c) (.reOffer (.station n) u none) := by
  intro u hu
  rw [enableCell_delivery hen hrole]
  exact asksKept_afterEnable s _ _ _ _ (forAll_asks (s := s.modCell c enabled) (fun v m => standing_openStation v m) asksKept_openStation
    (fun v => openStation_sent v n) hn u hu)

/-- A rank cell that is enabled asks for the re-offers of the stations that it serves (R61, R170). -/
theorem enableCell_rank_sent {c n : Nat} (hen : (s.cell c).en = false) (hrole : (s.cell c).role = roleRank) (hn : n ∈ rankStations (s.modCell c enabled) c) :
    ∀ u ∈ reOfferUnits s (.station n), Sent (enableCell s c) (.reOffer (.station n) u none) := by
  intro u hu
  obtain ⟨v, hv, heq⟩ := enableCell_rank hen hrole
  rw [heq]
  exact asksKept_afterEnable s _ _ _ _ (hv.sent (forAll_asks (s := s.modCell c enabled) (fun v m => standing_sendReOffer v _ _ _)
    (fun v m => (onlySent_sendReOffer v _ _ _).asksKept) (fun v => sendReOffer_sent v _ _ _) hn u hu))

/-! ## What an enable and a drain leave -/

theorem side_enable {x y : Cell} (h : x.side = y.side) : x.en = y.en ∧ x.quiet = y.quiet ∧ x.enKept = y.enKept := by
  simp only [Cell.side, Prod.mk.injEq] at h
  exact ⟨h.2.2.1, h.2.2.2.1, h.2.2.2.2.1⟩

theorem enableCell_en {c : Nat} (hen : (s.cell c).en = false) (d : Nat) :
    ((enableCell s c).cell d).en = ((s.modCell c enabled).cell d).en ∧ ((enableCell s c).cell d).quiet = ((s.modCell c enabled).cell d).quiet := by
  obtain ⟨he, hq, -⟩ := side_enable (standing_side (standing_enableCell (wp := true) (wd := false) (wm := false) hen) d)
  exact ⟨he, hq⟩

theorem disableCell_en {c : Nat} (hen : (s.cell c).en = true) (d : Nat) :
    ((disableCell s c).cell d).en = ((s.modCell c drained).cell d).en ∧ ((disableCell s c).cell d).quiet = ((s.modCell c drained).cell d).quiet ∧
      ((disableCell s c).cell d).enKept = ((s.modCell c drained).cell d).enKept :=
  side_enable (standing_side (standing_disableCell (wp := true) (ws := false) (wd := false) (wm := false) (wa := false) hen) d)

theorem disableCell_sameQueues {c : Nat} (hen : (s.cell c).en = true) : SameQueues s (disableCell s c) := by
  have h := standing_stores (standing_disableCell (wp := false) (ws := true) (wd := false) (wm := false) (wa := false) hen)
  exact h

/-! ## The seats of a station that drains -/

theorem OnlySent.stns_eq (h : OnlySent s t) : t.stns = s.stns := by rw [h.rest]

theorem grp_of_stns (h : t.stns = s.stns) (n : Nat) (g : Grp) : t.grp n g = s.grp n g := by
  unfold State.grp State.stn
  rw [h]

theorem stns_reportLoad (s : State) (n : Nat) (g : Grp) : (reportLoad s n g).stns = s.stns := by
  unfold reportLoad
  exact (onlySent_sendFrom _ _ _ _ _).stns_eq

theorem stns_giveBacks (s : State) (xs : List Seat) (n : Nat) : (forAll s xs fun x y => giveBack x y.cand true n).stns = s.stns :=
  forAll_rel (R := fun s t => t.stns = s.stns) (fun _ => rfl) (fun h1 h2 => h2.trans h1) _ (fun _ _ => (onlySent_sendFrom _ _ _ _ _).stns_eq) xs s

/-- A group of a station as its drain leaves it (R61). -/
def Group.empty (x : Group) : Group := { x with seats := [], park := false }

theorem grp_drainSeats (s : State) (n m : Nat) (g h : Grp) :
    (drainSeats s n (tourOf g)).grp m h = if m = n ∧ h = g then (s.grp n g).empty else s.grp m h := by
  have hgroups : ∀ u : State, u = ((s.modGrp n g fun x => { x with seats := [] }).modGrp n g fun x => { x with park := false }) →
      u.grp m h = if m = n ∧ h = g then (s.grp n g).empty else s.grp m h := by
    rintro u rfl
    by_cases hm : m = n ∧ h = g
    · simp [grp_modGrp, hm, Group.empty]
    · simp [grp_modGrp, hm]
  unfold drainSeats
  cases g <;> dsimp only [tourOf, reportTour, setPark, putSeats] <;> rw [grp_of_stns (stns_reportLoad _ _ _), grp_of_stns (stns_giveBacks _ _ _), hgroups _ rfl]

/-- Both groups of a station are drained. -/
def drainStation (t : State) (n : Nat) : State := drainSeats (drainSeats t n .normal) n .secure

theorem grp_drainStation (s : State) (n m : Nat) (h : Grp) : (drainStation s n).grp m h = if m = n then (s.grp n h).empty else s.grp m h := by
  rw [drainStation, show Tour.normal = tourOf .normal from rfl, show Tour.secure = tourOf .secure from rfl, grp_drainSeats, grp_drainSeats, grp_drainSeats]
  cases h <;> by_cases hm : m = n <;> simp [hm]

/-- The seats of every group are the same. -/
def SameSeats (s t : State) : Prop := ∀ n g, (t.grp n g).seats = (s.grp n g).seats

theorem SameSeats.refl (s : State) : SameSeats s s := fun _ _ => rfl
theorem SameSeats.trans {u : State} (h : SameSeats s t) (h' : SameSeats t u) : SameSeats s u := fun n g => (h' n g).trans (h n g)
theorem sameSeats_of_stns (h : t.stns = s.stns) : SameSeats s t := fun n g => by rw [grp_of_stns h]

theorem sameSeats_modGrp (s : State) (n : Nat) (g : Grp) {f : Group → Group} (hf : (f (s.grp n g)).seats = (s.grp n g).seats) : SameSeats s (s.modGrp n g f) := by
  intro m h
  rw [grp_modGrp]
  split
  · next hm => rw [hf, hm.1, hm.2]
  · rfl

theorem stns_raise (s : State) (code unit : Nat) (sec : Bool) (a0 a1 a2 : Word) : (raise s code unit sec a0 a1 a2 none).stns = s.stns := by
  have hlog : ∀ u : State, (log u code unit sec a0 a1 a2).stns = u.stns := fun _ => rfl
  have hhub : ∀ u : State, (raiseHub u code 0).stns = u.stns := fun _ => rfl
  have htouch : ∀ (u : State) (p : Nat), (touch u p).stns = u.stns := fun u p => by unfold touch; split <;> rfl
  unfold raise
  simp only [hlog]
  split <;> split <;> simp [htouch, hhub, apply_ite State.stns]

theorem sameSeats_speedNote (s0 s : State) : SameSeats s (speedNote s0 s) := by
  obtain ⟨h, heq⟩ := speedNote_eq s0 s
  rw [heq]
  exact SameSeats.refl s

theorem stns_revokeWord (s : State) (c w : Nat) : (revokeWord s c w).stns = s.stns := by
  refine forAll_rel (R := fun s t => t.stns = s.stns) (fun _ => rfl) (fun h1 h2 => h2.trans h1) _ (fun u key => ?_) _ s
  dsimp only
  split
  · exact (onlySent_sendFrom _ _ _ _ _).stns_eq
  · rfl

/-- A safe value that is taken over unseats nothing (R81). -/
theorem sameSeats_takeSafe (s : State) (off : Nat) : SameSeats s (takeSafe s off).2 := by
  unfold takeSafe
  simp only
  repeat' split
  case h_2 => exact sameSeats_modGrp s _ _ rfl
  case h_2 => exact sameSeats_modGrp s _ _ rfl
  case h_3 => exact sameSeats_modGrp s _ _ rfl
  all_goals exact sameSeats_of_stns (by simp [stns_revokeWord])

theorem sameSeats_parityCheck (s : State) (off : Nat) : SameSeats s (parityCheck s off) := by
  unfold parityCheck
  split
  · refine SameSeats.trans ?_ (sameSeats_speedNote _ _)
    refine SameSeats.trans ?_ (sameSeats_of_stns (stns_raise _ _ _ _ _ _ _))
    exact sameSeats_takeSafe { s with parity := s.parity.filter (· ≠ off) } off
  · exact SameSeats.refl s

theorem sameSeats_rodParityAll (s : State) (cs : List Nat) : SameSeats s (rodParityAll s cs) := by
  unfold rodParityAll
  split
  · exact SameSeats.refl s
  · exact forAll_rel SameSeats.refl SameSeats.trans _ sameSeats_parityCheck _ s

theorem sameSeats_speedJudge (s0 s : State) : SameSeats s (speedJudge s0 s) := (sameSeats_rodParityAll s _).trans (sameSeats_speedNote _ _)

theorem disableCell_delivery {c : Nat} (hen : (s.cell c).en = true) (hrole : (s.cell c).role = roleDelivery) :
    disableCell s c = speedJudge s (forAll (s.modCell c drained) (cellStations s c) drainStation) := by
  rw [← cellStations_modCell s c drained rfl]
  unfold disableCell
  simp only [hen, hrole, Bool.not_true, Bool.false_eq_true, if_false, if_true]
  rfl

/-- The seats of a delivery cell's stations are empty as soon as it drains (R61). -/
theorem disableCell_seats {c n : Nat} (hen : (s.cell c).en = true) (hrole : (s.cell c).role = roleDelivery) (hn : n ∈ cellStations s c) (g : Grp) :
    ((disableCell s c).grp n g).seats = [] := by
  rw [disableCell_delivery hen hrole, sameSeats_speedJudge]
  refine forAll_marks (P := fun _ => True) (Q := fun u => (u.grp n g).seats = []) (fun _ _ _ _ => trivial) (fun u _ hu m _ => ?_) (fun u _ => ?_) trivial hn
  · rw [grp_drainStation]
    split
    · rfl
    · exact hu
  · rw [grp_drainStation, if_pos rfl]
    rfl

/-! ## The hub -/

theorem retryHolds_of_noHolds (h : NoHolds s) : retryHolds s = s := by
  have hnone : s.cells.filter (fun x => x.2.ledgerHold.isSome) = [] := List.filter_eq_nil_iff.mpr fun x hx => by simp [h x hx]
  unfold retryHolds
  rw [hnone]
  rfl

theorem freeIntakes_self (s : State) : freeIntakes s s = s := by
  have hnone : s.cells.filter (fun x => decide (x.2.role = roleIntake) && x.2.en && cellHeld s x.1 && !cellHeld s x.1) = [] :=
    List.filter_eq_nil_iff.mpr fun x _ => by cases cellHeld s x.1 <;> simp
  unfold freeIntakes
  rw [hnone]
  rfl

theorem answerHeld_of_none (h : ∀ x ∈ s.out.held, x.status = false) : answerHeld s = s := by
  have hnone : s.out.held.filter (·.status) = [] := List.filter_eq_nil_iff.mpr fun x hx => by simp [h x hx]
  unfold answerHeld
  rw [hnone]
  rfl

/-- HUB_EN rises where every non-spare hub cell is enabled, and the ring counts as usable again (R62). -/
theorem writeHubEn_rise (hen : s.hub.en = false) (hall : ∀ c ∈ workCells s 12, (s.cell c).en = true) (hholds : NoHolds s)
    (hheld : ∀ h ∈ s.out.held, h.status = false) :
    writeHubEn s true = { s with
      hub := { s.hub with en := true }
      fb := { s.fb with
        ringBad := false, wasFull := s.fb.wasFull && fbFull { s with hub := { s.hub with en := true }, fb := { s.fb with ringBad := false } } } } := by
  have hwork : (workCells s 12).all (fun c => (s.cell c).en) = true := List.all_eq_true.mpr hall
  unfold writeHubEn
  simp only [if_true, hen, Bool.false_eq_true, if_false, hwork]
  rw [retryHolds_of_noHolds, freeIntakes_self, answerHeld_of_none]
  · exact hheld
  · exact hholds

theorem writeHubEn_refused (hen : s.hub.en = false) (hsome : ∃ c ∈ workCells s 12, (s.cell c).en = false) :
    writeHubEn s true = s.modHub fun h => { h with enRefused := true } := by
  have hwork : (workCells s 12).all (fun c => (s.cell c).en) = false := by
    obtain ⟨c, hc, hoff⟩ := hsome
    exact List.all_eq_false.mpr ⟨c, hc, by simp [hoff]⟩
  unfold writeHubEn
  simp [hen, hwork]

/-- What the enable of a cell does (R58, R60, R61, R170). -/
theorem exec_cellEnable {c : Nat} {a : Acc} (hr : CellReady s c a) (hz : a.size = .b32) (hen : (s.cell c).en = false) (hcan : canEnable s c = true) :
    ∃ t, exec (.cellEnable c a) s = .next t ∧ (t.cell c).en = true ∧ (t.cell c).quiet = true ∧ t.out.err = false ∧
      (∀ d, d ≠ c → (t.cell d).en = (s.cell d).en) ∧
      ((s.cell c).role = roleDelivery → ∀ n ∈ cellStations s c, ∀ u ∈ reOfferUnits s (.station n), Sent t (.reOffer (.station n) u none)) ∧
      ((s.cell c).role = roleRank → ∀ n ∈ rankStations (s.modCell c enabled) c, ∀ u ∈ reOfferUnits s (.station n), Sent t (.reOffer (.station n) u none)) := by
  have hrow : exec (.cellEnable c a) s = .next (respond (enableCell s c) 0 false) := by
    refine (cellAccess_en 1 hr hz).trans ?_
    rw [writeCellEn, if_pos (by decide), if_pos hcan]
  have hcell : ∀ d, ((respond (enableCell s c) 0 false).cell d).en = ((s.modCell c enabled).cell d).en ∧
      ((respond (enableCell s c) 0 false).cell d).quiet = ((s.modCell c enabled).cell d).quiet := enableCell_en hen
  have hown : (s.modCell c enabled).cell c = enabled (s.cell c) := (cell_modCell s c c enabled).trans (if_pos rfl)
  refine ⟨_, hrow, ?_, ?_, rfl, fun d hd => ?_, fun hrole n hn u hu => enableCell_delivery_sent hen hrole hn u hu,
    fun hrole n hn u hu => enableCell_rank_sent hen hrole hn u hu⟩
  · rw [(hcell c).1, hown]
    rfl
  · rw [(hcell c).2, hown]
    rfl
  · rw [(hcell d).1, cell_modCell, if_neg hd]

/-- What the disable of an enabled cell does (R58, R61). -/
theorem exec_cellDisable {c : Nat} {a : Acc} (hr : CellReady s c a) (hz : a.size = .b32) (hen : (s.cell c).en = true) :
    ∃ t, exec (.cellDisable c a) s = .next t ∧ (t.cell c).en = false ∧ (t.cell c).quiet = false ∧
      (t.cell c).enKept = ((s.cell c).enKept && unitAway s (unitOf c)) ∧ t.out.err = false ∧ (∀ d, d ≠ c → (t.cell d).en = (s.cell d).en) ∧ SameQueues s t ∧
      ((s.cell c).role = roleDelivery → ∀ n ∈ cellStations s c, (t.stn n).norm.seats = [] ∧ (t.stn n).sec.seats = []) := by
  set kept : Cell → Cell := fun x => { x with enKept := x.enKept && unitAway s (unitOf c) } with hkept
  have hrow : exec (.cellDisable c a) s = .next (respond ((disableCell s c).modCell c kept) 0 false) := cellAccess_en 0 hr hz
  obtain ⟨he, hq, hk⟩ := disableCell_en hen c
  have hown : (s.modCell c drained).cell c = drained (s.cell c) := (cell_modCell s c c drained).trans (if_pos rfl)
  have hsame : (respond ((disableCell s c).modCell c kept) 0 false).cell c = kept ((disableCell s c).cell c) := (cell_modCell _ c c kept).trans (if_pos rfl)
  have hother : ∀ d, d ≠ c → (respond ((disableCell s c).modCell c kept) 0 false).cell d = (disableCell s c).cell d :=
    fun d hd => (cell_modCell _ c d kept).trans (if_neg hd)
  refine ⟨_, hrow, ?_, ?_, ?_, rfl, fun d hd => ?_, disableCell_sameQueues hen,
    fun hrole n hn => ⟨disableCell_seats hen hrole hn .normal, disableCell_seats hen hrole hn .secure⟩⟩
  · rw [hsame, hkept, he, hown]
    rfl
  · rw [hsame, hkept, hq, hown]
    rfl
  · rw [hsame, hkept]
    dsimp only
    rw [hk, hown]
    rfl
  · rw [hother d hd, (disableCell_en hen d).1, cell_modCell, if_neg hd]

/-- Settles O37: an enable and a drain change their own cell alone, the re-offers that an enable asks for stay under way, and HUB_EN rises or is
refused by the hub's non-spare cells. -/
theorem cellsAndHubAreEnabledAndDrained : Obligations.CellsAndHubAreEnabledAndDrained := by
  refine ⟨fun s c a hr hz => ⟨fun hen hcan => exec_cellEnable hr hz hen hcan, fun hen hcan => ?_, fun hen => exec_cellDisable hr hz hen, fun hen hin => ?_⟩,
    fun s a hs hz => ⟨fun hen hall hholds hheld => ?_, fun hen hsome => ?_, _, exec_hubEn false hs hz, rfl⟩⟩
  · refine ⟨_, (cellAccess_en 1 hr hz).trans ?_, rfl⟩
    rw [writeCellEn, if_pos (by decide), if_neg (by simp [hcan])]
  · refine ⟨_, (show execCellDrainDone c s = _ from if_neg ?_), rfl⟩
    simp [hen, hin]
  · refine ⟨_, exec_hubEn true hs hz, ?_⟩
    rw [writeHubEn_rise hen hall hholds hheld]
    refine ⟨rfl, rfl, fun hfull => ?_, rfl⟩
    exact (Bool.and_eq_true _ _ ▸ hfull : _ ∧ _).2
  · refine ⟨_, exec_hubEn true hs hz, ?_⟩
    rw [writeHubEn_refused hen hsome]
    rfl

end Sys2Proof.Machine
end

section
/-! SUPPORT. PLAT_LOAD, DATUM_COMMIT, ENABLE and DISABLE (R60, R61, R65, R70, R72, R77, R348). -/

namespace Sys2Proof.Machine
open Sys2Proof

variable {wp ws wd wm wa : Bool} {s t : State}

/-! ## Commands that end with OK -/

theorem parityAll_clean (h : s.parity = []) (offs : List Nat) : parityAll s offs = s := by
  refine forAll_keeps (P := fun u => u = s) (fun u hu off _ => ?_) rfl
  rw [hu, parityCheck, if_neg (by simp [h])]

/-- A command that Wairo takes, and that ends with OK, ends with what its row makes (R335). -/
theorem serveBox_ok {b : Box} {op : Nat} {f : Call → State → Res} (hw : Waits s b op) (hop : op ∈ opcodes) (hok : EndsOk f s b) :
    serveBox b op anyForm f s = .next (endCmd (f (callOf s b) s).st b cOk (f (callOf s b) s).resp) := by
  obtain ⟨hturn, hlist, hcode, hpar⟩ := hw
  unfold serveBox
  simp only [parityAll_clean hpar, hturn, hlist, hcode, hop, anyForm]
  rw [← show (f (callOf s b) s).code = cOk from hok]
  simp

theorem firstFail_none {cs : List (Bool × Nat)} (h : firstFail cs = none) : ∀ x ∈ cs, x.1 = false := by
  induction cs with
  | nil => simp
  | cons x cs ih =>
    obtain ⟨b, e⟩ := x
    cases b with
    | true => simp [firstFail] at h
    | false => exact List.forall_mem_cons.mpr ⟨rfl, ih (by simpa [firstFail] using h)⟩

theorem firstFail_mem {cs : List (Bool × Nat)} {e : Nat} (h : firstFail cs = some e) : ∃ x ∈ cs, x.2 = e := by
  induction cs with
  | nil => simp [firstFail] at h
  | cons x cs ih =>
    obtain ⟨b, d⟩ := x
    cases b with
    | true => exact ⟨_, List.mem_cons_self, by simpa [firstFail] using h⟩
    | false =>
      obtain ⟨y, hy, hye⟩ := ih (by simpa [firstFail] using h)
      exact ⟨y, List.mem_cons_of_mem _ hy, hye⟩

/-- A command whose checks fail with codes of their own has passed them all where it ends with OK. -/
theorem checked_ok {c : Call} {ms : List Word} {cs : List (Bool × Nat)} {f : Unit → Res} (hcs : ∀ x ∈ cs, x.2 ≠ cOk) (h : (checked c ms cs s f).code = cOk) :
    checked c ms cs s f = f () ∧ ∀ x ∈ cs, x.1 = false := by
  unfold checked at h ⊢
  cases hf : firstFail ((!zerosOk c ms, cBadArg) :: cs) with
  | some e =>
    rw [hf] at h
    obtain ⟨x, hx, rfl⟩ := firstFail_mem hf
    rcases List.mem_cons.mp hx with rfl | hx
    · exact absurd h (by simp [failWith, cBadArg, cOk])
    · exact absurd h (hcs x hx)
  | none => exact ⟨rfl, fun x hx => firstFail_none hf x (List.mem_cons_of_mem _ hx)⟩

/-! ## ENABLE -/

theorem canEnable_of_side {c : Nat} (h : (t.cell c).side = (s.cell c).side) : canEnable t c = canEnable s c := by
  simp only [Cell.side, Prod.mk.injEq] at h
  obtain ⟨hplat, -, -, -, -, hdatum, hfenced, hbist, hunserved⟩ := h
  unfold canEnable Cell.role
  simp only [hplat, hdatum, hfenced, hbist, hunserved]

theorem canEnable_modCell {c : Nat} {f : Cell → Cell} (hf : (f (s.cell c)).plat = (s.cell c).plat ∧ (f (s.cell c)).datum = (s.cell c).datum ∧
    (f (s.cell c)).fenced = (s.cell c).fenced ∧ (f (s.cell c)).bist = (s.cell c).bist ∧ (f (s.cell c)).unserved = (s.cell c).unserved) (d : Nat) :
    canEnable (s.modCell c f) d = canEnable s d := by
  obtain ⟨hplat, hdatum, hfenced, hbist, hunserved⟩ := hf
  unfold canEnable Cell.role
  simp only [cell_modCell]
  split
  · next h => rw [h, hplat, hdatum, hfenced, hbist, hunserved]
  · rfl

/-- A write of CELL_EN changes no cell's answer to the test of R60. -/
theorem canEnable_writeCellEn (s : State) (c d : Nat) : canEnable (writeCellEn s c true) d = canEnable s d := by
  unfold writeCellEn
  rw [if_pos rfl]
  split
  · cases hen : (s.cell c).en with
    | true => rw [show enableCell s c = s by simp [enableCell, hen]]
    | false =>
      have hside := standing_side (standing_enableCell (wp := true) (wd := false) (wm := false) hen) d
      exact (canEnable_of_side hside).trans (canEnable_modCell ⟨rfl, rfl, rfl, rfl, rfl⟩ d)
  · exact canEnable_modCell ⟨rfl, rfl, rfl, rfl, rfl⟩ d

theorem writeCellEn_en {c d : Nat} (hcan : canEnable s d = true) : ((writeCellEn s d true).cell c).en = ((s.cell c).en || decide (c = d)) := by
  unfold writeCellEn
  rw [if_pos rfl, if_pos hcan]
  cases hen : (s.cell d).en with
  | true =>
    rw [show enableCell s d = s by simp [enableCell, hen]]
    by_cases h : c = d <;> simp [h, hen]
  | false =>
    rw [(enableCell_en hen c).1, cell_modCell]
    by_cases h : c = d <;> simp [h, enabled]

/-- Every cell of the range passes the test of R60, in whatever order they are enabled. -/
theorem enableRange_en {cs : List Nat} (hall : ∀ d ∈ cs, canEnable s d = true) {c : Nat} (hc : c ∈ cs) :
    ((forAll s cs fun u d => writeCellEn u d true).cell c).en = true := by
  refine forAll_marks (P := fun u => ∀ d, canEnable u d = canEnable s d) (Q := fun u => (u.cell c).en = true) (fun u hu d _ e => ?_) (fun u hu hq d hd => ?_)
    (fun u hu => ?_) (fun _ => rfl) hc
  · rw [canEnable_writeCellEn, hu]
  · rw [writeCellEn_en ((hu d).trans (hall d hd)), hq, Bool.true_or]
  · rw [writeCellEn_en ((hu c).trans (hall c hc))]
    simp

theorem cmdEnable_ok {b : Box} (hok : EndsOk cmdEnable s b) : (cmdEnable (callOf s b) s).resp = [w32 (rangeCells s (callOf s b)).length, 0, 0x7FF] ∧
    (cmdEnable (callOf s b) s).st = forAll s (rangeCells s (callOf s b)) (fun u d => writeCellEn u d true) ∧
    ∀ d ∈ rangeCells s (callOf s b), canEnable s d = true := by
  obtain ⟨heq, -⟩ := checked_ok (by simp [cBadArg, cNoResource, cOk]) hok
  have hcode : (cmdEnable (callOf s b) s).code = cOk := hok
  unfold cmdEnable at hcode ⊢
  rw [heq] at hcode ⊢
  have hnone : (rangeCells s (callOf s b)).filter (fun d => !canEnable s d) = [] := by
    by_contra hne
    simp [hne, cDenied, cOk] at hcode
  refine ⟨by simp [hnone, w32], rfl, fun d hd => ?_⟩
  simpa using List.filter_eq_nil_iff.mp hnone d hd

/-! ## DISABLE -/

theorem writeCellEn_off (s : State) (c d : Nat) : ((writeCellEn s d false).cell c).en = ((s.cell c).en && !decide (c = d)) ∧
    ((writeCellEn s d false).cell c).quiet = ((s.cell c).quiet && !(decide (c = d) && (s.cell c).en)) := by
  unfold writeCellEn
  rw [if_neg (by decide), cell_modCell]
  have hcell : ((disableCell s d).cell c).en = ((s.cell c).en && !decide (c = d)) ∧
      ((disableCell s d).cell c).quiet = ((s.cell c).quiet && !(decide (c = d) && (s.cell c).en)) := by
    cases hen : (s.cell d).en with
    | false =>
      rw [show disableCell s d = s by simp [disableCell, hen]]
      by_cases h : c = d <;> simp [h, hen]
    | true =>
      obtain ⟨he, hq, -⟩ := disableCell_en hen c
      rw [he, hq, cell_modCell]
      by_cases h : c = d <;> simp [h, hen, drained]
  split
  · next h =>
    subst h
    exact hcell
  · exact hcell

theorem side_role {x y : Cell} (h : x.side = y.side) : x.role = y.role := by
  unfold Cell.role
  rw [show x.plat = y.plat from congrArg Prod.fst h]

theorem role_writeCellEn_off (s : State) (c d : Nat) : ((writeCellEn s d false).cell c).role = (s.cell c).role := by
  have hmod : ∀ (u : State) (f : Cell → Cell), (∀ x, (f x).role = x.role) → ((u.modCell d f).cell c).role = (u.cell c).role := by
    intro u f hf
    rw [cell_modCell]
    split
    · next h => rw [hf, h]
    · rfl
  unfold writeCellEn
  rw [if_neg (by decide)]
  refine (hmod _ (fun x => { x with enKept := x.enKept && unitAway s (unitOf d) }) fun _ => rfl).trans ?_
  cases hen : (s.cell d).en with
  | false => rw [show disableCell s d = s by simp [disableCell, hen]]
  | true =>
    rw [side_role (standing_side (standing_disableCell (wp := true) (ws := false) (wd := false) (wm := false) (wa := false) hen) c)]
    exact hmod s _ fun _ => rfl

theorem sameQueues_writeCellEn_off (s : State) (d : Nat) : SameQueues s (writeCellEn s d false) := by
  unfold writeCellEn
  rw [if_neg (by decide)]
  cases hen : (s.cell d).en with
  | false => rw [show disableCell s d = s by simp [disableCell, hen]]; exact ⟨rfl, rfl, rfl, rfl, rfl⟩
  | true => exact disableCell_sameQueues hen

theorem tget_tmod_other {α : Type} (d : α) (f : α → α) (t : Tab α) {n m : Nat} (h : m ≠ n) : tget d (tmod n f t) m = tget d t m := by
  induction t with
  | nil => rfl
  | cons e t ih =>
    obtain ⟨k, v⟩ := e
    unfold tmod
    split
    · next hk => rw [tget, tget, if_neg (by omega), if_neg (by omega)]
    · rw [tget, tget, ih]

theorem tget_tmod_same {α : Type} (d : α) (f : α → α) {t : Tab α} {n : Nat} (h : n ∈ tkeys t) : tget d (tmod n f t) n = f (tget d t n) := by
  induction t with
  | nil => simp [tkeys] at h
  | cons e t ih =>
    obtain ⟨k, v⟩ := e
    unfold tmod
    split
    · next hk => rw [tget, tget, if_pos hk, if_pos hk]
    · next hk =>
      rw [tget, tget, if_neg hk, if_neg hk]
      exact ih ((List.mem_cons.mp h).resolve_left (Ne.symm hk))

theorem cell_markQuiet_other {c d : Nat} (h : c ≠ d) : (markQuiet s d).cell c = s.cell c := tget_tmod_other _ _ _ h

theorem cell_markQuiet_same {d : Nat} (h : (s.cell d).role ≠ 0) : (markQuiet s d).cell d = { s.cell d with quiet := true } :=
  tget_tmod_same _ _ (List.mem_map_of_mem (f := Prod.fst) (tget_mem h))

/-- But for its quiet mark a cell stays as it is. -/
theorem cell_markQuiet (s : State) (c d : Nat) : (markQuiet s d).cell c = { s.cell c with quiet := ((markQuiet s d).cell c).quiet } := by
  by_cases h : c = d
  · subst h
    by_cases hmem : c ∈ tkeys s.cells
    · rw [show (markQuiet s c).cell c = { s.cell c with quiet := true } from tget_tmod_same _ _ hmem]
    · have hsame : ∀ t : Tab Cell, c ∉ tkeys t → tmod c (fun x => { x with quiet := true }) t = t := by
        intro t ht
        induction t with
        | nil => rfl
        | cons e t ih =>
          obtain ⟨hne, hrest⟩ := not_or.mp (fun h => ht (List.mem_cons.mpr h))
          rw [tmod, if_neg (Ne.symm hne), ih hrest]
      rw [markQuiet, hsame _ hmem]
  · rw [cell_markQuiet_other h]

/-- What a search does not look at may change. -/
theorem find_tmod {α : Type} {p : Nat × α → Bool} {f : α → α} (hp : ∀ k v, p (k, f v) = p (k, v)) (d : Nat) (t : Tab α) :
    ((tmod d f t).find? p).map (·.1) = (t.find? p).map (·.1) := by
  induction t with
  | nil => rfl
  | cons e t ih =>
    obtain ⟨k, v⟩ := e
    unfold tmod
    split
    · simp only [List.find?_cons, hp]
      split <;> rfl
    · simp only [List.find?_cons]
      split
      · rfl
      · exact ih

theorem roleCell_markQuiet (s : State) (d u r i : Nat) : roleCell (markQuiet s d) u r i = roleCell s u r i :=
  find_tmod (α := Cell) (p := fun e => decide (unitOf e.1 = u) && decide (e.2.role = r) && decide (e.2.index = i)) (f := fun x => { x with quiet := true })
    (fun _ _ => rfl) d s.cells

theorem tokenInside_markQuiet (s : State) (c d : Nat) : tokenInside (markQuiet s d) c = tokenInside s c := by
  have hlink : ∀ k, linkCell (markQuiet s d) k = linkCell s k := fun k => roleCell_markQuiet s d k roleLink 0
  unfold tokenInside
  rw [cell_markQuiet]
  simp only [hlink]
  rfl

/-- The cells of the range once each has been drained. -/
def drainRange (s : State) (cs : List Nat) : State := forAll s cs fun u d => writeCellEn u d false

theorem drainRange_en {cs : List Nat} {c : Nat} (hc : c ∈ cs) : ((drainRange s cs).cell c).en = false := by
  refine forAll_marks (P := fun _ => True) (Q := fun u => (u.cell c).en = false) (fun _ _ _ _ => trivial) (fun u _ hq d _ => ?_) (fun u _ => ?_) trivial hc
  · rw [(writeCellEn_off u c d).1, hq, Bool.false_and]
  · rw [(writeCellEn_off u c c).1]
    simp

/-- A cell that was enabled is left draining, in whatever order. -/
theorem drainRange_quiet {cs : List Nat} {c : Nat} (hc : c ∈ cs) (hen : (s.cell c).en = true) : ((drainRange s cs).cell c).quiet = false := by
  refine forAll_marks (P := fun u => (u.cell c).en = true ∨ (u.cell c).quiet = false) (Q := fun u => (u.cell c).quiet = false) (fun u hu d _ => ?_)
    (fun u _ hq d _ => ?_) (fun u hu => ?_) (.inl hen) hc
  · rw [(writeCellEn_off u c d).1, (writeCellEn_off u c d).2]
    rcases hu with hu | hu
    · by_cases h : c = d
      · subst h
        simp [hu]
      · simp [h, hu]
    · simp [hu]
  · rw [(writeCellEn_off u c d).2, hq, Bool.false_and]
  · rw [(writeCellEn_off u c c).2]
    rcases hu with hu | hu <;> simp [hu]

theorem drainRange_role (cs : List Nat) (c : Nat) : ((drainRange s cs).cell c).role = (s.cell c).role := by
  refine forAll_keeps (P := fun u => (u.cell c).role = (s.cell c).role) (fun u hu d _ => Eq.trans ?_ hu) rfl
  exact role_writeCellEn_off u c d

theorem drainRange_sameQueues (cs : List Nat) : SameQueues s (drainRange s cs) := by
  refine forAll_rel (R := SameQueues) (fun _ => ⟨rfl, rfl, rfl, rfl, rfl⟩) (fun h1 h2 => ?_) _ sameQueues_writeCellEn_off cs s
  obtain ⟨hq, ht, hp, hf, hi⟩ := h1
  obtain ⟨hq', ht', hp', hf', hi'⟩ := h2
  exact ⟨hq'.trans hq, ht'.trans ht, hp'.trans hp, hf'.trans hf, hi'.trans hi⟩

/-- Of the drained cells those that hold no token are marked quiet (R61). -/
def quietRange (s : State) (cs : List Nat) : State := forAll s (cs.filter fun d => !tokenInside s d) markQuiet

theorem quietRange_tokenInside (s : State) (cs : List Nat) (c : Nat) : tokenInside (quietRange s cs) c = tokenInside s c :=
  forAll_keeps (P := fun u => tokenInside u c = tokenInside s c) (fun u hu d _ => (tokenInside_markQuiet u c d).trans hu) rfl

theorem quietRange_cell (s : State) (cs : List Nat) (c : Nat) : (quietRange s cs).cell c = { s.cell c with quiet := ((quietRange s cs).cell c).quiet } := by
  refine forAll_keeps (P := fun u => u.cell c = { s.cell c with quiet := (u.cell c).quiet }) (fun u hu d _ => ?_) rfl
  rw [cell_markQuiet, hu]

theorem quietRange_quiet {cs : List Nat} {c : Nat} (hc : c ∈ cs) (hrole : (s.cell c).role ≠ 0) (hin : tokenInside s c = false) :
    ((quietRange s cs).cell c).quiet = true := by
  refine forAll_marks (P := fun u => (u.cell c).role ≠ 0) (Q := fun u => (u.cell c).quiet = true) (fun u hu d _ => ?_) (fun u hu hq d _ => ?_) (fun u hu => ?_) hrole
    (List.mem_filter.mpr ⟨hc, by simp [hin]⟩)
  · rw [cell_markQuiet]
    exact hu
  · by_cases h : c = d
    · rw [← h, cell_markQuiet_same hu]
    · rwa [cell_markQuiet_other h]
  · rw [cell_markQuiet_same hu]

theorem quietRange_other {cs : List Nat} {c : Nat} (hin : tokenInside s c = true) : (quietRange s cs).cell c = s.cell c := by
  refine forAll_keeps (P := fun u => u.cell c = s.cell c) (fun u hu d hd => ?_) rfl
  have hne : c ≠ d := by
    rintro rfl
    simp [hin] at hd
  rw [cell_markQuiet_other hne, hu]

theorem cmdDisable_ok {b : Box} (hok : EndsOk cmdDisable s b) :
    (cmdDisable (callOf s b) s).st = quietRange (drainRange s (rangeCells s (callOf s b))) (rangeCells s (callOf s b)) ∧
      (cmdDisable (callOf s b) s).resp =
        [w32 ((rangeCells s (callOf s b)).filter fun d => !tokenInside (drainRange s (rangeCells s (callOf s b))) d).length] := by
  obtain ⟨heq, -⟩ := checked_ok (by simp [cBadArg, cOk]) hok
  unfold cmdDisable
  rw [heq]
  exact ⟨rfl, rfl⟩

theorem rangeCells_role {c : Call} {d : Nat} (h : d ∈ rangeCells s c) : (s.cell d).role ≠ 0 := by
  simp only [rangeCells, List.mem_filter, Bool.and_eq_true, decide_eq_true_eq] at h
  exact h.2.1

/-- What DISABLE leaves of the cells of its range (R60, R61). -/
theorem disable_effect {cs : List Nat} (hrole : ∀ c ∈ cs, (s.cell c).role ≠ 0) :
    (∀ c ∈ cs, ((quietRange (drainRange s cs) cs).cell c).en = false ∧
      (tokenInside (quietRange (drainRange s cs) cs) c = false → ((quietRange (drainRange s cs) cs).cell c).quiet = true) ∧
      ((s.cell c).en = true → tokenInside (quietRange (drainRange s cs) cs) c = true → ((quietRange (drainRange s cs) cs).cell c).quiet = false)) ∧
    SameQueues s (quietRange (drainRange s cs) cs) := by
  refine ⟨fun c hc => ⟨?_, fun hin => ?_, fun hen hin => ?_⟩, ?_⟩
  · rw [quietRange_cell]
    exact drainRange_en hc
  · rw [quietRange_tokenInside] at hin
    exact quietRange_quiet hc (by rw [drainRange_role]; exact hrole c hc) hin
  · rw [quietRange_tokenInside] at hin
    rw [quietRange_other hin]
    exact drainRange_quiet hc hen
  · have hmarks : SameQueues (drainRange s cs) (quietRange (drainRange s cs) cs) :=
      forAll_keeps (P := SameQueues (drainRange s cs)) (fun u hu d _ => hu) ⟨rfl, rfl, rfl, rfl, rfl⟩
    obtain ⟨hq, ht, hp, hf, hi⟩ := drainRange_sameQueues (s := s) cs
    obtain ⟨hq', ht', hp', hf', hi'⟩ := hmarks
    exact ⟨hq'.trans hq, ht'.trans ht, hp'.trans hp, hf'.trans hf, hi'.trans hi⟩

/-! ## DATUM_COMMIT -/

theorem arg_callOf (s : State) (b : Box) {i : Nat} (hi : i < 32) : (callOf s b).arg i = argOf s b i := by
  simp [callOf, Call.arg, argOf, hi]

theorem tget_map_key {α : Type} (d : α) (f : Nat → α → α) {t : Tab α} {n : Nat} (h : n ∈ tkeys t) :
    tget d (t.map fun e => (e.1, f e.1 e.2)) n = f n (tget d t n) := by
  induction t with
  | nil => simp [tkeys] at h
  | cons e t ih =>
    obtain ⟨k, v⟩ := e
    simp only [List.map_cons, tget]
    split
    · next hk => rw [hk]
    · next hk => exact ih ((List.mem_cons.mp h).resolve_left (Ne.symm hk))

/-- A slot as DATUM_COMMIT leaves it (R77). -/
def committed (s : State) (c : Nat) (x : Cell) : Cell :=
  if decide (x.role ≠ 0) && (decide (unitOf c = 12) || populated s (unitOf c)) then
    if canRead s c then { x with refVal := some x.localCrc, refBad := false, datum := 1, fenced := false } else { x with fenced := false }
  else { x with refVal := none, fenced := false }

/-- A commit that is accepted latches the slots and the value (R77). -/
theorem datumCommit_ok {arg : Word} (hpar : s.parity = []) (h : (datumCommit s arg).1 = 0) :
    (datumCommit s arg).2.1 = arg ∧ ∃ n ps, (datumCommit s arg).2.2 = { s with
      cells := s.cells.map fun e => (e.1, committed s e.1 e.2)
      parity := ps
      hub := { s.hub with datum := { s.hub.datum with ref := arg, last := arg, sweeps := n, committed := true, global := false } } } := by
  unfold datumCommit at h ⊢
  rw [hpar, show parityAll s [] = s from rfl] at h ⊢
  dsimp only at h ⊢
  split at h
  · exact absurd h (show ¬(0x01 : BitVec 8) = 0 by decide)
  · next hread =>
    split at h
    · exact absurd h (show ¬(0x02 : BitVec 8) = 0 by decide)
    · next hv =>
      rw [not_ne_iff] at hv
      rw [if_neg hread, if_neg (not_not.mpr hv), hv]
      exact ⟨rfl, _, _, rfl⟩

theorem committed_cell {c : Nat} (hcells : t.cells = s.cells.map fun e => (e.1, committed s e.1 e.2)) (hrole : (s.cell c).role ≠ 0) :
    t.cell c = committed s c (s.cell c) := by
  unfold State.cell
  rw [hcells]
  exact tget_map_key _ _ (List.mem_map_of_mem (f := Prod.fst) (tget_mem hrole))

theorem cmdDatumCommit_ok {b : Box} (hpar : s.parity = []) (hok : EndsOk cmdDatumCommit s b) :
    (cmdDatumCommit (callOf s b) s).resp = [argOf s b 0] ∧ (cmdDatumCommit (callOf s b) s).st = (datumCommit s (argOf s b 0)).2.2 ∧
      ∃ n ps, (datumCommit s (argOf s b 0)).2.2 = { s with
        cells := s.cells.map fun e => (e.1, committed s e.1 e.2)
        parity := ps
        hub := { s.hub with datum := { s.hub.datum with ref := argOf s b 0, last := argOf s b 0, sweeps := n, committed := true, global := false } } } := by
  obtain ⟨heq, -⟩ := checked_ok (by simp) hok
  have hcode : (cmdDatumCommit (callOf s b) s).code = cOk := hok
  unfold cmdDatumCommit at hcode ⊢
  rw [heq, arg_callOf s b (by decide)] at hcode
  rw [heq, arg_callOf s b (by decide)]
  have hzero : (datumCommit s (argOf s b 0)).1 = 0 := BitVec.eq_of_toNat_eq hcode
  obtain ⟨hval, heffect⟩ := datumCommit_ok hpar hzero
  exact ⟨congrArg (fun v => [v]) hval, rfl, heffect⟩

/-! ## Plat images -/

theorem unitOf_unitCells {u c : Nat} (hu : u ≤ 12) (h : c ∈ unitCells u) : unitOf c = u := by
  unfold unitCells at h
  obtain ⟨i, hi, rfl⟩ := List.mem_map.mp h
  have hlt := List.mem_range.mp hi
  unfold unitSize at hlt
  unfold unitOf unitFirst
  split <;> split at hlt <;> split <;> omega

theorem nodup_unitCells (u : Nat) : (unitCells u).Nodup := List.Nodup.map (fun _ _ h => Nat.add_left_cancel h) List.nodup_range

/-- No slot has two records in an image that passes the checks (R69). -/
theorem nodup_recordsFor (p : PlatImage) : (recordsFor p).Nodup := by
  have hunits : ∀ us : List Nat, us.Nodup → (∀ u ∈ us, u < 12) → (us.flatMap unitCells).Nodup := by
    intro us hnd hlt
    refine List.nodup_flatMap.mpr ⟨fun u _ => nodup_unitCells u, ?_⟩
    refine hnd.imp_of_mem fun {u v} hu hv hne c hcu hcv => hne ?_
    rw [← unitOf_unitCells (Nat.le_of_lt (hlt u hu)) hcu, unitOf_unitCells (Nat.le_of_lt (hlt v hv)) hcv]
  have hlt : ∀ u ∈ (List.range 12).filter fun u => p.unitMask.getLsbD u, u < 12 := fun u hu => List.mem_range.mp (List.mem_filter.mp hu).1
  refine List.Nodup.append ?_ (hunits _ (List.nodup_range.filter _) hlt) ?_
  · split
    · exact nodup_unitCells 12
    · exact List.nodup_nil
  · intro c hc hd
    obtain ⟨u, hu, hcu⟩ := List.mem_flatMap.mp hd
    have hhub : unitOf c = 12 := by
      split at hc
      · exact unitOf_unitCells (Nat.le_refl 12) hc
      · cases hc
    have := hlt u hu
    rw [unitOf_unitCells (by omega) hcu] at hhub
    omega

theorem platCheck_records {p : PlatImage} (h : (platCheck s p).isNone = true) : p.records.map (·.1) = recordsFor p := by
  by_contra hne
  unfold platCheck at h
  simp only [hne, ne_eq, not_false_eq_true, or_true, if_true] at h
  revert h
  repeat' split
  all_goals simp

/-! ## Writing a plat -/

/-- A plat write changes cells, the hub's block and the island alone, none of the enables and none of the plat store. -/
structure PlatFrame (s t : State) : Prop where
  rest : t = { s with cells := t.cells, hub := t.hub, isl := t.isl, parity := t.parity }
  parity : t.parity = []
  store : t.isl.store0 = s.isl.store0 ∧ t.isl.store1 = s.isl.store1
  en : ∀ c, (t.cell c).en = (s.cell c).en

/-- The plat regions and their shadows are the same. -/
def SamePlats (s t : State) : Prop := ∀ c, (t.cell c).plat = (s.cell c).plat ∧ (t.cell c).shadow = (s.cell c).shadow

theorem PlatFrame.refl (h : s.parity = []) : PlatFrame s s := ⟨rfl, h, ⟨rfl, rfl⟩, fun _ => rfl⟩
theorem PlatFrame.trans {u : State} (h : PlatFrame s t) (h' : PlatFrame t u) : PlatFrame s u :=
  ⟨by rw [h'.rest, h.rest], h'.parity, ⟨h'.store.1.trans h.store.1, h'.store.2.trans h.store.2⟩, fun c => (h'.en c).trans (h.en c)⟩
theorem SamePlats.refl (s : State) : SamePlats s s := fun _ => ⟨rfl, rfl⟩
theorem SamePlats.trans {u : State} (h : SamePlats s t) (h' : SamePlats t u) : SamePlats s u :=
  fun c => ⟨(h' c).1.trans (h c).1, (h' c).2.trans (h c).2⟩

/-- A step of a plat write that writes no plat region. -/
def PlatKept (s t : State) : Prop := PlatFrame s t ∧ SamePlats s t

theorem PlatKept.trans {u : State} (h : PlatKept s t) (h' : PlatKept t u) : PlatKept s u := ⟨h.1.trans h'.1, h.2.trans h'.2⟩
theorem PlatKept.refl (h : s.parity = []) : PlatKept s s := ⟨PlatFrame.refl h, SamePlats.refl s⟩

theorem platFrame_modCell (hp : s.parity = []) {c : Nat} {f : Cell → Cell} (hf : ∀ x, (f x).en = x.en) : PlatFrame s (s.modCell c f) := by
  refine ⟨rfl, hp, ⟨rfl, rfl⟩, fun d => ?_⟩
  rw [cell_modCell]
  split
  · next h => rw [hf, h]
  · rfl

theorem samePlats_modCell {c : Nat} {f : Cell → Cell} (hf : ∀ x, (f x).plat = x.plat ∧ (f x).shadow = x.shadow) : SamePlats s (s.modCell c f) := by
  intro d
  rw [cell_modCell]
  split
  · next h => rw [(hf _).1, (hf _).2, h]; exact ⟨rfl, rfl⟩
  · exact ⟨rfl, rfl⟩

/-- What changes no cell and neither the plat store nor a parity mismatch. -/
theorem platFrame_of_cells (hp : s.parity = []) (hrest : t = { s with hub := t.hub, isl := t.isl }) (hstore : t.isl.store0 = s.isl.store0 ∧ t.isl.store1 = s.isl.store1) :
    PlatKept s t := by
  have hcell : ∀ c, t.cell c = s.cell c := fun c => by rw [hrest]; rfl
  refine ⟨⟨?_, ?_, hstore, fun c => by rw [hcell]⟩, fun c => by rw [hcell]; exact ⟨rfl, rfl⟩⟩
  · rw [hrest]
  · rw [hrest]; exact hp

theorem plat_log (hp : s.parity = []) (code unit : Nat) (sec : Bool) (a0 a1 a2 : Word) :
    PlatKept s (log s code unit sec a0 a1 a2) := by
  refine platFrame_of_cells hp rfl ?_
  unfold log logTake State.modIsl
  dsimp only
  split <;> exact ⟨rfl, rfl⟩

theorem plat_speedJudge (hp : t.parity = []) (s : State) : PlatKept t (speedJudge s t) := by
  obtain ⟨h, heq⟩ := speedNote_eq (rodParityAll s (guardCells s)) t
  unfold speedJudge
  rw [rodParityAll_clean _ hp, heq]
  exact platFrame_of_cells hp rfl ⟨rfl, rfl⟩

theorem plat_journalPut (hp : s.parity = []) (off : Nat) (w : Word) : PlatKept s (journalPut s off w) :=
  platFrame_of_cells hp rfl ⟨rfl, rfl⟩

theorem plat_modCell (hp : s.parity = []) {c : Nat} {f : Cell → Cell} (hf : ∀ x, (f x).en = x.en ∧ (f x).plat = x.plat ∧ (f x).shadow = x.shadow) :
    PlatKept s (s.modCell c f) := ⟨platFrame_modCell hp fun x => (hf x).1, samePlats_modCell fun x => (hf x).2⟩

/-- A step that is a plat step in every state without a parity mismatch may be repeated. -/
theorem plat_forAll {α : Type} {f : State → α → State} (hf : ∀ u x, u.parity = [] → PlatKept u (f u x)) (hp : s.parity = []) (xs : List α) :
    PlatKept s (forAll s xs f) :=
  forAll_keeps (P := PlatKept s) (fun u hu x _ => hu.trans (hf u x hu.1.parity)) (PlatKept.refl hp)

theorem parityClear_clean (hp : s.parity = []) (off : Nat) : parityClear s off = s := by
  unfold parityClear
  rw [show s.parity.filter (· ≠ off) = s.parity by simp [hp]]

theorem plat_writeRod (s : State) (c : Nat) (hp : s.parity = []) : PlatKept s (writeRod s c) := by
  unfold writeRod
  dsimp only
  have hmod : PlatKept s (s.modCell c fun x => { x with coef := coefOf s (physOf s c), margin := marginOf s (s.cell c).hot, safeCoef := false, safeMargin := false }) :=
    plat_modCell hp fun _ => ⟨rfl, rfl, rfl⟩
  rw [parityClear_clean hmod.1.parity, parityClear_clean hmod.1.parity]
  have hfirst := hmod.trans (plat_journalPut hmod.1.parity (cellBase c + 0x100) (at_ 0 (coefOf s (physOf s c)).toNat))
  have hsecond := hfirst.trans (plat_journalPut hfirst.1.parity (cellBase c + 0x104) (at_ 0 (marginOf s (s.cell c).hot).toNat))
  exact hsecond.trans (plat_speedJudge hsecond.1.parity s)

theorem plat_writeTune (s : State) (c : Nat) (hp : s.parity = []) : PlatKept s (writeTune s c) := by
  unfold writeTune
  dsimp only
  rw [show s.parity.filter (fun o => !(decide (cellBase c + 0x10C ≤ o) && decide (o < cellBase c + 0x180))) = s.parity by simp [hp]]
  have hmod : PlatKept s (s.modCell c fun x => { x with tune := policyWords s c }) := plat_modCell hp fun _ => ⟨rfl, rfl, rfl⟩
  exact hmod.trans (plat_forAll (fun u i hu => plat_journalPut hu _ _) hmod.1.parity _)

/-- Two slots change places: their plat regions and enables stay. -/
theorem plat_swapPhys (hp : s.parity = []) (a b : Nat) : PlatKept s (swapPhys s a b) := by
  have hcell : ∀ c, ((swapPhys s a b).cell c).en = (s.cell c).en ∧ ((swapPhys s a b).cell c).plat = (s.cell c).plat ∧
      ((swapPhys s a b).cell c).shadow = (s.cell c).shadow := by
    intro c
    unfold swapPhys
    dsimp only
    rw [cell_setCell, cell_setCell]
    split
    · next h => rw [h]; exact ⟨rfl, rfl, rfl⟩
    · split
      · next h => rw [h]; exact ⟨rfl, rfl, rfl⟩
      · exact ⟨rfl, rfl, rfl⟩
  exact ⟨⟨rfl, hp, ⟨rfl, rfl⟩, fun c => (hcell c).1⟩, fun c => (hcell c).2⟩

theorem plat_substWith (spare : Nat → Bool) (hp : s.parity = []) (c : Nat) : PlatKept s (substWith spare s c) := by
  unfold substWith
  dsimp only
  split
  · next d _ =>
    have hswap := plat_swapPhys hp c d
    have hlog := hswap.trans (plat_log hswap.1.parity 0x84 (unitOf c) false (w32 c) (w32 (physOf s c)) (w32 (physOf s d)))
    have hrod := hlog.trans (plat_writeRod _ c hlog.1.parity)
    exact hrod.trans (plat_writeRod _ _ hrod.1.parity)
  · have hmod : PlatKept s (s.modCell c fun x => { x with unserved := true }) := plat_modCell hp fun _ => ⟨rfl, rfl, rfl⟩
    exact hmod.trans (plat_log hmod.1.parity _ _ _ _ _ _)

/-- The words of a record, as a plat region holds them (R70). -/
def recordWords (r : Nat × List Word) : Tab Word := (List.range 64).foldl (fun t i => putW t i (recW r i)) []

theorem getW_recordWords (r : Nat × List Word) {i : Nat} (hi : i < 64) : getW (recordWords r) i = recW r i := by
  have hfold : ∀ (is : List Nat) (t : Tab Word), i ∈ is ∨ getW t i = recW r i → getW (is.foldl (fun t i => putW t i (recW r i)) t) i = recW r i := by
    intro is
    induction is with
    | nil => simp
    | cons j is ih =>
      intro t h
      refine ih _ ?_
      unfold putW
      rw [getW_tset]
      by_cases hj : i = j
      · exact .inr (by rw [if_pos hj, hj])
      · rw [if_neg hj]
        simpa [hj] using h
  exact hfold _ _ (.inl (List.mem_range.mpr hi))

/-- A record is written to its slot alone. -/
theorem writeSlot_effect (p : PlatImage) (s : State) (r : Nat × List Word) (hp : s.parity = []) :
    PlatFrame s (writeSlot p s r) ∧ (∀ c, c ≠ r.1 → ((writeSlot p s r).cell c).plat = (s.cell c).plat ∧ ((writeSlot p s r).cell c).shadow = (s.cell c).shadow) ∧
      ((writeSlot p s r).cell r.1).plat = recordWords r ∧ ((writeSlot p s r).cell r.1).shadow = recordWords r := by
  have hsubst : ∀ (spare : Nat → Bool) (b : Prop) [Decidable b], PlatKept s (if b then substWith spare s r.1 else s) := by
    intro spare b _
    split
    · exact plat_substWith spare hp r.1
    · exact PlatKept.refl hp
  unfold writeSlot
  dsimp only
  set u : State := if recRole r ≠ 0 ∧ (s.cell r.1).bist = 2 then _ else s with hu
  have hkept : PlatKept s u := hsubst _ _
  refine ⟨hkept.1.trans (platFrame_modCell hkept.1.parity fun _ => rfl), fun c hc => ?_, ?_, ?_⟩
  · rw [cell_modCell, if_neg hc]
    exact hkept.2 c
  · rw [cell_modCell, if_pos rfl]
    rfl
  · rw [cell_modCell, if_pos rfl]
    rfl

/-- The records of an image that are written one after the other, each to a slot of its own. -/
theorem forAll_writeSlot (p : PlatImage) (hp : s.parity = []) {rs : List (Nat × List Word)} (hnd : (rs.map (·.1)).Nodup) :
    PlatFrame s (forAll s rs (writeSlot p)) ∧
      ∀ r ∈ rs, ((forAll s rs (writeSlot p)).cell r.1).plat = recordWords r ∧ ((forAll s rs (writeSlot p)).cell r.1).shadow = recordWords r := by
  have hframe : ∀ u, PlatFrame s u → ∀ r ∈ rs, PlatFrame s (writeSlot p u r) := fun u hu r _ => hu.trans (writeSlot_effect p u r hu.parity).1
  refine ⟨forAll_keeps hframe (PlatFrame.refl hp), fun r hr => ?_⟩
  refine forAll_marks (P := PlatFrame s) (Q := fun u => (u.cell r.1).plat = recordWords r ∧ (u.cell r.1).shadow = recordWords r) hframe
    (fun u hu hq q hmem => ?_) (fun u hu => (writeSlot_effect p u r hu.parity).2.2) (PlatFrame.refl hp) hr
  obtain ⟨-, hother, hown⟩ := writeSlot_effect p u q hu.parity
  by_cases hrq : r.1 = q.1
  · rw [List.inj_on_of_nodup_map hnd hr hmem hrq]
    exact hown
  · rw [(hother _ hrq).1, (hother _ hrq).2]
    exact hq

/-- The slots of a state whose references the write of a plat with another reference value takes away (R70, R77). -/
def unreferenced (x : Cell) : Cell :=
  if x.role = 0 then { x with refVal := none, refBad := false, datum := 3 } else { x with refVal := none, refBad := false, datum := 0 }
def unreference (s : State) : State := { s with cells := s.cells.map fun e => (e.1, unreferenced e.2), parity := s.parity.filter (· < 2 ^ 27) }

theorem plat_unreference (hp : s.parity = []) : PlatKept s (unreference s) := by
  have hcell : ∀ c, ((unreference s).cell c).en = (s.cell c).en ∧ ((unreference s).cell c).plat = (s.cell c).plat ∧
      ((unreference s).cell c).shadow = (s.cell c).shadow := by
    refine fun c => tget_map (d := ({} : Cell)) (P := fun x y => y.en = x.en ∧ y.plat = x.plat ∧ y.shadow = x.shadow) (f := fun e => (e.1, unreferenced e.2))
      (fun _ => rfl) ⟨rfl, rfl, rfl⟩ (fun e => ?_) s.cells c
    dsimp only [unreferenced]
    split <;> exact ⟨rfl, rfl, rfl⟩
  refine ⟨⟨rfl, ?_, ⟨rfl, rfl⟩, fun c => (hcell c).1⟩, fun c => (hcell c).2⟩
  simp [unreference, hp]

/-- What the write of a plat makes of the slots, and of the hub's block where that is written (R70). -/
theorem platWrite_effect (p : PlatImage) (cs : Nat → Bool) (hub : Bool) (hp : s.parity = []) (hnd : (p.records.map (·.1)).Nodup) :
    PlatFrame s (platWrite s p cs hub) ∧
      (∀ r ∈ p.records, cs r.1 = true → ((platWrite s p cs hub).cell r.1).plat = recordWords r ∧ ((platWrite s p cs hub).cell r.1).shadow = recordWords r) ∧
      (hub = true → (platWrite s p cs hub).hub.platId = p.platId ∧ (platWrite s p cs hub).hub.compact = decide (p.decode = 1) ∧
        (platWrite s p cs hub).hub.staged = true) := by
  set rs := p.records.filter fun r => cs r.1 with hrs
  have hnd' : (rs.map (·.1)).Nodup := hnd.sublist (List.filter_sublist.map _)
  obtain ⟨hframe, hwords⟩ := forAll_writeSlot p hp hnd'
  have htunes := plat_forAll (fun u c hu => plat_writeTune u c hu) hframe.parity (rs.map (·.1))
  set v := forAll (forAll s rs (writeSlot p)) (rs.map (·.1)) writeTune with hv
  set w : State := if hub then v.modHub fun h => { h with platId := p.platId, compact := decide (p.decode = 1), staged := true } else v with hw
  have hhub : PlatKept v w := by
    rw [hw]
    split
    · exact platFrame_of_cells htunes.1.parity rfl ⟨rfl, rfl⟩
    · exact PlatKept.refl htunes.1.parity
  have hplat : platWrite s p cs hub = if w.hub.datum.committed ∧ p.datumRef = w.hub.datum.ref then w else unreference w := rfl
  have hlast : PlatKept w (platWrite s p cs hub) ∧ (platWrite s p cs hub).hub = w.hub := by
    rw [hplat]
    split
    · exact ⟨PlatKept.refl hhub.1.parity, rfl⟩
    · exact ⟨plat_unreference hhub.1.parity, rfl⟩
  have hall : PlatKept (forAll s rs (writeSlot p)) (platWrite s p cs hub) := (htunes.trans hhub).trans hlast.1
  refine ⟨hframe.trans hall.1, fun r hr hsel => ?_, fun hon => ?_⟩
  · obtain ⟨hplat', hshadow⟩ := hall.2 r.1
    obtain ⟨hwplat, hwshadow⟩ := hwords r (List.mem_filter.mpr ⟨hr, hsel⟩)
    exact ⟨hplat'.trans hwplat, hshadow.trans hwshadow⟩
  · rw [hlast.2, hw, hon]
    exact ⟨rfl, rfl, rfl⟩

/-! ## Outposts that a plat write leaves UNSERVED -/

theorem unitUnserved_iff {u : Nat} : unitUnserved s u = true ↔ ∃ c, unitOf c = u ∧ (s.cell c).unserved = true ∧ listed s.cells c := by
  simp only [unitUnserved, workCells, List.any_eq_true, List.mem_map, List.mem_filter, Bool.and_eq_true, decide_eq_true_eq, Prod.exists, exists_and_right, exists_eq_right, listed]
  exact ⟨fun ⟨c, ⟨x, hx, hunit, hrole⟩, hun⟩ => ⟨c, hunit, hun, x, hx, hrole⟩, fun ⟨c, hunit, hun, x, hx, hrole⟩ => ⟨c, ⟨x, hx, hunit, hrole⟩, hun⟩⟩

/-- The loss of outposts keeps the plat: its regions, what is UNSERVED, the hub's block and the plat store. -/
structure LossKeeps (s t : State) : Prop where
  plats : SamePlats s t
  unserved : ∀ c, ((t.cell c).unserved = true ∧ listed t.cells c) ↔ ((s.cell c).unserved = true ∧ listed s.cells c)
  hub : t.hub.platId = s.hub.platId ∧ t.hub.compact = s.hub.compact ∧ t.hub.staged = s.hub.staged
  store : t.isl.store0 = s.isl.store0 ∧ t.isl.store1 = s.isl.store1
  populated : ∀ k, populated t k = populated s k

theorem LossKeeps.refl (s : State) : LossKeeps s s := ⟨SamePlats.refl s, fun _ => Iff.rfl, ⟨rfl, rfl, rfl⟩, ⟨rfl, rfl⟩, fun _ => rfl⟩
theorem LossKeeps.trans {u : State} (h : LossKeeps s t) (h' : LossKeeps t u) : LossKeeps s u where
  plats := h.plats.trans h'.plats
  unserved c := (h'.unserved c).trans (h.unserved c)
  hub := ⟨h'.hub.1.trans h.hub.1, h'.hub.2.1.trans h.hub.2.1, h'.hub.2.2.trans h.hub.2.2⟩
  store := ⟨h'.store.1.trans h.store.1, h'.store.2.trans h.store.2⟩
  populated k := (h'.populated k).trans (h.populated k)

theorem LossKeeps.unitUnserved (h : LossKeeps s t) (u : Nat) : unitUnserved t u = unitUnserved s u :=
  Bool.eq_iff_iff.mpr (unitUnserved_iff.trans ((exists_congr fun c => and_congr_right fun _ => h.unserved c).trans unitUnserved_iff.symm))

theorem standing_plat (h : t.standing true ws wd wm wa = s.standing true ws wd wm wa) : platSide t.hub t.isl t.cells = platSide s.hub s.isl s.cells := by
  simpa [State.standing, standingOf] using congrArg (·.2.1) h

theorem lossKeeps_of_standing (h : t.standing true ws wd wm wa = s.standing true ws wd wm wa) : LossKeeps s t := by
  have hplat := standing_plat h
  simp only [platSide, Prod.mk.injEq] at hplat
  obtain ⟨-, hid, hcompact, hstaged, h0, h1, hslots⟩ := hplat
  refine ⟨fun c => ?_, fun c => iff_of_eq (congrArg Prod.snd (congrFun hslots c)), ⟨hid, hcompact, hstaged⟩, ⟨h0, h1⟩, standing_populated h⟩
  have hside := standing_side h c
  simp only [Cell.side, Prod.mk.injEq] at hside
  exact ⟨hside.1, hside.2.1⟩

theorem lossKeeps_lostDie (s : State) (k : Nat) : LossKeeps s (lostDie s k) := by
  have hcell : ∀ c, ((lostDie s k).cell c).plat = (s.cell c).plat ∧ ((lostDie s k).cell c).shadow = (s.cell c).shadow ∧
      ((lostDie s k).cell c).unserved = (s.cell c).unserved := by
    refine fun c => tget_map (d := ({} : Cell)) (P := fun x y => y.plat = x.plat ∧ y.shadow = x.shadow ∧ y.unserved = x.unserved)
      (f := fun e => (e.1, if unitOf e.1 = k then { e.2 with enKept := e.2.en || e.2.enKept, en := false, quiet := true } else e.2))
      (fun _ => rfl) ⟨rfl, rfl, rfl⟩ (fun e => ?_) s.cells c
    dsimp only
    split <;> exact ⟨rfl, rfl, rfl⟩
  have hlisted : ∀ c, listed (lostCells k s.cells) c ↔ listed s.cells c := by
    intro c
    simp only [listed, lostCells, List.mem_map, Prod.mk.injEq, Prod.exists]
    constructor
    · rintro ⟨_, ⟨_, x, hx, rfl, rfl⟩, hrole⟩
      exact ⟨x, hx, by split at hrole <;> exact hrole⟩
    · rintro ⟨x, hx, hrole⟩
      exact ⟨_, ⟨c, x, hx, rfl, rfl⟩, by split <;> exact hrole⟩
  refine ⟨fun c => ⟨(hcell c).1, (hcell c).2.1⟩, fun c => ?_, ⟨rfl, rfl, rfl⟩, ⟨rfl, rfl⟩, fun _ => rfl⟩
  rw [(hcell c).2.2]
  exact and_congr_right fun _ => hlisted c

theorem lossKeeps_declareLost (s : State) (k : Nat) : LossKeeps s (declareLost s k) := by
  cases hp : populated s k with
  | false => rw [declareLost_absent hp]; exact LossKeeps.refl s
  | true =>
    cases hl : (s.op k).lost with
    | true => rw [declareLost_already hl]; exact LossKeeps.refl s
    | false => exact (lossKeeps_lostDie s k).trans (lossKeeps_of_standing (standing_declareLost_lost (wp := true) (wd := false) (wm := false) hp hl))

theorem declareLost_lost (s : State) {j k : Nat} (h : (s.op k).lost = true ∨ j = k ∧ populated s k = true) : ((declareLost s j).op k).lost = true := by
  by_cases hj : j = k
  · subst hj
    rw [declareLost_op]
    split
    · rfl
    · next hno =>
      rcases h with h | h
      · exact h
      · simpa [h.2] using hno
  · have hlost := h.resolve_right fun h' => hj h'.1
    cases hp : populated s j with
    | false => rwa [declareLost_absent hp]
    | true =>
      cases hl : (s.op j).lost with
      | true => rwa [declareLost_already hl]
      | false =>
        rw [op_of_outs (standing_dies (standing_declareLost_lost (wp := false) (wm := false) hp hl))]
        exact (congrArg Outpost.lost (op_modOp_other s lostMark (Ne.symm hj))).trans hlost

/-- A running outpost that is left with an UNSERVED slot is lost, and none else (R65). -/
theorem unservedLost_effect (s : State) : LossKeeps s (unservedLost s) ∧
    (∀ k, populated s k = true → (s.op k).logic = .on → unitUnserved s k = true → ((unservedLost s).op k).lost = true) ∧
    ((∀ k, populated s k = true → (s.op k).logic = .on → unitUnserved s k = false) → unservedLost s = s) := by
  refine ⟨forAll_rel LossKeeps.refl LossKeeps.trans declareLost lossKeeps_declareLost _ s, fun k hp hl hu => ?_, fun hnone => ?_⟩
  · have hk : k < 12 := by
      unfold populated at hp
      simp only [Bool.and_eq_true, decide_eq_true_eq] at hp
      exact hp.1
    refine forAll_marks (P := LossKeeps s) (Q := fun u => (u.op k).lost = true) (fun u hu' j _ => hu'.trans (lossKeeps_declareLost u j))
      (fun u _ hq j _ => declareLost_lost u (.inl hq)) (fun u hu' => declareLost_lost u (.inr ⟨rfl, (hu'.populated k).trans hp⟩)) (LossKeeps.refl s) ?_
    simp [outpostsOf, hk, hp, hl, hu]
  · have hlist : ((outpostsOf s).filter fun k => decide ((s.op k).logic = .on) && unitUnserved s k) = [] := by
      refine List.filter_eq_nil_iff.mpr fun k hk => ?_
      have hp : populated s k = true := (List.mem_filter.mp hk).2
      by_cases hl : (s.op k).logic = .on
      · simp [hl, hnone k hp hl]
      · simp [hl]
    unfold unservedLost
    rw [hlist]
    rfl

/-! ## PLAT_LOAD -/

/-- The state after the plat store has taken the image, where the command asks for that (R348). -/
def stored (s : State) (b : Box) (p : PlatImage) : State :=
  if (argOf s b 0).getLsbD 2 then storePut s ((argOf s b 0).getLsbD 5) p ((argOf s b 0).getLsbD 2 && (argOf s b 0).getLsbD 3) else s

/-- The units and the slots that a PLAT_LOAD selects (R348). -/
def loadUnits (s : State) (b : Box) : List Nat := (List.range 13).filter fun u => (argOf s b 1).getLsbD u
def selected (s : State) (b : Box) (d : Nat) : Bool :=
  if (argOf s b 0).getLsbD 1 then decide (d = bits (argOf s b 1) 0 11) else decide (unitOf d ∈ loadUnits s b)

theorem selected_iff (s : State) (b : Box) (d : Nat) : selected s b d = true ↔
    if (argOf s b 0).getLsbD 1 then d = bits (argOf s b 1) 0 11 else unitOf d < 13 ∧ (argOf s b 1).getLsbD (unitOf d) = true := by
  unfold selected loadUnits
  split <;> simp

/-- The state that PLAT_LOAD has written, before outposts that are left UNSERVED are lost. -/
def loaded (s : State) (b : Box) (p : PlatImage) : State :=
  platWrite (stored s b p) p (selected s b) (!(argOf s b 0).getLsbD 1 && decide (12 ∈ loadUnits s b))

theorem cmdPlatLoad_ok {b : Box} {p : PlatImage} (hok : EndsOk cmdPlatLoad s b) (hplat : platOf (callOf s b) s = some p) (honly : (argOf s b 0).getLsbD 6 = false) :
    (platCheck s p).isNone = true ∧ (∃ n, (cmdPlatLoad (callOf s b) s).resp = [n, p.datumRef, p.platId]) ∧
      (cmdPlatLoad (callOf s b) s).st = unservedLost (loaded s b p) := by
  obtain ⟨heq, hchecks⟩ := checked_ok (by simp [cBadArg, cNotDisabled, cOk]) hok
  have hsound := hchecks _ List.mem_cons_self
  simp only [hplat, Bool.not_eq_false', Bool.and_eq_true] at hsound
  unfold cmdPlatLoad
  rw [heq]
  simp only [hplat, arg_callOf s b (show 0 < 32 by decide), arg_callOf s b (show 1 < 32 by decide), honly, Bool.false_eq_true, or_false, if_false]
  exact ⟨hsound.1, ⟨_, rfl⟩, rfl⟩

/-- The plat store alone differs once it has taken the image. -/
theorem stored_frame (s : State) (b : Box) (p : PlatImage) : stored s b p = { s with isl := (stored s b p).isl } := by
  unfold stored
  split <;> rfl

theorem storeEntry_stored {b : Box} {p : PlatImage} (h : (argOf s b 0).getLsbD 2 = true) : storeEntry (stored s b p) ((argOf s b 0).getLsbD 5) = some p := by
  unfold stored storePut storeEntry State.modIsl
  rw [if_pos h]
  cases (argOf s b 0).getLsbD 5 <;> cases (argOf s b 0).getLsbD 3 <;> simp [h]

theorem storeEntry_congr {one : Bool} (h : t.isl.store0 = s.isl.store0 ∧ t.isl.store1 = s.isl.store1) : storeEntry t one = storeEntry s one := by
  unfold storeEntry
  rw [h.1, h.2]

/-- What the write of the image leaves (R70, R72, R348). -/
theorem loaded_effect {b : Box} {p : PlatImage} (hpar : s.parity = []) (hcheck : (platCheck s p).isNone = true) :
    PlatFrame (stored s b p) (loaded s b p) ∧
      (∀ r ∈ p.records, selected s b r.1 = true → ((loaded s b p).cell r.1).plat = recordWords r ∧ ((loaded s b p).cell r.1).shadow = recordWords r) ∧
      ((argOf s b 0).getLsbD 1 = false → (argOf s b 1).getLsbD 12 = true →
        (loaded s b p).hub.platId = p.platId ∧ (loaded s b p).hub.compact = decide (p.decode = 1) ∧ (loaded s b p).hub.staged = true) := by
  have hpar' : (stored s b p).parity = [] := by
    rw [stored_frame]
    exact hpar
  have hnd : (p.records.map (·.1)).Nodup := platCheck_records hcheck ▸ nodup_recordsFor p
  obtain ⟨hframe, hwords, hhub⟩ := platWrite_effect p (selected s b) (!(argOf s b 0).getLsbD 1 && decide (12 ∈ loadUnits s b)) hpar' hnd
  refine ⟨hframe, hwords, fun hone hbit => hhub ?_⟩
  have hunit : 12 ∈ loadUnits s b := List.mem_filter.mpr ⟨List.mem_range.mpr (by decide), hbit⟩
  rw [hone, decide_eq_true hunit]
  rfl

/-- But for the slots, the hub's block, the island and parity mismatches, a load leaves the state as it is. -/
theorem loaded_frame {b : Box} {p : PlatImage} (h : PlatFrame (stored s b p) (loaded s b p)) :
    loaded s b p = { s with cells := (loaded s b p).cells, hub := (loaded s b p).hub, isl := (loaded s b p).isl, parity := (loaded s b p).parity } ∧
      (∀ c, ((loaded s b p).cell c).en = (s.cell c).en) := by
  have hstored := stored_frame s b p
  refine ⟨by rw [h.rest, hstored], fun c => (h.en c).trans ?_⟩
  rw [hstored]
  rfl

theorem loaded_populated (s : State) (b : Box) (p : PlatImage) (k : Nat) : populated (loaded s b p) k = populated s k := by
  have hpop := standing_populated (standing_platWrite (ws := false) (wd := false) (wm := false) (wa := false) (stored s b p) p (selected s b)
    (!(argOf s b 0).getLsbD 1 && decide (12 ∈ loadUnits s b))) k
  refine hpop.trans ?_
  rw [stored_frame]
  rfl

/-- PLAT_LOAD (R65, R70, R72, R348). -/
theorem exec_platLoad {b : Box} {p : PlatImage} (hw : Waits s b 0x10) (hok : EndsOk cmdPlatLoad s b) (hplat : platOf (callOf s b) s = some p)
    (honly : (argOf s b 0).getLsbD 6 = false) :
    ∃ u resp, exec (.platLoad b) s = .next (endCmd u b cOk resp) ∧ resp[1]? = some p.datumRef ∧ resp[2]? = some p.platId ∧
      (∀ r ∈ p.records, (if (argOf s b 0).getLsbD 1 then r.1 = bits (argOf s b 1) 0 11 else unitOf r.1 < 13 ∧ (argOf s b 1).getLsbD (unitOf r.1) = true) →
        ∀ i, i < 64 → getW (u.cell r.1).plat i = recW r i ∧ getW (u.cell r.1).shadow i = recW r i) ∧
      ((argOf s b 0).getLsbD 1 = false → (argOf s b 1).getLsbD 12 = true → u.hub.platId = p.platId ∧ u.hub.compact = decide (p.decode = 1) ∧ u.hub.staged = true) ∧
      ((argOf s b 0).getLsbD 2 = true → storeEntry u ((argOf s b 0).getLsbD 5) = some p) ∧
      (∀ k, populated s k = true → (s.op k).logic = .on → unitUnserved u k = true → (u.op k).lost = true) ∧
      ((∀ k, populated s k = true → (s.op k).logic = .on → unitUnserved u k = false) → (∀ c, (u.cell c).en = (s.cell c).en) ∧
        SameQueues s u ∧ SameSetup s u ∧ u.stns = s.stns ∧ u.ctxs = s.ctxs ∧ u.outs = s.outs) := by
  obtain ⟨hcheck, ⟨n, hresp⟩, hst⟩ := cmdPlatLoad_ok hok hplat honly
  obtain ⟨hframe, hwords, hhub⟩ := loaded_effect (b := b) hw.2.2.2 hcheck
  obtain ⟨hrest, hen⟩ := loaded_frame hframe
  obtain ⟨hloss, hlost, hnone⟩ := unservedLost_effect (loaded s b p)
  have hop : ∀ k, (loaded s b p).op k = s.op k := by
    rw [hrest]
    exact fun _ => rfl
  refine ⟨unservedLost (loaded s b p), _, ?_, congrArg (·[1]?) hresp, congrArg (·[2]?) hresp, fun r hr hsel i hi => ?_, fun hone hbit => ?_, fun hbit => ?_,
    fun k hp hl hu => ?_, fun hserved => ?_⟩
  · rw [← hst]
    exact serveBox_ok hw (by decide) hok
  · obtain ⟨hplat', hshadow⟩ := hloss.plats r.1
    obtain ⟨hwplat, hwshadow⟩ := hwords r hr ((selected_iff s b r.1).mpr hsel)
    rw [hplat', hshadow, hwplat, hwshadow]
    exact ⟨getW_recordWords r hi, getW_recordWords r hi⟩
  · obtain ⟨hid, hcompact, hstaged⟩ := hhub hone hbit
    exact ⟨hloss.hub.1.trans hid, hloss.hub.2.1.trans hcompact, hloss.hub.2.2.trans hstaged⟩
  · rw [storeEntry_congr hloss.store, storeEntry_congr hframe.store]
    exact storeEntry_stored hbit
  · exact hlost k (by rwa [loaded_populated]) (by rwa [hop]) (by rwa [← hloss.unitUnserved])
  · rw [hnone fun k hp hl => ?_]
    · refine ⟨hen, ?_⟩
      rw [hrest]
      exact ⟨⟨rfl, rfl, rfl, rfl, rfl⟩, ⟨rfl, rfl, rfl, rfl, rfl, rfl⟩, rfl, rfl, rfl⟩
    · rw [← hloss.unitUnserved]
      exact hserved k (by rwa [← loaded_populated s b p]) (by rwa [← hop])

/-- Settles O41: the four rows end with what their commands make; a plat write keeps all but the slots, the hub's block and the island, and the
loss of outposts keeps the plat. -/
theorem platCommandsTakeEffect : Obligations.PlatCommandsTakeEffect := by
  refine ⟨fun s b p hw hok hplat honly => exec_platLoad hw hok hplat honly, fun s b hw hok => ?_, fun s b hw hok => ?_, fun s b hw hok => ?_⟩
  · obtain ⟨hresp, hst, n, ps, heffect⟩ := cmdDatumCommit_ok hw.2.2.2 hok
    have hrow : exec (.datumCommit b) s = .next (endCmd (datumCommit s (argOf s b 0)).2.2 b cOk [argOf s b 0]) := by
      rw [← hst, ← hresp]
      exact serveBox_ok hw (by decide) hok
    refine ⟨_, hrow, ?_⟩
    rw [heffect]
    refine ⟨rfl, rfl, rfl, rfl, fun c hrole hunit => ?_, rfl⟩
    rw [committed_cell rfl hrole, committed, if_pos (by simpa [hrole] using hunit)]
    cases hread : canRead s c with
    | true => exact ⟨rfl, fun _ => ⟨rfl, rfl⟩⟩
    | false => exact ⟨rfl, fun h => absurd h (by decide)⟩
  · obtain ⟨hresp, hst, hall⟩ := cmdEnable_ok hok
    have hrow := serveBox_ok (op := 0x12) hw (by decide) hok
    rw [hst, hresp] at hrow
    exact ⟨_, hrow, fun c hc => enableRange_en hall hc⟩
  · obtain ⟨hst, hresp⟩ := cmdDisable_ok hok
    have hrow := serveBox_ok (op := 0x13) hw (by decide) hok
    rw [hst, hresp] at hrow
    refine ⟨_, hrow.trans ?_, disable_effect fun c hc => rangeCells_role hc⟩
    simp only [quietRange_tokenInside]

end Sys2Proof.Machine
end

section
/-! SUPPORT. Reservations are divided for each window (R120, R275, R276). -/

namespace Sys2Proof.Machine
open Sys2Proof

variable {s t : State} {win : Stamp}

/-! ## What a reservation's division asks of the state -/

theorem SameCells.tune (h : SameCells s t) (c : Nat) : (t.cell c).tune = (s.cell c).tune := by rw [h.counters c]

/-- Counters of cells change no setting (R120). -/
theorem SameCells.setting (h : SameCells s t) (hp : ∀ p, t.parcel p = s.parcel p) (k : Nat) : setting t k = setting s k := by
  unfold Machine.setting gangCell Machine.spreadCell rankCell gangPos spreadPos rankPos tuneWord
  simp only [h.roleCells, h.roleCell, h.tune, hp]

/-- The units of the next window that go to the hub as a lease, by the use of both in this one (R276). -/
def lent (s : State) (k : Nat) : Nat := setting s k * ((s.res k).usedL + 1) / ((s.res k).usedH + 1 + ((s.res k).usedL + 1))

/-- An outpost's reservation is shared with the hub where the hub routes to it and the die answers (R276). -/
abbrev Shares (s : State) (k : Nat) : Prop := keyUnit k ≠ 12 ∧ dieAway s (keyUnit k) = false ∧ hubRoutes s k = true

/-- The units of the next window that stay at a reservation's home (R276). -/
def kept (s : State) (k : Nat) : Nat :=
  if keyUnit k ≠ 12 ∧ dieAway s (keyUnit k) = true then 0 else if Shares s k then setting s k - lent s k else setting s k

/-- A reservation with its division for the next window. -/
def divided (s : State) (k : Nat) : Resv := { s.res k with homeN := kept s k, leaseN := 0 }

/-- The division of one reservation is noted at its home, and the hub's part is sent as a lease (R276). -/
theorem splitOne_eq (s : State) (win : Stamp) (k : Nat) : splitOne s win k =
    if Shares s k then sendFrom (s.setRes k (divided s k)) (keyCell s k) (.lease k (lent s k) win) (some (k / 48)) none
    else s.setRes k (divided s k) := by
  unfold splitOne divided kept lent Shares
  by_cases haway : keyUnit k ≠ 12 ∧ dieAway s (keyUnit k) = true
  · simp [haway]
  · have hhome : keyUnit k ≠ 12 → dieAway s (keyUnit k) = false := fun hk => by simpa [hk] using haway
    by_cases hroute : keyUnit k ≠ 12 ∧ hubRoutes s k = true
    · simp [hroute, hhome hroute.1]
    · have hnot : ¬ (keyUnit k ≠ 12 ∧ dieAway s (keyUnit k) = false ∧ hubRoutes s k = true) := fun h => hroute ⟨h.1, h.2.2⟩
      simp only [if_neg haway, if_neg hroute, if_neg hnot]

/-! ## The division of all reservations -/

/-- The reservations of `ks` have been divided, and their leases are on their way (R276). -/
structure Divided (s t : State) (win : Stamp) (ks : List Nat) : Prop where
  rest : t = { s with resv := t.resv, net := t.net, cells := t.cells }
  cells : SameCells s t
  res : ∀ k, t.res k = if k ∈ ks then divided s k else s.res k
  leases : ∀ k ∈ ks, Shares s k → Sent t (.lease k (lent s k) win)

theorem Divided.refl (s : State) (win : Stamp) : Divided s s win [] := ⟨rfl, SameCells.refl s, fun k => by simp, by simp⟩

/-- A second division finds what the first one found: use, setting and routes are the same. -/
theorem Divided.same {ks : List Nat} (h : Divided s t win ks) (k : Nat) :
    (Shares t k ↔ Shares s k) ∧ lent t k = lent s k ∧ divided t k = divided s k := by
  have hset : setting t k = setting s k := h.cells.setting (fun p => by rw [h.rest]; rfl) k
  have haway : dieAway t (keyUnit k) = dieAway s (keyUnit k) := by rw [h.rest]; rfl
  have hroute : hubRoutes t k = hubRoutes s k := by rw [h.rest]; rfl
  have hres : (t.res k).usedL = (s.res k).usedL ∧ (t.res k).usedH = (s.res k).usedH ∧
      ∀ a b : Nat, { t.res k with homeN := a, leaseN := b } = { s.res k with homeN := a, leaseN := b } := by
    rw [h.res k]
    split
    · exact ⟨rfl, rfl, fun _ _ => rfl⟩
    · exact ⟨rfl, rfl, fun _ _ => rfl⟩
  obtain ⟨hL, hH, hrec⟩ := hres
  have hlent : lent t k = lent s k := by unfold lent; rw [hset, hL, hH]
  refine ⟨by unfold Shares; rw [haway, hroute], hlent, ?_⟩
  unfold divided kept Shares
  rw [hrec, haway, hroute, hset, hlent]

theorem Divided.step {ks : List Nat} (h : Divided s t win ks) (k : Nat) : Divided s (splitOne t win k) win (ks ++ [k]) := by
  obtain ⟨hshares, hlent, hdivided⟩ := h.same k
  rw [splitOne_eq, hlent, hdivided]
  simp only [hshares]
  have hres : ∀ j, (t.setRes k (divided s k)).res j = if j ∈ ks ++ [k] then divided s j else s.res j := by
    intro j
    rw [res_setRes, h.res j]
    by_cases hj : j = k
    · simp [hj]
    · simp [hj]
  have hrest : t.setRes k (divided s k) = { s with resv := (t.setRes k (divided s k)).resv, net := t.net, cells := t.cells } := by
    rw [h.rest]; rfl
  split
  · next hk =>
    have hsent := onlySent_sendFrom (t.setRes k (divided s k)) (keyCell t k) (.lease k (lent s k) win) (some (k / 48)) none
    refine ⟨?_, h.cells.trans hsent.cells, fun j => ?_, fun j hj hs => ?_⟩
    · rw [hsent.rest, hrest]
    · rw [← hres j, hsent.rest]; rfl
    · rcases List.mem_append.mp hj with hj | hj
      · exact hsent.sent (h.leases j hj hs)
      · rw [List.mem_singleton.mp hj]; exact sent_sendFrom _ _ _ _ _
  · next hk =>
    refine ⟨hrest, h.cells, hres, fun j hj hs => ?_⟩
    rcases List.mem_append.mp hj with hj | hj
    · exact h.leases j hj hs
    · rw [List.mem_singleton.mp hj] at hs; exact absurd hs hk

theorem divided_forAll {ks : List Nat} (h : Divided s t win ks) (js : List Nat) : Divided s (forAll t js fun u k => splitOne u win k) win (ks ++ js) := by
  unfold forAll
  induction js generalizing t ks with
  | nil => simpa using h
  | cons j js ih => simpa using ih (h.step j)

/-! ## The split -/

/-- RESERVATION_SPLIT divides every reservation for the next window. -/
theorem exec_reservationSplit {next : Stamp} (hnext : next = BitVec.ofNat 64 ((s.mer.now.toNat / 1000 + 1) * 1000)) (hon : s.pwr.hubl = .on)
    (hns : s.mer.now.toNat % 1000 ≥ 750) (hnew : s.mer.splitFor ≠ some next) (hp : s.parity = []) :
    ∃ t, exec .reservationSplit s = .next t ∧ Divided (s.modMer fun m => { m with splitFor := some next }) t next (resvAll s) := by
  refine ⟨_, ?_, divided_forAll (Divided.refl _ next) (resvAll s)⟩
  subst hnext
  simp only [exec, execReservationSplit, parityAll_clean hp]
  rw [if_neg (by simp [hon, hns, hnew])]

theorem divided_homeN {k : Nat} (h : keyUnit k = 12 ∨ dieAway s (keyUnit k) = false) :
    (divided s k).homeN = setting s k - (if keyUnit k ≠ 12 ∧ hubRoutes s k = true then lent s k else 0) := by
  have haway : ¬ (keyUnit k ≠ 12 ∧ dieAway s (keyUnit k) = true) := by
    rintro ⟨hk, ha⟩
    rw [ha] at h
    exact h.elim hk (by simp)
  have hshares : Shares s k ↔ keyUnit k ≠ 12 ∧ hubRoutes s k = true :=
    ⟨fun hs => ⟨hs.1, hs.2.2⟩, fun hs => ⟨hs.1, h.resolve_left hs.1, hs.2⟩⟩
  simp only [divided, kept, if_neg haway, hshares]
  split <;> rfl

theorem divided_homeN_away {k : Nat} (hk : keyUnit k ≠ 12) (ha : dieAway s (keyUnit k) = true) : (divided s k).homeN = 0 := if_pos ⟨hk, ha⟩

/-! ## The start of a window -/

theorem tget_of_all {α : Type} {d : α} {P : α → Prop} (hd : P d) {l : Tab α} (h : ∀ e ∈ l, P e.2) (n : Nat) : P (tget d l n) := by
  induction l with
  | nil => exact hd
  | cons e l ih =>
    unfold tget
    split
    · exact h e List.mem_cons_self
    · exact ih fun x hx => h x (List.mem_cons_of_mem _ hx)

theorem tget_unlisted {α : Type} (d : α) {l : Tab α} {n : Nat} (h : n ∉ l.map (·.1)) : tget d l n = d := by
  induction l with
  | nil => rfl
  | cons e l ih =>
    simp only [List.map_cons, List.mem_cons, not_or] at h
    rw [tget, if_neg (Ne.symm h.1), ih h.2]

/-- Entries that hold the default are not missed in a table that lists each number once. -/
theorem tget_filter_default {α : Type} [DecidableEq α] (d : α) {l : Tab α} (hnd : (l.map (·.1)).Nodup) (n : Nat) :
    tget d (l.filter fun e => decide (e.2 ≠ d)) n = tget d l n := by
  induction l with
  | nil => rfl
  | cons e l ih =>
    obtain ⟨m, v⟩ := e
    obtain ⟨hm, hl⟩ := List.nodup_cons.mp hnd
    by_cases hv : v = d
    · simp only [List.filter_cons, hv, ne_eq, not_true, decide_false, Bool.false_eq_true, if_false, ih hl, tget]
      split
      · next hmn => subst hmn; exact tget_unlisted d hm
      · rfl
    · simp only [List.filter_cons, ne_eq, hv, not_false_eq_true, decide_true, if_true, tget, ih hl]

/-- The counts with which a reservation begins a window that has been divided, or has not been (R120, R276). -/
def begun (split : Bool) (r : Resv) : Resv := { home := if split then r.homeN else 0, lease := if split then r.leaseN else 0 }

/-- The reservations at the start of a window: those with no units are not listed. -/
def begunAll (split : Bool) (rs : Tab Resv) : Tab Resv := (rs.map fun e => (e.1, begun split e.2)).filter fun e => decide (e.2 ≠ {})

theorem exec_reservationWindowStart {w : Stamp} (hw : w = BitVec.ofNat 64 (s.mer.now.toNat / 1000 * 1000)) (hon : s.pwr.hubl = .on) (hnew : s.mer.window ≠ w) :
    exec .reservationWindowStart s = .next { s with mer := { s.mer with window := w }, resv := begunAll (decide (s.mer.splitFor = some w)) s.resv } := by
  subst hw
  simp only [exec, execReservationWindowStart]
  rw [if_neg (by simp [hon, hnew])]
  rfl

theorem begunAll_unused (split : Bool) (rs : Tab Resv) (k : Nat) : (tget {} (begunAll split rs) k).usedH = 0 ∧ (tget {} (begunAll split rs) k).usedL = 0 := by
  refine tget_of_all (P := fun r : Resv => r.usedH = 0 ∧ r.usedL = 0) ⟨rfl, rfl⟩ (fun e he => ?_) k
  obtain ⟨x, -, rfl⟩ := List.mem_map.mp (List.mem_of_mem_filter he)
  exact ⟨rfl, rfl⟩

theorem begunAll_divided {rs : Tab Resv} (hnd : (rs.map (·.1)).Nodup) (k : Nat) :
    (tget {} (begunAll true rs) k).home = (tget {} rs k).homeN ∧ (tget {} (begunAll true rs) k).lease = (tget {} rs k).leaseN := by
  have hkeys : (rs.map fun e => (e.1, begun true e.2)).map (·.1) = rs.map (·.1) := by simp
  rw [begunAll, tget_filter_default _ (hkeys ▸ hnd)]
  exact tget_map (f := fun e => (e.1, begun true e.2)) (P := fun r b => b.home = r.homeN ∧ b.lease = r.leaseN) (fun _ => rfl) ⟨rfl, rfl⟩
    (fun _ => ⟨rfl, rfl⟩) rs k

/-- Settles O26: the split goes through all reservations and divides each by what stood before; the window start begins what was divided. -/
theorem reservationsAreDividedForEachWindow : Obligations.ReservationsAreDividedForEachWindow := by
  refine ⟨fun s hon hns hnew hp => ?_, fun s hon hnew => ?_⟩
  · obtain ⟨t, hexec, hdiv⟩ := exec_reservationSplit rfl hon hns hnew hp
    have hres : ∀ k ∈ resvAll s, t.res k = divided s k := fun k hk => (hdiv.res k).trans (if_pos hk)
    refine ⟨t, hexec, by rw [hdiv.rest]; rfl, fun k hk => (hdiv.res k).trans (if_neg hk), fun k hk => ?_, by rw [hdiv.rest]; rfl, hdiv.cells.counters⟩
    rw [hres k hk]
    exact ⟨rfl, rfl, rfl, rfl, divided_homeN, divided_homeN_away, fun hhub haway hroute => hdiv.leases k hk ⟨hhub, haway, hroute⟩⟩
  · refine ⟨_, exec_reservationWindowStart rfl hon hnew, rfl, begunAll_unused _ _, fun k hnd hsplit => ?_, rfl⟩
    rw [State.res, decide_eq_true hsplit]
    exact begunAll_divided hnd k

end Sys2Proof.Machine
end

section
/-! SUPPORT. An intake cell stamps an event and sends it (R35, R81, R119, R279). -/

namespace Sys2Proof.Machine
open Sys2Proof

variable {s t u : State}

/-! ## Event counters alone -/

/-- Event counters have counted, and nothing else differs. -/
structure Counted (s t : State) : Prop where
  rest : t = { s with cells := t.cells }
  cells : SameCells s t

theorem Counted.refl (s : State) : Counted s s := ⟨rfl, SameCells.refl s⟩

theorem Counted.trans (h1 : Counted s t) (h2 : Counted t u) : Counted s u := by
  refine ⟨?_, h1.cells.trans h2.cells⟩
  rw [h2.rest, h1.rest]

theorem counted_bump (s : State) (c : Option Nat) (k : Nat) : Counted s (bump s c k) := ⟨bump_eq s c k, bump_same s c k⟩

theorem Counted.net_eq (h : Counted s t) : t.net = s.net := by rw [h.rest]
theorem Counted.hub_eq (h : Counted s t) : t.hub = s.hub := by rw [h.rest]
theorem Counted.pwr_eq (h : Counted s t) : t.pwr = s.pwr := by rw [h.rest]
theorem Counted.clean (h : Counted s t) (hc : Clean s) : Clean t := by rw [h.rest]; exact hc

/-! ## One more message -/

/-- Message `m` is on its way behind the others, and event counters have counted. -/
structure Posted (s t : State) (m : Msg) : Prop where
  rest : t = { s with net := t.net, cells := t.cells }
  cells : SameCells s t
  msgs : t.net.map (·.msg) = s.net.map (·.msg) ++ [m]

theorem posted_send (s : State) (m : Msg) (up down c : Option Nat) : Posted s (send s m up down c) m :=
  ⟨rfl, SameCells.refl s, by simp [send]⟩

theorem Posted.after {m : Msg} (h : Posted t u m) (hs : Counted s t) : Posted s u m := by
  refine ⟨?_, hs.cells.trans h.cells, ?_⟩
  · rw [h.rest, hs.rest]
  · rw [h.msgs, hs.net_eq]

theorem Posted.counted {m : Msg} (h : Posted s t m) (ht : Counted t u) : Posted s u m := by
  refine ⟨?_, h.cells.trans ht.cells, ?_⟩
  · rw [ht.rest, h.rest]
  · rw [ht.net_eq, h.msgs]

theorem sent_iff {m : Msg} : Sent t m ↔ m ∈ t.net.map (·.msg) := by simp [Sent]

theorem Posted.sent {m : Msg} (h : Posted s t m) : Sent t m := by
  rw [sent_iff, h.msgs]
  exact List.mem_append_right _ (List.mem_singleton.mpr rfl)

/-! ## The stamped event -/

theorem overrun_clean (he : s.ecc = []) (c : Option Nat) : overrun s c = s := by
  unfold overrun
  split
  · rfl
  · rw [he]; rfl

theorem rodParity_clean (hp : s.parity = []) (c : Nat) : rodParity s c = s := if_pos hp

/-- The event goes to its ledger with the intake's part of its grade and the cell that stamped it. -/
theorem stampSend_posted (hc : Clean s) (c : Nat) (k : Token) (held : Bool) :
    Posted s (stampSend s c k held) (.event { k with pre := intakePre s c k.evid held, cell := c }) := by
  have hticket : Counted s (if ticketBusy s c k.evid then bump s (some c) 0x09 else s) := by
    split
    · exact counted_bump _ _ _
    · exact Counted.refl s
  unfold stampSend
  simp only [overrun_clean hc.1, rodParity_clean hc.2]
  exact (((posted_send _ _ _ _ _).after hticket).counted (counted_bump _ _ _)).counted (counted_bump _ _ _)

end Sys2Proof.Machine
end

section
/-! SUPPORT. Wired inputs (R87, R91, R94, R95, R97, R98). -/

namespace Sys2Proof.Machine
open Sys2Proof

variable {s t : State} {x : Input} {e c ticks : Nat} {level : Bool}

/-! ## What a change is in the input's mode -/

/-- A qualified change gives the input its level and counts the rises of a TALLY input, and nothing else of it differs (R91, R95). -/
theorem qualify_eq (x : Input) (rise : Bool) :
    (qualify x rise).1 = { x with level := rise, tally := (qualify x rise).1.tally, rises := (qualify x rise).1.rises } := by
  unfold qualify
  simp only
  split
  case h_7 =>
    split
    · split <;> rfl
    · rfl
  all_goals rfl

theorem qualify_off (h : x.mode = .off) (rise : Bool) : (qualify x rise).2 = none := by simp [qualify, h]

/-- An edge that the mode asks for is an occurrence (R91, R95). -/
theorem qualify_occurrence {rise : Bool} (h : x.mode = .rise ∧ rise = true ∨ x.mode = .fall ∧ rise = false ∨ x.mode = .both) :
    (qualify x rise).2 = some (.occurrence, if rise then 1 else 0) := by
  obtain ⟨hm, rfl⟩ | ⟨hm, rfl⟩ | hm := h <;> simp [qualify, hm]

/-- A LEVEL input asserts at its level and deasserts at the other (R91). -/
theorem qualify_levels {rise : Bool} (h : x.mode = .levelHigh ∨ x.mode = .levelLow) :
    (qualify x rise).2 = some (if rise = decide (x.mode = .levelHigh) then .assert else .deassert, 0) := by
  obtain hm | hm := h <;> cases rise <;> simp [qualify, hm]

/-- A TALLY input counts each rise (R95). -/
theorem qualify_tally (h : x.mode = .tally) : (qualify x true).1.tally = x.tally + 1 := by
  simp only [qualify, h, if_true]
  split <;> rfl

theorem qualify_tally_more (h : x.mode = .tally) (hr : x.rises < x.tallyN.toNat) :
    (qualify x true).1.rises = x.rises + 1 ∧ (qualify x true).2 = none := by
  simp only [qualify, h, if_true]
  rw [if_neg (by omega)]
  exact ⟨rfl, rfl⟩

theorem qualify_tally_full (h : x.mode = .tally) (hr : x.rises = x.tallyN.toNat) :
    (qualify x true).1.rises = 0 ∧ (qualify x true).2 = some (.occurrence, x.tally + 1) := by
  simp only [qualify, h, if_true]
  rw [if_pos (by omega)]
  exact ⟨rfl, rfl⟩

/-! ## What an endpoint holds -/

/-- Holding an occurrence changes what the endpoint holds, and nothing else of the input (R98). -/
theorem holdInput_eq (x : Input) (st : Stamp) (rise : Bool) : holdInput x st rise = { x with
    heldSat := (holdInput x st rise).heldSat, held := (holdInput x st rise).held, heldAt := (holdInput x st rise).heldAt
    heldUp := (holdInput x st rise).heldUp } := by
  unfold holdInput
  split
  · rfl
  · split <;> rfl

theorem holdInput_first (h : x.held = 0) (st : Stamp) (rise : Bool) : (holdInput x st rise).held = 1 ∧ (holdInput x st rise).heldAt = st := by
  simp [holdInput, h]

theorem holdInput_more (h0 : x.held ≠ 0) (hmax : x.held ≠ 0xFFFFFFFF) (st : Stamp) (rise : Bool) : (holdInput x st rise).held = x.held + 1 := by
  rw [holdInput, if_neg hmax, if_neg h0]

/-! ## An intake cell that takes events -/

theorem noHolds_cell (h : NoHolds s) (c : Nat) : (s.cell c).ledgerHold = none :=
  tget_of_all (P := fun x : Cell => x.ledgerHold = none) rfl h c

/-- With no token held at a ledger an intake cell takes events while it is enabled (R61, R152). -/
theorem cellTakes_of_noHolds (h : NoHolds s) (c : Nat) : cellTakes s c = (s.cell c).en := by
  have hheld : cellHeld s c = false := by
    refine List.any_eq_false.mpr fun p _ => ?_
    split
    · split <;> simp [noHolds_cell h]
    · simp
  rw [cellTakes, hheld]
  simp

/-! ## The row -/

/-- The input of `e` is sampled at `level` (R93). -/
def sampled (s : State) (e : Nat) (level : Bool) : State := s.modInput e fun x => { x with raw := level }

theorem input_sampled (s : State) (e : Nat) (level : Bool) (d : Nat) :
    (sampled s e level).input d = if d = e then { s.input e with raw := level } else s.input d := input_modInput _ _ _ _

/-- The input of `e` as a change that its filter lets pass leaves it, and the event that this is in its mode (R91). -/
def change (s : State) (e : Nat) (level : Bool) : Input × Option (Edge × Payload) := qualify { s.input e with raw := level } level

/-- The level has passed the filter (R94). -/
def passed (s : State) (e : Nat) (level : Bool) : State := (sampled s e level).modInput e fun _ => (change s e level).1

/-- A level that passes changes the inputs alone. -/
theorem passed_eq (s : State) (e : Nat) (level : Bool) : passed s e level = { s with inputs := (passed s e level).inputs } := by
  unfold passed sampled State.modInput
  rfl

theorem input_passed (s : State) (e : Nat) (level : Bool) (d : Nat) :
    (passed s e level).input d = if d = e then (change s e level).1 else s.input d := by
  rw [passed, input_modInput, input_sampled]
  split <;> rfl

/-- The event that an intake cell of the input's unit stamps. -/
def wiredToken (s : State) (e : Nat) (edge : Edge) (pl : Payload) : Token :=
  { evid := e, payload := pl, stamp := copyOf s (ownerUnit e), edge := edge, src := .wired }

/-- The endpoint holds the change as an occurrence (R98). -/
def endpointHeld (s : State) (e : Nat) (level : Bool) : State := (passed s e level).modInput e fun x => holdInput x (copyOf s (ownerUnit e)) level

/-- The endpoint of a cell that takes no event keeps an occurrence, which is counted (R98). -/
def keptBack (s : State) (e c : Nat) (level : Bool) : State := bump (endpointHeld s e level) (some c) 0x11

/-- What becomes of a change that has passed the filter of an input of intake cell `c` (R87, R98). -/
def reported (s : State) (e c : Nat) (level : Bool) : State :=
  match (change s e level).2 with
  | none => passed s e level
  | some (edge, pl) =>
    if (s.cell c).en then stampSend (passed s e level) c (wiredToken s e edge pl) false
    else if edge = .occurrence then keptBack s e c level else passed s e level

/-- An input of a unit that runs, whose level is not `level`: it is wired and present, and nothing is struck. -/
structure Watched (s : State) (e c : Nat) (level : Bool) : Prop where
  wired : isWired e = true
  present : inputPresent s e = true
  running : s.pwr.rst = false
  clean : Clean s
  cell : intakeCell s e = some c
  unit : if ownerUnit e = 12 then s.pwr.hubl = .on else (s.op (ownerUnit e)).logic = .on
  new : level ≠ (s.input e).level
  free : NoHolds s

/-- The row goes by the input's filter. -/
theorem exec_wiredInputChange (h : Watched s e c level) :
    exec (.wiredInputChange e level ticks) s = .next (if ticks < (s.input e).filterW.toNat then sampled s e level else reported s e c level) := by
  have hinput : (sampled s e level).input e = { s.input e with raw := level } := (input_sampled _ _ _ _).trans (if_pos rfl)
  have hpresent : inputPresent (sampled s e level) e = true := h.present
  have hhub : ¬ ((decide (ownerUnit e = 12) && decide ((sampled s e level).pwr.hubl ≠ .on)) = true) := by
    intro hoff
    simp only [Bool.and_eq_true, decide_eq_true_eq] at hoff
    exact hoff.2 ((if_pos hoff.1).mp h.unit)
  have hdie : ¬ (ownerUnit e ≠ 12 ∧ ((sampled s e level).op (ownerUnit e)).logic ≠ .on) := fun hoff => hoff.2 ((if_neg hoff.1).mp h.unit)
  have hcell : intakeCell (sampled s e level) e = some c := h.cell
  have htakes : cellTakes (sampled s e level) c = (s.cell c).en := cellTakes_of_noHolds (s := sampled s e level) h.free c
  simp only [exec, execWiredInputChange, strike_clean h.clean.1, Bool.false_eq_true, Bool.true_eq_false, if_false, h.wired, h.running, ← sampled.eq_def,
    hpresent, or_self, hinput, if_neg hhub, if_neg hdie, hcell, h.new, false_or]
  by_cases hshort : ticks < (s.input e).filterW.toNat
  · rw [if_pos hshort, if_pos hshort]
  · rw [if_neg hshort, if_neg hshort]
    unfold reported change
    cases hchange : (qualify { s.input e with raw := level } level).2 with
    | none => rfl
    | some x =>
      obtain ⟨edge, pl⟩ := x
      simp only [htakes]
      split
      · rfl
      · cases edge <;> rfl

/-! ## What becomes of a change -/

theorem reported_none (h : (change s e level).2 = none) (c : Nat) : reported s e c level = passed s e level := by rw [reported, h]

/-- An enabled intake cell stamps the event and sends it (R87, R91). -/
theorem reported_sends {edge : Edge} {pl : Payload} (hc : Clean s) (h : (change s e level).2 = some (edge, pl)) (hen : (s.cell c).en = true) :
    ∃ pre, Posted (passed s e level) (reported s e c level) (.event { wiredToken s e edge pl with pre := pre, cell := c }) := by
  have hsend : reported s e c level = stampSend (passed s e level) c (wiredToken s e edge pl) false := by
    rw [reported, h]
    exact if_pos hen
  rw [hsend]
  exact ⟨_, stampSend_posted (s := passed s e level) hc _ _ _⟩

/-- A disabled one keeps an occurrence for later (R98). -/
theorem reported_keeps {pl : Payload} (h : (change s e level).2 = some (.occurrence, pl)) (hen : (s.cell c).en = false) :
    reported s e c level = keptBack s e c level := by
  rw [reported, h]
  simp [hen]

theorem reported_idle (hen : (s.cell c).en = false) : reported s e c level = passed s e level ∨ reported s e c level = keptBack s e c level := by
  unfold reported
  split
  · exact .inl rfl
  · simp only [hen, Bool.false_eq_true, if_false]
    split
    · exact .inr rfl
    · exact .inl rfl

/-- A change is sent, kept back, or changes the input alone. -/
theorem reported_cases (hc : Clean s) (e c : Nat) (level : Bool) :
    reported s e c level = passed s e level ∨ reported s e c level = keptBack s e c level ∨ ∃ m, Posted (passed s e level) (reported s e c level) m := by
  cases hen : (s.cell c).en with
  | false => exact (reported_idle hen).imp_right .inl
  | true =>
    cases hchange : (change s e level).2 with
    | none => exact .inl (reported_none hchange c)
    | some x =>
      obtain ⟨pre, hsend⟩ := reported_sends hc hchange hen
      exact .inr (.inr ⟨_, hsend⟩)

theorem endpointHeld_eq (s : State) (e : Nat) (level : Bool) : endpointHeld s e level = { s with inputs := (endpointHeld s e level).inputs } := by
  unfold endpointHeld State.modInput
  rw [passed_eq]

theorem keptBack_counted (s : State) (e c : Nat) (level : Bool) : Counted (endpointHeld s e level) (keptBack s e c level) := counted_bump _ _ _

theorem input_keptBack (s : State) (e c : Nat) (level : Bool) (d : Nat) :
    (keptBack s e c level).input d = if d = e then holdInput (change s e level).1 (copyOf s (ownerUnit e)) level else s.input d := by
  have hinput : (keptBack s e c level).input d = (endpointHeld s e level).input d := by
    rw [(keptBack_counted s e c level).rest]; rfl
  rw [hinput, endpointHeld, input_modInput, input_passed, input_passed, if_pos rfl]
  split <;> rfl

theorem net_keptBack (s : State) (e c : Nat) (level : Bool) : (keptBack s e c level).net = s.net := (keptBack_counted s e c level).net_eq

/-- The input takes the change, and may hold an occurrence besides (R98). -/
theorem input_reported (hc : Clean s) (e c : Nat) (level : Bool) :
    (∀ d, d ≠ e → (reported s e c level).input d = s.input d) ∧
      ((reported s e c level).input e = (change s e level).1 ∨ ∃ st, (reported s e c level).input e = holdInput (change s e level).1 st level) := by
  have hpassed : ∀ t : State, t.inputs = (passed s e level).inputs → (∀ d, d ≠ e → t.input d = s.input d) ∧ t.input e = (change s e level).1 := by
    intro t ht
    have hinput : ∀ d, t.input d = (passed s e level).input d := fun d => by unfold State.input; rw [ht]
    exact ⟨fun d hd => by rw [hinput, input_passed, if_neg hd], by rw [hinput, input_passed, if_pos rfl]⟩
  obtain h | h | ⟨m, h⟩ := reported_cases hc e c level
  · exact (hpassed _ (by rw [h])).imp_right .inl
  · rw [h]
    exact ⟨fun d hd => (input_keptBack _ _ _ _ _).trans (if_neg hd), .inr ⟨_, (input_keptBack _ _ _ _ _).trans (if_pos rfl)⟩⟩
  · exact (hpassed _ (by rw [h.rest])).imp_right .inl

/-- Whether it holds an occurrence or not, the input has taken the level, and its counts of rises are those of the change. -/
theorem fields_reported (hc : Clean s) (e c : Nat) (level : Bool) : ((reported s e c level).input e).level = level ∧
    ((reported s e c level).input e).tally = (change s e level).1.tally ∧ ((reported s e c level).input e).rises = (change s e level).1.rises := by
  have hlevel : (change s e level).1.level = level := by rw [change, qualify_eq]
  obtain h | ⟨st, h⟩ := (input_reported hc e c level).2
  · rw [h]; exact ⟨hlevel, rfl, rfl⟩
  · rw [h, holdInput_eq]; exact ⟨hlevel, rfl, rfl⟩

/-- Nothing but messages, inputs and event counters differs. -/
theorem reported_frame (hc : Clean s) (e c : Nat) (level : Bool) : SameCells s (reported s e c level) ∧ reported s e c level =
    { s with net := (reported s e c level).net, inputs := (reported s e c level).inputs, cells := (reported s e c level).cells } := by
  have hpassed : SameCells s (passed s e level) := SameCells.of_cells rfl
  have hheld : SameCells s (endpointHeld s e level) := SameCells.of_cells rfl
  have hkept := keptBack_counted s e c level
  have hcases := reported_cases hc e c level
  generalize reported s e c level = t at hcases ⊢
  generalize keptBack s e c level = u at hkept hcases
  obtain rfl | rfl | ⟨m, h⟩ := hcases
  · exact ⟨hpassed, by rw [passed_eq]⟩
  · exact ⟨hheld.trans hkept.cells, by rw [hkept.rest, endpointHeld_eq]⟩
  · exact ⟨hpassed.trans h.cells, by rw [h.rest, passed_eq]⟩

/-- An event that is sent is the only new message. -/
theorem reported_event {edge : Edge} {pl : Payload} (hc : Clean s) (h : (change s e level).2 = some (edge, pl)) (hen : (s.cell c).en = true) :
    ∃ k, (reported s e c level).net.map (·.msg) = s.net.map (·.msg) ++ [.event k] ∧ k.evid = e ∧ k.edge = edge ∧ k.src = .wired ∧ k.payload = pl ∧
      k.stamp = copyOf s (ownerUnit e) := by
  obtain ⟨pre, hsend⟩ := reported_sends hc h hen
  exact ⟨_, hsend.msgs, rfl, rfl, rfl, rfl, rfl⟩

theorem net_reported_idle (hen : (s.cell c).en = false) : (reported s e c level).net = s.net := by
  obtain h | h := reported_idle (e := e) (level := level) hen <;> rw [h]
  · rfl
  · exact net_keptBack s e c level

theorem net_reported_none (h : (change s e level).2 = none) (c : Nat) : (reported s e c level).net = s.net := by rw [reported_none h]; rfl

/-- What the endpoint of a disabled cell holds after an occurrence (R98). -/
theorem held_reported {pl : Payload} (h : (change s e level).2 = some (.occurrence, pl)) (hen : (s.cell c).en = false) :
    ((s.input e).held = 0 → ((reported s e c level).input e).held = 1 ∧ ((reported s e c level).input e).heldAt = copyOf s (ownerUnit e)) ∧
      ((s.input e).held ≠ 0 → (s.input e).held ≠ 0xFFFFFFFF → ((reported s e c level).input e).held = (s.input e).held + 1) := by
  have hheld : (change s e level).1.held = (s.input e).held := by rw [change, qualify_eq]
  rw [reported_keeps h hen, input_keptBack, if_pos rfl, ← hheld]
  exact ⟨fun h0 => holdInput_first h0 _ _, fun h0 hmax => holdInput_more h0 hmax _ _⟩

/-- Settles O27: the row goes by the filter; a change that passes is told apart by the input's mode, and reported by whether the cell takes it. -/
theorem wiredInputIsStampedAndSent : Obligations.WiredInputIsStampedAndSent := by
  intro s e c ticks level hwired hpresent hrst hc hcell hunit hnew hholds
  have hexec := exec_wiredInputChange (ticks := ticks) ⟨hwired, hpresent, hrst, hc, hcell, hunit, hnew, hholds⟩
  refine ⟨fun hshort => ⟨_, hexec.trans (by rw [if_pos hshort]), ?_, fun x hx => (input_sampled _ _ _ _).trans (if_neg hx), rfl⟩,
    fun hlong => ⟨_, hexec.trans (by rw [if_neg (by omega)]), ?_⟩⟩
  · rw [input_sampled, if_pos rfl]
  · obtain ⟨hothers, -⟩ := input_reported hc e c level
    obtain ⟨hcells, hrest⟩ := reported_frame hc e c level
    obtain ⟨hlevel, htally, hrises⟩ := fields_reported hc e c level
    refine ⟨hlevel, hothers, hcells.counters, hrest, fun hoff => ?_, fun hedge => ?_, fun hlevels => ?_, fun hmode hrise => ?_⟩
    · exact net_reported_none (qualify_off (x := { s.input e with raw := level }) hoff level) c
    · have hchange : (change s e level).2 = _ := qualify_occurrence hedge
      exact ⟨reported_event hc hchange, fun hen => ⟨net_reported_idle hen, held_reported hchange hen⟩⟩
    · have hchange : (change s e level).2 = _ := qualify_levels hlevels
      refine ⟨fun hen => ?_, net_reported_idle⟩
      obtain ⟨k, hmsgs, hevid, hedge, -, -, hstamp⟩ := reported_event hc hchange hen
      exact ⟨k, hmsgs, hevid, hstamp, hedge⟩
    · subst hrise
      rw [htally, hrises]
      refine ⟨qualify_tally hmode, fun hfew => ?_, fun hfull => ?_⟩
      · obtain ⟨hr, hnone⟩ := qualify_tally_more (x := { s.input e with raw := true }) hmode hfew
        exact ⟨hr, net_reported_none hnone c⟩
      · obtain ⟨hr, hpost⟩ := qualify_tally_full (x := { s.input e with raw := true }) hmode hfull
        refine ⟨hr, fun hen => ?_⟩
        obtain ⟨k, hmsgs, hevid, -, -, hpl, -⟩ := reported_event hc hpost hen
        exact ⟨k, hmsgs, hevid, hpl⟩

end Sys2Proof.Machine
end

section
/-! SUPPORT. A raised fault, and the rejection of a doorbell write (R113 to R117, R476, R477). -/

namespace Sys2Proof.Machine
open Sys2Proof

variable {s t u : State}

/-! ## Faults -/

/-- Parcels' accounts and the island differ, and nothing else. -/
def Accounted (s t : State) : Prop := t = { s with isl := t.isl, parcels := t.parcels, parcel0 := t.parcel0 }

theorem Accounted.trans (h1 : Accounted s t) (h2 : Accounted t u) : Accounted s u := by
  unfold Accounted at *
  rw [h2, h1]

theorem accounted_touch (s : State) (p : Nat) : Accounted s (touch s p) := by
  unfold Accounted
  rw [touch_eq]

theorem accounted_modParcel (s : State) (p : Nat) (f : Parcel → Parcel) : Accounted s (s.modParcel p f) := by
  unfold Accounted
  rw [modParcel_eq]

theorem accounted_logAgg (s : State) (code unit : Nat) (sec : Bool) (a0 a1 : Word) (key : Nat) : Accounted s (logAgg s code unit sec a0 a1 key) := by
  obtain ⟨isl, h⟩ := logAgg_eq s code unit sec a0 a1 key
  rw [h]
  rfl

/-- The hub's block after the raising of a fault: its seen bit and its count (R476). -/
def raisedHub (h : Hub) (code : Nat) : Hub :=
  { h with seen := h.seen ||| (1#22 <<< code), faultCnt := tset 0 h.faultCnt code (satInc (tget 0 h.faultCnt code)) }

/-- A fault has been raised: the occurrence of its internal EVID is on its way behind the other messages, and beside the hub's block only parcels'
accounts and the island differ (R380, R476, R477). -/
structure Raised (s t : State) (code : Nat) : Prop where
  rest : t = { s with hub := raisedHub s.hub code, net := t.net, isl := t.isl, parcels := t.parcels, parcel0 := t.parcel0 }
  msgs : ∃ k : Token, k.evid = 0xFFFC0 + code ∧ t.net.map (·.msg) = s.net.map (·.msg) ++ [.event k]

theorem raised_raiseHub (s : State) (code pre : Nat) : Raised s (raiseHub s code pre) code := by
  refine ⟨rfl, _, ?_, List.map_append (l₁ := s.net)⟩
  rfl

theorem Raised.accounted {code : Nat} (hr : Raised s t code) (hu : Accounted t u) : Raised s u code := by
  have hnet : u.net = t.net := by rw [hu]
  refine ⟨?_, by rw [hnet]; exact hr.msgs⟩
  rw [hu, hr.rest]

/-- A raising by a hub that is on (R476). -/
theorem raised_raise (hon : s.pwr.hubl = .on) (hrst : s.pwr.rst = false) (code unit : Nat) (sec : Bool) (a0 a1 a2 : Word) (key : Option Nat) :
    Raised s (raise s code unit sec a0 a1 a2 key) code := by
  refine (raised_raiseHub s code 0).accounted ?_
  unfold raise
  simp only [hon, hrst, if_true, Bool.false_eq_true, if_false]
  have hparcel : ∀ (c : Prop) [Decidable c] (p : Nat) (f : Parcel → Parcel),
      Accounted (raiseHub s code 0) (if c then raiseHub s code 0 else touch ((raiseHub s code 0).modParcel p f) p) := by
    intro c _ p f
    split
    · rfl
    · exact (accounted_modParcel _ _ _).trans (accounted_touch _ _)
  split
  · exact (hparcel _ _ _).trans rfl
  · exact (hparcel _ _ _).trans (accounted_logAgg _ _ _ _ _ _ _)

/-! ## Rejected writes -/

/-- The reasons that count in HUB_DB_FORMAT_CNT and raise DB_FORMAT (R113). -/
def IsFormat (r : BitVec 4) : Prop := r = rSize ∨ r = rHighClassic ∨ r = rHighAddressed ∨ r = rPoisonedWrite

theorem countReason_format {r : BitVec 4} (hr : IsFormat r) (h : Hub) : countReason h r = { h with dbFormat := satInc h.dbFormat } := by
  obtain rfl | rfl | rfl | rfl := hr <;> rfl

theorem faultReason_format {r : BitVec 4} (hr : IsFormat r) (s : State) (w a : Word) (sec : Bool) :
    faultReason s r w a sec = raise s 0x12 12 sec w a 1 (some 0) := by
  obtain rfl | rfl | rfl | rfl := hr <;> rfl

/-- The capture takes a rejection while it is armed (R116). -/
theorem captureDb_cap (h : Hub) (r : BitVec 4) (port : Nat) (sec win : Bool) (rid : BitVec 16) (e : Nat) (data : Word) :
    captureDb h r port sec win rid e data = { h with dbCap := (captureDb h r port sec win rid e data).dbCap } ∧
      (h.dbCap.valid = true → (captureDb h r port sec win rid e data).dbCap = h.dbCap) ∧
      (h.dbCap.valid = false → (captureDb h r port sec win rid e data).dbCap.valid = true ∧ (captureDb h r port sec win rid e data).dbCap.reason = r ∧
        (captureDb h r port sec win rid e data).dbCap.port = BitVec.ofNat 3 port ∧ (captureDb h r port sec win rid e data).dbCap.rid = rid) := by
  unfold captureDb
  cases hv : h.dbCap.valid with
  | true => exact ⟨rfl, fun _ => rfl, nofun⟩
  | false => exact ⟨rfl, nofun, fun _ => ⟨rfl, rfl, rfl, rfl⟩⟩

/-- A rejected write whose reason raises no fault changes the hub's counters and its capture alone. -/
theorem rejectDb_quiet {r : BitVec 4} (hr : r = rEvidNone ∨ r = rEvidWired ∨ r = rEvidInternal ∨ r = rHubDisabled) (s : State) (port : Nat) (win : Bool)
    (data : Word) (rid : BitVec 16) (sec : Bool) (e : Nat) :
    ∃ cap, rejectDb s r port win data rid sec e = s.modHub fun h => { countReason h r with dbCap := cap } := by
  obtain ⟨hcap, -, -⟩ := captureDb_cap (countReason s.hub r) r port sec win rid e data
  refine ⟨(captureDb (countReason s.hub r) r port sec win rid e data).dbCap, ?_⟩
  have hquiet : ∀ (t : State) (w a : Word) (b : Bool), faultReason t r w a b = t := by
    obtain rfl | rfl | rfl | rfl := hr <;> exact fun _ _ _ _ => rfl
  rw [rejectDb, hquiet, State.modHub, hcap]
  rfl

/-- A rejected write is counted and captured (R114, R116). -/
def noted (s : State) (r : BitVec 4) (d : DbWrite) (win : Bool) (e : Nat) : State :=
  s.modHub fun h => captureDb (countReason h r) r d.port d.sec win d.rid e d.data

/-- A write rejected for its form raises DB_FORMAT (R113, R117). -/
theorem raised_rejectDb {r : BitVec 4} (hr : IsFormat r) (hon : s.pwr.hubl = .on) (hrst : s.pwr.rst = false) (d : DbWrite) (win : Bool) (e : Nat) :
    Raised (noted s r d win e) (rejectDb s r d.port win d.data d.rid d.sec e) 0x12 := by
  rw [rejectDb, faultReason_format hr]
  exact raised_raise (s := noted s r d win e) hon hrst _ _ _ _ _ _ _

/-- What a write rejected for its form leaves (R113, R114, R116). -/
theorem Raised.dbRejected {r : BitVec 4} (hr : IsFormat r) {d : DbWrite} {win : Bool} {e : Nat} (h : Raised (noted s r d win e) t 0x12) :
    DbRejected s t d r := by
  obtain ⟨hcap, hfull, harmed⟩ := captureDb_cap (countReason s.hub r) r d.port d.sec win d.rid e d.data
  have hhub : t.hub = raisedHub (captureDb (countReason s.hub r) r d.port d.sec win d.rid e d.data) 0x12 := by rw [h.rest]; rfl
  rw [hcap, countReason_format hr] at hhub
  rw [countReason_format hr] at hfull harmed
  unfold DbRejected
  rw [hhub]
  refine ⟨rfl, tget_tset_same _ _ _ _, rfl, hfull, harmed, ?_, CountersOnly.of_cells ?_⟩
  · rw [h.rest]; exact ⟨rfl, rfl, rfl, rfl, rfl⟩
  · rw [h.rest]; rfl

/-- With one fault raised nothing else has been sent. -/
theorem Raised.onlyFault {code : Nat} (h : Raised t u code) (hnet : t.net = s.net) : OnlyFault s u code := by
  obtain ⟨k, hk, hmsgs⟩ := h.msgs
  intro m hm
  rw [sent_iff, hmsgs, hnet, List.mem_append, List.mem_singleton] at hm
  exact hm.imp sent_iff.mpr fun hm => ⟨k, hm, hk⟩

theorem Raised.clean {code : Nat} (h : Raised s t code) (hc : Clean s) : Clean t := by rw [h.rest]; exact hc

end Sys2Proof.Machine
end

section
/-! SUPPORT. Doorbell writes (R102 to R106, R113, R114, R119). -/

namespace Sys2Proof.Machine
open Sys2Proof

variable {s t u v : State} {d : DbWrite} {win handed : Bool} {c : Nat}

/-! ## A write at its port -/

/-- A write at a port of a hub that is on meets the port's checks. -/
theorem exec_doorbellWrite (hwin : dbWindow s d.offset = some win) (hport : d.port < 8) (hon : s.pwr.hubl = .on) (hrst : s.pwr.rst = false)
    (hopen : s.pwr.closing = false) : exec (.doorbellWrite d) s = .next (portTake s d win) := by
  simp only [exec, execDoorbellWrite, doorbell, hwin, hrst, hopen, hon]
  simp [Nat.not_le.mpr hport]

theorem portTake_off (hen : s.hub.en = false) :
    portTake s d win = rejectDb s rHubDisabled d.port win d.data d.rid d.sec (if d.whole then dbEvid d win else 0) := by
  rw [portTake, hen]; rfl

theorem portTake_size (hen : s.hub.en = true) (h : d.whole = false ∨ d.offset % 4 ≠ 0) :
    portTake s d win = rejectDb s rSize d.port win d.data d.rid d.sec 0 := by
  rw [portTake, if_neg (by simp [hen]), if_pos (by simpa using h)]

/-- A write of four whole bytes at a word's address: no SIZE rejection (R103). -/
structure WholeWord (d : DbWrite) : Prop where
  whole : d.whole = true
  aligned : d.offset % 4 = 0

theorem WholeWord.not_size (h : WholeWord d) : ¬ ((!d.whole || decide (d.offset % 4 ≠ 0)) = true) := by simp [h.whole, h.aligned]

theorem portTake_poisoned (hen : s.hub.en = true) (h : WholeWord d) (hp : d.poisoned = true) :
    portTake s d win = rejectDb s rPoisonedWrite d.port win d.data d.rid d.sec (dbEvid d win) := by
  rw [portTake, if_neg (by simp [hen]), if_neg h.not_size, if_pos hp]

theorem portTake_passed (hen : s.hub.en = true) (h : WholeWord d) (hp : d.poisoned = false) : portTake s d win = portWrite s d win := by
  rw [portTake, if_neg (by simp [hen]), if_neg h.not_size, if_neg (by simp [hp])]

/-- With no write held the intake cell takes it at once (R104). -/
theorem portWrite_taken (hcell : portCell s d.port (dbEvid d win) = some (c, handed)) (hfree : tget [] s.hub.ports d.port = []) :
    portWrite s d win = takeDoorbell s c d win handed := by
  simp only [portWrite, hcell, hfree, if_true]

/-- A write that no cell takes, or that finds others held, is held with them while they are fewer than 64 (R106). -/
theorem portWrite_held (h : portCell s d.port (dbEvid d win) = none ∨ tget [] s.hub.ports d.port ≠ []) : portWrite s d win =
    if (tget [] s.hub.ports d.port).length < 64 then
      s.modHub fun h => { h with ports := tset [] h.ports d.port (tget [] s.hub.ports d.port ++ [d]) } else s := by
  unfold portWrite
  simp only
  split
  · next hcell => rw [if_neg (h.resolve_left (by simp [hcell]))]
  · rfl

/-! ## A write in its intake cell -/

/-- The intake cell has counted the write (R462). -/
def countedWrite (s : State) (c : Nat) (handed : Bool) : State := bump (if handed then bump s (some c) 0x13 else s) (some c) 0x01

theorem counted_countedWrite (s : State) (c : Nat) (handed : Bool) : Counted s (countedWrite s c handed) := by
  unfold countedWrite
  split
  · exact (counted_bump _ _ _).trans (counted_bump _ _ _)
  · exact counted_bump _ _ _

/-- The event that a doorbell write becomes (R102, R119). -/
def doorbellToken (s : State) (d : DbWrite) (win : Bool) : Token :=
  { evid := dbEvid d win, payload := if win then d.data.extractLsb' 0 20 else 0, stamp := s.mer.now, src := .doorbell d.port win d.data, lock := .full
    rid := d.rid, sec := d.sec }

theorem takeDoorbell_low (hpost : Postable (dbEvid d win)) (hlow : d.data.toNat < 2 ^ 20) :
    takeDoorbell s c d win handed = stampSend (countedWrite s c handed) c (doorbellToken s d win) handed := by
  obtain ⟨hnone, hwired, hinternal⟩ := hpost
  have hhigh : ¬ d.data.toNat ≥ 2 ^ 20 := by omega
  simp only [takeDoorbell, hhigh, hnone, hwired, hinternal]
  simp [countedWrite, doorbellToken]

/-- In the addressed window high bits are counted and the event goes on (R113). -/
theorem takeDoorbell_highAddressed (hpost : Postable (dbEvid d true)) (hhigh : 2 ^ 20 ≤ d.data.toNat) : takeDoorbell s c d true handed =
    stampSend (rejectDb (countedWrite s c handed) rHighAddressed d.port true d.data d.rid d.sec (dbEvid d true)) c (doorbellToken s d true) handed := by
  obtain ⟨hnone, hwired, hinternal⟩ := hpost
  simp only [takeDoorbell, ge_iff_le, hhigh, hnone, hwired, hinternal]
  simp [countedWrite, doorbellToken]

theorem takeDoorbell_highClassic (hhigh : 2 ^ 20 ≤ d.data.toNat) : takeDoorbell s c d false handed =
    bump (rejectDb (countedWrite s c handed) rHighClassic d.port false d.data d.rid d.sec (dbEvid d false)) (some c) 0x12 := by
  simp only [takeDoorbell, ge_iff_le, hhigh]
  simp [countedWrite]

/-- The reasons for which an EVID is no message EVID (R113). -/
def IsRange (r : BitVec 4) : Prop := r = rEvidNone ∨ r = rEvidWired ∨ r = rEvidInternal

theorem takeDoorbell_range (hpost : ¬ Postable (dbEvid d win)) (hlow : d.data.toNat < 2 ^ 20) : ∃ r, IsRange r ∧ takeDoorbell s c d win handed =
    bump (rejectDb (countedWrite s c handed) r d.port win d.data d.rid d.sec (dbEvid d win)) (some c) 0x12 := by
  have hhigh : ¬ d.data.toNat ≥ 2 ^ 20 := by omega
  simp only [takeDoorbell, hhigh]
  by_cases hnone : dbEvid d win = 0
  · exact ⟨rEvidNone, .inl rfl, by simp [hnone, countedWrite]⟩
  · cases hwired : isWired (dbEvid d win) with
    | true => exact ⟨rEvidWired, .inr (.inl rfl), by simp [hnone, countedWrite]⟩
    | false =>
      have hinternal : isInternal (dbEvid d win) = true := by
        by_contra h
        exact hpost ⟨hnone, hwired, by simpa using h⟩
      exact ⟨rEvidInternal, .inr (.inr rfl), by simp [hnone, hinternal, countedWrite]⟩

/-! ## What a rejection leaves -/

/-- Event counters before a rejection, and messages and event counters after it, change nothing of what it leaves. -/
theorem DbRejected.between {why : BitVec 4} (hs : Counted s t) (h : DbRejected t u d why) (hv : v = { u with net := v.net, cells := v.cells })
    (hc : SameCells u v) : DbRejected s v d why := by
  have hhub : v.hub = u.hub := by rw [hv]
  have hqueues : SameQueues t u → SameQueues s v := by
    rintro ⟨hq, ht, hp, hf, hi⟩
    rw [hs.rest] at hq ht hp hf hi
    rw [hv]
    exact ⟨hq, ht, hp, hf, hi⟩
  obtain ⟨hformat, hfault, hseen, hfull, harmed, hsame, hcounters⟩ := h
  rw [hs.hub_eq] at hformat hfault hseen hfull harmed
  unfold DbRejected
  rw [hhub]
  exact ⟨hformat, hfault, hseen, hfull, harmed, hqueues hsame, (hs.cells.counters.trans hcounters).trans hc.counters⟩

theorem OnlyFault.counted {code : Nat} (h : OnlyFault s t code) (hu : Counted t u) : OnlyFault s u code := by
  intro m hm
  rw [sent_iff, hu.net_eq, ← sent_iff] at hm
  exact h m hm

/-- A write that its port rejects for its form (R103, R113). -/
theorem rejectDb_atPort {r : BitVec 4} (hr : IsFormat r) (hon : s.pwr.hubl = .on) (hrst : s.pwr.rst = false) (d : DbWrite) (win : Bool) (e : Nat) :
    DbRejected s (rejectDb s r d.port win d.data d.rid d.sec e) d r ∧ OnlyFault s (rejectDb s r d.port win d.data d.rid d.sec e) 0x12 :=
  have hraised := raised_rejectDb hr hon hrst d win e
  ⟨hraised.dbRejected hr, hraised.onlyFault rfl⟩

theorem takeDoorbell_highClassic_effect (hon : s.pwr.hubl = .on) (hrst : s.pwr.rst = false) (hhigh : 2 ^ 20 ≤ d.data.toNat) (c : Nat) (handed : Bool) :
    DbRejected s (takeDoorbell s c d false handed) d rHighClassic ∧ OnlyFault s (takeDoorbell s c d false handed) 0x12 := by
  have hcount := counted_countedWrite s c handed
  have hpwr := hcount.pwr_eq
  have hformat : IsFormat rHighClassic := .inr (.inl rfl)
  have hraised := raised_rejectDb (s := countedWrite s c handed) hformat (by rw [hpwr, hon]) (by rw [hpwr, hrst]) d false (dbEvid d false)
  have hbump := counted_bump (rejectDb (countedWrite s c handed) rHighClassic d.port false d.data d.rid d.sec (dbEvid d false)) (some c) 0x12
  rw [takeDoorbell_highClassic hhigh]
  refine ⟨(hraised.dbRejected hformat).between hcount ?_ hbump.cells, (hraised.onlyFault hcount.net_eq).counted hbump⟩
  rw [hbump.rest]

theorem takeDoorbell_highAddressed_effect (hon : s.pwr.hubl = .on) (hrst : s.pwr.rst = false) (hc : Clean s) (hpost : Postable (dbEvid d true))
    (hhigh : 2 ^ 20 ≤ d.data.toNat) (c : Nat) (handed : Bool) : DbRejected s (takeDoorbell s c d true handed) d rHighAddressed ∧
      ∃ pre, Sent (takeDoorbell s c d true handed) (.event { doorbellToken s d true with pre := pre, cell := c }) := by
  have hcount := counted_countedWrite s c handed
  have hpwr := hcount.pwr_eq
  have hformat : IsFormat rHighAddressed := .inr (.inr (.inl rfl))
  have hraised := raised_rejectDb (s := countedWrite s c handed) hformat (by rw [hpwr, hon]) (by rw [hpwr, hrst]) d true (dbEvid d true)
  have hposted := stampSend_posted (hraised.clean (hcount.clean hc)) c (doorbellToken s d true) handed
  rw [takeDoorbell_highAddressed hpost hhigh]
  exact ⟨(hraised.dbRejected hformat).between hcount hposted.rest hposted.cells, _, hposted.sent⟩

/-- An EVID that no one may post is counted (R113, R114). -/
theorem takeDoorbell_range_effect (hpost : ¬ Postable (dbEvid d win)) (hlow : d.data.toNat < 2 ^ 20) (s : State) (c : Nat) (handed : Bool) :
    ∃ cap, SameCells s (takeDoorbell s c d win handed) ∧ takeDoorbell s c d win handed =
      { s with hub := { s.hub with dbRange := satInc s.hub.dbRange, dbCap := cap }, cells := (takeDoorbell s c d win handed).cells } := by
  obtain ⟨r, hr, htake⟩ := takeDoorbell_range (s := s) (c := c) (handed := handed) hpost hlow
  have hcount := counted_countedWrite s c handed
  have hreason : ∀ h : Hub, countReason h r = { h with dbRange := satInc h.dbRange } := by
    obtain rfl | rfl | rfl := hr <;> exact fun _ => rfl
  obtain ⟨cap, hreject⟩ := rejectDb_quiet (hr.imp_right fun h => h.imp_right .inl) (countedWrite s c handed) d.port win d.data d.rid d.sec (dbEvid d win)
  have hbump := counted_bump (rejectDb (countedWrite s c handed) r d.port win d.data d.rid d.sec (dbEvid d win)) (some c) 0x12
  rw [← htake] at hbump
  refine ⟨cap, hcount.cells.trans (SameCells.trans (SameCells.of_cells ?_) hbump.cells), ?_⟩
  · rw [hreject]; rfl
  · rw [hbump.rest, hreject, hcount.rest]
    simp only [State.modHub, hreason]

/-- Settles O28: the port's checks tell the writes apart, and an intake cell that takes one sends its event or rejects it by EVID and data. -/
theorem doorbellBecomesAnOccurrence : Obligations.DoorbellBecomesAnOccurrence := by
  intro s d win hwin hport hon hrst hopen hc _
  have hexec := exec_doorbellWrite hwin hport hon hrst hopen
  refine ⟨fun c handed hen hwhole halign hclean hfree hcell => ?_, fun hen hsize => ?_, fun hen hwhole halign hpois => ?_,
    fun hen hwhole halign hclean hheld => ?_, fun hen => ?_⟩
  · rw [hexec, portTake_passed hen ⟨hwhole, halign⟩ hclean, portWrite_taken hcell hfree]
    refine ⟨fun hpost hlow => ?_, fun hpost hhigh hw => ?_, fun hhigh hw => ?_, fun hpost hlow => ?_⟩
    · have hposted := (stampSend_posted ((counted_countedWrite s c handed).clean hc) c (doorbellToken s d win) handed).after (counted_countedWrite s c handed)
      rw [← takeDoorbell_low hpost hlow] at hposted
      exact ⟨_, _, rfl, hposted.msgs, rfl, rfl, rfl, rfl, rfl, rfl, rfl, hposted.cells.counters, hposted.rest⟩
    · subst hw
      obtain ⟨hrejected, pre, hsent⟩ := takeDoorbell_highAddressed_effect hon hrst hc hpost hhigh c handed
      exact ⟨_, _, rfl, hsent, rfl, rfl, rfl, rfl, rfl, rfl, hrejected⟩
    · subst hw
      exact ⟨_, rfl, takeDoorbell_highClassic_effect hon hrst hhigh c handed⟩
    · obtain ⟨cap, hcells, hrest⟩ := takeDoorbell_range_effect hpost hlow s c handed
      refine ⟨_, rfl, ?_⟩
      generalize takeDoorbell s c d win handed = t at hcells hrest
      have hhub : t.hub = { s.hub with dbRange := satInc s.hub.dbRange, dbCap := cap } := by rw [hrest]
      exact ⟨by rw [hhub], by rw [hrest], hcells.counters, by rw [hhub]; exact hrest⟩
  · rw [hexec, portTake_size hen hsize]
    exact ⟨_, rfl, rejectDb_atPort (.inl rfl) hon hrst d win 0⟩
  · rw [hexec, portTake_poisoned hen ⟨hwhole, halign⟩ hpois]
    exact ⟨_, rfl, rejectDb_atPort (.inr (.inr (.inr rfl))) hon hrst d win (dbEvid d win)⟩
  · rw [hexec, portTake_passed hen ⟨hwhole, halign⟩ hclean, portWrite_held hheld]
    refine ⟨fun hroom => ?_, fun hfull => by rw [if_neg (by omega)]⟩
    rw [if_pos hroom]
    exact ⟨_, rfl, tget_tset_same _ _ _ _, fun p hp => (tget_tset _ _ _ _ _).trans (if_neg hp), rfl⟩
  · rw [hexec, portTake_off hen]
    obtain ⟨cap, hreject⟩ := rejectDb_quiet (r := rHubDisabled) (.inr (.inr (.inr rfl))) s d.port win d.data d.rid d.sec (if d.whole then dbEvid d win else 0)
    rw [hreject]
    exact ⟨_, rfl, rfl, rfl⟩

end Sys2Proof.Machine
end

section
/-! SUPPORT. A record that comes back from the spill ring loses its place there (R150, R151). -/

namespace Sys2Proof.Machine
open Sys2Proof

/-! ## A field book that empties its ring -/

/-- The oldest record of queue 0x1001, and one of queue 0x1002 as it stands at place 1 of the spill ring. -/
def headRecord : FbRec := { otherRecord with evid := 0x1001 }
def ringRecord : FbRec := { otherRecord with place := 1 }

/-- A device whose hub ledger cells are on, and whose field book has a full buffer, with a record of queue 0x1001 that the queue can take now,
and in its ring of 4,096 places one record of queue 0x1002. -/
def refillingBook : State := { State.reset with
  hub := { populated := 1, en := true }
  cells := [(0, { plat := [(0, 0x002), (1, 0x8000), (0x12, 12)], en := true, datum := 1 }), (1, { plat := [(0, 0x202), (1, 0x8000)], en := true, datum := 1 })]
  queues := [(0x1001, { bound := true, mode := .count, fbw := true }), (0x1002, { bound := true, mode := .count, fbw := true })]
  fb := { recs := headRecord :: List.replicate 8191 { otherRecord with evid := 0x1003 }, ring := [ringRecord], place := 2 } }

/-- The record can be released, and nothing is held or struck. -/
theorem refillingBook_ready : (fbOf refillingBook 0x1001).head? = some headRecord ∧ headRecord.dead = 0 ∧ LedgerOn refillingBook 0x1001 ∧ Clean refillingBook ∧
    NoHolds refillingBook ∧ headRecord.deferred = false ∧ (refillingBook.queue 0x1001).bound = true ∧ (refillingBook.queue 0x1001).poisoned = false ∧
    canTake refillingBook (refillingBook.queue 0x1001) = true ∧ reportWaits refillingBook 0x1001 = false ∧ refillingBook.waits = [] := by
  refine ⟨by decide +kernel, rfl, by decide +kernel, ⟨rfl, rfl⟩, by unfold NoHolds; decide +kernel, rfl, rfl, rfl, by decide +kernel, rfl, rfl⟩

/-- What FIELD_BOOK_RELEASE does (R150, R152, R216). -/
theorem exec_fieldBookRelease (s : State) (e : Nat) :
    exec (.fieldBookRelease e) s = .next (serveWaits (answerHeld (freeIntakes s (fieldBookRelease s e)))) := rfl

/-- The release makes room in the buffer, and the record of queue 0x1002 moves there, to no place of the ring (R151). -/
theorem refillingBook_release : fbOf (serveWaits (answerHeld (freeIntakes refillingBook (fieldBookRelease refillingBook 0x1001)))) 0x1002 =
    [{ ringRecord with place := 0 }] := by decide +kernel

/-- The record of queue 0x1002 stands in the ring before. -/
theorem refillingBook_ring : fbOf refillingBook 0x1002 = [ringRecord] := by decide +kernel

/-- Refutes O16: the release of a record changes what another queue's record says where the field book has spilled: `fbRefill` moves the ring's
oldest record into the room that the buffer has again, and there it has place 0, so `fbOf` of its queue is not the same. -/
theorem not_releasedRecordEntersItsQueue : ¬ Obligations.ReleasedRecordEntersItsQueue := by
  intro h
  obtain ⟨hhead, hdead, hon, hclean, hholds, hnow, hbound, hpois, htake, hreports, hwaits⟩ := refillingBook_ready
  obtain ⟨t, ht, -, hothers, -⟩ := h refillingBook 0x1001 headRecord hhead hdead hon hclean hholds (.inl hnow) hbound hpois htake hreports hwaits
  rw [exec_fieldBookRelease] at ht
  obtain rfl := Host.Outcome.next.inj ht
  have hplace := congrArg (List.map (·.place)) (hothers 0x1002 (by decide))
  rw [refillingBook_release, refillingBook_ring] at hplace
  cases hplace

end Sys2Proof.Machine
end

section
/-! SUPPORT. A gang's reservation in a table of cells that lists one slot twice (R164, R233, R351). -/

namespace Sys2Proof.Machine
open Sys2Proof

/-! ## The end of a command leaves the cells -/

/-- The notify occurrence is sent, or refused without a cell (R319). -/
theorem cells_notifyPost (s : State) (b : Box) : (notifyPost s b).cells = s.cells := by
  unfold notifyPost rejectToken bump intakeHub send
  simp only
  repeat' split
  all_goals rfl

/-- The update that ends a command leaves the cells (R330 step 5). -/
theorem cells_endCmd (s : State) (b : Box) (code : Nat) (resp : List Word) : (endCmd s b code resp).cells = s.cells := by
  unfold endCmd mbxEnd
  simp only [cells_modIsl, cells_notifyPost, cells_modMbx]

/-! ## A slot that is listed twice -/

/-- ROUTE_SET form 2 for gang 0 with 20 units, which its nibble holds as 5. -/
def gangSetting : Mbx := { op := 0x23, busy := true, args := [(0, 0x80000000), (1, 0x142000)] }

/-- A device whose table lists slot 5 first as a rank cell, whose tuning word 0x10C holds 0xF0, and once more as the gang/timing cell. -/
def twiceListed : State := { State.reset with
  hub := { populated := 1, en := true }
  cells := [(5, { plat := [(0, 0x003), (1, 0x8000)], tune := [(0x43, 0xF0)], datum := 1 }), (5, { plat := [(0, 0x006), (1, 0x8000)], datum := 1 })]
  gangs := [(0, { defined := true, members := [0] })]
  mbxN := gangSetting }

/-- The command waits, passes its checks, and names the nibble of gang 0 in cell 5. -/
theorem twiceListed_ready : Waits twiceListed .normal 0x23 ∧ EndsOk cmdRouteResv twiceListed .normal ∧ bits (argOf twiceListed .normal 0) 30 2 = 2 ∧
    bits (argOf twiceListed .normal 1) 0 10 = 0 ∧ bits (argOf twiceListed .normal 1) 12 2 = 2 ∧ gangCell twiceListed 0 = some 5 ∧ gangPos twiceListed 0 = 0 := by
  decide +kernel

/-- What the row makes of the state. -/
def gangSet : State := (cmdRouteResv (callOf twiceListed .normal) twiceListed).st

theorem twiceListed_set {t : State} (h : exec (.routeSetReservation .normal) twiceListed = .next t) : t.cells = gangSet.cells := by
  have ht : t = endCmd (cmdRouteResv (callOf twiceListed .normal) twiceListed).st .normal cOk [20] := by
    refine (Host.Outcome.next.inj h).symm.trans ?_
    rfl
  rw [ht, cells_endCmd]
  rfl

/-- The byte 0xF5 that the write gives the tuning word is one of a rank cell, which stores 0x40. -/
theorem gangSet_nibble : bits (tuneWord (gangSet.cell 5) 0) 0 4 = 0 := by decide +kernel

/-- Refutes O43: the setting of a gang is not always in its nibble. `gangCell` finds the entry of the cells' table that holds the role, and the write
goes to the entry that the table lists first under that number; where a table lists the slot twice, first as a rank cell, `tuneValue` stores a byte
above 64 as 64 (R164), and the nibble is lost. The statement ranges over every table. -/
theorem not_queueSetAndRouteSetTakeEffect : ¬ Obligations.QueueSetAndRouteSetTakeEffect := by
  intro h
  obtain ⟨hwaits, hok, hform, hgang, hkind, hcell, hpos⟩ := twiceListed_ready
  obtain ⟨u, hu, -, hnibble, -⟩ := h.2.2.2.2.2 twiceListed .normal 0 hwaits hok hform hgang.symm hkind
  obtain ⟨hstored, -⟩ := hnibble 5 hcell (by rw [hpos]; decide)
  have hcells : u.cells = gangSet.cells := (cells_endCmd u .normal cOk _).symm.trans (twiceListed_set hu)
  have hu5 : u.cell 5 = gangSet.cell 5 := by unfold State.cell; rw [hcells]
  rw [hu5, hpos, gangSet_nibble] at hstored
  exact absurd hstored (by decide +kernel)

end Sys2Proof.Machine
end

section
/-! SUPPORT. Oscillators, the pool audit, status blocks, aggregation intervals and reports (R158, R381, R419, R435, R460, R477). -/

namespace Sys2Proof.Machine
open Sys2Proof

variable {s t u : State}

/-! ## The oscillator -/

/-- The raising of AON_BACKUP goes by the hub or is held for it, and one entry goes to the log (R435, R476). -/
theorem raise_backup (s : State) : ∃ u, raise s 0x0B 13 false 0 12 0 none = log u 0x0B 13 false 0 12 0 ∧
    u = { s with hub := u.hub, net := u.net, pwr := { s.pwr with faults := u.pwr.faults } } := by
  unfold raise
  simp only [show faultParcel s 0x0B 0 12 = (0, 0) from rfl, true_or, if_true]
  refine ⟨_, rfl, ?_⟩
  split
  · split <;> rfl
  · rfl

theorem hubRamps_eq (s : State) : hubRamps s = { s with pwr := { s.pwr with
    hubl := (hubRamps s).pwr.hubl, hubm := (hubRamps s).pwr.hubm, bring := (hubRamps s).pwr.bring } } := by
  unfold hubRamps
  split <;> rfl

/-- The time for the RC oscillator is over: the backup serves, and one entry goes to the log (R435). -/
theorem rcOscTimeout_effect (hback : s.pwr.backup = false) (hstart : s.pwr.bring = 6 ∨ s.isl.booting = some 0) :
    ∃ t, exec .rcOscTimeout s = .next t ∧ t.pwr.backup = true ∧ Logged s t 0x0B 0 12 0 ∧ SameQueues s t ∧ t.cells = s.cells ∧ t.outs = s.outs ∧
      t.mer = s.mer := by
  have hexec : exec .rcOscTimeout s = .next (raise ((hubRamps s).modPwr fun p => { p with backup := true }) 0x0B 13 false 0 12 0 none) := by
    simp only [exec, execRcOscTimeout]
    rw [if_neg (by rw [hback]; obtain h | h := hstart <;> simp [h])]
  obtain ⟨u, hu, hframe⟩ := raise_backup ((hubRamps s).modPwr fun p => { p with backup := true })
  rw [hubRamps_eq] at hframe
  have hisl : u.isl = s.isl := by rw [hframe]; rfl
  refine ⟨_, hexec.trans (congrArg _ hu), ?_, log_logged (by rw [hisl]; exact ⟨rfl, rfl⟩) _ _ _ _ _ _, ?_⟩
  all_goals
    rw [show log u 0x0B 13 false 0 12 0 = { u with isl := (log u 0x0B 13 false 0 12 0).isl } from rfl]
    generalize (log u 0x0B 13 false 0 12 0).isl = x
    rw [hframe]
  · rfl
  · exact ⟨⟨rfl, rfl, rfl, rfl, rfl⟩, rfl, rfl, rfl⟩

/-! ## The pool audit -/

/-- Slots have been freed: their parcels' accounts and over-quota flags follow, and the status blocks are to be written (R142, R147, R381). -/
def SlotsFreed (s t : State) : Prop :=
  t = { s with queues := t.queues, pool := t.pool, parcels := t.parcels, parcel0 := t.parcel0, isl := { s.isl with easement := t.isl.easement } }

theorem SlotsFreed.trans (h1 : SlotsFreed s t) (h2 : SlotsFreed t u) : SlotsFreed s u := by
  unfold SlotsFreed at *
  rw [h2, h1]

theorem slotsFreed_touch (s : State) (p : Nat) : SlotsFreed s (touch s p) := by
  unfold touch
  split <;> rfl

theorem slotsFreed_modParcel (s : State) (p : Nat) (f : Parcel → Parcel) : SlotsFreed s (s.modParcel p f) := by
  unfold SlotsFreed
  rw [modParcel_eq]

theorem slotsFreed_quotaCheck (s : State) (p : Nat) : SlotsFreed s (quotaCheck s p) := by
  unfold quotaCheck
  simp only
  split
  · exact ((slotsFreed_modParcel s p _).trans (slotsFreed_touch _ p)).trans rfl
  · rfl

theorem slotsFreed_poolFreeSlot (s : State) (n : Nat) : SlotsFreed s (poolFreeSlot s n) :=
  ((SlotsFreed.trans (t := s.setSlot n {}) rfl (slotsFreed_modParcel _ _ _)).trans (slotsFreed_quotaCheck _ _)).trans (slotsFreed_touch _ _)

/-- A freed slot is empty, and no other slot differs (R142). -/
theorem slot_poolFreeSlot (s : State) (n i : Nat) : (poolFreeSlot s n).slot i = if i = n then {} else s.slot i := by
  obtain ⟨-, hpool, -⟩ := quotaCheck_effect ((s.setSlot n {}).modParcel (s.slot n).parcel fun x => { x with used := x.used - 1, owed := x.owed - 1 })
    (s.slot n).parcel 0
  have hsame : (poolFreeSlot s n).pool = (s.setSlot n {}).pool := by
    unfold poolFreeSlot
    simp only [pool_touch]
    exact hpool.trans (by simp)
  rw [← slot_setSlot, State.slot, hsame]
  rfl

theorem slot_freeAll (ns : List Nat) (s : State) (i : Nat) : (forAll s ns poolFreeSlot).slot i = if i ∈ ns then {} else s.slot i := by
  unfold forAll
  induction ns generalizing s with
  | nil => simp
  | cons n ns ih =>
    rw [List.foldl_cons, ih, slot_poolFreeSlot]
    by_cases hi : i = n <;> by_cases hm : i ∈ ns <;> simp [hi, hm]

/-- The audit finds no error where nothing is struck (R157, R158). -/
theorem auditQueue_clean (he : s.ecc = []) (e : Nat) : auditQueue s e = s := by
  unfold auditQueue
  rw [descRead_clean he]
  refine forAll_keeps (P := fun u => u = s) (fun u hu n _ => ?_) rfl
  rw [hu]
  simp only [strike_clean he]
  rfl

/-- The slots in use that no queue reaches (R142, R158). -/
def lostSlots (s : State) : List Nat :=
  (s.pool.filter fun x => x.2.used && decide (x.1 ∉ s.queues.flatMap fun q => queueSlots s q.2)).map (·.1)

/-- The lost slots are free again, and no log entry has gone ahead of the audit's own. -/
def audited (s : State) (rest : List Nat) : State := (forAll s (lostSlots s) poolFreeSlot).modIsl fun x => { x with auditFor := rest }

theorem exec_poolAuditDone (he : s.ecc = []) {p : Nat} {rest : List Nat} (hfor : s.isl.auditFor = p :: rest) :
    exec .poolAuditDone s = .next (log (audited s rest) 0x87 13 false (w32 p) (w32 (lostSlots s).length) 0) := by
  have haudit : forAll s (tkeys s.queues) auditQueue = s :=
    forAll_keeps (P := fun u => u = s) (fun u hu e _ => by rw [hu, auditQueue_clean he]) rfl
  simp only [exec, execPoolAuditDone, hfor, haudit]
  rfl

/-- What a table reads beside its default stands in it. -/
theorem mem_of_tget {α : Type} {d : α} {t : Tab α} {n : Nat} (h : tget d t n ≠ d) : (n, tget d t n) ∈ t := by
  induction t with
  | nil => exact absurd rfl h
  | cons x xs ih =>
    simp only [tget] at h ⊢
    split at h
    · next hx => rw [if_pos hx, ← hx]; exact List.mem_cons_self
    · next hx => rw [if_neg hx]; exact List.mem_cons_of_mem _ (ih h)

/-- A slot in use is listed where it is read. -/
theorem mem_pool {i : Nat} (h : (s.slot i).used = true) : (i, s.slot i) ∈ s.pool :=
  mem_of_tget fun hd => by rw [State.slot, hd] at h; cases h

theorem poolAuditDone_effect (he : s.ecc = []) {p : Nat} {rest : List Nat} (hfor : s.isl.auditFor = p :: rest) :
    ∃ t n, exec .poolAuditDone s = .next t ∧ t.isl.auditFor = rest ∧
      (∀ i, (s.slot i).used = true → (∀ q ∈ s.queues, i ∉ queueSlots s q.2) → t.slot i = {}) ∧
      (∀ i, (∃ q ∈ s.queues, i ∈ queueSlots s q.2) → t.slot i = s.slot i) ∧ Logged s t 0x87 (w32 p) n 0 ∧
      t.fb = s.fb ∧ t.stns = s.stns ∧ t.cells = s.cells := by
  have hframe : SlotsFreed s (forAll s (lostSlots s) poolFreeSlot) :=
    forAll_rel (R := SlotsFreed) (fun _ => rfl) SlotsFreed.trans _ slotsFreed_poolFreeSlot _ s
  have hslot (i : Nat) : (log (audited s rest) 0x87 13 false (w32 p) (w32 (lostSlots s).length) 0).slot i = if i ∈ lostSlots s then {} else s.slot i :=
    slot_freeAll _ s i
  refine ⟨_, _, exec_poolAuditDone he hfor, ?_, fun i hused hlost => ?_, fun i hlive => ?_, log_logged ?_ _ _ _ _ _ _, ?_, ?_, ?_⟩
  · unfold log logTake State.modIsl audited
    dsimp only
    split <;> rfl
  · rw [hslot, if_pos]
    refine List.mem_map.mpr ⟨_, List.mem_filter.mpr ⟨mem_pool hused, ?_⟩, rfl⟩
    simpa [hused] using hlost
  · rw [hslot, if_neg]
    intro hmem
    obtain ⟨x, hx, rfl⟩ := List.mem_map.mp hmem
    obtain ⟨q, hq, hi⟩ := hlive
    have hno := (List.mem_filter.mp hx).2
    simp only [Bool.and_eq_true, decide_eq_true_eq, List.mem_flatMap, not_exists, not_and] at hno
    exact hno.2 q hq hi
  · unfold audited
    rw [hframe]
    exact ⟨rfl, rfl⟩
  · show (forAll s (lostSlots s) poolFreeSlot).fb = s.fb
    rw [hframe]
  · show (forAll s (lostSlots s) poolFreeSlot).stns = s.stns
    rw [hframe]
  · show (forAll s (lostSlots s) poolFreeSlot).cells = s.cells
    rw [hframe]

/-! ## Status blocks -/

theorem find_zip_range (a : Nat) (bs : List (BitVec 8)) (x : Nat) :
    (((List.range' a bs.length).zip bs).find? fun y => decide (y.1 = x)).map (·.2) = if a ≤ x then bs[x - a]? else none := by
  induction bs generalizing a with
  | nil => simp
  | cons b bs ih =>
    rw [List.length_cons, List.range'_succ, List.zip_cons_cons, List.find?_cons]
    by_cases hx : a = x
    · simp [hx]
    · rw [decide_eq_false hx]
      simp only [ih]
      by_cases hle : a ≤ x
      · rw [if_pos (by omega), if_pos hle, show x - a = (x - (a + 1)) + 1 by omega, List.getElem?_cons_succ]
      · rw [if_neg (by omega), if_neg hle]

/-- A search among the bytes that a test keeps, where the test goes by the address alone. -/
theorem find_among (m : List Host.Cell) (x : Nat) (keep : Nat → Bool) :
    (m.find? fun y => keep y.1 && decide (y.1 = x)) = if keep x then m.find? fun y => decide (y.1 = x) else none := by
  induction m with
  | nil => simp
  | cons y m ih =>
    rw [List.find?_cons, List.find?_cons, ih]
    by_cases hy : y.1 = x
    · cases hk : keep x <;> simp [hy, hk]
    · simp [hy]

/-- What system memory reads after a write (R24). -/
theorem memByte_memWrite (m : List Host.Cell) (a : Nat) (bs : List (BitVec 8)) (x : Nat) :
    memByte (memWrite m a bs) x = if a ≤ x ∧ x < a + bs.length then bs[x - a]? else memByte m x := by
  have hzip := find_zip_range a bs x
  have hlow := find_among m x fun y => decide (y < a)
  have hhigh := find_among m x fun y => decide (a + bs.length ≤ y)
  unfold memByte memWrite
  simp only [List.find?_append, List.find?_filter, Bool.decide_and, Bool.decide_eq_true]
  rw [hlow, hhigh]
  by_cases hx : x < a
  · have hnone : ((List.range' a bs.length).zip bs).find? (fun y => decide (y.1 = x)) = none := by
      rw [if_neg (by omega)] at hzip
      exact Option.map_eq_none_iff.mp hzip
    rw [hnone, if_pos (decide_eq_true hx), if_neg (by simp; omega), if_neg (by omega)]
    simp
  · rw [if_neg (by simpa using hx), Option.none_or]
    rw [if_pos (by omega)] at hzip
    by_cases hlt : x < a + bs.length
    · rw [if_neg (by simpa using hlt), if_pos ⟨by omega, hlt⟩, Option.or_none, hzip]
    · rw [List.getElem?_eq_none (by omega), Option.map_eq_none_iff] at hzip
      rw [hzip, if_pos (by simpa using hlt), if_neg (by omega), Option.none_or]

theorem length_flatMap_wordBytes (ws : List Word) : (ws.flatMap wordBytes).length = 4 * ws.length := by
  induction ws with
  | nil => rfl
  | cons w ws ih => rw [List.flatMap_cons, List.length_append, ih, List.length_cons]; simp [wordBytes]; omega

/-- A status block is 256 bytes, and begins with its SEQ (R380). -/
theorem statusBytes_length (s : State) (p : Nat) (seq : Word) : ((statusWords s p seq).flatMap wordBytes).length = 256 := by
  rw [length_flatMap_wordBytes]
  simp [statusWords]

theorem statusBytes_seq (s : State) (p : Nat) (seq : Word) {i : Nat} (h : i < 4) :
    ((statusWords s p seq).flatMap wordBytes)[i]? = (wordBytes seq)[i]? := by
  rw [statusWords, List.append_assoc, List.cons_append, List.flatMap_cons]
  exact List.getElem?_append_left h

/-- A block that is written whole (R381). -/
theorem easementStatusWrite_written {p : Nat} (hp : p ∈ s.isl.easement) (hon : s.pwr.hubl = .on) (he : s.ecc = []) :
    ∃ t, exec (.easementStatusWrite p true) s = .next t ∧ (t.parcel p).seq = (s.parcel p).seq + 2 ∧ (t.parcel p).retry = false ∧ p ∉ t.isl.easement ∧
      MemoryOutside s t (s.parcel p).page.toNat 256 ∧ (∀ i, i < 4 → memByte t.mem ((s.parcel p).page.toNat + i) = (wordBytes ((s.parcel p).seq + 2))[i]?) ∧
      SameQueues s t ∧ ∀ q, q ≠ p → t.parcel q = s.parcel q := by
  have hexec : exec (.easementStatusWrite p true) s = .next (writeBlock s p) := by
    simp [exec, execEasementStatusWrite, hp, hon]
  unfold writeBlock at hexec
  rw [he, if_neg (by simp)] at hexec
  dsimp only at hexec
  have hparcel (q : Nat) := parcel_modParcel s p q fun x => { x with seq := (s.parcel p).seq + 2, retry := false }
  generalize hu : (s.modParcel p fun x => { x with seq := (s.parcel p).seq + 2, retry := false }) = u at hexec hparcel
  have hframe : u.mem = s.mem ∧ SameQueues s u := by
    rw [← hu]
    exact ⟨by simp, by simp [SameQueues]⟩
  obtain ⟨hmem, hqueues⟩ := hframe
  refine ⟨_, hexec, ?_, ?_, ?_, fun x hx => ?_, fun i hi => ?_, hqueues, fun q hq => (hparcel q).trans (if_neg hq)⟩
  · exact congrArg Parcel.seq ((hparcel p).trans (if_pos rfl))
  · exact congrArg Parcel.retry ((hparcel p).trans (if_pos rfl))
  · exact fun hmem => absurd rfl (of_decide_eq_true (List.mem_filter.mp hmem).2)
  · refine (memByte_memWrite _ _ _ x).trans ?_
    rw [statusBytes_length, if_neg (by omega), hmem]
  · refine (memByte_memWrite _ _ _ _).trans ?_
    rw [statusBytes_length, if_pos (by omega), Nat.add_sub_cancel_left]
    exact statusBytes_seq _ _ _ hi

theorem blockError_eq (s : State) (p : Nat) : blockError s p = { s with
    ecc := (blockError s p).ecc, parcels := (blockError s p).parcels, parcel0 := (blockError s p).parcel0, isl := (blockError s p).isl } := by
  unfold blockError
  dsimp only
  rw [modParcel_eq]
  rfl

/-- The write of a block fails: that is shown, and the bytes stay (R381). -/
theorem easementStatusWrite_failed {p : Nat} (hp : p ∈ s.isl.easement) (hon : s.pwr.hubl = .on) :
    ∃ t, exec (.easementStatusWrite p false) s = .next t ∧ (t.parcel p).retry = true ∧ (t.parcel p).seq = (s.parcel p).seq + 2 ∧ t.mem = s.mem ∧
      SameQueues s t := by
  have hexec : exec (.easementStatusWrite p false) s = .next (blockError s p) := by
    simp [exec, execEasementStatusWrite, hp, hon]
  have hparcel : (blockError s p).parcel p = { s.parcel p with retry := true, seq := (s.parcel p).seq + 2 } :=
    (parcel_modParcel _ p p _).trans (if_pos rfl)
  refine ⟨_, hexec, by rw [hparcel], by rw [hparcel], ?_⟩
  rw [blockError_eq]
  exact ⟨rfl, rfl, rfl, rfl, rfl, rfl⟩

/-! ## Aggregation intervals and reports -/

/-- An aggregation interval ends: its further raisings make one entry, and one without any is over (R477). -/
theorem logAggregateFlush_effect {a : Agg} (hfind : s.isl.aggs.find? (fun x => decide (x.code = a.code) && decide (x.key = a.key)) = some a)
    (hspan : aggSpan ≤ (meridian s - a.start).toNat) :
    (∀ e n, a.more = some (e, n) → ∃ t, exec (.logAggregateFlush a.code a.key) s = .next t ∧ Logged s t e.code.toNat e.arg0 e.arg1 (BitVec.ofNat 32 n) ∧
      t = { s with isl := t.isl }) ∧
    (a.more = none → ∃ t, exec (.logAggregateFlush a.code a.key) s = .next t ∧ (∀ x ∈ t.isl.aggs, ¬ (x.code = a.code ∧ x.key = a.key)) ∧
      t = { s with isl := { s.isl with aggs := t.isl.aggs } }) := by
  have hflush : exec (.logAggregateFlush a.code a.key) s = .next (aggFlush s a.code a.key) := rfl
  unfold aggFlush at hflush
  simp only [hfind, if_neg (Nat.not_lt.mpr hspan)] at hflush
  refine ⟨fun e n hmore => ?_, fun hmore => ?_⟩ <;> rw [hmore] at hflush <;> refine ⟨_, hflush, ?_, ?_⟩
  · unfold logTake State.modIsl
    dsimp only
    constructor
    · intro h
      rw [if_pos h]
      exact ⟨_, rfl, by simp, rfl, rfl, rfl⟩
    · intro h
      rw [if_neg (by omega)]
      exact ⟨rfl, rfl⟩
  · rfl
  · intro x hx
    exact not_and_or.mpr (by simpa using (List.mem_filter.mp hx).2)
  · rfl

/-- The oldest report is sent, behind the entry of those that were dropped (R460). -/
theorem sidebandReport_effect {e : LogEntry} {rest : List LogEntry} (hrep : s.isl.reports = e :: rest) (hruns : wairoRuns s = true) (hmode : s.pwr.mode ≠ .sleep) :
    ∃ t, exec .sidebandReport s = .next t ∧ t.isl.reports = rest ∧ t.isl.repDrop = 0 ∧ t.isl.sent.getLast? = some (hideArgs e true) ∧
      (s.isl.repDrop = 0 → t.isl.sent = [hideArgs e true]) ∧
      t = { s with isl := { s.isl with reports := t.isl.reports, repDrop := t.isl.repDrop, sent := t.isl.sent }
                   out := { s.out with vid := s.isl.straps.vid, ibi := true } } := by
  simp only [exec, execSidebandReport, hrep]
  rw [if_neg (by simp [hruns, hmode])]
  exact ⟨_, rfl, rfl, rfl, List.getLast?_concat, fun h => by simp [State.modIsl, h], rfl⟩

/-! ## The statement -/

/-- Settles O50: each row is one update, and each clause reads off it what the log takes and what the update leaves. -/
theorem islandHousekeepingTakesEffect : Obligations.IslandHousekeepingTakesEffect := by
  refine ⟨fun s => rcOscTimeout_effect, fun s hback hmode => ?_, fun s d hoff => ?_, fun s p rest hfor hc => poolAuditDone_effect hc.1 hfor,
    fun s p hp hon he => ⟨easementStatusWrite_written hp hon he, easementStatusWrite_failed hp hon⟩, fun s a => logAggregateFlush_effect,
    fun s e rest => sidebandReport_effect⟩
  · simp only [exec, execRcOscRetry]
    rw [if_pos ⟨hback, trivial, hmode⟩]
    rfl
  · simp only [exec, execPdGoodStillAsserted]
    rw [if_pos hoff]
    exact ⟨_, rfl, log_logged ⟨rfl, rfl⟩ _ _ _ _ _ _, rfl⟩

end Sys2Proof.Machine
end

section
/-! SUPPORT. The seats of a tournament, and the watch over the request levels (R165, R462). -/

namespace Sys2Proof.Machine
open Sys2Proof

variable {s t : State}

/-! ## Seats -/

theorem putSeats_eq (s : State) (n : Nat) (r : Tour) (xs : List Seat) :
    putSeats s n r xs = { s with stns := (putSeats s n r xs).stns, ctxs := (putSeats s n r xs).ctxs } := by
  unfold putSeats
  split
  · rfl
  · rfl
  · split <;> rfl

/-- The seats of a tournament go by the stations and the contexts. -/
theorem seatsOf_congr (hs : t.stns = s.stns) (hx : t.ctxs = s.ctxs) (n : Nat) (r : Tour) : seatsOf t n r = seatsOf s n r := by
  unfold seatsOf State.stn State.ctx
  rw [hs, hx]

/-- What a tournament seats after a change of its seats; the virtual one of a station without a resident vCPU has none. -/
theorem seatsOf_putSeats (s : State) (n : Nat) (r : Tour) (xs : List Seat) (h : r = .virt → (s.stn n).resident = none → xs = []) :
    seatsOf (putSeats s n r xs) n r = xs := by
  cases r with
  | normal => simp [putSeats, seatsOf, State.modGrp, stn_modStn]
  | secure => simp [putSeats, seatsOf, State.modGrp, stn_modStn]
  | virt =>
    cases hv : (s.stn n).resident with
    | none => simp [putSeats, seatsOf, hv, h rfl hv]
    | some v =>
      have hstn (f : Ctx → Ctx) : ((s.modCtx v f).stn n).resident = some v := hv
      simp [putSeats, seatsOf, hv, hstn, ctx_modCtx]

theorem secureParity_clean (h : s.parity = []) (n : Nat) : secureParity s n = s := if_pos h

/-! ## The watch -/

/-- The watch over the request levels counts in cells alone (R462). -/
theorem reqWatch_same (n : Nat) (s0 s : State) : SameCells s (reqWatch n s0 s) := by
  have hrise (b0 b1 : Bool) (u : State) (h : SameCells s u) : SameCells s (if !b0 && b1 then bump u (deliveryCell u n) 0x47 else u) := by
    split
    · exact h.trans (bump_same _ _ _)
    · exact h
  exact hrise _ _ _ (hrise _ _ _ (hrise _ _ _ (SameCells.refl s)))

end Sys2Proof.Machine
end

section
/-! SUPPORT. The age scan and the visits of seats (R145, R167, R170, R186, R480). -/

namespace Sys2Proof.Machine
open Sys2Proof

variable {s t : State} {e : Nat}

/-! ## A candidate that is handed out is on its way -/

/-- A hand-out that changes the queue's state sends a message that carries the candidate (R138). -/
theorem handOut_sends (hst : (s.queue e).state = .pending) (hout : ((handOut s e .presented).queue e).state = .presented) :
    ∃ m, Sent (handOut s e .presented) m ∧ msgHas e m = true := by
  have hcand : decide ((candOf s e).evid = e) = true := decide_eq_true rfl
  cases hr : (s.queue e).route with
  | station n =>
    cases hd : resolve s n (s.queue e).secure with
    | none =>
      have h : handOut s e .presented = s.modQueue e fun x => { x with heldFor := some (n / 48) } := by simp [handOut, hr, hd]
      rw [h, queue_modQueue, if_pos rfl] at hout
      rw [hst] at hout
      cases hout
    | some d =>
      simp only [handOut, hr, hd]
      split <;> exact ⟨_, sent_sendFrom _ _ _ _ _, hcand⟩
  | spread n =>
    by_cases hh : spreadHeld s n (s.queue e) = true
    · have h : handOut s e .presented = s := by simp [handOut, hr, hh]
      rw [h, hst] at hout
      cases hout
    · simp only [handOut, hr]
      rw [if_neg hh]
      exact ⟨_, sent_sendFrom _ _ _ _ _, hcand⟩
  | context v =>
    simp only [handOut, hr]
    exact ⟨_, sent_sendFrom _ _ _ _ _, hcand⟩
  | gang g =>
    simp only [handOut, hr]
    exact ⟨_, sent_sendFrom _ _ _ _ _, hcand⟩

theorem offer_sends (he : s.ecc = []) (hst : (s.queue e).state = .pending) (hout : ((offer s e).queue e).state = .presented) :
    ∃ m, Sent (offer s e) m ∧ msgHas e m = true := by
  obtain h | ⟨-, h⟩ | ⟨hactive, -⟩ := offer_cases he e
  · rw [h, hst] at hout; cases hout
  · rw [h] at hout ⊢; exact handOut_sends hst hout
  · rw [hst] at hactive; cases hactive

/-- What an offer leaves of a queue that has handed something out: it is so still. -/
theorem offer_out (he : s.ecc = []) (h : (s.queue e).handed = true ∨ (s.queue e).busy = true) :
    ((offer s e).queue e).handed = true ∨ ((offer s e).queue e).busy = true := by
  unfold Queue.handed Queue.busy at *
  obtain ⟨-, hs | ⟨-, hs⟩ | ⟨-, -, hs⟩⟩ := offer_queue he e <;> rw [hs]
  · exact h
  · exact .inl rfl
  · exact .inr rfl

/-! ## The age scan -/

/-- The queue's oldest occurrence has reached the age limit (R145). -/
def ageReached (s : State) (e : Nat) : Bool :=
  (decide ((s.queue e).count ≠ 0) || ((s.queue e).busy && decide ((s.queue e).mode ≠ .payload))) &&
    decide (age23 (copyOf s (ownerUnit e)) (headOf s e).2.1 ≥ ageMark)

/-- The queue as the scan has marked it. -/
def ageMarked (s : State) (e : Nat) : State := if ageReached s e then s.modQueue e fun x => { x with aged := true } else s

/-- The scan asks the holder after what the queue has handed out (R480). -/
def asked (s : State) (e : Nat) : State :=
  if (s.queue e).handed ∨ (s.queue e).busy then sendFrom s (ledgerCell s e) (.holderAsk e) (holderCell s e).2.1.1 (holderCell s e).2.1.2 else s

theorem offered_ageMarked (s : State) (e : Nat) : Offered s (ageMarked s e) e := by
  unfold ageMarked
  split
  · exact offered_modQueue s e _
  · exact Offered.refl s e

theorem ageMarked_queue (s : State) (e : Nat) : (ageMarked s e).queue e = { s.queue e with aged := (s.queue e).aged || ageReached s e } := by
  unfold ageMarked
  cases ageReached s e with
  | true => rw [if_pos rfl, queue_modQueue, if_pos rfl, Bool.or_true]
  | false => rw [if_neg (by simp), Bool.or_false]

theorem offered_asked (s : State) (e : Nat) : Offered s (asked s e) e := by
  unfold asked
  split
  · exact offered_sendFrom _ _ _ _ _ _
  · exact Offered.refl s e

theorem asked_queue (s : State) (e : Nat) : (asked s e).queue e = s.queue e := by
  unfold asked
  split
  · exact queue_sendFrom _ _ _ _ _ _
  · rfl

theorem exec_ageScanVisit (hb : (s.queue e).bound = true) (hp : (s.queue e).poisoned = false) (hon : LedgerOn s e) (he : s.ecc = []) :
    exec (.ageScanVisit e) s = .next (asked (offerAgain (ageMarked s e) e) e) := by
  have hem : (ageMarked s e).ecc = [] := (offered_ageMarked s e).ecc_eq.trans he
  have hcell : ledgerCell (offerAgain (ageMarked s e) e) e = ledgerCell s e :=
    ((offered_ageMarked s e).trans (offered_offerAgain hem e)).cells.ledgerCell e
  have hmark : (if ((s.queue e).count ≠ 0 ∨ ((s.queue e).busy ∧ (s.queue e).mode ≠ .payload)) ∧ age23 (copyOf s (ownerUnit e)) (headOf s e).2.1 ≥ ageMark
      then s.modQueue e fun x => { x with aged := true } else s) = ageMarked s e := by
    unfold ageMarked ageReached
    simp
  simp only [exec, execAgeScanVisit, descRead_clean he, strike_clean he, ite_self, hp, hb, hmark]
  rw [if_neg (by simpa using hon), if_neg (by simp), if_neg (by simp), asked, hcell]

/-- The scan's visit of a queue: what it marks, offers and asks, and what it leaves (R145, R170, R480). -/
theorem ageScanVisit_effect (hb : (s.queue e).bound = true) (hp : (s.queue e).poisoned = false) (hon : LedgerOn s e) (he : s.ecc = []) :
    ∃ t, exec (.ageScanVisit e) s = .next t ∧ (t.queue e).aged = ((s.queue e).aged || ageReached s e) ∧
      (t.queue e).count = (s.queue e).count ∧ (((s.queue e).handed = true ∨ (s.queue e).busy = true) → Sent t (.holderAsk e)) ∧
      ((s.queue e).state = .pending → waiting (s.queue e) = true → (s.queue e).recalled = false →
        ((t.queue e).state = .presented ∧ ∃ m, Sent t m ∧ msgHas e m = true) ∨
        ((t.queue e).state = .pending ∧ ((∃ n, (s.queue e).route = .station n ∧ (t.queue e).heldFor = some (n / 48)) ∨
          ∃ n, (s.queue e).route = .spread n ∧ spreadHeld s n (s.queue e) = true))) ∧
      OtherQueues s t e ∧ CountersOnly s t ∧ t = { s with queues := t.queues, net := t.net, outs := t.outs, cells := t.cells } := by
  refine ⟨_, exec_ageScanVisit hb hp hon he, ?_⟩
  have hmark := offered_ageMarked s e
  have hqueue := ageMarked_queue s e
  generalize ageMarked s e = u at *
  have heu : u.ecc = [] := hmark.ecc_eq.trans he
  have hoffer := hmark.trans (offered_offerAgain heu e)
  have hask := hoffer.trans (offered_asked (offerAgain u e) e)
  have hunparked : (u.modQueue e fun x => { x with parked := false }).queue e = { u.queue e with parked := false } := (queue_modQueue u e e _).trans (if_pos rfl)
  obtain ⟨hpres, -⟩ := offer_queue (s := u.modQueue e fun x => { x with parked := false }) heu e
  rw [hunparked, hqueue] at hpres
  have haged : ((offerAgain u e).queue e).aged = _ := congrArg Queue.aged hpres
  have hcount : ((offerAgain u e).queue e).count = _ := congrArg Queue.count hpres
  rw [asked_queue]
  refine ⟨haged, hcount, fun hout => ?_, fun hst hw hrec => ?_, hask.other, hask.cells.counters, ?_⟩
  · have hstill : ((offerAgain u e).queue e).handed = true ∨ ((offerAgain u e).queue e).busy = true :=
      offer_out (s := u.modQueue e fun x => { x with parked := false }) heu (by rw [hunparked, hqueue]; exact hout)
    unfold asked
    rw [if_pos hstill]
    exact sent_sendFrom _ _ _ _ _
  · have hon' : LedgerOn u e := by unfold LedgerOn; rw [hmark.cells.ledgerCell, hmark.cells.onCell]; exact hon
    have hretry := offerAgain_retried (s := u) (t := u) (.of_offered (.refl u e)) heu
      ⟨by rw [hqueue]; exact hb, by rw [hqueue]; exact hp, by rw [hqueue]; exact hrec, hon', by rw [hqueue]; exact hw⟩ (by rw [hqueue]; exact hst) (.inl rfl)
    obtain ⟨-, hout | ⟨hpend, hheld⟩⟩ := hretry
    · have hsend := offer_sends (s := u.modQueue e fun x => { x with parked := false }) heu (by rw [hunparked, hqueue]; exact hst) hout
      obtain ⟨m, ⟨k, hk, hkm⟩, hm⟩ := hsend
      exact .inl ⟨hout, m, ⟨k, (offered_asked (offerAgain u e) e).net k hk, hkm⟩, hm⟩
    · refine .inr ⟨hpend, hheld.imp (fun ⟨n, hn, hf⟩ => ⟨n, ?_, hf⟩) fun ⟨n, hn, hf, _⟩ => ⟨n, ?_, ?_⟩⟩
      · rwa [hqueue] at hn
      · rwa [hqueue] at hn
      · rw [(SameRoutes.of_offered hmark).spreadHeld, hqueue] at hf
        exact hf
  · rw [hask.rest]

/-! ## Visits of seats -/

theorem seatAgeVisit_station {n : Nat} (r : Tour) (hon : rankOn s n = true) (hc : Clean s) :
    ∃ t, exec (.seatAgeVisit (.station n r) e) s = .next t ∧ seatsOf t n r = ageSeats (s.op (n / 48)).copy e (seatsOf s n r) ∧
      t = { s with stns := t.stns, ctxs := t.ctxs, cells := t.cells } ∧ CountersOnly s t := by
  have hexec : exec (.seatAgeVisit (.station n r) e) s =
      .next (reqWatch n s (putSeats s n r (ageSeats (s.op (n / 48)).copy e (seatsOf s n r)))) := by
    simp only [exec, execSeatAgeVisit, secureParity_clean hc.2, strike_clean hc.1]
    rw [if_neg (by simp [hon]), if_neg (by simp)]
  have hput := putSeats_eq s n r (ageSeats (s.op (n / 48)).copy e (seatsOf s n r))
  have hseats : seatsOf (putSeats s n r (ageSeats (s.op (n / 48)).copy e (seatsOf s n r))) n r = ageSeats (s.op (n / 48)).copy e (seatsOf s n r) :=
    seatsOf_putSeats s n r _ fun hr hv => by subst hr; simp [seatsOf, hv, ageSeats]
  generalize putSeats s n r (ageSeats (s.op (n / 48)).copy e (seatsOf s n r)) = u at *
  have hwatch := reqWatch_eq n s u
  refine ⟨_, hexec, ?_, ?_, ?_⟩
  · rw [hwatch]
    exact hseats
  · rw [hwatch, hput]
  · refine CountersOnly.trans (.of_cells ?_) (reqWatch_counters n s u)
    rw [hput]

theorem seatAgeVisit_context {v : Nat} (hon : onCell s (contextCell s v) = true) (hc : Clean s) :
    ∃ t, exec (.seatAgeVisit (.context v) e) s = .next t ∧ (t.ctx v).cands = ageSeats s.mer.now e (s.ctx v).cands ∧
      t = { s with ctxs := t.ctxs } ∧ ∀ w, w ≠ v → t.ctx w = s.ctx w := by
  simp only [exec, execSeatAgeVisit, strike_clean hc.1]
  rw [if_neg (by simp [hon]), if_neg (by simp)]
  exact ⟨_, rfl, by rw [ctx_modCtx, if_pos rfl], rfl, fun w hw => (ctx_modCtx _ _ _ _).trans (if_neg hw)⟩

/-! ## The statement -/

/-- Settles O20: the scan marks the queue, offers it again as a re-offer does, and asks after it; a visit of a seat marks the candidates of its EVID. -/
theorem scansMarkWhatHasAged : Obligations.ScansMarkWhatHasAged :=
  ⟨fun _ _ hb hp hon hc => ageScanVisit_effect hb hp hon hc.1, fun _ _ _ r hon hc => seatAgeVisit_station r hon hc,
    fun _ _ _ hon hc => seatAgeVisit_context hon hc⟩

end Sys2Proof.Machine
end

section
/-! SUPPORT. What answers bring to a page: the notice of a deferred send, and the data of a held claim (R203 to R205, R216, R285, R375). -/

namespace Sys2Proof.Machine
open Sys2Proof

variable {s t u : State} {p : Page}

/-! ## A page alone changes -/

/-- Of the stations and contexts the page's group differs, and the mark that shows a context as changed; nothing else differs. -/
structure PageChanged (s t : State) (p : Page) : Prop where
  rest : t = { s with stns := t.stns, ctxs := t.ctxs }
  other : OtherPages s t p

theorem PageChanged.refl (s : State) (p : Page) : PageChanged s s p := ⟨rfl, fun _ _ => rfl, fun _ => rfl, fun _ => rfl⟩

theorem OtherPages.trans (h1 : OtherPages s t p) (h2 : OtherPages t u p) : OtherPages s u p := by
  refine ⟨fun q hq => (h2.1 q hq).trans (h1.1 q hq), fun n => ?_, fun v => ?_⟩
  · rw [h2.2.1, h1.2.1]
  · rw [h2.2.2, h1.2.2]

theorem PageChanged.trans (h1 : PageChanged s t p) (h2 : PageChanged t u p) : PageChanged s u p := by
  refine ⟨?_, h1.other.trans h2.other⟩
  rw [h2.rest, h1.rest]

theorem pageChanged_modPage (s : State) (p : Page) (f : Group → Group) : PageChanged s (modPage s p f) p := ⟨modPage_eq s p f, modPage_other s p f⟩

theorem pageChanged_countGrade (s : State) (p : Page) (grade : Bool) : PageChanged s (countGrade s p grade) p := by
  unfold countGrade
  split
  · exact .refl s p
  · exact pageChanged_modPage s p _

/-- The booked count is all that the grade of a claim changes of its page (R196). -/
theorem countGrade_group (s : State) (p : Page) (grade : Bool) :
    (pageGroup (countGrade s p grade) p).stack = (pageGroup s p).stack ∧ (pageGroup (countGrade s p grade) p).win = (pageGroup s p).win := by
  unfold countGrade
  split
  · exact ⟨rfl, rfl⟩
  · rw [pageGroup_modPage, if_pos rfl]
    exact ⟨rfl, rfl⟩

/-- Groups go by the stations and the contexts. -/
theorem pageGroup_congr (hs : t.stns = s.stns) (hx : t.ctxs = s.ctxs) (p : Page) : pageGroup t p = pageGroup s p := by
  cases p <;> simp only [pageGroup, State.grp, State.stn, State.ctx, hs, hx]

theorem stn_congr (hs : t.stns = s.stns) (n : Nat) : t.stn n = s.stn n := by rw [State.stn, hs, State.stn]
theorem ctx_congr (hx : t.ctxs = s.ctxs) (v : Nat) : t.ctx v = s.ctx v := by rw [State.ctx, hx, State.ctx]

theorem otherPages_congr {s' t' : State} (hs : s'.stns = s.stns) (hx : s'.ctxs = s.ctxs) (ht : t'.stns = t.stns) (htx : t'.ctxs = t.ctxs)
    (h : OtherPages s t p) : OtherPages s' t' p := by
  refine ⟨fun q hq => ?_, fun n => ?_, fun v => ?_⟩
  · rw [pageGroup_congr hs hx, pageGroup_congr ht htx]
    exact h.1 q hq
  · rw [stn_congr hs, stn_congr ht]
    exact h.2.1 n
  · rw [ctx_congr hx, ctx_congr htx]
    exact h.2.2 v

/-! ## The notice of a deferred send -/

/-- A page takes the reason of a rejected send, unless its die is away (R213, R216). -/
theorem pageReject_effect (r : BitVec 4) (h : ∀ n g, p = .stn n g → dieAway s (n / 48) = false) :
    PageChanged s (pageReject s p r) p ∧ pageGroup (pageReject s p r) p = { pageGroup s p with rejected := true, reason := r } := by
  cases p with
  | stn n g =>
    have hmod : pageReject s (.stn n g) r = modPage s (.stn n g) fun x => { x with rejected := true, reason := r } := if_neg (by simp [h n g rfl])
    rw [hmod, pageGroup_modPage, if_pos rfl]
    exact ⟨pageChanged_modPage _ _ _, rfl⟩
  | vst v =>
    refine ⟨⟨rfl, fun q hq => ?_, fun n => rfl, fun w => ?_⟩, congrArg Ctx.g ((ctx_modCtx _ _ _ _).trans (if_pos rfl))⟩
    · cases q with
      | stn m h => rfl
      | vst w => exact congrArg Ctx.g ((ctx_modCtx _ _ _ _).trans (if_neg fun hw => hq (by rw [hw])))
    · simp only [pageReject, ctx_modCtx]
      split
      · subst_vars; rfl
      · rfl

theorem sendRejectionNotice_effect {r : BitVec 4} (hn : Next s (.sendReject p r))
    (haway : ∀ n g, p = .stn n g → dieAway s (n / 48) = false) :
    ∃ t, exec (.sendRejectionNotice p) s = .next t ∧ pageGroup t p = { pageGroup s p with rejected := true, reason := r } ∧
      t = { s with net := t.net, stns := t.stns, ctxs := t.ctxs, cells := t.cells, outs := t.outs, gates := t.gates } ∧ OtherPages s t p ∧
      CountersOnly s t ∧ FirstServed s t := by
  obtain ⟨k, u, hk, hst, harr⟩ := arrive_next hn
  have hexec : exec (.sendRejectionNotice p) s = .next (pageReject u p r) := by
    simp only [exec, execSendRejectionNotice]
    rw [harr _ (decide_eq_true rfl)]
    simp only [hk]
  obtain ⟨hpage, hgroup⟩ := pageReject_effect r fun n g hp => (hst.away_eq (n / 48)).trans (haway n g hp)
  generalize pageReject u p r = t at *
  refine ⟨t, hexec, ?_, ?_, otherPages_congr hst.stns_eq.symm hst.ctxs_eq.symm rfl rfl hpage.other, hst.counters.trans (.of_cells ?_), ?_⟩
  · rw [hgroup, hst.group_eq]
    rfl
  · rw [hpage.rest, hst.rest]
  · rw [hpage.rest]
  · rw [hpage.rest]
    exact hst.firstServed

/-! ## STAMP_AGED -/

/-- A raising leaves all but the hub's block, messages, the faults that wait for the hub, the island and the parcels' accounts (R476). -/
def FaultOnly (s t : State) : Prop :=
  t = { s with hub := t.hub, net := t.net, pwr := t.pwr, isl := t.isl, parcels := t.parcels, parcel0 := t.parcel0 }

theorem FaultOnly.accounted (h : FaultOnly s t) (h' : Accounted t u) : FaultOnly s u := by
  unfold FaultOnly Accounted at *
  rw [h', h]

theorem faultOnly_raise (s : State) (code unit : Nat) (sec : Bool) (a0 a1 a2 : Word) (key : Option Nat) :
    FaultOnly s (raise s code unit sec a0 a1 a2 key) := by
  unfold raise
  extract_lets s1 pe s2
  have hs1 : FaultOnly s s1 := by
    unfold s1
    split
    · split
      · rfl
      · rfl
    · rfl
  have hs2 : FaultOnly s s2 := by
    unfold s2
    split
    · exact hs1
    · exact hs1.accounted ((accounted_modParcel _ _ _).trans (accounted_touch _ _))
  split
  · exact hs2.accounted rfl
  · exact hs2.accounted (accounted_logAgg _ _ _ _ _ _ _)

theorem faultOnly_agedClaim (s : State) (aged : Bool) (e : Nat) (p : Page) : FaultOnly s (agedClaim s aged e p) := by
  unfold agedClaim
  split
  · exact faultOnly_raise _ _ _ _ _ _ _ _
  · rfl

/-- STAMP_AGED as the hub shows it, where it is on (R146, R476). -/
theorem agedClaim_hub (hon : s.pwr.hubl = .on) (hrst : s.pwr.rst = false) (e : Nat) (p : Page) : (agedClaim s true e p).hub = raisedHub s.hub 9 := by
  unfold agedClaim
  rw [if_pos rfl, (raised_raise hon hrst _ _ _ _ _ _ _).rest]

/-! ## The data of a held claim -/

/-- The page's window takes the data, unless a later claim or completion has been served (R203, R204, R375). -/
def dataGroup (s : State) (e : Nat) (p : Page) (pl : Payload) (st : Stamp23) (old ovf rep lost grade : Bool) (h : HeldRead) (g : Group) : Group :=
  let now := match pageStation s p with | some n => (s.op (n / 48)).copy | none => s.mer.now
  if g.win.await ∧ g.seq = h.seq then
    { g with win := latch (noteWin g.win h.seq h.rank h.mode false) (claimCopy h now st) e false pl st (old || h.aged) ovf rep lost grade }
  else g

/-- The state once the page has its data and their grade. -/
def dataLatched (s : State) (e : Nat) (p : Page) (pl : Payload) (st : Stamp23) (old ovf rep lost grade : Bool) (h : HeldRead) : State :=
  countGrade (modPage s p (dataGroup s e p pl st old ovf rep lost grade h)) p grade

/-- The read that waits is answered (R285, R375). -/
def dataAnswered (s : State) (e : Nat) (p : Page) (h : HeldRead) : State :=
  { s with out := { s.out with
      data := if h.wide then mk64 (packWinState p (pageGroup s p).win) (packClaim true p false false h.seq e) else (packClaim true p false false h.seq e).zeroExtend 64
      err := false, held := s.out.held.erase h } }

theorem claimDataArrival_eq {e : Nat} {pl : Payload} {st : Stamp23} {old ovf rep lost grade : Bool} {h : HeldRead} {k : Packet}
    (hk : k.msg = .claimData e p pl st old ovf rep lost grade) (harr : ∀ f, f (Msg.claimData e p pl st old ovf rep lost grade) = true → arrive s f = some (k, u))
    (hheld : u.out.held.find? (fun x => decide (x.page = p) && decide (x.evid = e) && !x.status) = some h) :
    claimDataArrival s e = dataAnswered (agedClaim (dataLatched u e p pl st old ovf rep lost grade h) (old || h.aged) e p) e p h := by
  unfold claimDataArrival
  rw [harr _ (decide_eq_true rfl)]
  simp only [hk, hheld]
  rfl

section
variable (e : Nat) (pl : Payload) (st : Stamp23) (old ovf rep lost grade : Bool) (h : HeldRead)

theorem dataLatched_page : PageChanged s (dataLatched s e p pl st old ovf rep lost grade h) p :=
  (pageChanged_modPage _ _ _).trans (pageChanged_countGrade _ _ _)

theorem dataLatched_group :
    (pageGroup (dataLatched s e p pl st old ovf rep lost grade h) p).stack = (pageGroup s p).stack ∧
      (pageGroup (dataLatched s e p pl st old ovf rep lost grade h) p).win = (dataGroup s e p pl st old ovf rep lost grade h (pageGroup s p)).win := by
  obtain ⟨hstack, hwin⟩ := countGrade_group (modPage s p (dataGroup s e p pl st old ovf rep lost grade h)) p grade
  rw [dataLatched, hstack, hwin, pageGroup_modPage, if_pos rfl]
  refine ⟨?_, rfl⟩
  unfold dataGroup
  dsimp only
  split <;> rfl

/-- The data of a claim that is still the page's latest fill its window (R203 to R205). -/
theorem dataGroup_latched {g : Group} (hawait : g.win.await = true) (hseq : g.seq = h.seq) :
    let w := (dataGroup s e p pl st old ovf rep lost grade h g).win
    w.valid = true ∧ w.evid = e ∧ w.payload = pl ∧ w.seq = h.seq ∧ w.rank = h.rank ∧ w.mode = h.mode ∧ w.aged = (old || h.aged) ∧
      ((old || h.aged) = true → w.stamp = st.zeroExtend 64) := by
  unfold dataGroup
  dsimp only
  rw [if_pos ⟨hawait, hseq⟩]
  exact ⟨rfl, rfl, rfl, rfl, rfl, rfl, rfl, fun haged => if_pos haged⟩

/-- The data of a claim that has been overtaken leave the window (R204). -/
theorem dataGroup_overtaken {g : Group} (hlate : g.win.await = false ∨ g.seq ≠ h.seq) :
    (dataGroup s e p pl st old ovf rep lost grade h g).win = g.win := by
  unfold dataGroup
  dsimp only
  rw [if_neg]
  rintro ⟨hawait, hseq⟩
  exact hlate.elim (by simp [hawait]) (absurd hseq)

end

/-- The arrival of the data of a held claim: the page is shown them, STAMP_AGED is raised where due, and the read is answered (R375). -/
theorem claimDataArrival_effect {e : Nat} {pl : Payload} {st : Stamp23} {old ovf rep lost grade : Bool} {h : HeldRead}
    (hn : Next s (.claimData e p pl st old ovf rep lost grade)) (hw : s.waits = [])
    (hheld : s.out.held.find? (fun x => decide (x.page = p) && decide (x.evid = e) && !x.status) = some h) :
    ∃ u, Started { s with net := s.net.tail } u ∧
      exec (.claimDataArrival e) s =
        .next (dataAnswered (agedClaim (dataLatched u e p pl st old ovf rep lost grade h) (old || h.aged) e p) e p h) := by
  obtain ⟨k, u, hk, hst, harr⟩ := arrive_next hn
  refine ⟨u, hst, ?_⟩
  have hheld' : u.out.held.find? (fun x => decide (x.page = p) && decide (x.evid = e) && !x.status) = some h := by
    rw [hst.out_eq]
    exact hheld
  have hwaits : (dataAnswered (agedClaim (dataLatched u e p pl st old ovf rep lost grade h) (old || h.aged) e p) e p h).waits = [] := by
    rw [dataAnswered, faultOnly_agedClaim, (dataLatched_page e pl st old ovf rep lost grade h).rest, hst.rest]
    exact hw
  simp only [exec, execClaimDataArrival]
  rw [claimDataArrival_eq hk harr hheld', serveWaits_nil _ hwaits]

/-- Settles O14: a message arrives in front, the page alone takes what it brings, and a raising of STAMP_AGED touches no page. -/
theorem answersReachTheirPage : Obligations.AnswersReachTheirPage := by
  unfold Obligations.AnswersReachTheirPage
  refine ⟨fun s p r hn haway => sendRejectionNotice_effect hn fun n g hp => ?_, fun s p e pl st old ovf rep lost grade h hn hw hheld => ?_⟩
  · subst hp
    exact haway
  obtain ⟨u, hst, hexec⟩ := claimDataArrival_effect hn hw hheld
  have hpage : PageChanged u _ p := dataLatched_page e pl st old ovf rep lost grade h
  obtain ⟨hstack, hwin⟩ := dataLatched_group (s := u) (p := p) e pl st old ovf rep lost grade h
  have hfault := faultOnly_agedClaim (dataLatched u e p pl st old ovf rep lost grade h) (old || h.aged) e p
  generalize hv : dataLatched u e p pl st old ovf rep lost grade h = v at *
  generalize hz : agedClaim v (old || h.aged) e p = z at *
  have hstns : z.stns = v.stns := by rw [hfault]
  have hctxs : z.ctxs = v.ctxs := by rw [hfault]
  have hgroup : pageGroup (dataAnswered z e p h) p = pageGroup v p := pageGroup_congr hstns hctxs p
  have hgu : pageGroup u p = pageGroup s p := hst.group_eq p
  have hout : z.out = s.out := by rw [hfault, hpage.rest, hst.out_eq]
  refine ⟨dataAnswered z e p h, hexec, ?_, ?_, ?_, ?_, ?_, ?_, ?_, ?_, ?_⟩
  · rw [hgroup, ← pageGroup_congr hstns hctxs p, dataAnswered, hout]
  · rw [hgroup, hstack, hgu]
  · intro hawait hseq
    rw [hgroup, hwin]
    exact dataGroup_latched e pl st old ovf rep lost grade h (hgu ▸ hawait) (hgu ▸ hseq)
  · intro hlate
    rw [hgroup, hwin, hgu]
    exact dataGroup_overtaken e pl st old ovf rep lost grade h (hgu.symm ▸ hlate)
  · intro haged
    have hzv : z = v := by
      rw [← hz, haged]
      rfl
    refine ⟨?_, ?_⟩
    · rw [dataAnswered, hzv, hpage.rest, hst.rest]
    · have hfirst : FirstServed s u := hst.firstServed
      rw [dataAnswered, hzv, hpage.rest]
      exact hfirst
  · intro haged hon hrst
    have hhub : z.hub = raisedHub s.hub 9 := by
      have hvon : v.pwr = s.pwr := by rw [hpage.rest, hst.rest]
      have hvhub : v.hub = s.hub := by rw [hpage.rest, hst.rest]
      rw [← hz, haged, agedClaim_hub (hvon ▸ hon) (hvon ▸ hrst), hvhub]
    rw [dataAnswered, hhub]
    exact ⟨rfl, tget_tset_same _ _ _ _⟩
  · exact otherPages_congr hst.stns_eq.symm hst.ctxs_eq.symm hstns hctxs hpage.other
  · rw [dataAnswered, hfault, hpage.rest, hst.rest]
    exact ⟨rfl, rfl, rfl, rfl, rfl⟩
  · refine hst.counters.trans (.of_cells ?_)
    rw [dataAnswered, hfault, hpage.rest]

end Sys2Proof.Machine
end

section
/-! SUPPORT. Candidates come back to their owner (R138, R169, R176, R179). -/

namespace Sys2Proof.Machine
open Sys2Proof

variable {s t u : State} {e : Nat}

/-! ## Placement entries of a candidate that comes back -/

/-- Re-offers of sets free no entry themselves (R177). -/
theorem places_placeOffers (s : State) (c : Nat) : (placeOffers s c).places = s.places := by
  unfold placeOffers
  split
  · refine forAll_rel (R := fun s t => t.places = s.places) (fun _ => rfl) (fun h1 h2 => h2.trans h1) _ (fun t n => ?_) _ s
    rw [(onlySent_sendReOffer _ _ _ _).rest]
    rfl
  · rfl

/-- The entries that are dropped are gone (R176). -/
theorem dropPlaces_places (he : s.ecc = []) (f : Place → Bool) : ∀ p ∈ (dropPlaces s e f).places, p.evid = e → f p = false := by
  intro p hp hev
  unfold dropPlaces at hp
  split at hp
  · next hnone =>
    rw [List.map_eq_nil_iff, List.filter_eq_nil_iff] at hnone
    simpa [hev] using hnone p hp
  · rw [strike_clean he, forAll_rel (R := fun s t => t.places = s.places) (fun _ => rfl) (fun h1 h2 => h2.trans h1) placeOffers places_placeOffers] at hp
    have hkept := (List.mem_filter.mp hp).2
    simpa [hev] using hkept

theorem placesFreed_unplace (he : s.ecc = []) (e : Nat) (timed : Bool) : PlacesFreed s (unplace s e timed) := by
  unfold unplace
  dsimp only
  split
  · split
    · next p _ => exact PlacesFreed.trans (t := { s with places := s.places.erase p }) ⟨rfl, SameCells.refl s⟩ (placesFreed_placeOffers _ _)
    · exact .refl s
  · split
    · exact .refl s
    · exact placesFreed_dropPlaces he e _

/-- A candidate that reached its hub rank cell, or that no grant reserved an entry for, leaves only reserved entries (R176). -/
theorem unplace_places {timed : Bool} (he : s.ecc = []) (hidle : (s.queue e).busy = false) (h : timed = false ∨ (s.queue e).sentTo ≠ none) :
    ∀ p ∈ (unplace s e timed).places, p.evid = e → p.reserved = true := by
  have hkeep : (timed && (s.queue e).sentTo.isNone) = false := by
    obtain h | h := h
    · simp [h]
    · simp [Option.ne_none_iff_isSome.mp h]
  intro p hp hev
  unfold unplace at hp
  simp only [hkeep, hidle, Bool.false_eq_true, if_false] at hp
  simpa using dropPlaces_places he _ p hp hev

/-! ## The queue of a candidate that is held nowhere -/

theorem queue_dropGates (s : State) (e x : Nat) : (dropGates s e).queue x = s.queue x := rfl

/-- A PRESENTED queue is PENDING or IDLE again, and its candidate is chosen again (R138). -/
theorem unhand_queue (hp : (s.queue e).state = .presented) : (unhand s e).queue e = { s.queue e with
    state := if waiting (s.queue e) then .pending else .idle, recalled := false, again := true, cached := ((unhand s e).queue e).cached } := by
  unfold unhand
  simp only [queue_dropGates, queue_modQueue, hp, if_true]

/-- The return of a candidate of queue `e`: of the queues only its own differs, and its gates are dropped. -/
structure CameBack (s t : State) (e : Nat) : Prop where
  rest : t = { s with queues := t.queues, net := t.net, gates := t.gates, places := t.places, spreads := t.spreads, cells := t.cells }
  cells : SameCells s t
  other : OtherQueues s t e
  gates : t.gates = s.gates.filter fun g => decide (g.2.2 ≠ e)

theorem cameBack_unhand (s : State) (e : Nat) : CameBack s (unhand s e) e :=
  ⟨rfl, .refl s, fun x hx => by rw [unhand, queue_dropGates, queue_modQueue, if_neg hx], rfl⟩

theorem CameBack.reoffered (h : CameBack s t e) (h' : Reoffered t u e) : CameBack s u e := by
  refine ⟨?_, h.cells.trans h'.cells, fun x hx => (h'.other x hx).trans (h.other x hx), ?_⟩
  · rw [h'.rest, h.rest]
  · rw [h'.rest]
    exact h.gates

/-- A parked queue that is not IDLE stays parked as it settles. -/
theorem settle_parked (h : (s.queue e).state ≠ .idle) : ((settle s e).queue e).parked = (s.queue e).parked := by
  unfold settle
  dsimp only
  rw [if_neg (by simp [h])]
  split
  · rw [queue_modQueue, if_pos rfl]
  · rfl

/-- The queue waits for its re-offer (R169). -/
def keepParked (s : State) (e : Nat) : State := settle (s.modQueue e fun x => { x with parked := true }) e

/-- The withdrawals of a queue that are under way are dropped. -/
def dropCalls (s : State) (e : Nat) : State := dropMsgs s fun m => match m with | .withdrawal x _ => decide (x = e) | _ => false

/-- The queue may be offered at once (R138). -/
def offerAnew (s : State) (e : Nat) : State := settle (offerAgain (dropCalls s e) e) e

theorem keepParked_offered (s : State) (e : Nat) : Offered s (keepParked s e) e := (offered_modQueue s e _).trans (offered_settle _ e)

theorem keepParked_queue (s : State) (e : Nat) :
    ((keepParked s e).queue e).recalled = (s.queue e).recalled ∧ ((keepParked s e).queue e).count = (s.queue e).count ∧
      ((keepParked s e).queue e).state = (s.queue e).state ∧ ((s.queue e).state ≠ .idle → ((keepParked s e).queue e).parked = true) := by
  have hq : (s.modQueue e fun x => { x with parked := true }).queue e = { s.queue e with parked := true } := (queue_modQueue s e e _).trans (if_pos rfl)
  rw [keepParked]
  refine ⟨?_, ?_, ?_, fun h => ?_⟩
  · rw [settle_queue, hq]
  · rw [settle_queue, hq]
  · rw [settle_queue, hq]
  · rw [settle_parked (by rw [hq]; exact h), hq]

theorem offerAnew_reoffered (he : s.ecc = []) (e : Nat) : Reoffered s (offerAnew s e) e :=
  Reoffered.trans (t := dropCalls s e) ⟨rfl, .refl s, fun _ _ => rfl⟩
    ((offered_offerAgain (s := dropCalls s e) he e).trans (offered_settle _ e)).reoffered

theorem offerAnew_queue (he : s.ecc = []) (e : Nat) :
    ((offerAnew s e).queue e).recalled = (s.queue e).recalled ∧ ((offerAnew s e).queue e).count = (s.queue e).count ∧
      ((s.queue e).state = .idle → ((offerAnew s e).queue e).state = .idle) ∧
      ((s.queue e).state = .pending → ((offerAnew s e).queue e).state = .pending ∨ ((offerAnew s e).queue e).state = .presented) := by
  have hq : ((dropCalls s e).modQueue e fun x => { x with parked := false }).queue e = { s.queue e with parked := false } :=
    (queue_modQueue _ e e _).trans (if_pos rfl)
  obtain ⟨hpres, hstate⟩ := offer_queue (s := (dropCalls s e).modQueue e fun x => { x with parked := false }) he e
  have hset : ∀ v : State, ((settle v e).queue e).recalled = (v.queue e).recalled ∧ ((settle v e).queue e).count = (v.queue e).count ∧
      ((settle v e).queue e).state = (v.queue e).state := fun v => by rw [settle_queue]; exact ⟨rfl, rfl, rfl⟩
  obtain ⟨hrec, hcount, hst⟩ := hset (offerAgain (dropCalls s e) e)
  unfold offerAnew
  unfold offerAgain at *
  generalize offer ((dropCalls s e).modQueue e fun x => { x with parked := false }) e = v at *
  rw [hq] at hpres hstate
  rw [hrec, hcount, hst]
  refine ⟨?_, ?_, fun hidle => ?_, fun hpend => ?_⟩
  · rw [hpres]
  · rw [hpres]
  · simpa [hidle] using hstate
  · simpa [hpend] using hstate

/-! ## The owner takes its candidate back -/

/-- The owner's state once it has the candidate back (R138, R176). -/
def tookBack (s : State) (c : Cand) : State := unplace (unhand s c.evid) c.evid c.grade

theorem tookBack_cameBack (he : s.ecc = []) (c : Cand) : CameBack s (tookBack s c) c.evid :=
  (cameBack_unhand s c.evid).reoffered ((placesFreed_unplace (s := unhand s c.evid) he c.evid c.grade).reoffered c.evid)

theorem tookBack_queue (he : s.ecc = []) (c : Cand) : (tookBack s c).queue c.evid = (unhand s c.evid).queue c.evid :=
  (placesFreed_unplace (s := unhand s c.evid) he c.evid c.grade).queue_eq c.evid

/-- The queue's own candidate at its owner (R138, R169, R179). -/
def ownReturned (s : State) (c : Cand) (parked : Bool) : State :=
  if parked && !(s.queue c.evid).recalled then keepParked (tookBack s c) c.evid else offerAnew (tookBack s c) c.evid

theorem withdrawnCandidateReturn_own {c : Cand} {parked : Bool} {n : Nat} (hn : Next s (.returned c parked n)) (hown : c.gather = none)
    (hon : LedgerOn s c.evid) :
    ∃ u, Started { s with net := s.net.tail } u ∧ exec (.withdrawnCandidateReturn c.evid) s = .next (ownReturned u c parked) := by
  obtain ⟨k, u, hk, hst, harr⟩ := arrive_next hn
  have hcell : returnCell s c = ledgerCell s c.evid := by rw [returnCell, hown]
  have he : u.ecc = [] := hst.ecc_eq.trans hn.2.1
  refine ⟨bump u (returnCell u c) 0x01, hst.trans (started_bump _ _ _), ?_⟩
  simp only [exec, execWithdrawnCandidateReturn]
  rw [harr _ (by simpa [hcell] using hon)]
  simp only [hk, hown, serveToken_clean he]
  rw [descRead_clean ((started_bump u (returnCell u c) 0x01).ecc_eq.trans he)]
  unfold ownReturned
  split <;> rfl

theorem ownReturned_cameBack (he : s.ecc = []) (c : Cand) (parked : Bool) : CameBack s (ownReturned s c parked) c.evid := by
  have hback := tookBack_cameBack he c
  have he' : (tookBack s c).ecc = [] := by rw [hback.rest]; exact he
  unfold ownReturned
  split
  · exact hback.reoffered (keepParked_offered _ _).reoffered
  · exact hback.reoffered (offerAnew_reoffered he' _)

/-- What the queue is once its own candidate is back: PENDING or IDLE, parked where it waits for its re-offer, presented anew where it was offered at
once (R138, R169). -/
structure OwnBack (q r : Queue) (parked : Bool) : Prop where
  kept : r.recalled = false ∧ r.count = q.count
  idle : waiting q = false → r.state = .idle
  parks : waiting q = true → parked = true → q.recalled = false → r.state = .pending ∧ r.parked = true
  offers : waiting q = true → parked = false ∨ q.recalled = true → r.state = .pending ∨ r.state = .presented

theorem ownReturned_queue (he : s.ecc = []) (c : Cand) (parked : Bool) (hp : (s.queue c.evid).state = .presented) :
    OwnBack (s.queue c.evid) ((ownReturned s c parked).queue c.evid) parked := by
  have he' : (tookBack s c).ecc = [] := by rw [(tookBack_cameBack he c).rest]; exact he
  have hback := (tookBack_queue he c).trans (unhand_queue hp)
  have hrecalled : ((tookBack s c).queue c.evid).recalled = false := by rw [hback]
  have hcount : ((tookBack s c).queue c.evid).count = (s.queue c.evid).count := by rw [hback]
  have hstate : ((tookBack s c).queue c.evid).state = if waiting (s.queue c.evid) then .pending else .idle := by rw [hback]
  unfold ownReturned
  split
  · next hpark =>
    obtain ⟨hrec', hcount', hstate', hparked⟩ := keepParked_queue (tookBack s c) c.evid
    simp only [Bool.and_eq_true, Bool.not_eq_true'] at hpark
    refine ⟨⟨hrec'.trans hrecalled, hcount'.trans hcount⟩, fun hw => ?_, fun hw _ _ => ?_, fun _ hnot => ?_⟩
    · rw [hstate', hstate, hw]
      rfl
    · have hpend : ((tookBack s c).queue c.evid).state = .pending := by rw [hstate, hw]; rfl
      exact ⟨hstate'.trans hpend, hparked (by rw [hpend]; nofun)⟩
    · simp [hpark] at hnot
  · next hpark =>
    obtain ⟨hrec', hcount', hidle, hpending⟩ := offerAnew_queue he' c.evid
    refine ⟨⟨hrec'.trans hrecalled, hcount'.trans hcount⟩, fun hw => hidle ?_, fun _ hp hr => ?_, fun hw _ => hpending ?_⟩
    · rw [hstate, hw]
      rfl
    · simp [hp, hr] at hpark
    · rw [hstate, hw]
      rfl

/-- Only reserved entries of the candidate's EVID are left, where no grant had reserved it one that it did not reach (R176). -/
theorem ownReturned_places (he : s.ecc = []) (c : Cand) (parked : Bool) (hp : (s.queue c.evid).state = .presented)
    (h : c.grade = false ∨ (s.queue c.evid).sentTo ≠ none) : ∀ p ∈ (ownReturned s c parked).places, p.evid = c.evid → p.reserved = true := by
  have he' : (tookBack s c).ecc = [] := by rw [(tookBack_cameBack he c).rest]; exact he
  have hplaces : (ownReturned s c parked).places = (tookBack s c).places := by
    unfold ownReturned
    split
    · rw [(keepParked_offered _ _).rest]
    · rw [offerAnew, ((offered_offerAgain (s := dropCalls (tookBack s c) c.evid) he' c.evid).trans (offered_settle _ _)).rest]
      rfl
  have hunhand := unhand_queue hp
  rw [hplaces]
  refine unplace_places he ?_ ?_
  · rw [hunhand]
    unfold Queue.busy
    cases waiting (s.queue c.evid) <;> rfl
  · rwa [hunhand]

/-! ## A gang member comes back -/

/-- What the return of a member to its gather record leaves (R169, R179). -/
def memberReturned (s : State) (c : Cand) (parked : Bool) (n id : Nat) : State :=
  if s.gathers.any fun r => decide (r.id = id) && decide (n ∈ r.pending) then
    if parked then { s with gathers := s.gathers.map fun r => if r.id = id then { r with parked := r.parked ++ [(n, c)] } else r }
    else sendFrom s (returnCell s c) (.candStation n (candTour c) c) none (some (n / 48))
  else s

theorem withdrawnCandidateReturn_member {c : Cand} {parked : Bool} {n id : Nat} (hn : Next s (.returned c parked n)) (hid : c.gather = some id)
    (hon : onCell s (returnCell s c) = true) :
    ∃ u, Started { s with net := s.net.tail } u ∧ exec (.withdrawnCandidateReturn c.evid) s = .next (memberReturned u c parked n id) := by
  obtain ⟨k, u, hk, hst, harr⟩ := arrive_next hn
  refine ⟨bump u (returnCell u c) 0x01, hst.trans (started_bump _ _ _), ?_⟩
  simp only [exec, execWithdrawnCandidateReturn]
  rw [harr _ (by simpa using hon)]
  simp only [hk, hid, serveToken_clean (hst.ecc_eq.trans hn.2.1)]
  unfold memberReturned
  split
  · split <;> rfl
  · rfl

theorem memberReturned_rest (s : State) (c : Cand) (parked : Bool) (n id : Nat) :
    memberReturned s c parked n id = { s with net := (memberReturned s c parked n id).net, gathers := (memberReturned s c parked n id).gathers
                                              cells := (memberReturned s c parked n id).cells } ∧ SameCells s (memberReturned s c parked n id) := by
  unfold memberReturned
  split
  · split
    · exact ⟨rfl, .refl s⟩
    · have hsent := onlySent_sendFrom s (returnCell s c) (.candStation n (candTour c) c) none (some (n / 48))
      exact ⟨by rw [hsent.rest], hsent.cells⟩
  · exact ⟨rfl, .refl s⟩

theorem memberReturned_parked {c : Cand} {n id : Nat} {r : Gather} (hr : r ∈ s.gathers) (hid : r.id = id) (hn : n ∈ r.pending) :
    { r with parked := r.parked ++ [(n, c)] } ∈ (memberReturned s c true n id).gathers := by
  have hany : (s.gathers.any fun r => decide (r.id = id) && decide (n ∈ r.pending)) = true := List.any_eq_true.mpr ⟨r, hr, by simp [hid, hn]⟩
  rw [memberReturned, if_pos hany]
  exact List.mem_map.mpr ⟨r, hr, if_pos hid⟩

theorem memberReturned_sent {c : Cand} {n id : Nat} (h : ∃ r ∈ s.gathers, r.id = id ∧ n ∈ r.pending) :
    Sent (memberReturned s c false n id) (.candStation n (candTour c) c) ∧ (memberReturned s c false n id).gathers = s.gathers := by
  obtain ⟨r, hr, hid, hn⟩ := h
  have hany : (s.gathers.any fun r => decide (r.id = id) && decide (n ∈ r.pending)) = true := List.any_eq_true.mpr ⟨r, hr, by simp [hid, hn]⟩
  rw [memberReturned, if_pos hany]
  exact ⟨sent_sendFrom _ _ _ _ _, by rw [if_neg nofun, (onlySent_sendFrom _ _ _ _ _).rest]⟩

end Sys2Proof.Machine
end

section
/-! SUPPORT. Withdrawals find their candidates (R138, R140, R165, R170). -/

namespace Sys2Proof.Machine
open Sys2Proof

variable {s t u : State} {e n : Nat}

/-! ## The watch over all stations -/

/-- The watch over the request levels counts in cells alone, where no register has a parity mismatch (R81, R462). -/
theorem reqWatchAll_effect {s0 : State} (h0 : s0.parity = []) (h : s.parity = []) :
    reqWatchAll s0 s = { s with cells := (reqWatchAll s0 s).cells } ∧ SameCells s (reqWatchAll s0 s) := by
  have hclean : ∀ v : State, v.parity = [] → secureParityAll v = v := fun v hv => if_pos hv
  rw [reqWatchAll, hclean s0 h0, hclean s h]
  refine forAll_rel (R := fun s t => t = { s with cells := t.cells } ∧ SameCells s t) (fun s => ⟨rfl, .refl s⟩) ?_ _
    (fun v n => ⟨reqWatch_eq n s0 v, reqWatch_same n s0 v⟩) _ s
  rintro s t u ⟨ht, htc⟩ ⟨hu, huc⟩
  exact ⟨by rw [hu, ht], htc.trans huc⟩

/-! ## The first message of a kind -/

/-- What is taken out of the messages goes by what they are, not by the links that they have crossed. -/
theorem takeFirst_congr {f : Packet → Bool} (hf : ∀ p q : Packet, p.msg = q.msg → f p = f q) {l r : List Packet} (h : r.map (·.msg) = l.map (·.msg)) :
    (takeFirst f r).map (fun x => (x.1.msg, x.2.map (·.msg))) = (takeFirst f l).map fun x => (x.1.msg, x.2.map (·.msg)) := by
  induction l generalizing r with
  | nil => rw [List.map_eq_nil_iff.mp h]
  | cons p l ih =>
    cases r with
    | nil => simp at h
    | cons q r =>
      simp only [List.map_cons, List.cons.injEq] at h
      obtain ⟨hmsg, hrest⟩ := h
      have ih := ih hrest
      simp only [takeFirst, hf q p hmsg]
      split
      · simp [hmsg, hrest]
      · generalize takeFirst f r = a at *
        generalize takeFirst f l = b at *
        cases a <;> cases b <;> simp_all

theorem takeFirst_none {f : Packet → Bool} {l : List Packet} : takeFirst f l = none ↔ ∀ p ∈ l, f p = false := by
  induction l with
  | nil => simp [takeFirst]
  | cons p l ih =>
    simp only [takeFirst, List.forall_mem_cons, ← ih]
    split
    · simp_all
    · simp_all

/-- The candidate of queue `e`, no gang member, on its way (R140). -/
def onItsWay (e : Nat) (p : Packet) : Bool :=
  match p.msg with
  | .candStation _ _ c => decide (c.evid = e) && c.gather.isNone
  | .candSpread _ c | .candContext _ c | .candGang _ c => decide (c.evid = e)
  | _ => false

theorem onItsWay_congr (e : Nat) (p q : Packet) (h : p.msg = q.msg) : onItsWay e p = onItsWay e q := by
  unfold onItsWay
  rw [h]

/-! ## A candidate leaves its station -/

/-- Station `n` reports and answers its park flags: of the stations only it differs, and the seats of its groups do not (R170, R175). -/
structure StationTold (s t : State) (n : Nat) : Prop where
  rest : t = { s with net := t.net, stns := t.stns, cells := t.cells }
  cells : SameCells s t
  others : ∀ m, m ≠ n → t.stn m = s.stn m
  seats : (t.stn n).norm.seats = (s.stn n).norm.seats ∧ (t.stn n).sec.seats = (s.stn n).sec.seats

theorem StationTold.refl (s : State) (n : Nat) : StationTold s s n := ⟨rfl, .refl s, fun _ _ => rfl, rfl, rfl⟩

theorem StationTold.trans (h1 : StationTold s t n) (h2 : StationTold t u n) : StationTold s u n := by
  refine ⟨?_, h1.cells.trans h2.cells, fun m hm => (h2.others m hm).trans (h1.others m hm), h2.seats.1.trans h1.seats.1, h2.seats.2.trans h1.seats.2⟩
  rw [h2.rest, h1.rest]

theorem OnlySent.stationTold (h : OnlySent s t) (n : Nat) : StationTold s t n := by
  have hstn := stn_congr h.stns_eq
  refine ⟨?_, h.cells, fun m _ => hstn m, by rw [hstn], by rw [hstn]⟩
  rw [h.rest]

theorem stationTold_reportLoad (s : State) (n m : Nat) (g : Grp) : StationTold s (reportLoad s m g) n :=
  StationTold.trans (t := dropMsgs s fun x => match x with | .loadReport a b _ _ => decide (a = m) && decide (b = g) | _ => false)
    ⟨rfl, .refl s, fun _ _ => rfl, rfl, rfl⟩ ((onlySent_sendFrom _ _ _ _ _).stationTold n)

theorem stationTold_reportTour (s : State) (n : Nat) (q : Tour) : StationTold s (reportTour s n q) n := by
  cases q with
  | normal => exact stationTold_reportLoad s n n .normal
  | secure => exact stationTold_reportLoad s n n .secure
  | virt => exact .refl s n

theorem stationTold_setPark (s : State) (n : Nat) (q : Tour) (b : Bool) : StationTold s (setPark s n q b) n := by
  have hmod : ∀ f : Station → Station, (f (s.stn n)).norm.seats = (s.stn n).norm.seats → (f (s.stn n)).sec.seats = (s.stn n).sec.seats →
      StationTold s (s.modStn n f) n := by
    intro f hn hs
    refine ⟨rfl, .refl s, fun m hm => (stn_modStn s n m f).trans (if_neg hm), ?_, ?_⟩
    · rw [stn_modStn, if_pos rfl, hn]
    · rw [stn_modStn, if_pos rfl, hs]
  cases q with
  | normal => exact hmod (fun x => { x with norm := { x.norm with park := b } }) rfl rfl
  | secure => exact hmod (fun x => { x with sec := { x.sec with park := b } }) rfl rfl
  | virt => exact hmod (fun x => { x with virtPark := b }) rfl rfl

theorem stationTold_checkPark (s : State) (n : Nat) (q : Tour) : StationTold s (checkPark s n q) n := by
  unfold checkPark
  split
  · exact (stationTold_setPark s n q false).trans ((onlySent_sendReOffer _ _ _ _).stationTold n)
  · exact .refl s n

theorem stationTold_giveBack (s : State) (c : Cand) (parked : Bool) (n : Nat) : StationTold s (giveBack s c parked n) n :=
  (onlySent_sendFrom _ _ _ _ _).stationTold n

/-- A candidate seated at a station is found in one of its physical tournaments (R165). -/
theorem findStation_physical {q : Tour} {c : Cand} (h : findStation s e = some (n, q, c)) : q ≠ .virt := by
  obtain ⟨x, -, hx⟩ := List.exists_of_findSome?_eq_some h
  split at hx
  · simp only [Option.some.injEq, Prod.mk.injEq] at hx
    rw [← hx.2.1]
    nofun
  · rw [Option.map_eq_some_iff] at hx
    obtain ⟨d, -, hd⟩ := hx
    simp only [Prod.mk.injEq] at hd
    rw [← hd.2.1]
    nofun

/-- The state once the candidate has left its seat at a station and is on its way to its owner (R138, R140). -/
def leftSeat (s : State) (e n : Nat) (q : Tour) (c : Cand) : State :=
  giveBack (checkPark (reportTour (putSeats (bump s (rankCell s n) 0x01) n q (dropSeat e (seatsOf s n q))) n q) n q) c false n

theorem seatsOf_physical {q : Tour} (hq : q ≠ .virt) (h : (t.stn n).norm.seats = (s.stn n).norm.seats ∧ (t.stn n).sec.seats = (s.stn n).sec.seats) :
    seatsOf t n q = seatsOf s n q := by
  cases q with
  | normal => exact h.1
  | secure => exact h.2
  | virt => exact absurd rfl hq

theorem putSeats_others {q : Tour} (hq : q ≠ .virt) (s : State) (n : Nat) (xs : List Seat) :
    putSeats s n q xs = { s with stns := (putSeats s n q xs).stns } ∧ ∀ m, m ≠ n → (putSeats s n q xs).stn m = s.stn m := by
  cases q with
  | normal => exact ⟨rfl, fun m hm => (stn_modStn s n m _).trans (if_neg hm)⟩
  | secure => exact ⟨rfl, fun m hm => (stn_modStn s n m _).trans (if_neg hm)⟩
  | virt => exact absurd rfl hq

theorem leftSeat_effect {q : Tour} (hq : q ≠ .virt) (s : State) (e n : Nat) (c : Cand) :
    leftSeat s e n q c = { s with net := (leftSeat s e n q c).net, stns := (leftSeat s e n q c).stns, cells := (leftSeat s e n q c).cells } ∧
      SameCells s (leftSeat s e n q c) ∧ (∀ m, m ≠ n → (leftSeat s e n q c).stn m = s.stn m) ∧
      seatsOf (leftSeat s e n q c) n q = dropSeat e (seatsOf s n q) ∧ Sent (leftSeat s e n q c) (.returned c false n) := by
  have hsent : Sent (leftSeat s e n q c) (.returned c false n) := sent_sendFrom _ _ _ _ _
  have hbump := onlySent_bump s (rankCell s n) 0x01
  unfold leftSeat at *
  generalize bump s (rankCell s n) 0x01 = v at *
  obtain ⟨hput, hputs⟩ := putSeats_others hq v n (dropSeat e (seatsOf s n q))
  have hseats : seatsOf (putSeats v n q (dropSeat e (seatsOf s n q))) n q = _ := seatsOf_putSeats v n q _ fun hv => absurd hv hq
  generalize putSeats v n q (dropSeat e (seatsOf s n q)) = w at *
  have htold : StationTold w _ n := ((stationTold_reportTour w n q).trans (stationTold_checkPark _ n q)).trans (stationTold_giveBack _ c false n)
  generalize giveBack (checkPark (reportTour w n q) n q) c false n = z at *
  refine ⟨?_, ?_, fun m hm => ?_, (seatsOf_physical hq htold.seats).trans hseats, hsent⟩
  · rw [htold.rest, hput, hbump.rest]
  · refine hbump.cells.trans (.trans (.of_cells ?_) htold.cells)
    rw [hput]
  · rw [htold.others m hm, hputs m hm, stn_congr hbump.stns_eq]

/-! ## A candidate leaves its context -/

theorem mem_tset {α : Type} [DecidableEq α] {d v : α} {tab : Tab α} {x : Nat × α} (h : x ∈ tset d tab n v) : x ∈ tab ∨ x = (n, v) := by
  have hput : ∀ {tab : Tab α}, x ∈ tput n v tab → x ∈ tab ∨ x = (n, v) := by
    intro tab h
    induction tab with
    | nil => exact .inr (List.mem_singleton.mp h)
    | cons y ys ih =>
      simp only [tput] at h
      split at h
      · exact (List.mem_cons.mp h).symm
      · split at h
        · exact (List.mem_cons.mp h).symm.imp_left (List.mem_cons_of_mem _)
        · obtain rfl | h := List.mem_cons.mp h
          · exact .inl List.mem_cons_self
          · exact (ih h).imp_left (List.mem_cons_of_mem _)
  unfold tset at h
  split at h
  · exact .inl (List.mem_of_mem_filter h)
  · exact hput h

/-- The doorbell entry is seated while it covers contexts and is not active (R206). -/
theorem dbSeat_isSome (s : State) (n : Nat) : (dbSeat s n).isSome = (!(dbCtxs s n).isEmpty && !dbActive s n) := by
  unfold dbSeat
  split
  · next h => simp [h]
  · next v vs h =>
    rw [h]
    split
    · next hact => simp [hact]
    · next hact =>
      dsimp only
      split <;> simp [hact]

/-- A candidate that leaves its context brings no doorbell entry to a station (R206). -/
theorem dbCtxs_emptyCtx {v : Nat} (h : dbCtxs s n = []) : dbCtxs (emptyCtx s v e) n = [] := by
  unfold dbCtxs at *
  rw [List.map_eq_nil_iff, List.filter_eq_nil_iff] at *
  intro x hx
  obtain hx | rfl := mem_tset hx
  · exact h x hx
  · intro hcov
    have hcov' : ((s.ctx v).counted && (s.ctx v).dbIn && decide ((s.ctx v).dbAt = some n)) = true := by
      simp only [Bool.and_eq_true] at hcov ⊢
      exact ⟨⟨hcov.1.1.1, hcov.1.2⟩, hcov.2⟩
    have hmem : (v, s.ctx v) ∈ s.ctxs := mem_of_tget fun hd => by
      rw [State.ctx, hd] at hcov'
      cases hcov'
    exact h _ hmem hcov'

theorem stationTold_settleStation {s0 : State} (h : (dbSeat s n).isSome = true → (dbSeat s0 n).isSome = true) : StationTold s (settleStation s0 s n) n := by
  have hreport : ∀ (v : State) (g : Grp), StationTold v (if load s0 n g = load v n g then v else reportLoad v n g) n := by
    intro v g
    split
    · exact .refl v n
    · exact stationTold_reportLoad v n n g
  have hnew : ((dbSeat s0 n).isNone && (dbSeat s n).isSome && decide ((s.grp n .normal).seats.length ≥ 64)) = false := by
    cases h0 : dbSeat s0 n with
    | some d => rfl
    | none =>
      have hs : dbSeat s n = none := by simpa [h0] using h
      simp [hs]
  unfold settleStation
  extract_lets xs s1 s2 s3 fell
  have hs1 : s1 = s := if_neg (by rw [hnew]; nofun)
  have hstart : StationTold s s1 n := hs1 ▸ .refl s n
  have hreports : StationTold s1 s3 n := (hreport s1 .normal).trans (hreport s2 .secure)
  have hfell : ∀ (v : State) (q : Tour), StationTold v (fell v q) n := by
    intro v q
    unfold fell
    split
    · exact stationTold_checkPark v n q
    · exact .refl v n
  exact (((hstart.trans hreports).trans (hfell s3 .normal)).trans (hfell _ .secure)).trans (hfell _ .virt)

/-- Messages have been sent, park flags answered, and event counters have counted (R170, R175). -/
structure Told (s t : State) : Prop where
  rest : t = { s with net := t.net, stns := t.stns, cells := t.cells }
  cells : SameCells s t

theorem StationTold.told (h : StationTold s t n) : Told s t := ⟨h.rest, h.cells⟩

theorem OnlySent.told (h : OnlySent s t) : Told s t := (h.stationTold 0).told

theorem Told.trans (h1 : Told s t) (h2 : Told t u) : Told s u := by
  refine ⟨?_, h1.cells.trans h2.cells⟩
  rw [h2.rest, h1.rest]

/-- The state once the candidate has left its context and the station of its doorbell entry has been told (R138, R206). -/
def leftRecord (s : State) (e v : Nat) : State := settleStations s (emptyCtx (bump s (contextCell s v) 0x01) v e) (dbHome s v)

/-- The state once the candidate of a context is on its way to its owner (R138, R140). -/
def leftCtx (s : State) (e v : Nat) (c : Cand) : State :=
  match (s.ctx v).station with
  | some n => giveBack (checkPark (leftRecord s e v) n .virt) c false n
  | none => giveBackHub (leftRecord s e v) c false (contextCell s v)

theorem leftRecord_told (s : State) (e v : Nat) : Told (emptyCtx (bump s (contextCell s v) 0x01) v e) (leftRecord s e v) := by
  unfold leftRecord dbHome settleStations forAll
  have hbump := onlySent_bump s (contextCell s v) 0x01
  cases (s.ctx v).dbAt with
  | none => exact ⟨rfl, .refl _⟩
  | some n =>
    refine (stationTold_settleStation fun hseat => ?_).told
    rw [dbSeat_isSome, Bool.and_eq_true] at hseat ⊢
    obtain ⟨hcov, hact⟩ := hseat
    have hctxs : (bump s (contextCell s v) 0x01).ctxs = s.ctxs := by rw [hbump.rest]
    have hstn : (emptyCtx (bump s (contextCell s v) 0x01) v e).stn n = s.stn n := stn_congr hbump.stns_eq n
    refine ⟨?_, ?_⟩
    · cases hs : dbCtxs s n with
      | nil =>
        rw [dbCtxs_emptyCtx (by rw [dbCtxs, hctxs]; exact hs)] at hcov
        exact hcov
      | cons => rfl
    · rw [dbActive, hstn] at hact
      exact hact

theorem leftCtx_effect (s : State) (e v : Nat) (c : Cand) :
    leftCtx s e v c = { s with net := (leftCtx s e v c).net, stns := (leftCtx s e v c).stns, ctxs := (leftCtx s e v c).ctxs, cells := (leftCtx s e v c).cells } ∧
      SameCells s (leftCtx s e v c) ∧ (∀ w, (leftCtx s e v c).ctx w = (emptyCtx s v e).ctx w) ∧
      Sent (leftCtx s e v c) (.returned c false ((s.ctx v).station.getD 576)) := by
  have hbump := onlySent_bump s (contextCell s v) 0x01
  have hrecord := leftRecord_told s e v
  have hback : Told (leftRecord s e v) (leftCtx s e v c) ∧ Sent (leftCtx s e v c) (.returned c false ((s.ctx v).station.getD 576)) := by
    unfold leftCtx
    split
    · next n hn => exact ⟨((stationTold_checkPark _ n .virt).trans (stationTold_giveBack _ c false n)).told, by rw [hn]; exact sent_sendFrom _ _ _ _ _⟩
    · next hn => exact ⟨(onlySent_sendFrom _ _ _ _ _).told, by rw [hn]; exact sent_sendFrom _ _ _ _ _⟩
  obtain ⟨hback, hsent⟩ := hback
  have htold := hrecord.trans hback
  generalize leftCtx s e v c = z at *
  have hctxs : z.ctxs = (emptyCtx (bump s (contextCell s v) 0x01) v e).ctxs := by rw [htold.rest]
  have hempty : ∀ b : State, b = { s with net := b.net, cells := b.cells } → (emptyCtx b v e).ctxs = (emptyCtx s v e).ctxs := fun b hb => by rw [hb]; rfl
  refine ⟨?_, hbump.cells.trans (.trans (.of_cells rfl) htold.cells), ctx_congr (hctxs.trans (hempty _ hbump.rest)), hsent⟩
  rw [htold.rest, hbump.rest]
  rfl

end Sys2Proof.Machine
end

section
/-! SUPPORT. A withdrawal arrives (R138, R140). -/

namespace Sys2Proof.Machine
open Sys2Proof

variable {s t u : State} {e n : Nat} {c : Cand} {r : Route}

/-- The message carries candidate `c` on its way. -/
def Carries (p : Packet) (c : Cand) : Prop :=
  (∃ n q, p.msg = .candStation n q c) ∨ (∃ n, p.msg = .candSpread n c) ∨ (∃ n, p.msg = .candContext n c) ∨ ∃ n, p.msg = .candGang n c

/-- A withdrawal finds the candidate on its way, and takes it back there (R140). -/
theorem withdrawalArrival_onItsWay {p : Packet} {rest : List Packet} (hn : Next s (.withdrawal e r))
    (htake : takeFirst (onItsWay e) s.net.tail = some (p, rest)) (hc : Carries p c) :
    ∃ u left, Started { s with net := s.net.tail } u ∧ left.map (·.msg) = rest.map (·.msg) ∧
      exec (.withdrawalArrival e) s = .next (reqWatchAll s (giveBackHub { u with net := left } c false none)) := by
  obtain ⟨k, u, hk, hst, harr⟩ := arrive_next hn
  have hfound := takeFirst_congr (onItsWay_congr e) (map_msg_of_content hst.net)
  rw [htake, Option.map_some, Option.map_eq_some_iff] at hfound
  obtain ⟨⟨p', left⟩, htake', hmsgs⟩ := hfound
  obtain ⟨hmsg, hleft⟩ := Prod.mk.inj hmsgs
  refine ⟨u, left, hst, hleft, ?_⟩
  simp only [exec, execWithdrawalArrival]
  rw [harr _ (decide_eq_true rfl)]
  dsimp only at hmsg ⊢
  split
  · next p'' left' heq =>
    obtain ⟨rfl, rfl⟩ := Prod.mk.inj (Option.some.inj (htake'.symm.trans heq))
    rw [hmsg]
    obtain ⟨n, q, hp⟩ | ⟨n, hp⟩ | ⟨n, hp⟩ | ⟨n, hp⟩ := hc <;> rw [hp]
  · next heq => exact absurd (htake'.symm.trans heq) nofun

/-- Where no message carries the candidate, it is found at a station, or in a context (R140). -/
theorem withdrawalArrival_held (hn : Next s (.withdrawal e r)) (hparity : s.parity = []) (hnone : takeFirst (onItsWay e) s.net.tail = none) :
    ∃ u, Started { s with net := s.net.tail } u ∧
      (∀ n q c, findStation s e = some (n, q, c) → exec (.withdrawalArrival e) s = .next (reqWatchAll s (leftSeat u e n q c))) ∧
      ∀ v c, findStation s e = none → findCtx s e = some (v, c) → exec (.withdrawalArrival e) s = .next (reqWatchAll s (leftCtx u e v c)) := by
  obtain ⟨k, u, hk, hst, harr⟩ := arrive_next hn
  have he : u.ecc = [] := hst.ecc_eq.trans hn.2.1
  have hfound := takeFirst_congr (onItsWay_congr e) (map_msg_of_content hst.net)
  rw [hnone, Option.map_none, Option.map_eq_none_iff] at hfound
  have hstation : findStation u e = findStation s e := by rw [findStation, hst.stns_eq, findStation]
  have hctx : findCtx u e = findCtx s e := by rw [findCtx, hst.ctxs_eq, findCtx]
  refine ⟨u, hst, fun n q c hf => ?_, fun v c hf hx => ?_⟩
  · have hbump := onlySent_bump u (rankCell u n) 0x01
    have hclean : (bump u (rankCell u n) 0x01).parity = [] := by rw [hbump.rest, hst.parity_eq]; exact hparity
    simp only [exec, execWithdrawalArrival]
    rw [harr _ (decide_eq_true rfl)]
    dsimp only
    split
    · next heq => exact absurd (hfound.symm.trans heq) nofun
    · rw [hstation, hf]
      dsimp only
      rw [serveToken_clean he, secureParity_clean hclean, seatsOf_congr hbump.stns_eq (by rw [hbump.rest])]
      rfl
  · simp only [exec, execWithdrawalArrival]
    rw [harr _ (decide_eq_true rfl)]
    dsimp only
    split
    · next heq => exact absurd (hfound.symm.trans heq) nofun
    · rw [hstation, hf]
      dsimp only
      rw [hctx, hx]
      dsimp only
      rw [serveToken_clean he, leftCtx]
      cases (u.ctx v).station with
      | none => rfl
      | some n => rfl

/-! ## The candidate goes back -/

/-- The first message is served, and what follows leaves the outposts and the gates alone. -/
theorem linkStarts_served (hst : Started { s with net := s.net.tail } u) (ho : t.outs = u.outs) (hg : t.gates = u.gates) : LinkStarts s t := by
  obtain ⟨hlinks, hgates⟩ := hst.links
  refine ⟨fun k => ?_, fun g h => hgates g (hg ▸ h)⟩
  rw [State.op, ho]
  exact hlinks k

theorem giveBackHub_onItsWay (s : State) (c : Cand) (left : List Packet) :
    ∃ k, k.msg = .returned c false 576 ∧ giveBackHub { s with net := left } c false none = { s with net := left ++ [k] } :=
  ⟨_, rfl, rfl⟩

theorem withdrawn_onItsWay {p : Packet} {rest : List Packet} (hn : Next s (.withdrawal e r)) (hparity : s.parity = [])
    (htake : takeFirst (onItsWay e) s.net.tail = some (p, rest)) (hc : Carries p c) :
    ∃ t, exec (.withdrawalArrival e) s = .next t ∧ t.net.map (·.msg) = rest.map (·.msg) ++ [.returned c false 576] ∧
      t = { s with net := t.net, cells := t.cells, outs := t.outs, gates := t.gates } ∧ CountersOnly s t ∧ LinkStarts s t := by
  obtain ⟨u, left, hst, hleft, hexec⟩ := withdrawalArrival_onItsWay hn htake hc
  obtain ⟨k, hk, hback⟩ := giveBackHub_onItsWay u c left
  obtain ⟨hwatch, hcells⟩ := reqWatchAll_effect (s := giveBackHub { u with net := left } c false none) hparity
    (by rw [hback]; exact hst.parity_eq.trans hparity)
  generalize reqWatchAll s (giveBackHub { u with net := left } c false none) = z at *
  rw [hback] at hwatch hcells
  refine ⟨z, hexec, ?_, ?_, hst.counters.trans (.trans (.of_cells rfl) hcells.counters), linkStarts_served hst ?_ ?_⟩
  · rw [hwatch]
    simp [hleft, hk]
  · rw [hwatch, hst.rest]
  · rw [hwatch]
  · rw [hwatch]

theorem withdrawn_seated {q : Tour} (hn : Next s (.withdrawal e r)) (hparity : s.parity = []) (hnone : takeFirst (onItsWay e) s.net.tail = none)
    (hf : findStation s e = some (n, q, c)) :
    ∃ t, exec (.withdrawalArrival e) s = .next t ∧ Sent t (.returned c false n) ∧ seatsOf t n q = dropSeat e (seatsOf s n q) ∧
      t = { s with net := t.net, stns := t.stns, cells := t.cells, outs := t.outs, gates := t.gates } ∧ CountersOnly s t ∧ LinkStarts s t ∧
      ∀ m, m ≠ n → t.stn m = s.stn m := by
  obtain ⟨u, hst, hexec, -⟩ := withdrawalArrival_held hn hparity hnone
  obtain ⟨hrest, hcells, hothers, hseats, hsent⟩ := leftSeat_effect (findStation_physical hf) u e n c
  have hexec := hexec n q c hf
  obtain ⟨hwatch, hwcells⟩ := reqWatchAll_effect (s := leftSeat u e n q c) hparity (by rw [hrest]; exact hst.parity_eq.trans hparity)
  generalize leftSeat u e n q c = v at *
  generalize reqWatchAll s v = z at *
  have hstns : z.stns = v.stns := by rw [hwatch]
  have hctxs : z.ctxs = v.ctxs := by rw [hwatch]
  refine ⟨z, hexec, ?_, ?_, ?_, hst.counters.trans (hcells.trans hwcells).counters, linkStarts_served hst ?_ ?_, fun m hm => ?_⟩
  · rw [hwatch]
    exact hsent
  · rw [seatsOf_congr hstns hctxs, hseats, seatsOf_congr hst.stns_eq hst.ctxs_eq]
    rfl
  · rw [hwatch, hrest, hst.rest]
  · rw [hwatch, hrest]
  · rw [hwatch, hrest]
  · rw [stn_congr hstns, hothers m hm, hst.stn_eq]
    rfl

theorem withdrawn_recorded {v : Nat} (hn : Next s (.withdrawal e r)) (hparity : s.parity = []) (hnone : takeFirst (onItsWay e) s.net.tail = none)
    (hf : findStation s e = none) (hx : findCtx s e = some (v, c)) :
    ∃ t, exec (.withdrawalArrival e) s = .next t ∧ Sent t (.returned c false ((s.ctx v).station.getD 576)) ∧
      (t.ctx v).cands = dropSeat e (s.ctx v).cands ∧ (t.ctx v).g.seats = dropSeat e (s.ctx v).g.seats ∧
      t = { s with net := t.net, stns := t.stns, ctxs := t.ctxs, cells := t.cells, outs := t.outs, gates := t.gates } ∧
      CountersOnly s t ∧ LinkStarts s t ∧ ∀ w, w ≠ v → t.ctx w = s.ctx w := by
  obtain ⟨u, hst, -, hexec⟩ := withdrawalArrival_held hn hparity hnone
  obtain ⟨hrest, hcells, hctx, hsent⟩ := leftCtx_effect u e v c
  have hexec := hexec v c hf hx
  obtain ⟨hwatch, hwcells⟩ := reqWatchAll_effect (s := leftCtx u e v c) hparity (by rw [hrest]; exact hst.parity_eq.trans hparity)
  generalize leftCtx u e v c = y at *
  generalize reqWatchAll s y = z at *
  have hz : ∀ w, z.ctx w = (emptyCtx u v e).ctx w := fun w => (ctx_congr (by rw [hwatch]) w).trans (hctx w)
  have hu : u.ctx v = s.ctx v := hst.ctx_eq v
  refine ⟨z, hexec, ?_, ?_, ?_, ?_, hst.counters.trans (hcells.trans hwcells).counters, linkStarts_served hst ?_ ?_, fun w hw => ?_⟩
  · rw [hwatch, ← hu]
    exact hsent
  · rw [hz, emptyCtx, ctx_modCtx, if_pos rfl, hu]
  · rw [hz, emptyCtx, ctx_modCtx, if_pos rfl, hu]
  · rw [hwatch, hrest, hst.rest]
  · rw [hwatch, hrest]
  · rw [hwatch, hrest]
  · rw [hz, emptyCtx, ctx_modCtx, if_neg hw]
    exact hst.ctx_eq w

/-- The messages that carry the candidate, one by one. -/
theorem takeFirst_onItsWay_none (h : ∀ k ∈ s.net.tail, match k.msg with
      | .candStation _ _ c => c.evid ≠ e ∨ c.gather ≠ none
      | .candSpread _ c | .candContext _ c | .candGang _ c => c.evid ≠ e
      | _ => True) : takeFirst (onItsWay e) s.net.tail = none := by
  rw [takeFirst_none]
  intro p hp
  have hp := h p hp
  unfold onItsWay
  split <;> simp_all [← Option.ne_none_iff_isSome, imp_iff_not_or]

/-! ## The owner's part -/

theorem returned_own {parked : Bool} (hn : Next s (.returned c parked n)) (hown : c.gather = none) (hon : LedgerOn s c.evid)
    (hp : (s.queue c.evid).state = .presented) :
    ∃ t, exec (.withdrawnCandidateReturn c.evid) s = .next t ∧ OwnBack (s.queue c.evid) (t.queue c.evid) parked ∧ (∀ g ∈ t.gates, g.2.2 ≠ c.evid) ∧
      (c.grade = false ∨ (s.queue c.evid).sentTo ≠ none → ∀ p ∈ t.places, p.evid = c.evid → p.reserved = true) ∧ CountersOnly s t ∧ LinkStarts s t ∧
      OtherQueues s t c.evid ∧
      t = { s with queues := t.queues, net := t.net, gates := t.gates, places := t.places, spreads := t.spreads, outs := t.outs, cells := t.cells } := by
  obtain ⟨u, hst, hexec⟩ := withdrawnCandidateReturn_own hn hown hon
  have he : u.ecc = [] := hst.ecc_eq.trans hn.2.1
  have hqueue : u.queue c.evid = s.queue c.evid := hst.served_queue c.evid
  have hown := ownReturned_queue he c parked (hqueue ▸ hp)
  have hplaces := ownReturned_places he c parked (hqueue ▸ hp)
  obtain ⟨hrest, hcells, hother, hgates⟩ := ownReturned_cameBack he c parked
  rw [hqueue] at hown hplaces
  generalize ownReturned u c parked = t at *
  obtain ⟨hlinks, hopen⟩ := hst.links
  refine ⟨t, hexec, hown, fun g hg => ?_, hplaces, hst.counters.trans hcells.counters, ⟨fun k => ?_, fun g hg => ?_⟩,
    fun x hx => (hother x hx).trans (hst.served_queue x), ?_⟩
  · rw [hgates] at hg
    simpa using (List.mem_filter.mp hg).2
  · have hout : t.op k = u.op k := by rw [hrest]; rfl
    rw [hout]
    exact hlinks k
  · rw [hgates] at hg
    exact hopen g (List.mem_of_mem_filter hg)
  · rw [hrest, hst.rest]

theorem returned_member {parked : Bool} {id : Nat} (hn : Next s (.returned c parked n)) (hid : c.gather = some id) (hon : onCell s (returnCell s c) = true) :
    ∃ t, exec (.withdrawnCandidateReturn c.evid) s = .next t ∧
      (parked = true → ∀ r ∈ s.gathers, r.id = id → n ∈ r.pending → { r with parked := r.parked ++ [(n, c)] } ∈ t.gathers) ∧
      (parked = false → (∃ r ∈ s.gathers, r.id = id ∧ n ∈ r.pending) → Sent t (.candStation n (candTour c) c) ∧ t.gathers = s.gathers) ∧
      t = { s with net := t.net, gathers := t.gathers, outs := t.outs, cells := t.cells, gates := t.gates } ∧ CountersOnly s t ∧ LinkStarts s t := by
  obtain ⟨u, hst, hexec⟩ := withdrawnCandidateReturn_member hn hid hon
  have hgathers : u.gathers = s.gathers := by rw [hst.rest]
  obtain ⟨hrest, hcells⟩ := memberReturned_rest u c parked n id
  refine ⟨_, hexec, ?_, ?_, ?_, hst.counters.trans hcells.counters, linkStarts_served hst ?_ ?_⟩
  · rintro rfl r hr hrid hpending
    exact memberReturned_parked (hgathers ▸ hr) hrid hpending
  · rintro rfl hpending
    rw [← hgathers] at hpending ⊢
    exact memberReturned_sent hpending
  · rw [hrest, hst.rest]
  · rw [hrest]
  · rw [hrest]

/-- Settles O22: a withdrawal finds the candidate on its way, seated or recorded, and the owner takes back its own candidate or the gather record
its member. -/
theorem withdrawnCandidatesGoBack : Obligations.WithdrawnCandidatesGoBack := by
  unfold Obligations.WithdrawnCandidatesGoBack
  refine ⟨fun s e r hn hclean => ⟨fun p rest c htake hc => withdrawn_onItsWay hn hclean.2 htake hc, fun hnone => ?_⟩, fun s c parked n hn hclean => ?_⟩
  · have hnone := takeFirst_onItsWay_none hnone
    exact ⟨fun n q c hf => withdrawn_seated hn hclean.2 hnone hf, fun v c hf hx => withdrawn_recorded hn hclean.2 hnone hf hx⟩
  · refine ⟨fun hown hon hp => ?_, fun id hid hon => returned_member hn hid hon⟩
    obtain ⟨t, hexec, ⟨⟨hrecalled, hcount⟩, hidle, hparks, hoffers⟩, hgates, hplaces, hcells, hlinks, hother, hrest⟩ := returned_own hn hown hon hp
    exact ⟨t, hexec, hrecalled, hcount, hidle, hparks, hoffers, hgates, hplaces, hcells, hlinks, hother, hrest⟩

end Sys2Proof.Machine
end

section
/-! SUPPORT. QUEUE_BIND (R93, R129, R130, R142, R349). -/

namespace Sys2Proof.Machine
open Sys2Proof

variable {s t u : State} {e : Nat}

/-! ## What is found and told on the way -/

/-- Messages have been sent, faults raised, errors found and written back, and counters have counted; the stores, the pages and what commands set up are
the same. -/
def Noticed (s t : State) : Prop :=
  t = { s with net := t.net, hub := t.hub, cells := t.cells, pwr := t.pwr, isl := t.isl, parcels := t.parcels, parcel0 := t.parcel0, ecc := t.ecc }

theorem Noticed.refl (s : State) : Noticed s s := rfl

theorem Noticed.trans (h1 : Noticed s t) (h2 : Noticed t u) : Noticed s u := by
  unfold Noticed at *
  rw [h2, h1]

theorem FaultOnly.noticed (h : FaultOnly s t) : Noticed s t := by
  unfold FaultOnly Noticed at *
  rw [h]

theorem Accounted.noticed (h : Accounted s t) : Noticed s t := by
  unfold Accounted Noticed at *
  rw [h]

theorem noticed_bump (s : State) (c : Option Nat) (k : Nat) : Noticed s (bump s c k) := by
  unfold Noticed
  rw [bump_eq]

theorem noticed_bumpBy (s : State) (c : Option Nat) (k n : Nat) : Noticed s (bumpBy s c k n) := by
  induction n with
  | zero => exact .refl s
  | succ n ih => exact ih.trans (noticed_bump _ c k)

theorem noticed_touch (s : State) (p : Nat) : Noticed s (touch s p) := (accounted_touch s p).noticed

/-- What a read of a store word finds (R155, R479). -/
theorem noticed_strike (s : State) (x : Store) (e : Nat) (c : Option Nat) : Noticed s (strike s x e c).2 := by
  unfold strike
  split
  · exact .refl s
  · extract_lets s1 cellNo ok n s2
    have hfound : Noticed s s1 := rfl
    split
    · refine hfound.trans ?_
      dsimp only
      exact (faultOnly_raise _ _ _ _ _ _ _ _).noticed
    · have hcounted : Noticed s s2 := hfound.trans (noticed_bumpBy s1 c 0x05 n)
      have hhub : Noticed s (s2.modHub fun h => { h with eccCorr := satAdd h.eccCorr n }) := hcounted.trans rfl
      dsimp only
      split
      · exact hhub
      · exact hcounted

theorem noticed_overrun (s : State) (c : Option Nat) : Noticed s (overrun s c) := by
  unfold overrun
  split
  · exact .refl s
  · next n =>
    split
    · have hbump := noticed_bump { s with ecc := s.ecc.filter fun y => decide (y.1 ≠ .mutex n) } (some n) 0x07
      have hhub : ∀ (v : State) (f : Hub → Hub), Noticed v (v.modHub f) := fun _ _ => rfl
      exact (Noticed.trans (t := { s with ecc := s.ecc.filter fun y => decide (y.1 ≠ .mutex n) }) rfl (hbump.trans (hhub _ _))).trans
        (faultOnly_raise _ _ _ _ _ _ _ _).noticed
    · exact .refl s

/-- An intake that stamps an event sends it, and its arbiter and its counters serve it (R35, R279). -/
theorem noticed_stampSend (hp : s.parity = []) (c : Nat) (k : Token) (held : Bool) : Noticed s (stampSend s c k held) := by
  have hover := noticed_overrun s (some c)
  have hclean : rodParity (overrun s (some c)) c = overrun s (some c) := rodParity_clean (by rw [hover]; exact hp) c
  have hsend : ∀ (v : State) (m : Msg) (a b d : Option Nat), Noticed v (send v m a b d) := fun _ _ _ _ _ => rfl
  unfold stampSend
  rw [hclean]
  dsimp only
  refine hover.trans (.trans ?_ ((hsend _ _ _ _ _).trans ((noticed_bump _ _ _).trans (noticed_bump _ _ _))))
  split
  · exact noticed_bump _ _ _
  · exact .refl _

/-- The input samples its level, and its intake cell sends it (R93). -/
theorem sendLevel_effect (hp : s.parity = []) (e : Nat) :
    ∃ v, (v = s ∨ v = s.modInput e Input.sampled) ∧ Noticed v (sendLevel s e) := by
  unfold sendLevel
  extract_lets v
  have hv : v = s ∨ v = s.modInput e Input.sampled := by
    unfold v
    split
    · exact .inr rfl
    · exact .inr rfl
    · exact .inl rfl
  have hclean : v.parity = [] := by
    obtain h | h := hv <;> rw [h] <;> exact hp
  refine ⟨v, hv, ?_⟩
  split
  · exact .refl v
  · split
    · split
      · exact noticed_stampSend hclean _ _ _
      · exact .refl v
    · split
      · exact noticed_stampSend hclean _ _ _
      · exact .refl v
    · exact .refl v

/-! ## The descriptor is read -/

/-- Freed entries change no queue and no register's parity. -/
theorem dropPlaces_queue (s : State) (e : Nat) (f : Place → Bool) (x : Nat) : (dropPlaces s e f).queue x = s.queue x := by
  unfold dropPlaces
  split
  · rfl
  · have hstrike := noticed_strike s (.place e) e
    have hoffers : ∀ (v : State) (cs : List Nat), (forAll v cs placeOffers).queue x = v.queue x := fun v cs =>
      (forAll_rel PlacesFreed.refl PlacesFreed.trans _ placesFreed_placeOffers cs v).queue_eq x
    dsimp only
    rw [hoffers, State.queue, hstrike]
    rfl

/-- A descriptor that cannot be read is poisoned, and bound (R156). -/
theorem descRead_noticed (h : ((descRead s e).queue e).bound = false) : Noticed s (descRead s e) := by
  have hstrike := noticed_strike s (.desc e) e (ledgerCell s e)
  unfold descRead at h ⊢
  dsimp only at h ⊢
  split at h
  · rw [poison, dropPlaces_queue, queue_dropGates, queue_setQueue, if_pos rfl] at h
    cases h
  · next hfound =>
    rw [if_neg hfound]
    exact hstrike

/-! ## The slot of a LATEST queue -/

theorem accounted_perfAdd (s : State) (p off n : Nat) : Accounted s (perfAdd s p off n) := by
  unfold perfAdd
  split
  · rfl
  · exact (accounted_modParcel s p _).trans rfl

/-- A slot is taken out of the pool for a parcel (R142, R143). -/
theorem poolTake_effect (s : State) (p : Nat) :
    (poolTake s p).2 = { s with pool := (poolTake s p).2.pool, free := (poolTake s p).2.free, ecc := (poolTake s p).2.ecc, isl := (poolTake s p).2.isl
                                parcels := (poolTake s p).2.parcels, parcel0 := (poolTake s p).2.parcel0 } ∧
      ((poolTake s p).2.slot (poolTake s p).1).used = true := by
  unfold poolTake
  extract_lets n s1 s2 s3 hi
  have hslot : (s2.slot n).used = true := by
    have hset : s2.slot n = { used := true, parcel := p, link := n } := (slot_setSlot s n n _).trans (if_pos rfl)
    rw [hset]
  have hacc : Accounted s2 (touch (if (s3.parcel p).used > hi.toNat then perfAdd s3 p 0x0B0 ((s3.parcel p).used - hi.toNat) else s3) p) := by
    have hused : Accounted s2 s3 := accounted_modParcel s2 p _
    refine .trans (hused.trans ?_) (accounted_touch _ p)
    split
    · exact accounted_perfAdd _ _ _ _
    · rfl
  generalize touch (if (s3.parcel p).used > hi.toNat then perfAdd s3 p 0x0B0 ((s3.parcel p).used - hi.toNat) else s3) p = t at *
  refine ⟨?_, ?_⟩
  · rw [hacc]
    rfl
  · rw [State.slot, hacc]
    exact hslot

/-! ## QUEUE_BIND -/

/-- The EVID of a QUEUE_BIND. -/
def bindEvid (c : Call) : Nat := bits (c.arg 0) 0 20

/-- The tail slot of a queue that is bound, where it is a LATEST queue (R129, R142). -/
def bindSlot (c : Call) (s : State) : Nat × State :=
  if qmodeOf (bits (c.arg 1) 0 2) = .latest then poolTake s (bits (c.arg 2) 0 10) else (0, s)

/-- The descriptor that the words of a QUEUE_BIND name (R129, R349). -/
def boundQueue (c : Call) (tail : Nat) : Queue :=
  { bound := true, mode := qmodeOf (bits (c.arg 1) 0 2), secure := (c.arg 1).getLsbD 2, rank := (c.arg 1).extractLsb' 8 8, route := routeOf (c.arg 1)
    parcel := bits (c.arg 2) 0 10, lockEn := (c.arg 2).getLsbD 10, lockId := (c.arg 3).extractLsb' 0 16, lockMask := (c.arg 3).extractLsb' 16 16
    bookOnly := (c.arg 1).getLsbD 3, early := (c.arg 1).getLsbD 4, quota := BitVec.ofNat 12 (bits (c.arg 2) 16 12), tail := tail }

/-- The descriptor has been written, with its check bits, and the booked tally starts (R130, R155). -/
def bindWritten (c : Call) (s : State) : State :=
  { (bindSlot c s).2.setQueue (bindEvid c) (boundQueue c (bindSlot c s).1) with
    tally := tset 0 (bindSlot c s).2.tally (bindEvid c) 0
    ecc := (bindSlot c s).2.ecc.filter fun z => decide (z.1 ≠ .desc (bindEvid c)) }

/-- The input of a wired queue has its entry (R91, R93). -/
def bindWired (c : Call) (s : State) : State :=
  if isWired (bindEvid c) then setInput (bindWritten c s) (bindEvid c) (c.arg 4) true else bindWritten c s

/-- The queue is bound. -/
def bindDone (c : Call) (s : State) : State :=
  touch (if isWired (bindEvid c) && decide (qmodeOf (bits (c.arg 1) 0 2) = .level) then sendLevel (bindWired c s) (bindEvid c) else bindWired c s)
    (bits (c.arg 2) 0 10)

/-- A QUEUE_BIND that ends with OK finds its EVID unbound, and binds it (R349). -/
theorem cmdQueueBind_ok {c : Call} (h : (cmdQueueBind c s).code = cOk) :
    Noticed s (descRead s (bindEvid c)) ∧ (s.queue (bindEvid c)).bound = false ∧
      cmdQueueBind c s = { code := cOk, st := bindDone c (descRead s (bindEvid c)) } := by
  unfold cmdQueueBind at h ⊢
  obtain ⟨hres, hcs⟩ := checked_ok (by simp [cDenied, cBadArg, cFenced, cNoResource, cOk]) h
  simp only [List.forall_mem_cons] at hcs
  obtain ⟨-, habsent, -, -, -, -, -, -, hinternal, -⟩ := hcs
  simp only [hinternal, Bool.or_eq_false_iff, Bool.not_false, Bool.true_and] at habsent
  have hbound : ((descRead s (bindEvid c)).queue (bindEvid c)).bound = false := habsent.2
  have hnoticed := descRead_noticed hbound
  refine ⟨hnoticed, ?_, hres⟩
  rw [hnoticed] at hbound
  exact hbound

theorem bindSlot_effect (c : Call) (s : State) :
    (bindSlot c s).2 = { s with pool := (bindSlot c s).2.pool, free := (bindSlot c s).2.free, ecc := (bindSlot c s).2.ecc, isl := (bindSlot c s).2.isl
                                parcels := (bindSlot c s).2.parcels, parcel0 := (bindSlot c s).2.parcel0 } ∧
      (qmodeOf (bits (c.arg 1) 0 2) = .latest → ((bindSlot c s).2.slot (bindSlot c s).1).used = true) := by
  unfold bindSlot
  split
  · obtain ⟨hrest, hused⟩ := poolTake_effect s (bits (c.arg 2) 0 10)
    exact ⟨hrest, fun _ => hused⟩
  · next hmode => exact ⟨rfl, fun h => absurd h hmode⟩

/-- The field book, the pages and what commands set up. -/
def SameRest (s t : State) : Prop := t.fb = s.fb ∧ t.stns = s.stns ∧ t.ctxs = s.ctxs ∧ SameSetup s t

theorem SameRest.trans (h1 : SameRest s t) (h2 : SameRest t u) : SameRest s u := by
  obtain ⟨hfb, hstns, hctxs, hgangs, hspreads, hn, hs, hmem, hpending⟩ := h1
  unfold SameRest SameSetup at *
  rwa [← hfb, ← hstns, ← hctxs, ← hgangs, ← hspreads, ← hn, ← hs, ← hmem, ← hpending]

theorem Noticed.sameRest (h : Noticed s t) : SameRest s t := by
  rw [h]
  exact ⟨rfl, rfl, rfl, rfl, rfl, rfl, rfl, rfl, rfl⟩

theorem bindWritten_queue (c : Call) (s : State) (x : Nat) :
    (bindWritten c s).queue x = if x = bindEvid c then boundQueue c (bindSlot c s).1 else s.queue x := by
  have hset : (bindWritten c s).queue x = _ := queue_setQueue (bindSlot c s).2 (bindEvid c) x (boundQueue c (bindSlot c s).1)
  have hkept : (bindSlot c s).2.queue x = s.queue x := by
    rw [State.queue, (bindSlot_effect c s).1]
    rfl
  rw [hset, hkept]

theorem sameRest_bindWritten (c : Call) (s : State) : SameRest s (bindWritten c s) := by
  have hslot : SameRest s (bindSlot c s).2 := by
    rw [(bindSlot_effect c s).1]
    exact ⟨rfl, rfl, rfl, rfl, rfl, rfl, rfl, rfl, rfl⟩
  exact hslot

theorem bindWritten_tally (c : Call) (s : State) : (bindWritten c s).tally = tset 0 s.tally (bindEvid c) 0 := by
  have htally : (bindSlot c s).2.tally = s.tally := by rw [(bindSlot_effect c s).1]
  rw [← htally]
  rfl

theorem bindWired_same (c : Call) (s : State) :
    (bindWired c s).queues = (bindWritten c s).queues ∧ (bindWired c s).tally = (bindWritten c s).tally ∧ (bindWired c s).pool = (bindSlot c s).2.pool ∧
      SameRest s (bindWired c s) ∧ (bindWired c s).parity = (bindSlot c s).2.parity := by
  have hrest := sameRest_bindWritten c s
  unfold bindWired
  split
  · exact ⟨rfl, rfl, rfl, hrest, rfl⟩
  · exact ⟨rfl, rfl, rfl, hrest, rfl⟩

/-- The level of a LEVEL input is sent, and the parcel's status is marked as changed (R93, R381). -/
theorem bindDone_effect (hp : s.parity = []) (c : Call) :
    ∃ v, (v = bindWired c s ∨ v = (bindWired c s).modInput (bindEvid c) Input.sampled) ∧ Noticed v (bindDone c s) := by
  have hclean : (bindWired c s).parity = [] := by
    obtain ⟨-, -, -, -, hparity⟩ := bindWired_same c s
    rw [hparity, (bindSlot_effect c s).1]
    exact hp
  unfold bindDone
  split
  · obtain ⟨v, hv, hsent⟩ := sendLevel_effect hclean (bindEvid c)
    exact ⟨v, hv, hsent.trans (noticed_touch _ _)⟩
  · exact ⟨_, .inl rfl, noticed_touch _ _⟩

/-- The input of a wired queue that is bound: the mode and the filter of its word, and no counts (R91, R93). -/
theorem bindWired_input {c : Call} (hw : isWired (bindEvid c) = true) (s : State) :
    ((bindWired c s).input (bindEvid c)).mode = inModeOf (bits (c.arg 4) 0 3) ∧
      ((bindWired c s).input (bindEvid c)).filterW = BitVec.ofNat 10 (bits (c.arg 4) 4 10) ∧ ((bindWired c s).input (bindEvid c)).tally = 0 := by
  rw [bindWired, if_pos hw, setInput, input_modInput, if_pos rfl]
  exact ⟨rfl, rfl, rfl⟩

/-- A field of a word, as its bits. -/
theorem ofNat_bits (w : Word) (lo n : Nat) : BitVec.ofNat n (bits w lo n) = w.extractLsb' lo n := by
  apply BitVec.eq_of_toNat_eq
  simp [bits]

/-- QUEUE_BIND as its words have it (R129, R130, R349). -/
theorem queueBind_effect {b : Box} (hw : Waits s b 0x20) (hok : EndsOk cmdQueueBind s b) (he : e = bits (argOf s b 0) 0 20) :
    ∃ u tail, exec (.queueBind b) s = .next (endCmd u b cOk []) ∧ (s.queue e).bound = false ∧
      (∀ x, u.queue x = if x = e then boundQueue (callOf s b) tail else s.queue x) ∧
      (qmodeOf (bits (argOf s b 1) 0 2) = .latest → (u.slot tail).used = true) ∧ u.tally = tset 0 s.tally e 0 ∧
      (isWired e = true → (u.input e).mode = inModeOf (bits (argOf s b 4) 0 3) ∧ (u.input e).filterW = (argOf s b 4).extractLsb' 4 10 ∧ (u.input e).tally = 0) ∧
      SameRest s u := by
  have harg : ∀ i, i < 32 → (callOf s b).arg i = argOf s b i := fun i hi => arg_callOf s b hi
  have hevid : bindEvid (callOf s b) = e := by rw [he, bindEvid, harg 0 (by decide)]
  obtain ⟨hread, hfree, hres⟩ := cmdQueueBind_ok hok
  have hexec : exec (.queueBind b) s = _ := serveBox_ok hw (by decide) hok
  rw [hres] at hexec
  rw [hevid] at hread hfree hexec
  generalize hv : descRead s e = v at *
  have hparity : v.parity = [] := by
    rw [hread]
    exact hw.2.2.2
  obtain ⟨y, hy, hdone⟩ := bindDone_effect hparity (callOf s b)
  obtain ⟨hqueues, htally, hpool, hrest, -⟩ := bindWired_same (callOf s b) v
  have hsampled : y.queues = (bindWired (callOf s b) v).queues ∧ y.tally = (bindWired (callOf s b) v).tally ∧ y.pool = (bindWired (callOf s b) v).pool ∧
      SameRest (bindWired (callOf s b) v) y := by
    obtain rfl | rfl := hy <;> exact ⟨rfl, rfl, rfl, rfl, rfl, rfl, rfl, rfl, rfl, rfl, rfl, rfl⟩
  obtain ⟨hyqueues, hytally, hypool, hyrest⟩ := hsampled
  have hinput : isWired e = true → (y.input e).mode = inModeOf (bits (argOf s b 4) 0 3) ∧ (y.input e).filterW = (argOf s b 4).extractLsb' 4 10 ∧
      (y.input e).tally = 0 := by
    intro hwired
    obtain ⟨hmode, hfilter, hcount⟩ := bindWired_input (c := callOf s b) (hevid ▸ hwired) v
    rw [hevid] at hmode hfilter hcount hy
    rw [harg 4 (by decide)] at hmode hfilter
    rw [ofNat_bits] at hfilter
    obtain rfl | rfl := hy
    · exact ⟨hmode, hfilter, hcount⟩
    · rw [input_modInput, if_pos rfl]
      exact ⟨hmode, hfilter, hcount⟩
  have hwritten := bindWritten_queue (callOf s b) v
  obtain ⟨-, hused⟩ := bindSlot_effect (callOf s b) v
  have hset := bindWritten_tally (callOf s b) v
  rw [harg 1 (by decide)] at hused
  rw [hevid] at hwritten hset
  generalize bindDone (callOf s b) v = u at *
  refine ⟨u, (bindSlot (callOf s b) v).1, hexec, hfree, fun x => ?_, fun hlatest => ?_, ?_, fun hwired => ?_, ?_⟩
  · have hux : u.queue x = (bindWritten (callOf s b) v).queue x := by
      rw [State.queue, hdone, State.queue, ← hqueues, ← hyqueues]
    have hvx : v.queue x = s.queue x := by
      rw [hread]
      rfl
    rw [hux, hwritten, hvx]
  · have hslot : u.slot (bindSlot (callOf s b) v).1 = (bindSlot (callOf s b) v).2.slot (bindSlot (callOf s b) v).1 := by
      rw [State.slot, hdone, State.slot, ← hpool, ← hypool]
    rw [hslot]
    exact hused hlatest
  · have hkept : v.tally = s.tally := by rw [hread]
    rw [hdone, ← hkept, ← hset, ← htally, ← hytally]
  · rw [hdone]
    exact hinput hwired
  · exact (Noticed.sameRest hread).trans (hrest.trans (hyrest.trans hdone.sameRest))

end Sys2Proof.Machine
end

section
/-! SUPPORT. What stands outside a ledger is taken back (R132, R158, R384). -/

namespace Sys2Proof.Machine
open Sys2Proof

variable {s t u : State} {e n : Nat}

/-! ## Stations are told, and no seat of the queue comes back -/

/-- The station seats no candidate of queue `e` of its own. -/
def NoSeat (e : Nat) (x : Station) : Prop := seatHas e x.norm.seats = false ∧ seatHas e x.sec.seats = false

/-- No listed station seats one. -/
def NoSeats (e : Nat) (s : State) : Prop := ∀ x ∈ s.stns, NoSeat e x.2

theorem NoSeats.stn (h : NoSeats e s) (n : Nat) : NoSeat e (s.stn n) := by
  by_cases hd : s.stn n = {}
  · rw [hd]
    exact ⟨rfl, rfl⟩
  · exact h _ (mem_of_tget hd)

theorem seatHas_filter {xs : List Seat} (f : Seat → Bool) (h : seatHas e xs = false) : seatHas e (xs.filter f) = false := by
  simp only [seatHas, List.any_eq_false] at *
  exact fun x hx => h x (List.mem_of_mem_filter hx)

/-- Stations have been told: messages have been sent, seats freed and park flags answered (R169, R170, R175). -/
structure Reseated (s t : State) (e : Nat) : Prop where
  rest : t = { s with net := t.net, stns := t.stns, spreads := t.spreads, cells := t.cells }
  seats : NoSeats e s → NoSeats e t

theorem Reseated.refl (s : State) (e : Nat) : Reseated s s e := ⟨rfl, id⟩

theorem Reseated.trans (h1 : Reseated s t e) (h2 : Reseated t u e) : Reseated s u e := by
  refine ⟨?_, fun h => h2.seats (h1.seats h)⟩
  rw [h2.rest, h1.rest]

theorem OnlySent.reseated (h : OnlySent s t) (e : Nat) : Reseated s t e := by
  refine ⟨?_, fun hs => ?_⟩
  · rw [h.rest]
  · rw [NoSeats, h.stns_eq]
    exact hs

theorem reseated_modStn (s : State) (n : Nat) {f : Station → Station} (hf : ∀ x, NoSeat e x → NoSeat e (f x)) : Reseated s (s.modStn n f) e := by
  refine ⟨rfl, fun hs x hx => ?_⟩
  obtain hx | rfl := mem_tset hx
  · exact hs x hx
  · exact hf _ (hs.stn n)

theorem reseated_setPark (s : State) (n : Nat) (q : Tour) (b : Bool) (e : Nat) : Reseated s (setPark s n q b) e := by
  cases q with
  | normal => exact reseated_modStn s n (f := fun x => { x with norm := { x.norm with park := b } }) fun _ h => h
  | secure => exact reseated_modStn s n (f := fun x => { x with sec := { x.sec with park := b } }) fun _ h => h
  | virt => exact reseated_modStn s n (f := fun x => { x with virtPark := b }) fun _ h => h

theorem reseated_reportLoad (s : State) (n : Nat) (g : Grp) (e : Nat) : Reseated s (reportLoad s n g) e :=
  Reseated.trans (t := dropMsgs s fun x => match x with | .loadReport a b _ _ => decide (a = n) && decide (b = g) | _ => false)
    ⟨rfl, id⟩ ((onlySent_sendFrom _ _ _ _ _).reseated e)

theorem reseated_checkPark (s : State) (n : Nat) (q : Tour) (e : Nat) : Reseated s (checkPark s n q) e := by
  unfold checkPark
  split
  · exact (reseated_setPark s n q false e).trans ((onlySent_sendReOffer _ _ _ _).reseated e)
  · exact .refl s e

/-- A candidate is parked at a station (R169, R177). -/
theorem reseated_parkAt (s : State) (n : Nat) (q : Tour) (c : Cand) (e : Nat) : Reseated s (parkAt s n q c) e := by
  have hflag := (reseated_setPark s n q true e).trans ((onlySent_bump _ (rankCell s n) 0x31).reseated e)
  have hspread : ∀ (v : State) (k : Nat) (f : Spread → Spread), Reseated v (v.modSpread k f) e := fun _ _ _ => ⟨rfl, id⟩
  unfold parkAt
  dsimp only
  refine .trans (hflag.trans ?_) ((onlySent_sendFrom _ _ _ _ _).reseated e)
  split
  · exact hspread _ _ _
  · exact .refl _ e

theorem reseated_freeSeat (s : State) (n : Nat) (f : Seat → Bool) (e : Nat) : Reseated s (putSeats s n .normal ((s.grp n .normal).seats.filter f)) e := by
  refine ⟨rfl, fun hs x hx => ?_⟩
  obtain hx | rfl := mem_tset hx
  · exact hs x hx
  · obtain ⟨hnorm, hsec⟩ := hs.stn n
    exact ⟨seatHas_filter f hnorm, hsec⟩

theorem reseated_settleStation (s0 s : State) (n e : Nat) : Reseated s (settleStation s0 s n) e := by
  have hreport : ∀ (v : State) (g : Grp), Reseated v (if load s0 n g = load v n g then v else reportLoad v n g) e := by
    intro v g
    split
    · exact .refl v e
    · exact reseated_reportLoad v n g e
  unfold settleStation
  extract_lets xs s1 s2 s3 fell
  have hparks : Reseated s s1 e := by
    unfold s1
    split
    · split
      · exact (reseated_freeSeat s n _ e).trans (reseated_parkAt _ _ _ _ e)
      · exact .refl s e
    · exact .refl s e
  have hreports : Reseated s1 s3 e := (hreport s1 .normal).trans (hreport s2 .secure)
  have hfell : ∀ (v : State) (q : Tour), Reseated v (fell v q) e := by
    intro v q
    unfold fell
    split
    · exact reseated_checkPark v n q e
    · exact .refl v e
  exact (((hparks.trans hreports).trans (hfell s3 .normal)).trans (hfell _ .secure)).trans (hfell _ .virt)

theorem reseated_settleStations (s0 s : State) (ns : List Nat) (e : Nat) : Reseated s (settleStations s0 s ns) e :=
  forAll_rel (R := fun s t => Reseated s t e) (fun s => .refl s e) (fun h1 h2 => h1.trans h2) _ (fun v n => reseated_settleStation s0 v n e) ns s

theorem onlySent_gatherOffers (s0 s : State) : OnlySent s (gatherOffers s0 s) := by
  unfold gatherOffers
  dsimp only
  split
  · exact .refl s
  · exact forAll_rel OnlySent.refl OnlySent.trans _ (fun _ _ => onlySent_sendReOffer _ _ _ _) _ s

/-! ## The candidates of a queue are discarded -/

theorem seatHas_discarded (xs : List Seat) : seatHas e (xs.filter fun x => decide (x.cand.evid ≠ e)) = false := by
  simp only [seatHas, List.any_eq_false, List.mem_filter]
  rintro x ⟨-, hx⟩
  simp_all

/-- Freed placement entries, with what a strike of them leaves (R176, R479). -/
theorem dropPlaces_noticed (s : State) (e : Nat) (f : Place → Bool) : ∃ v, Noticed s v ∧ ∃ ps, PlacesFreed { v with places := ps } (dropPlaces s e f) := by
  unfold dropPlaces
  split
  · exact ⟨s, .refl s, s.places, .refl s⟩
  · exact ⟨_, noticed_strike _ _ _ _, _, forAll_rel PlacesFreed.refl PlacesFreed.trans _ placesFreed_placeOffers _ _⟩

/-- No seat, context or record holds a candidate of the queue once all are discarded; the queues, the field book and the inputs are the same
(R132, R384). -/
structure Discarded (s t : State) (e : Nat) : Prop where
  queues : t.queues = s.queues
  fb : t.fb = s.fb
  seats : NoSeats e t
  recorded : ∀ x ∈ t.ctxs, seatHas e x.2.g.seats = false ∧ seatHas e x.2.cands = false

theorem purge_discarded (s : State) (e : Nat) : Discarded s (purge s e) e := by
  unfold purge
  extract_lets keep s1 s2
  obtain ⟨v, hnoticed, ps, hfreed⟩ := dropPlaces_noticed (dropGates s2 e) e fun _ => true
  generalize dropPlaces (dropGates s2 e) e (fun _ => true) = p at *
  have hfreedQueues : p.queues = s.queues ∧ p.fb = s.fb ∧ p.stns = s1.stns ∧ p.ctxs = s1.ctxs := by
    rw [hfreed.rest, hnoticed]
    exact ⟨rfl, rfl, rfl, rfl⟩
  obtain ⟨hqueues, hfb, hstns, hctxs⟩ := hfreedQueues
  have hseats : NoSeats e p := by
    rw [NoSeats, hstns]
    intro x hx
    obtain ⟨y, -, rfl⟩ := List.mem_map.mp hx
    exact ⟨seatHas_discarded _, seatHas_discarded _⟩
  have htold := (reseated_settleStations s p (tkeys s.stns) e).trans ((onlySent_gatherOffers s _).reseated e)
  generalize gatherOffers s (settleStations s p (tkeys s.stns)) = z at *
  refine ⟨?_, ?_, htold.seats hseats, ?_⟩
  · rw [htold.rest, ← hqueues]
  · rw [htold.rest, ← hfb]
  · have hz : z.ctxs = s1.ctxs := by rw [htold.rest, ← hctxs]
    rw [hz]
    intro x hx
    obtain ⟨y, -, rfl⟩ := List.mem_map.mp hx
    exact ⟨seatHas_discarded _, seatHas_discarded _⟩

/-! ## The update of one queue -/

theorem OtherQueuesBut.refl (s : State) (e : Nat) : OtherQueuesBut s s e := fun _ _ => rfl

theorem OtherQueuesBut.trans (h1 : OtherQueuesBut s t e) (h2 : OtherQueuesBut t u e) : OtherQueuesBut s u e := by
  intro x hx
  rw [h2 x hx, h1 x hx]

theorem OtherQueues.but (h : OtherQueues s t e) : OtherQueuesBut s t e := by
  intro x hx
  rw [h x hx]

theorem otherQueuesBut_of_queues (h : t.queues = s.queues) : OtherQueuesBut s t e :=
  OtherQueues.but fun x _ => by rw [State.queue, h, State.queue]

theorem otherQueuesBut_unlinkHead (s : State) (e : Nat) : OtherQueuesBut s (unlinkHead s e) e := by
  intro x hx
  unfold unlinkHead
  dsimp only
  split
  · rfl
  · obtain ⟨-, -, b, hq⟩ := poolFreeSlot_effect ((if (s.queue e).count = 1 then s.modQueue e fun x => { x with tail := 0 }
        else s.setSlot (s.queue e).tail { (s.slot (s.queue e).tail) with link := (s.slot (headSlot s (s.queue e))).link }).modQueue e
      fun x => { x with count := x.count - 1 }) (headSlot s (s.queue e)) x
    have hlink : ((if (s.queue e).count = 1 then s.modQueue e fun x => { x with tail := 0 }
        else s.setSlot (s.queue e).tail { (s.slot (s.queue e).tail) with link := (s.slot (headSlot s (s.queue e))).link }).modQueue e
      fun x => { x with count := x.count - 1 }).queue x = s.queue x := by
      rw [queue_modQueue, if_neg hx]
      split
      · rw [queue_modQueue, if_neg hx]
      · rfl
    rw [hlink] at hq
    rw [hq]

/-- Claims and completions at the ledger, and what is taken back, leave the other queues but for over-quota flags; no store word is struck. -/
structure Updated (s t : State) (e : Nat) : Prop where
  others : OtherQueuesBut s t e
  ecc : t.ecc = s.ecc

theorem Updated.refl (s : State) (e : Nat) : Updated s s e := ⟨.refl s e, rfl⟩
theorem Updated.trans (h1 : Updated s t e) (h2 : Updated t u e) : Updated s u e := ⟨h1.others.trans h2.others, h2.ecc.trans h1.ecc⟩
theorem Reoffered.updated (h : Reoffered s t e) : Updated s t e := ⟨h.other.but, h.ecc_eq⟩
theorem Offered.updated (h : Offered s t e) : Updated s t e := h.reoffered.updated
theorem updated_of_queues (h : t.queues = s.queues) (he : t.ecc = s.ecc) : Updated s t e := ⟨otherQueuesBut_of_queues h, he⟩

/-- A withdrawal concerns its queue alone (R138). -/
theorem updated_withdraw (s : State) (e : Nat) : Updated s (withdraw s e) e ∧ (withdraw s e).fb = s.fb := by
  unfold withdraw
  dsimp only
  split
  · have hsent : ∀ f : Queue → Queue, Offered s (sendFrom (s.modQueue e f) (ledgerCell s e) (.withdrawal e (s.queue e).route) none none) e :=
      fun f => (offered_modQueue s e f).trans (offered_sendFrom _ _ _ _ _ e)
    have hgates : ∀ v : State, Updated v (dropGates v e) e ∧ (dropGates v e).fb = v.fb := fun v => ⟨updated_of_queues rfl rfl, rfl⟩
    refine ⟨(hsent _).updated.trans (hgates _).1, (hgates _).2.trans ?_⟩
    rw [(hsent _).rest]
  · exact ⟨.refl s e, rfl⟩

theorem updated_poison (he : s.ecc = []) (e : Nat) : Updated s (poison s e) e := by
  obtain ⟨hback, -⟩ := updated_withdraw s e
  have hkill : ∀ v : State, Updated v (orphan (killRecs v e rQueuePoisoned) e) e := fun _ => updated_of_queues rfl rfl
  have hset : ∀ (v : State) (q : Queue), Updated v (dropGates (v.setQueue e q) e) e := fun v q =>
    ⟨OtherQueues.but fun x hx => (queue_setQueue v e x q).trans (if_neg hx), rfl⟩
  unfold poison
  dsimp only
  have hpoisoned := (hback.trans (hkill _)).trans (hset _
    { bound := true, poisoned := true, recalled := ((orphan (killRecs (withdraw s e) e rQueuePoisoned) e).queue e).recalled })
  exact hpoisoned.trans ((placesFreed_dropPlaces (hpoisoned.ecc.trans he) e _).reoffered e).updated

theorem updated_orphan (s : State) (e : Nat) : Updated s (orphan s e) e := updated_of_queues rfl rfl
theorem updated_modQueue (s : State) (e : Nat) (f : Queue → Queue) : Updated s (s.modQueue e f) e := (offered_modQueue s e f).updated
theorem updated_bump (s : State) (c : Option Nat) (k e : Nat) : Updated s (bump s c k) e := (offered_bump s c k e).updated
theorem updated_offer (he : s.ecc = []) (e : Nat) : Updated s (offer s e) e := (offered_offer he e).updated

theorem updated_dueCount (s : State) (e : Nat) : Updated s (dueCount s e) e := by
  obtain ⟨hframe, hother, -⟩ := dueCount_effect s e
  exact ⟨hother.but, hframe.ecc_eq⟩

theorem updated_unlinkHead (s : State) (e : Nat) : Updated s (unlinkHead s e) e := by
  obtain ⟨hframe, -⟩ := unlinkHead_effect s e
  exact ⟨otherQueuesBut_unlinkHead s e, hframe.ecc_eq⟩

/-- A claim that its ledger applies (R132, R133, R140). -/
theorem updated_claimApply (he : s.ecc = []) (e : Nat) (h : Holder) (ovf lost : Bool) : Updated s (claimApply s e h ovf lost) e := by
  unfold claimApply
  rw [descRead_clean he]
  extract_lets v q lc s1 s2
  have hv : Updated s v e := updated_of_queues rfl rfl
  split
  · exact (hv.trans (updated_modQueue v e _)).trans (updated_orphan _ e)
  · split
    · exact hv.trans (updated_poison (hv.ecc.trans he) e)
    · have hs1 : Updated s s1 e := hv.trans (updated_modQueue v e _)
      have hdue := hs1.trans (updated_dueCount s1 e)
      have hs2 : Updated s s2 e := by
        unfold s2
        split
        · exact hdue
        · exact hdue.trans (updated_modQueue _ e _)
        · exact hdue.trans (updated_unlinkHead _ e)
        · split
          · exact hdue.trans (updated_modQueue _ e _)
          · exact hs1
      have hcounted := hs2.trans (updated_bump s2 lc 0x23 e)
      exact hcounted.trans (updated_offer (hcounted.ecc.trans he) e)

theorem updated_ledgerClaim (he : s.ecc = []) (e : Nat) (h : Holder) : Updated s (ledgerClaim s e h) e := by
  obtain ⟨v, ovf, hoff, -, -, heq⟩ := ledgerClaim_eq he e h
  rw [heq]
  exact hoff.updated.trans (updated_claimApply (hoff.ecc_eq.trans he) e h ovf false)

/-- A completion that its ledger applies (R132, R138). -/
theorem updated_completeApply (he : s.ecc = []) (e : Nat) (h : Holder) : Updated s (completeApply s e h) e := by
  unfold completeApply
  rw [descRead_clean he]
  extract_lets v q lc hs s1 s3 w s2
  have hs1 : Updated s s1 e := updated_modQueue s e _
  have hs3 : Updated s s3 e := by
    unfold s3
    split
    · exact hs1.trans (updated_modQueue _ e _)
    · exact hs1
  have hs2 : Updated s s2 e := by
    unfold s2
    split
    · exact hs1
    · split
      · exact hs1.trans (updated_modQueue _ e _)
      · have hstate := hs3.trans (updated_modQueue s3 e fun x => { x with state := if w then .pending else .idle })
        exact hstate.trans ((placesFreed_freePlace (hstate.ecc.trans he) e).reoffered e).updated
  split
  · exact updated_bump s lc 0x25 e
  · have hdone := (hs2.trans (updated_bump s2 lc 0x24 e)).trans ((updated_modQueue _ e fun x => { x with cached := x.keptCache }).trans (offered_settle _ e).updated)
    exact hdone.trans (updated_offer (hdone.ecc.trans he) e)

/-- A report reaches its ledger (R29, R140). -/
def settleReport (e : Nat) (s : State) : Msg → State
  | .claimed _ h want _ ovf lost => if want then ledgerClaim s e h else claimApply s e h ovf lost
  | .completed _ h => completeApply s e h
  | _ => s

theorem updated_settleReport (he : s.ecc = []) (e : Nat) (m : Msg) : Updated s (settleReport e s m) e := by
  unfold settleReport
  split
  · split
    · exact updated_ledgerClaim he e _
    · exact updated_claimApply he e _ _ _
  · exact updated_completeApply he e _
  · exact .refl s e

theorem updated_settleReports (he : s.ecc = []) (e : Nat) : Updated s (settleReports s e) e := by
  have hall : ∀ (v : State) (xs : List Msg), v.ecc = [] → Updated v (forAll v xs (settleReport e)) e := fun v xs =>
    forAll_rel (R := fun s t => s.ecc = [] → Updated s t e) (fun s _ => .refl s e) (fun h h' he => (h he).trans (h' ((h he).ecc.trans he))) _
      (fun v m hv => updated_settleReport hv e m) xs v
  unfold settleReports
  extract_lets ms s1
  have hdropped : Updated s s1 e := updated_of_queues rfl rfl
  exact hdropped.trans (hall s1 ms (hdropped.ecc.trans he))

/-! ## QUEUE_UNBIND -/

/-- The candidates of the queue are withdrawn and discarded, its records marked and its stack entries orphaned (R132). -/
def unbindCleared (s : State) (e : Nat) (why : BitVec 4) : State := purge (orphan (killRecs (withdraw s e) e why) e) e

/-- The slots of the queue go back to the pool; those of a poisoned one are left to the audit (R132, R158). -/
def unbindSlots (s : State) (e : Nat) (q : Queue) : State :=
  match q.mode with
  | .payload => if q.poisoned then s else unlinkAll s e q.count.toNat
  | .latest => if q.poisoned then s else poolFreeSlot s q.tail
  | _ => s

/-- The input of a wired queue is off (R132). -/
def unbindInput (s : State) (e : Nat) : State := if isWired e then s.modInput e fun x => { x with mode := .off, held := 0 } else s

/-- The descriptor is gone (R132, R158). -/
def unbindDone (s : State) (e : Nat) (q : Queue) (owner p : Nat) : State :=
  touch ((if q.poisoned then s.modIsl fun x => { x with auditFor := x.auditFor ++ [owner] } else s).setQueue e {}) p

theorem unbind_eq (s : State) (e : Nat) (why : BitVec 4) : ∃ v, v = settleReports s e ∧
    unbind s e why = unbindDone (unbindInput (unbindSlots (unbindCleared v e why) e (v.queue e)) e) e (v.queue e) (evidParcel v e) (queueParcel v e) :=
  ⟨_, rfl, rfl⟩

/-- A queue's records as they are marked (R132, R385). -/
theorem fbOf_killRecs (s : State) (e : Nat) {why : BitVec 4} (hwhy : why ≠ 0) : ∀ r ∈ fbOf (killRecs s e why) e, r.dead ≠ 0 := by
  intro r hr
  unfold fbOf killRecs at hr
  dsimp only at hr
  rw [← List.map_append, List.mem_filter, List.mem_map] at hr
  obtain ⟨⟨x, -, rfl⟩, hevid⟩ := hr
  split
  · exact hwhy
  · next h =>
    rw [if_neg h] at hevid
    exact fun hdead => h ⟨of_decide_eq_true hevid, hdead⟩

/-- What is cleared (R132): the queue's records are marked, and nothing outside the ledger holds its candidates. -/
theorem unbindCleared_effect (s : State) (e : Nat) {why : BitVec 4} (hwhy : why ≠ 0) :
    OtherQueuesBut s (unbindCleared s e why) e ∧ (∀ r ∈ fbOf (unbindCleared s e why) e, r.dead ≠ 0) ∧ NoSeats e (unbindCleared s e why) ∧
      ∀ x ∈ (unbindCleared s e why).ctxs, seatHas e x.2.g.seats = false ∧ seatHas e x.2.cands = false := by
  obtain ⟨hqueues, hfb, hseats, hrecorded⟩ := purge_discarded (orphan (killRecs (withdraw s e) e why) e) e
  refine ⟨?_, ?_, hseats, hrecorded⟩
  · exact (updated_withdraw s e).1.others.trans (otherQueuesBut_of_queues hqueues)
  · have hkilled := fbOf_killRecs (withdraw s e) e hwhy
    unfold unbindCleared
    unfold fbOf at hkilled ⊢
    rw [hfb]
    exact hkilled

/-- Freed slots touch no page, no record and no input; of the other queues, over-quota flags clear (R142, R147). -/
structure SlotsBack (s t : State) (e : Nat) : Prop where
  rest : t = { s with queues := t.queues, net := t.net, cells := t.cells, pool := t.pool, parcels := t.parcels, parcel0 := t.parcel0, isl := t.isl }
  others : OtherQueuesBut s t e

theorem SlotsBack.refl (s : State) (e : Nat) : SlotsBack s s e := ⟨rfl, .refl s e⟩

theorem SlotsBack.trans (h1 : SlotsBack s t e) (h2 : SlotsBack t u e) : SlotsBack s u e := by
  refine ⟨?_, h1.others.trans h2.others⟩
  rw [h2.rest, h1.rest]

theorem slotsBack_unlinkAll (s : State) (e k : Nat) : SlotsBack s (unlinkAll s e k) e := by
  induction k generalizing s with
  | zero => exact .refl s e
  | succ k ih =>
    obtain ⟨hframe, -⟩ := unlinkHead_effect s e
    exact SlotsBack.trans ⟨hframe.rest, otherQueuesBut_unlinkHead s e⟩ (ih (unlinkHead s e))

theorem slotsBack_poolFreeSlot (s : State) (n e : Nat) : SlotsBack s (poolFreeSlot s n) e := by
  obtain ⟨hframe, -⟩ := poolFreeSlot_effect s n e
  refine ⟨hframe.rest, fun x _ => ?_⟩
  obtain ⟨-, -, b, hq⟩ := poolFreeSlot_effect s n x
  rw [hq]

theorem slotsBack_unbindSlots (s : State) (e : Nat) (q : Queue) : SlotsBack s (unbindSlots s e q) e := by
  unfold unbindSlots
  split
  · split
    · exact .refl s e
    · exact slotsBack_unlinkAll s e _
  · split
    · exact .refl s e
    · exact slotsBack_poolFreeSlot s _ e
  · exact .refl s e

/-- The end of an unbinding touches no page, no record and no other queue (R132). -/
theorem unbindDone_effect (s : State) (e : Nat) (q : Queue) (owner p : Nat) :
    unbindDone s e q owner p = { s with queues := (s.setQueue e {}).queues, isl := (unbindDone s e q owner p).isl } := by
  unfold unbindDone
  rw [touch_eq]
  split <;> rfl

/-- What is left once the queue is unbound (R132, R158). -/
structure Unbound (s t : State) (e : Nat) : Prop where
  queue : t.queue e = {}
  others : OtherQueuesBut s t e
  records : ∀ r ∈ fbOf t e, r.dead ≠ 0
  seats : NoSeats e t
  recorded : ∀ x ∈ t.ctxs, seatHas e x.2.g.seats = false ∧ seatHas e x.2.cands = false
  input : isWired e = true → (t.input e).mode = .off

theorem unbind_unbound (he : s.ecc = []) (e : Nat) {why : BitVec 4} (hwhy : why ≠ 0) : Unbound s (unbind s e why) e := by
  obtain ⟨v, hv, heq⟩ := unbind_eq s e why
  have hsettled : OtherQueuesBut s v e := by
    rw [hv]
    exact (updated_settleReports he e).others
  obtain ⟨hothers, hrecords, hseats, hrecorded⟩ := unbindCleared_effect v e hwhy
  have hslots := slotsBack_unbindSlots (unbindCleared v e why) e (v.queue e)
  rw [heq]
  generalize unbindCleared v e why = w at *
  generalize unbindSlots w e (v.queue e) = y at *
  have hinput : ∃ is, unbindInput y e = { y with inputs := is } ∧ (isWired e = true → ((unbindInput y e).input e).mode = .off) := by
    unfold unbindInput
    split
    · exact ⟨_, rfl, fun _ => by rw [input_modInput, if_pos rfl]⟩
    · next h => exact ⟨_, rfl, fun hw => absurd hw h⟩
  obtain ⟨is, hrest, hoff⟩ := hinput
  have hdone := unbindDone_effect (unbindInput y e) e (v.queue e) (evidParcel v e) (queueParcel v e)
  generalize unbindInput y e = z at *
  generalize unbindDone z e (v.queue e) (evidParcel v e) (queueParcel v e) = t at *
  have hqueue : ∀ x, t.queue x = if x = e then {} else z.queue x := fun x => by
    rw [State.queue, hdone]
    exact queue_setQueue z e x {}
  have hzq : ∀ x, z.queue x = y.queue x := fun x => by
    rw [hrest]
    rfl
  have hsame : t.fb = w.fb ∧ t.stns = w.stns ∧ t.ctxs = w.ctxs ∧ t.inputs = z.inputs := by
    rw [hdone, hrest, hslots.rest]
    exact ⟨rfl, rfl, rfl, rfl⟩
  obtain ⟨hfb, hstns, hctxs, hinputs⟩ := hsame
  refine ⟨?_, ?_, ?_, ?_, ?_, fun hw => ?_⟩
  · rw [hqueue, if_pos rfl]
  · refine (hsettled.trans (hothers.trans hslots.others)).trans (OtherQueues.but fun x hx => ?_)
    rw [hqueue, if_neg hx, hzq]
  · unfold fbOf at hrecords ⊢
    rwa [hfb]
  · rw [NoSeats, hstns]
    exact hseats
  · rw [hctxs]
    exact hrecorded
  · rw [State.input, hinputs]
    exact hoff hw

/-- QUEUE_UNBIND answers with the occurrences and the records that waited, and unbinds the queue (R132, R349). -/
theorem queueUnbind_effect {b : Box} (hw : Waits s b 0x21) (he : s.ecc = []) (hok : EndsOk cmdQueueUnbind s b) (hevid : e = bits (argOf s b 0) 0 20) :
    ∃ n, exec (.queueUnbind b) s = .next (endCmd (unbind s e rUnbound) b cOk [n, w32 (recsOf s e)]) := by
  have hexec : exec (.queueUnbind b) s = _ := serveBox_ok hw (by decide) hok
  unfold EndsOk cmdQueueUnbind at hok
  obtain ⟨hres, -⟩ := checked_ok (by simp [cDenied, cBadArg, cFenced, cOk]) hok
  rw [show cmdQueueUnbind (callOf s b) s = _ from hres, arg_callOf s b (by decide), ← hevid, descRead_clean he] at hexec
  exact ⟨_, hexec⟩

/-- Settles O42: a binding writes the descriptor, the tally and the input; an unbinding clears the queue after all that held its candidate. -/
theorem queuesAreBoundAndUnbound : Obligations.QueuesAreBoundAndUnbound := by
  unfold Obligations.QueuesAreBoundAndUnbound
  refine ⟨fun s b e hw hok he => ?_, fun s b e hw hecc hok he => ?_⟩
  · obtain ⟨u, tail, hexec, hfree, hqueue, hslot, htally, hinput, hfb, hstns, hctxs, hsetup⟩ := queueBind_effect hw hok he
    refine ⟨u, hexec, hfree, ⟨tail, ?_, hslot⟩, fun x hx => ?_, ?_, fun x hx => ?_, hinput, hfb, hstns, hctxs, hsetup⟩
    · have hbound : u.queue e = boundQueue (callOf s b) tail := (hqueue e).trans (if_pos rfl)
      rw [hbound, boundQueue, ofNat_bits, arg_callOf s b (by decide), arg_callOf s b (by decide), arg_callOf s b (by decide)]
    · rw [hqueue, if_neg hx]
    · rw [htally, getW_tset, if_pos rfl]
    · rw [htally, getW_tset, if_neg hx]
  · obtain ⟨n, hexec⟩ := queueUnbind_effect hw hecc hok he
    obtain ⟨hqueue, hothers, hrecords, hseats, hrecorded, hinput⟩ := unbind_unbound hecc e (why := rUnbound) (by decide)
    exact ⟨_, _, hexec, rfl, hqueue, hothers, hrecords, hseats, hrecorded, hinput⟩

end Sys2Proof.Machine
end

section
/-! SUPPORT. Definitions of spread sets, gangs, trains, contexts and wake sources (R173, R234, R243, R352, R354, R366). -/

namespace Sys2Proof.Machine
open Sys2Proof

variable {s t : State} {b : Box}

/-! ## Commands of one form -/

/-- A row that takes one form of its command serves a command of that form as any row does. -/
theorem serveBox_form {form : Call → Bool} (hp : s.parity = []) (hform : form (callOf s b) = true) (op : Nat) (f : Call → State → Res) :
    serveBox b op form f s = serveBox b op anyForm f s := by
  unfold serveBox
  simp only [parityAll_clean hp, hform, anyForm]

theorem bit31_callOf (s : State) (b : Box) (v : Bool) : bit31 v (callOf s b) = ((argOf s b 0).getLsbD 31 == v) := by
  rw [bit31, arg_callOf s b (by decide)]

/-- A station bitmap within the argument words names its stations (R345). -/
theorem bitmapArg_callOf (s : State) (b : Box) {i : Nat} (hi : i < 15) :
    bitmapArg (callOf s b) i = (List.range 576).filter fun n => (argOf s b (i + n / 32)).getLsbD (n % 32) := by
  refine List.filter_congr fun n hn => ?_
  rw [List.mem_range] at hn
  rw [arg_callOf s b (by omega)]

/-! ## Spread sets and gangs -/

theorem exec_spreadDefine (hw : Waits s b 0x24) (hok : EndsOk cmdSpreadDefine s b) : ∃ resp, exec (.spreadDefine b) s = .next (endCmd
    (s.modSpread (bits (argOf s b 0) 0 8) fun y => { y with
      parcel := bits (argOf s b 1) 0 10,
      members := (List.range 576).filter fun n => (argOf s b (2 + n / 32)).getLsbD (n % 32) }) b cOk resp) := by
  have hexec : exec (.spreadDefine b) s = _ := serveBox_ok hw (by decide) hok
  unfold EndsOk cmdSpreadDefine at hok
  obtain ⟨hres, -⟩ := checked_ok (by simp [cDenied, cBadArg, cFenced, cNoResource, cOk]) hok
  rw [show cmdSpreadDefine (callOf s b) s = _ from hres, bitmapArg_callOf s b (by decide), arg_callOf s b (by decide), arg_callOf s b (by decide)] at hexec
  exact ⟨_, hexec⟩

theorem exec_gangDefine (hw : Waits s b 0x30) (hok : EndsOk cmdGangDefine s b) (hform : (argOf s b 0).getLsbD 31 = false) :
    ∃ resp, exec (.gangDefine b) s = .next (endCmd
      (s.modGang (bits (argOf s b 0) 0 10) fun y => { y with
        defined := true, parcel := bits (argOf s b 1) 0 10, send := bits (argOf s b 2) 0 20,
        done := bits (argOf s b 3) 0 20, offset := (argOf s b 0).getLsbD 16, offsetNs := (argOf s b 4).extractLsb' 0 20, post := (argOf s b 0).getLsbD 17,
        members := (List.range 576).filter fun n => (argOf s b (5 + n / 32)).getLsbD (n % 32) }) b cOk resp) := by
  have hexec : exec (.gangDefine b) s = _ :=
    (serveBox_form hw.2.2.2 (by rw [bit31_callOf, hform]; rfl) _ _).trans (serveBox_ok hw (by decide) hok)
  unfold EndsOk cmdGangDefine at hok
  obtain ⟨hres, -⟩ := checked_ok (by simp [cDenied, cBadArg, cFenced, cNoResource, cOk]) hok
  rw [show cmdGangDefine (callOf s b) s = _ from hres, bitmapArg_callOf s b (by decide), ofNat_bits, arg_callOf s b (by decide), arg_callOf s b (by decide),
    arg_callOf s b (by decide), arg_callOf s b (by decide), arg_callOf s b (by decide)] at hexec
  exact ⟨_, hexec⟩

theorem exec_gangUndefine (hw : Waits s b 0x30) (hok : EndsOk cmdGangUndefine s b) (hform : (argOf s b 0).getLsbD 31 = true) :
    exec (.gangUndefine b) s = .next (endCmd { s with gangs := tdel (bits (argOf s b 0) 0 10) s.gangs } b cOk []) := by
  have hexec : exec (.gangUndefine b) s = _ :=
    (serveBox_form hw.2.2.2 (by rw [bit31_callOf, hform]; rfl) _ _).trans (serveBox_ok hw (by decide) hok)
  unfold EndsOk cmdGangUndefine at hok
  obtain ⟨hres, -⟩ := checked_ok (by simp [cBadArg, cFenced, cBusy, cOk]) hok
  rw [show cmdGangUndefine (callOf s b) s = _ from hres, arg_callOf s b (by decide)] at hexec
  rw [hexec, State.modGang, tset, if_pos rfl]

/-! ## Trains -/

/-- The number that a train takes is below 16, and no train of its cell has it (R243). -/
theorem freeTrain_some {cell i : Nat} (h : freeTrain s cell = some i) : i < 16 ∧ ∀ t ∈ s.trains, t.cell = cell → t.id ≠ i := by
  unfold freeTrain at h
  have hfree := List.find?_some h
  refine ⟨List.mem_range.mp (List.mem_of_find?_eq_some h), fun t ht hcell => ?_⟩
  simpa [hcell] using List.all_eq_true.mp hfree t ht

/-- The train that a GANG_RELEASE_AT asks for, at its gang's cell under the number that is free there (R243). -/
def askedTrain (s : State) (b : Box) (cell id : Nat) : Train :=
  { id := id, cell := cell, gang := bits (argOf s b 0) 0 10, target := mk64 (argOf s b 2) (argOf s b 1), period := (argOf s b 3).zeroExtend 64,
    left := (argOf s b 4).toNat, payload := (argOf s b 5).extractLsb' 0 20, secure := decide (b = .secure) }

theorem exec_gangReleaseAt (hw : Waits s b 0x31) (hok : EndsOk cmdGangReleaseAt s b) :
    (argOf s b 4 = 0 → exec (.gangReleaseAt b) s = .next (endCmd { s with trains := s.trains.filter fun t => decide (t.gang ≠ bits (argOf s b 0) 0 10) } b cOk [0])) ∧
    (argOf s b 4 ≠ 0 → ∃ cell id, gangCell s (bits (argOf s b 0) 0 10) = some cell ∧ freeTrain s cell = some id ∧
      exec (.gangReleaseAt b) s = .next (endCmd { s with trains := s.trains ++ [askedTrain s b cell id] } b cOk [w32 id])) := by
  have hexec : exec (.gangReleaseAt b) s = _ := serveBox_ok hw (by decide) hok
  have hzero : (argOf s b 4).toNat = 0 ↔ argOf s b 4 = 0 := by rw [← BitVec.toNat_inj]; rfl
  have harg : ∀ i, i < 32 → (callOf s b).arg i = argOf s b i := fun i hi => arg_callOf s b hi
  unfold EndsOk cmdGangReleaseAt at hok
  rw [cmdGangReleaseAt] at hexec
  dsimp only at hok hexec
  split at hok
  · next e hfail =>
    obtain ⟨x, hx, rfl⟩ := firstFail_mem hfail
    revert hok
    revert x
    simp [cBadArg, cDenied, cFenced, cNoResource, cOk]
  · next hpass =>
    rw [hpass] at hexec
    have hslot := firstFail_none hpass
    simp only [List.forall_mem_cons] at hslot
    obtain ⟨-, -, -, -, -, -, hslot, -⟩ := hslot
    simp only [harg 0 (by decide), harg 1 (by decide), harg 2 (by decide), harg 3 (by decide), harg 4 (by decide), harg 5 (by decide)] at hexec hslot
    refine ⟨fun h => ?_, fun h => ?_⟩
    · rw [if_pos (hzero.mpr h)] at hexec
      exact hexec
    · rw [if_neg (mt hzero.mp h)] at hexec
      cases hc : gangCell s (bits (argOf s b 0) 0 10) with
      | none => simp [hc, mt hzero.mp h] at hslot
      | some cell =>
        cases hi : freeTrain s cell with
        | none => simp [hc, hi, mt hzero.mp h] at hslot
        | some id =>
          simp only [hc, hi, Option.bind_some, Option.getD_some] at hexec
          refine ⟨cell, id, rfl, hi, hexec.trans ?_⟩
          have hsec : (callOf s b).sec = decide (b = .secure) := rfl
          simp [askedTrain, hsec]

/-! ## Contexts -/

/-- The empty record that a VCTX_BIND asks for (R366). -/
def askedCtx (s : State) (b : Box) : Ctx :=
  { bound := true, home := bits (argOf s b 2) 0 10, parcel := bits (argOf s b 1) 0 10, dbRank := (argOf s b 2).extractLsb' 16 8 }

theorem exec_vctxBind {v : Nat} (hw : Waits s b 0x44) (hv : v = bits (argOf s b 0) 0 14) (hok : EndsOk cmdVctxBind s b)
    (hform : (argOf s b 0).getLsbD 31 = false) :
    ∃ u, exec (.vctxBind b) s = .next (endCmd u b cOk []) ∧ (∀ w ∈ reOfferUnits s (.context v), Sent u (.reOffer (.context v) w none)) ∧
      u.ctx v = askedCtx s b ∧
      (∀ x, x ≠ v → u.ctx x = s.ctx x) ∧ CountersOnly s u ∧ u = { s with net := u.net, cells := u.cells, ctxs := u.ctxs, isl := u.isl } := by
  have hexec : exec (.vctxBind b) s = _ :=
    (serveBox_form hw.2.2.2 (by rw [bit31_callOf, hform]; rfl) _ _).trans (serveBox_ok hw (by decide) hok)
  unfold EndsOk cmdVctxBind at hok
  obtain ⟨hres, -⟩ := checked_ok (by simp [cDenied, cBadArg, cFenced, cNoResource, cOk]) hok
  rw [show cmdVctxBind (callOf s b) s = _ from hres, arg_callOf s b (by decide), arg_callOf s b (by decide), arg_callOf s b (by decide), ← hv] at hexec
  change exec (.vctxBind b) s = .next (endCmd (touch (sendReOffer (s.setCtx v (askedCtx s b)) 12 (contextCell s v) (.context v))
    (bits (argOf s b 1) 0 10)) b cOk []) at hexec
  generalize askedCtx s b = x at *
  have hctx : ∀ w, (s.setCtx v x).ctx w = if w = v then x else s.ctx w := fun w => ctx_setCtx s v w x
  have hasked := onlySent_sendReOffer (s.setCtx v x) 12 (contextCell s v) (.context v)
  have hsent := sendReOffer_sent (s.setCtx v x) 12 (contextCell s v) (.context v)
  generalize sendReOffer (s.setCtx v x) 12 (contextCell s v) (.context v) = w at *
  have hkept : ∀ y, (touch w (bits (argOf s b 1) 0 10)).ctx y = (s.setCtx v x).ctx y := fun y => by
    rw [touch_eq, State.ctx, hasked.rest]
    rfl
  refine ⟨_, hexec, fun y hy => ?_, ?_, fun y hy => ?_, ?_, ?_⟩
  · rw [touch_eq]
    exact hsent y hy
  · rw [hkept, hctx, if_pos rfl]
  · rw [hkept, hctx, if_neg hy]
  · rw [touch_eq]
    exact (CountersOnly.of_cells rfl).trans hasked.cells.counters
  · rw [touch_eq, hasked.rest]
    rfl

theorem exec_vctxUnbind {v : Nat} (hw : Waits s b 0x44) (hv : v = bits (argOf s b 0) 0 14) (hok : EndsOk cmdVctxUnbind s b)
    (hform : (argOf s b 0).getLsbD 31 = true) :
    ∃ u, exec (.vctxUnbind b) s = .next (endCmd u b cOk []) ∧ u.ctx v = {} ∧ (∀ x, x ≠ v → u.ctx x = s.ctx x) ∧
      u = { s with ctxs := u.ctxs, isl := u.isl } := by
  have hexec : exec (.vctxUnbind b) s = _ :=
    (serveBox_form hw.2.2.2 (by rw [bit31_callOf, hform]; rfl) _ _).trans (serveBox_ok hw (by decide) hok)
  unfold EndsOk cmdVctxUnbind at hok
  obtain ⟨hres, -⟩ := checked_ok (by simp [cBadArg, cFenced, cBusy, cOk]) hok
  rw [show cmdVctxUnbind (callOf s b) s = _ from hres, arg_callOf s b (by decide), ← hv] at hexec
  have hctx : ∀ p x, (touch (s.setCtx v {}) p).ctx x = if x = v then {} else s.ctx x := fun p x => by
    rw [touch_eq]
    exact ctx_setCtx s v x {}
  refine ⟨_, hexec, ?_, fun x hx => ?_, ?_⟩
  · rw [hctx, if_pos rfl]
  · rw [hctx, if_neg hx]
  · rw [touch_eq]
    rfl

/-! ## Wake sources -/

theorem exec_wakeConfig (hw : Waits s b 0x52) (hok : EndsOk cmdWakeConfig s b) :
    exec (.wakeConfig b) s = .next (endCmd (s.modPwr fun p => match bits (argOf s b 0) 0 2 with
      | 0 => { p with watch := tset {} p.watch (bits (argOf s b 0) 8 6) { input := some (bits (argOf s b 1) 0 10), width := (argOf s b 2).extractLsb' 0 10 } }
      | 1 => { p with watch := tset {} p.watch (bits (argOf s b 0) 8 6) {} }
      | _ => { p with wakeEn := (argOf s b 1).extractLsb' 0 3 }) b cOk []) := by
  have hexec : exec (.wakeConfig b) s = _ := serveBox_ok hw (by decide) hok
  unfold EndsOk cmdWakeConfig at hok
  obtain ⟨hres, -⟩ := checked_ok (by simp [cBadArg, cOk]) hok
  rw [show cmdWakeConfig (callOf s b) s = _ from hres, ofNat_bits, arg_callOf s b (by decide), arg_callOf s b (by decide), arg_callOf s b (by decide)] at hexec
  exact hexec

/-- Settles O44: each definition's row ends with its record written, as its words name it. -/
theorem definitionsWriteTheirRecords : Obligations.DefinitionsWriteTheirRecords := by
  unfold Obligations.DefinitionsWriteTheirRecords
  refine ⟨fun s b => exec_spreadDefine, fun s b => exec_gangDefine, fun s b => exec_gangUndefine, fun s b hw hok => ?_,
    fun s b v hw hv => ⟨exec_vctxBind hw hv, exec_vctxUnbind hw hv⟩, fun s b hw hok => ?_⟩
  · obtain ⟨hcancel, hask⟩ := exec_gangReleaseAt hw hok
    refine ⟨hcancel, fun h => ?_⟩
    obtain ⟨cell, id, hcell, hid, hexec⟩ := hask h
    obtain ⟨hlt, hnew⟩ := freeTrain_some hid
    exact ⟨askedTrain s b cell id, hexec, rfl, hcell, hlt, hnew, rfl, rfl, rfl, rfl, rfl⟩
  · have hexec := exec_wakeConfig hw hok
    refine ⟨fun h => ?_, fun h => ?_, fun h => ?_⟩
    · rw [hexec, h]; rfl
    · rw [hexec, h]; simp only [State.modPwr, tset]; rfl
    · rw [hexec, h]; rfl

end Sys2Proof.Machine
end

section
/-! SUPPORT. Candidates take seats, and a full tournament parks one (R165, R166, R168, R169, R177). -/

namespace Sys2Proof.Machine
open Sys2Proof

variable {s t u : State} {n : Nat} {q : Tour} {c : Cand}

/-! ## Park flags -/

/-- Of the stations only the park flags of `n` differ, spread sets have noted where candidates are parked, messages have been sent, and event
counters have counted (R169, R175, R177). -/
structure OnlyParks (s t : State) (n : Nat) : Prop where
  rest : t = { s with net := t.net, stns := t.stns, spreads := t.spreads, cells := t.cells }
  cells : SameCells s t
  others : ∀ m, m ≠ n → t.stn m = s.stn m
  flags : t.stn n = { s.stn n with
    norm := { (s.stn n).norm with park := (t.stn n).norm.park }, sec := { (s.stn n).sec with park := (t.stn n).sec.park }, virtPark := (t.stn n).virtPark }

theorem OnlyParks.refl (s : State) (n : Nat) : OnlyParks s s n := ⟨rfl, .refl s, fun _ _ => rfl, rfl⟩

theorem OnlyParks.trans (h1 : OnlyParks s t n) (h2 : OnlyParks t u n) : OnlyParks s u n := by
  refine ⟨?_, h1.cells.trans h2.cells, fun m hm => (h2.others m hm).trans (h1.others m hm), ?_⟩
  · rw [h2.rest, h1.rest]
  · rw [h2.flags, h1.flags]

theorem OnlyParks.of_stns (hrest : t = { s with net := t.net, spreads := t.spreads, cells := t.cells }) (hcells : SameCells s t) : OnlyParks s t n := by
  have hstn : ∀ m, t.stn m = s.stn m := stn_congr (by rw [hrest])
  refine ⟨?_, hcells, fun m _ => hstn m, ?_⟩
  · rw [hrest]
  · rw [hstn]

theorem OnlySent.onlyParks (h : OnlySent s t) (n : Nat) : OnlyParks s t n := .of_stns (by rw [h.rest]) h.cells

theorem onlyParks_setPark (s : State) (n : Nat) (q : Tour) (b : Bool) : OnlyParks s (setPark s n q b) n := by
  cases q <;> refine ⟨rfl, .refl s, fun m hm => (stn_modStn s n m _).trans (if_neg hm), ?_⟩ <;>
    simp only [setPark, State.modGrp, stn_modStn, if_true]

theorem parkFlag_setPark (s : State) (n : Nat) (q : Tour) (b : Bool) : parkFlag (setPark s n q b) n q = b := by
  cases q <;> simp [parkFlag, setPark, State.modGrp, stn_modStn]

/-- What a station parks is flagged in its tournament alone (R169, R177). -/
theorem stns_parkAt (s : State) (n : Nat) (q : Tour) (c : Cand) : (parkAt s n q c).stns = (setPark s n q true).stns := by
  unfold parkAt
  extract_lets s1 s2
  have h1 : s1.stns = (setPark s n q true).stns := (onlySent_bump _ _ _).stns_eq
  have h2 : s2.stns = s1.stns := by
    unfold s2
    split <;> rfl
  exact ((onlySent_sendFrom _ _ _ _ _).stns_eq.trans h2).trans h1

theorem onlyParks_parkAt (s : State) (n : Nat) (q : Tour) (c : Cand) : OnlyParks s (parkAt s n q c) n := by
  unfold parkAt
  extract_lets s1 s2
  have h1 : OnlyParks s s1 n := (onlyParks_setPark s n q true).trans ((onlySent_bump _ _ _).onlyParks n)
  have h2 : OnlyParks s1 s2 n := by
    unfold s2
    split
    · exact .of_stns rfl (.refl _)
    · exact .refl _ n
  exact (h1.trans h2).trans ((onlySent_sendFrom _ _ _ _ _).onlyParks n)

theorem parkFlag_congr (h : t.stns = s.stns) (n : Nat) (q : Tour) : parkFlag t n q = parkFlag s n q := by
  unfold parkFlag
  rw [stn_congr h]

theorem parkFlag_parkAt (s : State) (n : Nat) (q : Tour) (c : Cand) : parkFlag (parkAt s n q c) n q = true :=
  (parkFlag_congr (stns_parkAt s n q c) n q).trans (parkFlag_setPark s n q true)

theorem parkAt_sends (s : State) (n : Nat) (q : Tour) (c : Cand) : Sent (parkAt s n q c) (.returned c true n) := sent_sendFrom _ _ _ _ _

theorem onlyParks_reportLoad (s : State) (n m : Nat) (g : Grp) : OnlyParks s (reportLoad s m g) n :=
  OnlyParks.trans (t := dropMsgs s fun x => match x with | .loadReport a b _ _ => decide (a = m) && decide (b = g) | _ => false)
    (.of_stns rfl (.refl s)) ((onlySent_sendFrom _ _ _ _ _).onlyParks n)

theorem onlyParks_reportTour (s : State) (n : Nat) (q : Tour) : OnlyParks s (reportTour s n q) n := by
  cases q with
  | normal => exact onlyParks_reportLoad s n n .normal
  | secure => exact onlyParks_reportLoad s n n .secure
  | virt => exact .refl s n

theorem onlyParks_checkPark (s : State) (n : Nat) (q : Tour) : OnlyParks s (checkPark s n q) n := by
  unfold checkPark
  split
  · exact (onlyParks_setPark s n q false).trans ((onlySent_sendReOffer _ _ _ _).onlyParks n)
  · exact .refl s n

/-- Park flags seat and unseat nothing. -/
theorem OnlyParks.seats (h : OnlyParks s t n) (q : Tour) : seatsOf t n q = seatsOf s n q := by
  have hctx : ∀ v, t.ctx v = s.ctx v := ctx_congr (by rw [h.rest])
  cases q with
  | normal => rw [seatsOf, h.flags]; rfl
  | secure => rw [seatsOf, h.flags]; rfl
  | virt =>
    have hres : (t.stn n).resident = (s.stn n).resident := by rw [h.flags]
    simp only [seatsOf, hres, hctx]

theorem OnlyParks.armed (h : OnlyParks s t n) : (t.stn n).armed = (s.stn n).armed := by rw [h.flags]

/-! ## Seats -/

theorem stn_putSeats_other {m : Nat} (hm : m ≠ n) (s : State) (q : Tour) (xs : List Seat) : (putSeats s n q xs).stn m = s.stn m := by
  cases q with
  | normal => exact (stn_modStn s n m _).trans (if_neg hm)
  | secure => exact (stn_modStn s n m _).trans (if_neg hm)
  | virt =>
    rw [putSeats]
    split <;> rfl

/-- The seats in use go by the tournament's seats and by whether the doorbell entry is seated (R165, R206). -/
theorem seatCount_of_seats (hseats : seatsOf t n q = seatsOf s n q) (hactive : dbActive t n = dbActive s n) (hx : t.ctxs = s.ctxs) :
    seatCount t n q = seatCount s n q := by
  have hdb : (dbSeat t n).isSome = (dbSeat s n).isSome := by rw [dbSeat_isSome, dbSeat_isSome, dbCtxs, dbCtxs, hactive, hx]
  unfold seatCount
  rw [hseats]
  cases ht : dbSeat t n <;> cases hs : dbSeat s n <;> simp_all

theorem seatCount_congr (hs : t.stns = s.stns) (hx : t.ctxs = s.ctxs) (n : Nat) (q : Tour) : seatCount t n q = seatCount s n q :=
  seatCount_of_seats (seatsOf_congr hs hx n q) (by rw [dbActive, dbActive, stn_congr hs]) hx

theorem armed_putSeats (s : State) (n : Nat) (q : Tour) (xs : List Seat) : ((putSeats s n q xs).stn n).armed = (s.stn n).armed := by
  cases q with
  | normal => simp [putSeats, State.modGrp, stn_modStn]
  | secure => simp [putSeats, State.modGrp, stn_modStn]
  | virt =>
    rw [putSeats]
    split <;> rfl

/-- Seats of the tournaments of station `n` have been taken or freed, with what this sends (R165, R169, R175). -/
structure OnlySeats (s t : State) (n : Nat) : Prop where
  rest : t = { s with net := t.net, stns := t.stns, ctxs := t.ctxs, spreads := t.spreads, cells := t.cells }
  cells : SameCells s t
  others : ∀ m, m ≠ n → t.stn m = s.stn m

theorem OnlySeats.trans (h1 : OnlySeats s t n) (h2 : OnlySeats t u n) : OnlySeats s u n := by
  refine ⟨?_, h1.cells.trans h2.cells, fun m hm => (h2.others m hm).trans (h1.others m hm)⟩
  rw [h2.rest, h1.rest]

theorem OnlyParks.onlySeats (h : OnlyParks s t n) : OnlySeats s t n := by
  refine ⟨?_, h.cells, h.others⟩
  rw [h.rest]

theorem onlySeats_putSeats (s : State) (n : Nat) (q : Tour) (xs : List Seat) : OnlySeats s (putSeats s n q xs) n := by
  refine ⟨?_, .of_cells ?_, fun m hm => stn_putSeats_other hm s q xs⟩
  · rw [putSeats_eq]
  · rw [putSeats_eq]

/-- The tournament with the candidate in a free seat, its load reported (R165, R168, R175). -/
def seatTaken (s : State) (n : Nat) (q : Tour) (xs : List Seat) : State := bump (putSeats s n q xs) (rankCell s n) 0x30

theorem seat_free (h : seatCount s n q < seatLimit q) :
    seat s n q c = reportTour (seatTaken s n q (seatsOf s n q ++ [{ cand := c }])) n q := if_pos h

theorem seat_full {l : Cand} (h : seatCount s n q ≥ seatLimit q) (hl : hindmost (s.op (n / 48)).copy ((seatsOf s n q).map (·.cand)) = some l) :
    seat s n q c = if ahead (s.op (n / 48)).copy c l then
      parkAt (seatTaken s n q ((seatsOf s n q).filter (fun x => decide (x.cand ≠ l)) ++ [{ cand := c }])) n q l else parkAt s n q c := by
  unfold seat
  rw [if_neg (by omega)]
  simp only [hl]
  rfl

theorem seatsOf_seatTaken (hv : q = .virt → (s.stn n).resident ≠ none) (xs : List Seat) : seatsOf (seatTaken s n q xs) n q = xs :=
  (((onlySent_bump _ _ _).onlyParks n).seats q).trans (seatsOf_putSeats s n q xs fun h h0 => absurd h0 (hv h))

theorem onlySeats_seatTaken (s : State) (n : Nat) (q : Tour) (xs : List Seat) : OnlySeats s (seatTaken s n q xs) n :=
  (onlySeats_putSeats s n q xs).trans ((onlySent_bump _ _ _).onlyParks n).onlySeats

theorem onlySeats_seat (s : State) (n : Nat) (q : Tour) (c : Cand) : OnlySeats s (seat s n q c) n := by
  unfold seat
  dsimp only
  split
  · exact (onlySeats_seatTaken s n q _).trans (onlyParks_reportTour _ n q).onlySeats
  · split
    · exact (onlyParks_parkAt s n q c).onlySeats
    · split
      · exact (onlySeats_seatTaken s n q _).trans (onlyParks_parkAt _ n q _).onlySeats
      · exact (onlyParks_parkAt s n q c).onlySeats

/-- A candidate takes a free seat (R165, R168). -/
theorem seat_free_seats (hv : q = .virt → (s.stn n).resident ≠ none) (h : seatCount s n q < seatLimit q) :
    seatsOf (seat s n q c) n q = seatsOf s n q ++ [{ cand := c }] := by
  rw [seat_free h, (onlyParks_reportTour _ n q).seats, seatsOf_seatTaken hv]

/-- In a full tournament the seat behind every other goes back parked, or the new candidate does (R166, R169, R177). -/
theorem seat_full_parks {l : Cand} (hv : q = .virt → (s.stn n).resident ≠ none) (h : seatCount s n q ≥ seatLimit q)
    (hl : hindmost (s.op (n / 48)).copy ((seatsOf s n q).map (·.cand)) = some l) :
    parkFlag (seat s n q c) n q = true ∧
      (ahead (s.op (n / 48)).copy c l = true → Sent (seat s n q c) (.returned l true n) ∧
        seatsOf (seat s n q c) n q = (seatsOf s n q).filter (fun x => decide (x.cand ≠ l)) ++ [{ cand := c }]) ∧
      (ahead (s.op (n / 48)).copy c l = false → Sent (seat s n q c) (.returned c true n) ∧ seatsOf (seat s n q c) n q = seatsOf s n q) := by
  rw [seat_full h hl]
  cases ahead (s.op (n / 48)).copy c l with
  | true => exact ⟨parkFlag_parkAt _ n q l, fun _ => ⟨parkAt_sends _ n q l, ((onlyParks_parkAt _ n q l).seats q).trans (seatsOf_seatTaken hv _)⟩, nofun⟩
  | false => exact ⟨parkFlag_parkAt s n q c, nofun, fun _ => ⟨parkAt_sends s n q c, (onlyParks_parkAt s n q c).seats q⟩⟩

end Sys2Proof.Machine
end

section
/-! SUPPORT. Candidates reach their stations, and release seats their targets (R168, R177, R239, R240). -/

namespace Sys2Proof.Machine
open Sys2Proof

variable {s t u : State} {n : Nat} {q : Tour} {c : Cand}

/-! ## The rank cell takes a candidate -/

/-- A cell has taken a token: event counters have counted, and gates taken for it are open again (R260, R462). -/
structure TokenTaken (s t : State) : Prop where
  rest : t = { s with cells := t.cells, gates := t.gates }
  cells : SameCells s t
  gates : ∀ g ∈ t.gates, g ∈ s.gates

theorem counted_arbitrate (he : s.ecc = []) (c : Option Nat) (timed : Bool) : Counted s (arbitrate s c timed) := by
  rw [arbitrate, overrun_clean he]
  exact (counted_bump s c 0x01).trans (counted_bump _ c _)

theorem Counted.tokenTaken (h : Counted s t) : TokenTaken s t := by
  refine ⟨?_, h.cells, fun g hg => ?_⟩
  · rw [h.rest]
  · rw [h.rest] at hg
    exact hg

theorem TokenTaken.trans (h1 : TokenTaken s t) (h2 : TokenTaken t u) : TokenTaken s u := by
  refine ⟨?_, h1.cells.trans h2.cells, fun g hg => h1.gates g (h2.gates g hg)⟩
  rw [h2.rest, h1.rest]

theorem tokenTaken_dropGates (s : State) (e : Nat) : TokenTaken s (dropGates s e) := ⟨rfl, .refl s, fun _ hg => List.mem_of_mem_filter hg⟩

theorem tokenTaken_keepGates (s : State) (e : Nat) (ks : List Nat) : TokenTaken s (keepGates s e ks) :=
  ⟨rfl, .refl s, fun _ hg => List.mem_of_mem_filter hg⟩

/-- The state in which a station's rank cell has taken a candidate (R168, R260). -/
def atRank (s : State) (n : Nat) (c : Cand) : State := arbitrate (if c.gather.isSome then s else dropGates s c.evid) (rankCell s n) c.grade

theorem tokenTaken_atRank (he : s.ecc = []) (n : Nat) (c : Cand) : TokenTaken s (atRank s n c) := by
  unfold atRank
  split
  · exact (counted_arbitrate he _ _).tokenTaken
  · exact (tokenTaken_dropGates s c.evid).trans (counted_arbitrate (s := dropGates s c.evid) he _ _).tokenTaken

/-- The first late member of a gathering is counted in its gang (R241). -/
def lateCounted (s : State) (c : Cand) : State :=
  match s.gathers.find? fun r => decide (some r.id = c.gather) with
  | some r => if r.late then s else
      ({ s with gathers := s.gathers.map fun y => if y.id = r.id then { y with late := true } else y } : State).modGang r.gang
        fun g => { g with late := satInc g.late }
  | none => s

theorem lateCounted_eq (s : State) (c : Cand) : lateCounted s c = { s with gathers := (lateCounted s c).gathers, gangs := (lateCounted s c).gangs } := by
  unfold lateCounted
  split
  · split <;> rfl
  · rfl

/-- A release target that lies ahead arms a release seat; any other candidate takes a seat (R168, R240, R241). -/
theorem reachStation_eq (hc : Clean s) (n : Nat) (q : Tour) (c : Cand) : reachStation s n q c =
    match c.target with
    | none => seat (atRank s n c) n q c
    | some x =>
      if (s.op (n / 48)).copy.toNat < x.toNat then
        (atRank s n c).modStn n fun y => { y with armed := y.armed ++ [{ tour := q, cand := c, target := x }] }
      else seat (lateCounted (atRank s n c) c) n q { c with target := none } := by
  have htaken := tokenTaken_atRank hc.1 n c
  have hsecure : secureParity (atRank s n c) n = atRank s n c := secureParity_clean (by rw [htaken.rest]; exact hc.2) n
  have hgathers : (atRank s n c).gathers = s.gathers := by rw [htaken.rest]
  unfold reachStation
  rw [show secureParity (arbitrate (if c.gather.isSome then s else dropGates s c.evid) (rankCell s n) c.grade) n = atRank s n c from hsecure]
  simp only [lateCounted, hgathers] <;> rfl

/-! ## The candidate arrives -/

/-- Release seats are no seats of a tournament (R240). -/
theorem seatsOf_armed (s : State) (n : Nat) (q : Tour) (f : List Armed → List Armed) :
    seatsOf (s.modStn n fun x => { x with armed := f x.armed }) n q = seatsOf s n q := by
  cases q <;> simp [seatsOf, stn_modStn, State.ctx]

theorem seatCount_armed (s : State) (n : Nat) (q : Tour) (f : List Armed → List Armed) :
    seatCount (s.modStn n fun x => { x with armed := f x.armed }) n q = seatCount s n q :=
  seatCount_of_seats (seatsOf_armed s n q f) (by rw [dbActive, stn_modStn, if_pos rfl]; rfl) rfl

theorem candidateArrival_station (hn : Next s (.candStation n q c)) (hrank : rankOn s n = true) (hstn : stnOn s n = true)
    (hvirt : q = .virt → ∃ v, (s.queue c.evid).route = .context v ∧ (s.stn n).resident = some v) :
    ∃ u, Started { s with net := s.net.tail } u ∧ exec (.candidateArrival n c.evid) s = .next (reqWatch n s (reachStation u n q c)) := by
  obtain ⟨p, u, hmsg, hst, harr⟩ := arrive_next hn
  refine ⟨u, hst, ?_⟩
  rw [exec, execCandidateArrival, if_neg (by simp [hrank, hstn]), harr _ (by simp)]
  simp only [hmsg, hst.served_queue]
  split
  · next v hv =>
    obtain ⟨w, hw, hres⟩ := hvirt rfl
    rw [hv, Route.context.injEq] at hw
    rw [if_pos (by rw [hst.stn_eq, hw]; exact hres)]
  · rfl

/-- What a candidate's arrival at its station may change. -/
structure Arrived (s t : State) (n : Nat) : Prop where
  rest : t = { s with net := t.net, stns := t.stns, ctxs := t.ctxs, cells := t.cells, gates := t.gates, spreads := t.spreads, gathers := t.gathers, gangs := t.gangs }
  cells : SameCells s t
  others : ∀ m, m ≠ n → t.stn m = s.stn m
  gates : ∀ g ∈ t.gates, g ∈ s.gates

theorem OnlySeats.arrived (h1 : TokenTaken s t) (h2 : OnlySeats t u n) : Arrived s u n := by
  have hstn := stn_congr (s := s) (t := t) (by rw [h1.rest])
  refine ⟨?_, h1.cells.trans h2.cells, fun m hm => (h2.others m hm).trans (hstn m), fun g hg => h1.gates g ?_⟩
  · rw [h2.rest, h1.rest]
  · rw [h2.rest] at hg
    exact hg

theorem arrived_reachStation (hc : Clean s) (n : Nat) (q : Tour) (c : Cand) : Arrived s (reachStation s n q c) n := by
  have htaken := tokenTaken_atRank hc.1 n c
  rw [reachStation_eq hc]
  generalize atRank s n c = v at *
  split
  · exact (onlySeats_seat v n q c).arrived htaken
  · split
    · exact OnlySeats.arrived htaken ⟨rfl, .refl v, fun m hm => (stn_modStn v n m _).trans (if_neg hm)⟩
    · have hlate := lateCounted_eq v c
      have hseat := onlySeats_seat (lateCounted v c) n q { c with target := none }
      generalize lateCounted v c = w at *
      generalize seat w n q { c with target := none } = z at *
      have hstn : ∀ m, w.stn m = s.stn m := stn_congr (by rw [hlate, htaken.rest])
      refine ⟨?_, htaken.cells.trans (.trans (.of_cells ?_) hseat.cells), fun m hm => (hseat.others m hm).trans (hstn m), fun g hg => htaken.gates g ?_⟩
      · rw [hseat.rest, hlate, htaken.rest]
      · rw [hlate]
      · rw [hseat.rest, hlate] at hg
        exact hg

/-- A candidate without a target reaches a tournament, and takes a seat or parks one (R165, R166, R168, R169, R177). -/
theorem candidateArrival_effect (hn : Next s (.candStation n q c)) (hrank : rankOn s n = true) (hstn : stnOn s n = true) (hc : Clean s)
    (hvirt : q = .virt → ∃ v, (s.queue c.evid).route = .context v ∧ (s.stn n).resident = some v) :
    ∃ t, exec (.candidateArrival n c.evid) s = .next t ∧
      (c.target = none → seatCount s n q < seatLimit q → seatsOf t n q = seatsOf s n q ++ [{ cand := c }]) ∧
      (∀ l, c.target = none → seatCount s n q ≥ seatLimit q → hindmost (s.op (n / 48)).copy ((seatsOf s n q).map (·.cand)) = some l →
        parkFlag t n q = true ∧
        (ahead (s.op (n / 48)).copy c l = true → Sent t (.returned l true n) ∧
          seatsOf t n q = (seatsOf s n q).filter (fun x => decide (x.cand ≠ l)) ++ [{ cand := c }]) ∧
        (ahead (s.op (n / 48)).copy c l = false → Sent t (.returned c true n) ∧ seatsOf t n q = seatsOf s n q)) ∧
      (∀ x, c.target = some x → (s.op (n / 48)).copy.toNat < x.toNat →
        (t.stn n).armed = (s.stn n).armed ++ [{ tour := q, cand := c, target := x }] ∧ seatsOf t n q = seatsOf s n q) ∧
      (∀ m, m ≠ n → t.stn m = s.stn m) ∧ SameQueues s t ∧ CountersOnly s t ∧
      t = { s with net := t.net, stns := t.stns, ctxs := t.ctxs, cells := t.cells, gates := t.gates, spreads := t.spreads, gathers := t.gathers, gangs := t.gangs, outs := t.outs } ∧
      LinkStarts s t := by
  obtain ⟨u, hst, hexec⟩ := candidateArrival_station hn hrank hstn hvirt
  have hclean : Clean u := by
    rw [hst.rest]
    exact hc
  have hcopy : (u.op (n / 48)).copy = (s.op (n / 48)).copy := by
    rw [hst.links.1 (n / 48)]
    rfl
  have harrived := arrived_reachStation hclean n q c
  have hreach := reachStation_eq hclean n q c
  have htaken := tokenTaken_atRank hclean.1 n c
  have hwatch := reqWatch_eq n s (reachStation u n q c)
  have hwcells := reqWatch_same n s (reachStation u n q c)
  generalize atRank u n c = v at *
  have hvstns : v.stns = s.stns := by
    rw [htaken.rest]
    exact hst.stns_eq
  have hvctxs : v.ctxs = s.ctxs := by
    rw [htaken.rest]
    exact hst.ctxs_eq
  have hvcopy : (v.op (n / 48)).copy = (s.op (n / 48)).copy := by
    rw [htaken.rest]
    exact hcopy
  have hseats : seatsOf v n q = seatsOf s n q := seatsOf_congr hvstns hvctxs n q
  have hcount : seatCount v n q = seatCount s n q := seatCount_congr hvstns hvctxs n q
  have hres : q = .virt → (v.stn n).resident ≠ none := fun h => by
    obtain ⟨w, -, hw⟩ := hvirt h
    rw [stn_congr hvstns, hw]
    nofun
  generalize reachStation u n q c = z at *
  generalize reqWatch n s z = t at *
  have hzseats : seatsOf t n q = seatsOf z n q := seatsOf_congr (by rw [hwatch]) (by rw [hwatch]) n q
  have hzpark : parkFlag t n q = parkFlag z n q := parkFlag_congr (by rw [hwatch]) n q
  have hzstn : ∀ m, t.stn m = z.stn m := stn_congr (by rw [hwatch])
  have hznet : t.net = z.net := by rw [hwatch]
  refine ⟨t, hexec, fun hnone hfree => ?_, fun l hnone hfull hl => ?_, fun x hx hahead => ?_, fun m hm => ?_, ?_, ?_, ?_, ?_⟩
  · rw [hzseats, hreach, hnone, ← hseats]
    exact seat_free_seats hres (hcount ▸ hfree)
  · rw [hnone] at hreach
    rw [hzseats, hzpark, ← hseats, ← hvcopy, Sent, Sent, hznet, hreach]
    exact seat_full_parks hres (hcount ▸ hfull) (by rw [hvcopy, hseats]; exact hl)
  · rw [hx] at hreach
    simp only [hcopy, if_pos hahead] at hreach
    rw [hzseats, hzstn, hreach, stn_modStn, if_pos rfl, stn_congr hvstns]
    exact ⟨rfl, (seatsOf_armed v n q fun y => y ++ [{ tour := q, cand := c, target := x }]).trans hseats⟩
  · rw [hzstn, harrived.others m hm, hst.stn_eq]
    rfl
  · rw [hwatch, harrived.rest, hst.rest]
    exact ⟨rfl, rfl, rfl, rfl, rfl⟩
  · exact hst.counters.trans (harrived.cells.trans hwcells).counters
  · rw [hwatch, harrived.rest, hst.rest]
  · obtain ⟨hlinks, hgates⟩ := hst.links
    refine ⟨fun k => ?_, fun g hg => hgates g (harrived.gates g ?_)⟩
    · rw [hwatch, harrived.rest]
      exact hlinks k
    · rw [hwatch] at hg
      exact hg

/-! ## Release seats -/

/-- The release seat whose target is reached is empty, and its candidate takes a seat in its tournament (R240). -/
theorem releaseTargetReached_effect {e : Nat} {a : Armed} (hfind : (s.stn n).armed.find? (fun x => decide (x.cand.evid = e)) = some a) (htour : a.tour ≠ .virt)
    (hreached : a.target.toNat ≤ (s.op (n / 48)).copy.toNat) (hfree : seatCount s n a.tour < seatLimit a.tour) (hc : Clean s) :
    ∃ t, exec (.releaseTargetReached n e) s = .next t ∧ seatsOf t n a.tour = seatsOf s n a.tour ++ [{ cand := { a.cand with target := none } }] ∧
      (t.stn n).armed = (s.stn n).armed.filter (fun x => decide (x.cand.evid ≠ e)) ∧ (∀ m, m ≠ n → t.stn m = s.stn m) ∧
      t = { s with net := t.net, stns := t.stns, cells := t.cells } ∧ CountersOnly s t := by
  have hcount := seatCount_armed s n a.tour fun x => x.filter fun b => decide (b.cand.evid ≠ e)
  have hseats := seatsOf_armed s n a.tour fun x => x.filter fun b => decide (b.cand.evid ≠ e)
  have hexec : exec (.releaseTargetReached n e) s = .next (reqWatch n s (seat
      (s.modStn n fun x => { x with armed := x.armed.filter fun b => decide (b.cand.evid ≠ e) }) n a.tour { a.cand with target := none })) := by
    rw [exec, execReleaseTargetReached, hfind]
    simp only [overrun_clean hc.1, secureParity_clean hc.2, strike_clean hc.1]
    rw [if_neg (by omega)]
    rfl
  have hvstn : ∀ m, (s.modStn n fun x => { x with armed := x.armed.filter fun b => decide (b.cand.evid ≠ e) }).stn m = _ := fun m => stn_modStn s n m _
  have hvrest : s.modStn n (fun x => { x with armed := x.armed.filter fun b => decide (b.cand.evid ≠ e) }) = { s with
    stns := (s.modStn n fun x => { x with armed := x.armed.filter fun b => decide (b.cand.evid ≠ e) }).stns } := rfl
  generalize s.modStn n (fun x => { x with armed := x.armed.filter fun b => decide (b.cand.evid ≠ e) }) = v at *
  have hfree := seat_free (c := { a.cand with target := none }) (hcount.symm ▸ hfree)
  have hwatch := reqWatch_eq n s (seat v n a.tour { a.cand with target := none })
  have hwcells := reqWatch_same n s (seat v n a.tour { a.cand with target := none })
  obtain ⟨hput, hputs⟩ := putSeats_others htour v n (seatsOf v n a.tour ++ [{ cand := { a.cand with target := none } }])
  have harmed := armed_putSeats v n a.tour (seatsOf v n a.tour ++ [{ cand := { a.cand with target := none } }])
  have htaken := seatsOf_putSeats v n a.tour (seatsOf v n a.tour ++ [{ cand := { a.cand with target := none } }]) fun h => absurd h htour
  rw [seatTaken] at hfree
  generalize putSeats v n a.tour (seatsOf v n a.tour ++ [{ cand := { a.cand with target := none } }]) = w at *
  have hbump := onlySent_bump w (rankCell v n) 0x30
  have htold : StationTold w (seat v n a.tour { a.cand with target := none }) n := by
    rw [hfree]
    exact (hbump.stationTold n).trans (stationTold_reportTour _ n a.tour)
  have hparks : OnlyParks w (seat v n a.tour { a.cand with target := none }) n := by
    rw [hfree]
    exact (hbump.onlyParks n).trans (onlyParks_reportTour _ n a.tour)
  generalize seat v n a.tour { a.cand with target := none } = z at *
  generalize reqWatch n s z = t at *
  have hstn : ∀ m, t.stn m = z.stn m := stn_congr (by rw [hwatch])
  refine ⟨t, hexec, ?_, ?_, fun m hm => ?_, ?_, ?_⟩
  · rw [seatsOf_congr (s := z) (by rw [hwatch]) (by rw [hwatch]), hparks.seats, htaken, hseats]
  · rw [hstn, hparks.armed, harmed, hvstn, if_pos rfl]
  · rw [hstn, htold.others m hm, hputs m hm, hvstn, if_neg hm]
  · rw [hwatch, htold.rest, hput, hvrest]
  · refine CountersOnly.trans (.of_cells ?_) (htold.cells.trans hwcells).counters
    rw [hput, hvrest]

/-- Settles O23, by what a rank cell does with a candidate: it arms a release seat, or it seats the candidate and parks where the tournament is
full. -/
theorem candidatesTakeTheirSeats : Obligations.CandidatesTakeTheirSeats := by
  unfold Obligations.CandidatesTakeTheirSeats
  exact ⟨fun s n q c hn hrank hstn hc hvirt => candidateArrival_effect hn hrank hstn hc hvirt,
    fun s n e a hfind htour hreached hfree hc => releaseTargetReached_effect hfind htour hreached hfree hc⟩

end Sys2Proof.Machine
end

section
/-! SUPPORT. Hub rank cells choose among a spread set's members (R154, R174 to R177, R186). -/

namespace Sys2Proof.Machine
open Sys2Proof

variable {s t u : State} {n e : Nat} {c : Cand} {rc : Option Nat}

/-! ## What a choice depends on -/

theorem SameRoutes.chooseMember (h : SameRoutes s t) (n : Nat) (g : Grp) (f : Nat → Bool) : chooseMember t n g f = chooseMember s n g f := by
  have hm : ∀ m, t.spread m = s.spread m := fun m => by unfold State.spread; rw [h.spreads]
  unfold Machine.chooseMember leastLoad eligible
  simp only [hm, h.away, h.marked, h.on, h.choosers, h.views]

/-- Serving the first message changes no route. -/
theorem routes_taken (he : s.ecc = []) (c : Option Nat) (timed : Bool) : SameRoutes s (taken s c timed) := by
  unfold taken
  split
  · exact (SameCells.refl s).routes rfl rfl rfl
  · next k _ _ =>
    have hcarried := (started_carry s 0 k he).routes
    exact SameRoutes.trans (t := { carry s 0 k with net := (carry s 0 k).net.eraseIdx 0 })
      ⟨hcarried.away, hcarried.marked, hcarried.fall, hcarried.on, hcarried.choosers, hcarried.spreads, hcarried.views⟩
      (((started_bump _ c 0x01).trans (started_bump _ c _)).routes)

theorem routes_served (h : Started { s with net := s.net.tail } u) : SameRoutes s u := by
  have hr := h.routes
  exact ⟨hr.away, hr.marked, hr.fall, hr.on, hr.choosers, hr.spreads, hr.views⟩

theorem TokenTaken.routes (h : TokenTaken s t) : SameRoutes s t := h.cells.routes (by rw [h.rest]) (by rw [h.rest]) (by rw [h.rest])

/-! ## The choice takes effect -/

/-- A hub rank cell has dealt with a candidate of queue `e`: of the queues only its own differs (R176, R177). -/
structure SpreadServed (s t : State) (e : Nat) : Prop where
  rest : t = { s with net := t.net, places := t.places, views := t.views, cells := t.cells, queues := t.queues, spreads := t.spreads, gates := t.gates }
  cells : SameCells s t
  other : OtherQueues s t e
  gates : ∀ g ∈ t.gates, g ∈ s.gates

theorem SpreadServed.trans (h1 : SpreadServed s t e) (h2 : SpreadServed t u e) : SpreadServed s u e := by
  refine ⟨?_, h1.cells.trans h2.cells, fun x hx => (h2.other x hx).trans (h1.other x hx), fun g hg => h1.gates g (h2.gates g hg)⟩
  rw [h2.rest, h1.rest]

theorem CameBack.spreadServed (h : CameBack s t e) : SpreadServed s t e := by
  refine ⟨?_, h.cells, h.other, fun g hg => ?_⟩
  · rw [h.rest]
  · rw [h.gates] at hg
    exact List.mem_of_mem_filter hg

theorem Offered.spreadServed (h : Offered s t e) : SpreadServed s t e := by
  refine ⟨?_, h.cells, h.other, fun g hg => ?_⟩
  · rw [h.rest]
  · rw [h.rest] at hg
    exact hg

theorem TokenTaken.spreadServed (h : TokenTaken s t) (e : Nat) : SpreadServed s t e := by
  refine ⟨?_, h.cells, fun x _ => ?_, h.gates⟩
  · rw [h.rest]
  · rw [h.rest]
    rfl

/-- A candidate goes back parked to its owner, and its hub rank cell counts that (R177). -/
theorem spreadBack_offered (s : State) (c : Cand) (rc : Option Nat) : Offered s (spreadBack s c rc) c.evid :=
  (offered_modQueue s c.evid _).trans (offered_sendFrom _ _ _ _ _ c.evid)

theorem toMember_offered (s : State) (c : Cand) (m : Nat) : Offered s (toMember s c m) c.evid :=
  (offered_modQueue s c.evid _).trans (offered_sendFrom _ _ _ _ _ c.evid)

theorem holdBack_cameBack (he : s.ecc = []) (e k : Nat) : CameBack s (holdBack s e k) e := by
  have hfreed : PlacesFreed (unhand s e) (freePlace (unhand s e) e) := placesFreed_freePlace (show (unhand s e).ecc = [] from he) e
  rw [holdBack, descRead_clean he]
  exact (cameBack_unhand s e).reoffered ((hfreed.reoffered e).trans ((offered_modQueue _ e _).trans (offered_settle _ e)).reoffered)

/-- The candidate goes to its member, with the placement entry of its choice (R176). -/
def placed (s : State) (set : Nat) (rc : Option Nat) (c : Cand) (m : Nat) : State :=
  toMember { s with places := s.places ++ [{ cell := rc.getD 0, evid := c.evid, station := m, set := set }] } c m

theorem placed_served (s : State) (set : Nat) (rc : Option Nat) (c : Cand) (m : Nat) : SpreadServed s (placed s set rc c m) c.evid :=
  SpreadServed.trans (t := { s with places := s.places ++ [{ cell := rc.getD 0, evid := c.evid, station := m, set := set }] })
    ⟨rfl, .refl s, fun _ _ => rfl, fun _ h => h⟩ (toMember_offered _ c m).spreadServed

/-- What a hub rank cell makes of a candidate for which no choice has been made yet (R174, R176, R177). -/
def chosen (s : State) (set : Nat) (rc : Option Nat) (c : Cand) : State :=
  if placesIn s (rc.getD 0) ≥ 4096 then bump (spreadBack (s.modSpread set fun x => { x with park := true }) c rc) rc 0x31
  else match chooseMember s set (candGrp c) (fun _ => true) with
    | some m => bump (placed (viewAdd s (rc.getD 0) m (candGrp c)) set rc c m) rc 0x33
    | none => match lowMember s set with
      | none => spreadBack s c rc
      | some low => match resolve s low c.secure with
        | some f => placed s set rc c f
        | none => holdBack s c.evid (low / 48)

theorem chosen_served (he : s.ecc = []) (set : Nat) (rc : Option Nat) (c : Cand) : SpreadServed s (chosen s set rc c) c.evid := by
  have hbump : ∀ (v : State) (k : Nat), SpreadServed v (bump v rc k) c.evid := fun v k => (offered_bump v rc k c.evid).spreadServed
  unfold chosen
  split
  · exact (SpreadServed.trans (t := s.modSpread set fun x => { x with park := true }) ⟨rfl, .refl s, fun _ _ => rfl, fun _ h => h⟩
      (spreadBack_offered _ c rc).spreadServed).trans (hbump _ _)
  · split
    · next m _ =>
      exact (SpreadServed.trans (t := viewAdd s (rc.getD 0) m (candGrp c)) ⟨rfl, .refl s, fun _ _ => rfl, fun _ h => h⟩
        (placed_served _ set rc c m)).trans (hbump _ _)
    · split
      · exact (spreadBack_offered s c rc).spreadServed
      · split
        · exact placed_served s set rc c _
        · exact (holdBack_cameBack he _ _).spreadServed

/-- A full placement pool parks the candidate, and flags the set (R177). -/
theorem chosen_full {set : Nat} (h : placesIn s (rc.getD 0) ≥ 4096) :
    Sent (chosen s set rc c) (.returned c true 576) ∧ ((chosen s set rc c).spread set).park = true ∧ (chosen s set rc c).places = s.places := by
  have hback := spreadBack_offered (s.modSpread set fun x => { x with park := true }) c rc
  have hbump := onlySent_bump (spreadBack (s.modSpread set fun x => { x with park := true }) c rc) rc 0x31
  have hsent : Sent (spreadBack (s.modSpread set fun x => { x with park := true }) c rc) (.returned c true 576) := sent_sendFrom _ _ _ _ _
  rw [chosen, if_pos h]
  generalize spreadBack (s.modSpread set fun x => { x with park := true }) c rc = v at *
  refine ⟨hbump.sent hsent, ?_, ?_⟩
  · rw [hbump.spread_eq, State.spread, hback.rest]
    show ((s.modSpread set fun x => { x with park := true }).spread set).park = true
    rw [spread_modSpread, if_pos rfl]
  · rw [hbump.rest, hback.rest]
    rfl

/-- The least-loaded eligible member is sent the candidate, its placement entry is noted and its view grows by 1 (R174, R175, R176). -/
theorem chosen_member {set m : Nat} (h : placesIn s (rc.getD 0) < 4096) (hm : chooseMember s set (candGrp c) (fun _ => true) = some m) :
    Sent (chosen s set rc c) (.candStation m (candTour c) c) ∧
      (chosen s set rc c).places = s.places ++ [{ cell := rc.getD 0, evid := c.evid, station := m, set := set }] ∧
      tget 0 (chosen s set rc c).views (viewKey (rc.getD 0) m (candGrp c)) = tget 0 s.views (viewKey (rc.getD 0) m (candGrp c)) + 1 := by
  have hviews : (viewAdd s (rc.getD 0) m (candGrp c)).views = tset 0 s.views (viewKey (rc.getD 0) m (candGrp c)) (tget 0 s.views (viewKey (rc.getD 0) m (candGrp c)) + 1) := rfl
  have hplaces : (viewAdd s (rc.getD 0) m (candGrp c)).places = s.places := rfl
  have hsent : Sent (placed (viewAdd s (rc.getD 0) m (candGrp c)) set rc c m) (.candStation m (candTour c) c) := sent_sendFrom _ _ _ _ _
  have hmember := toMember_offered { viewAdd s (rc.getD 0) m (candGrp c) with
    places := (viewAdd s (rc.getD 0) m (candGrp c)).places ++ [{ cell := rc.getD 0, evid := c.evid, station := m, set := set }] } c m
  have hbump := onlySent_bump (placed (viewAdd s (rc.getD 0) m (candGrp c)) set rc c m) rc 0x33
  rw [chosen, if_neg (by omega)]
  simp only [hm]
  unfold placed at *
  generalize viewAdd s (rc.getD 0) m (candGrp c) = v at *
  generalize toMember { v with places := v.places ++ [{ cell := rc.getD 0, evid := c.evid, station := m, set := set }] } c m = z at *
  refine ⟨hbump.sent hsent, ?_, ?_⟩
  · rw [hbump.rest, hmember.rest, hplaces]
  · rw [hbump.rest, hmember.rest]
    show tget 0 v.views _ = _
    rw [hviews, tget_tset_same]

/-! ## The candidate arrives -/

theorem spreadCandidateArrival_eq (hn : Next s (.candSpread n c)) (hon : onCell s (spreadCell s n) = true) (hnew : ∀ x ∈ s.places, x.evid ≠ c.evid) :
    ∃ u, Started { s with net := s.net.tail } u ∧ exec (.spreadCandidateArrival n c.evid) s = .next
      (chosen (keepGates (arbitrate u (spreadCell s n) c.grade) c.evid []) n (spreadCell s n) c) := by
  obtain ⟨p, u, hmsg, hst, harr⟩ := arrive_next hn
  have hclean : u.ecc = [] := hst.ecc_eq.trans hn.2.1
  have htaken := (counted_arbitrate hclean (spreadCell s n) c.grade).tokenTaken
  have hkept : keptPlace (arbitrate u (spreadCell s n) c.grade) c = (none, arbitrate u (spreadCell s n) c.grade) := by
    have hnone : (arbitrate u (spreadCell s n) c.grade).places.find? (fun x => decide (x.evid = c.evid) && x.reserved && c.grade &&
        !((arbitrate u (spreadCell s n) c.grade).queue c.evid).again) = none := by
      rw [List.find?_eq_none]
      intro x hx
      have hmem : x ∈ s.places := by
        rw [htaken.rest] at hx
        rw [hst.rest] at hx
        exact hx
      simp [hnew x hmem]
    rw [keptPlace, hnone]
  refine ⟨u, hst, ?_⟩
  rw [exec, execSpreadCandidateArrival]
  dsimp only
  rw [if_neg (by simp [hon]), harr _ (by simp)]
  simp only [hmsg, hkept, Option.filter_none, Option.isSome_none, Bool.false_eq_true, if_false]
  generalize keepGates (arbitrate u (spreadCell s n) c.grade) c.evid [] = v
  by_cases hfull : placesIn v ((spreadCell s n).getD 0) ≥ 4096
  · simp only [chosen, if_pos hfull]
  · cases hm : chooseMember v n (candGrp c) (fun _ => true) with
    | some m => simp only [chosen, if_neg hfull, hm, placed]
    | none =>
      cases hl : lowMember v n with
      | none => simp only [chosen, if_neg hfull, hm, hl]
      | some low =>
        cases hf : resolve v low c.secure with
        | some f => simp only [chosen, if_neg hfull, hm, hl, hf, placed]
        | none => simp only [chosen, if_neg hfull, hm, hl, hf]

theorem spreadCandidateArrival_effect (hn : Next s (.candSpread n c)) (hon : onCell s (spreadCell s n) = true) (hnew : ∀ x ∈ s.places, x.evid ≠ c.evid) :
    ∃ t, exec (.spreadCandidateArrival n c.evid) s = .next t ∧
      (placesIn s ((spreadCell s n).getD 0) < 4096 →
        ∀ m, chooseMember (taken s (spreadCell s n) c.grade) n (candGrp c) (fun _ => true) = some m →
          Sent t (.candStation m (candTour c) c) ∧ t.places = s.places ++ [{ cell := (spreadCell s n).getD 0, evid := c.evid, station := m, set := n }] ∧
          tget 0 t.views (viewKey ((spreadCell s n).getD 0) m (candGrp c)) = tget 0 s.views (viewKey ((spreadCell s n).getD 0) m (candGrp c)) + 1) ∧
      (placesIn s ((spreadCell s n).getD 0) ≥ 4096 → Sent t (.returned c true 576) ∧ (t.spread n).park = true ∧ t.places = s.places) ∧
      CountersOnly s t ∧
      t = { s with net := t.net, places := t.places, views := t.views, cells := t.cells, queues := t.queues, spreads := t.spreads, outs := t.outs, gates := t.gates } ∧
      OtherQueues s t c.evid ∧ LinkStarts s t := by
  obtain ⟨u, hst, hexec⟩ := spreadCandidateArrival_eq hn hon hnew
  have hclean : u.ecc = [] := hst.ecc_eq.trans hn.2.1
  have htaken := (counted_arbitrate hclean (spreadCell s n) c.grade).tokenTaken.trans (tokenTaken_keepGates _ c.evid [])
  generalize keepGates (arbitrate u (spreadCell s n) c.grade) c.evid [] = v at *
  have hroutes : SameRoutes s v := (routes_served hst).trans htaken.routes
  have hvclean : v.ecc = [] := by
    rw [htaken.rest]
    exact hclean
  have hplaces : v.places = s.places := by rw [htaken.rest, hst.rest]
  have hin : placesIn v ((spreadCell s n).getD 0) = placesIn s ((spreadCell s n).getD 0) := by rw [placesIn, hplaces, placesIn]
  have hserved := (htaken.spreadServed c.evid).trans (chosen_served hvclean n (spreadCell s n) c)
  refine ⟨_, hexec, fun hroom m hm => ?_, fun hfull => ?_, hst.counters.trans hserved.cells.counters, ?_, fun x hx => ?_, ?_⟩
  · rw [(routes_taken hn.2.1 _ _).chooseMember, ← hroutes.chooseMember] at hm
    have h := chosen_member (hin.symm ▸ hroom) hm
    rwa [hplaces, hroutes.views] at h
  · have h := chosen_full (set := n) (c := c) (hin.symm ▸ hfull)
    rwa [hplaces] at h
  · rw [hserved.rest, hst.rest]
  · rw [hserved.other x hx, hst.served_queue]
  · obtain ⟨hlinks, hgates⟩ := hst.links
    refine ⟨fun k => ?_, fun g hg => hgates g (hserved.gates g hg)⟩
    rw [hserved.rest]
    exact hlinks k

end Sys2Proof.Machine
end

section
/-! SUPPORT. Context cells record candidates, and doorbell events reach their stations (R178, R206, R257, R366, R368, R369). -/

namespace Sys2Proof.Machine
open Sys2Proof

variable {s t u : State} {v n : Nat} {c : Cand}

/-! ## A context comes to count -/

/-- Of the contexts only `v` differs; messages have been sent, and event counters have counted. -/
structure OnlyCtx (s t : State) (v : Nat) : Prop where
  rest : t = { s with net := t.net, ctxs := t.ctxs, cells := t.cells }
  cells : SameCells s t
  others : ∀ w, w ≠ v → t.ctx w = s.ctx w

theorem OnlyCtx.trans (h1 : OnlyCtx s t v) (h2 : OnlyCtx t u v) : OnlyCtx s u v := by
  refine ⟨?_, h1.cells.trans h2.cells, fun w hw => (h2.others w hw).trans (h1.others w hw)⟩
  rw [h2.rest, h1.rest]

theorem OnlySent.ctxs_eq (h : OnlySent s t) : t.ctxs = s.ctxs := by rw [h.rest]

theorem OnlySent.onlyCtx (h : OnlySent s t) (v : Nat) : OnlyCtx s t v := by
  refine ⟨?_, h.cells, fun w _ => ctx_congr h.ctxs_eq w⟩
  rw [h.rest]

theorem onlyCtx_modCtx (s : State) (v : Nat) (f : Ctx → Ctx) : OnlyCtx s (s.modCtx v f) v :=
  ⟨rfl, .refl s, fun w hw => (ctx_modCtx s v w f).trans (if_neg hw)⟩

/-- The context once it counts in PENDING, unless it is announced (R206, R369). -/
def counting (s : State) (x : Ctx) : Ctx := if x.counted || x.announced then x else { x with counted := true, dbAt := resolve s x.home false, dbIn := false }

theorem counting_fields (s : State) (x : Ctx) :
    (counting s x).cands = x.cands ∧ (counting s x).counted = (x.counted || !x.announced) ∧ (counting s x).changed = x.changed := by
  unfold counting
  split
  · next h =>
    refine ⟨rfl, ?_, rfl⟩
    cases hx : x.counted
    · simp_all
    · rfl
  · next h =>
    refine ⟨rfl, ?_, rfl⟩
    simp_all

theorem countCtx_effect (s : State) (v : Nat) (c : Cand) :
    OnlyCtx s (countCtx s v c) v ∧ (countCtx s v c).ctx v = counting s (s.ctx v) ∧
      (∀ n, (s.ctx v).counted = false → (s.ctx v).announced = false → resolve s (s.ctx v).home false = some n → Sent (countCtx s v c) (.doorbell v n c)) := by
  unfold countCtx counting
  dsimp only
  split
  · next h => exact ⟨(OnlySent.refl s).onlyCtx v, rfl, fun n h1 h2 => by simp [h1, h2] at h⟩
  · have hmod := onlyCtx_modCtx s v fun y => { y with counted := true, dbAt := resolve s (s.ctx v).home false, dbIn := false }
    have hctx := ctx_modCtx s v v fun y => { y with counted := true, dbAt := resolve s (s.ctx v).home false, dbIn := false }
    rw [if_pos rfl] at hctx
    generalize s.modCtx v (fun y => { y with counted := true, dbAt := resolve s (s.ctx v).home false, dbIn := false }) = w at *
    split
    · next m hm =>
      have hsend := onlySent_sendFrom w (contextCell w v) (.doorbell v m c) none (some (m / 48))
      refine ⟨hmod.trans (hsend.onlyCtx v), (ctx_congr hsend.ctxs_eq v).trans hctx, fun n _ _ hn => ?_⟩
      rw [hm, Option.some.injEq] at hn
      rw [← hn]
      exact sent_sendFrom _ _ _ _ _
    · next hm => exact ⟨hmod, hctx, fun n _ _ hn => by rw [hm] at hn; cases hn⟩

/-! ## A candidate is recorded -/

theorem resolve_congr (h : t.outs = s.outs) (n : Nat) (b : Bool) : resolve t n b = resolve s n b := by
  unfold resolve awayFor dieMarked fallback State.op
  rw [h]

/-- A context with room records the candidate, and counts (R369). -/
theorem recordCand_room (h : (s.ctx v).cands.length < 16) :
    OnlyCtx s (recordCand s v c) v ∧
      (recordCand s v c).ctx v = counting s { s.ctx v with cands := (s.ctx v).cands ++ [{ cand := c }], changed := true } ∧
      (∀ n, (s.ctx v).counted = false → (s.ctx v).announced = false → resolve s (s.ctx v).home false = some n → Sent (recordCand s v c) (.doorbell v n c)) := by
  unfold recordCand
  dsimp only
  rw [if_pos h]
  have hmod := onlyCtx_modCtx s v fun x => { x with cands := x.cands ++ [{ cand := c }], changed := true }
  have hctx := ctx_modCtx s v v fun x => { x with cands := x.cands ++ [{ cand := c }], changed := true }
  rw [if_pos rfl] at hctx
  have hbump := onlySent_bump (s.modCtx v fun x => { x with cands := x.cands ++ [{ cand := c }], changed := true }) (contextCell s v) 0x50
  generalize hw : bump (s.modCtx v fun x => { x with cands := x.cands ++ [{ cand := c }], changed := true }) (contextCell s v) 0x50 = w at *
  have hwctx : w.ctx v = { s.ctx v with cands := (s.ctx v).cands ++ [{ cand := c }], changed := true } := (ctx_congr hbump.ctxs_eq v).trans hctx
  have houts : w.outs = s.outs := by
    rw [hbump.rest]
    rfl
  obtain ⟨honly, hcount, hbell⟩ := countCtx_effect w v c
  refine ⟨(hmod.trans (hbump.onlyCtx v)).trans honly, ?_, fun n h1 h2 hn => hbell n ?_ ?_ ?_⟩
  · rw [hcount, hwctx, counting, counting, resolve_congr houts]
  · rw [hwctx]; exact h1
  · rw [hwctx]; exact h2
  · rw [hwctx, resolve_congr houts]; exact hn

/-- Where 16 candidates are recorded, a further one goes back parked, and SPILL is set (R369). -/
theorem recordCand_spill (h : (s.ctx v).cands.length ≥ 16) :
    OnlyCtx s (recordCand s v c) v ∧ (recordCand s v c).ctx v = { s.ctx v with spill := true, changed := (s.ctx v).changed || !(s.ctx v).spill } ∧
      Sent (recordCand s v c) (.returned c true 576) := by
  unfold recordCand giveBackHub
  dsimp only
  rw [if_neg (by omega)]
  have hmod := onlyCtx_modCtx s v fun x => { x with spill := true, changed := x.changed || !x.spill }
  have hctx := ctx_modCtx s v v fun x => { x with spill := true, changed := x.changed || !x.spill }
  rw [if_pos rfl] at hctx
  generalize s.modCtx v (fun x => { x with spill := true, changed := x.changed || !x.spill }) = w at *
  have hsend := onlySent_sendFrom w (contextCell s v) (.returned c true 576) none (if ownerUnit c.evid = 12 then none else some (ownerUnit c.evid))
  have hback := sent_sendFrom w (contextCell s v) (.returned c true 576) none (if ownerUnit c.evid = 12 then none else some (ownerUnit c.evid))
  have hbump := onlySent_bump (sendFrom w (contextCell s v) (.returned c true 576) none (if ownerUnit c.evid = 12 then none else some (ownerUnit c.evid)))
    (contextCell s v) 0x51
  exact ⟨hmod.trans ((hsend.trans hbump).onlyCtx v), (ctx_congr (hsend.trans hbump).ctxs_eq v).trans hctx, hbump.sent hback⟩

/-! ## The candidate arrives at its context cell -/

/-- What a context cell makes of a candidate of a bound vCPU (R178, R366, R369). -/
def ctxServed (s0 s : State) (v : Nat) (cc : Option Nat) (c : Cand) : State :=
  match (s.ctx v).station with
  | some n => sendFrom s cc (.candStation n .virt c) none (some (n / 48))
  | none => reqWatchAll s0 (recordCand (keepGates s c.evid
      (if (s.ctx v).counted || (s.ctx v).announced || decide ((s.ctx v).cands.length ≥ 16) then [] else (resolve s (s.ctx v).home false).toList.map (· / 48))) v c)

theorem contextCandidateArrival_eq (hn : Next s (.candContext v c)) (hon : onCell s (contextCell s v) = true) (hb : (s.ctx v).bound = true)
    (hp : (s.ctx v).poisoned = false) :
    ∃ u, Started { s with net := s.net.tail } u ∧
      exec (.contextCandidateArrival v c.evid) s = .next (ctxServed s (arbitrate u (contextCell s v) c.grade) v (contextCell s v) c) := by
  obtain ⟨p, u, hmsg, hst, harr⟩ := arrive_next hn
  have hclean : u.ecc = [] := hst.ecc_eq.trans hn.2.1
  have hctx : (arbitrate u (contextCell s v) c.grade).ctx v = s.ctx v := by
    rw [(counted_arbitrate hclean _ _).rest]
    exact hst.ctx_eq v
  refine ⟨u, hst, ?_⟩
  rw [exec, execContextCandidateArrival]
  dsimp only
  rw [if_neg (by simp [hon]), harr _ (by simp)]
  simp only [hmsg, strike_clean hclean, Bool.false_eq_true, if_false, hctx, hb, hp, Bool.not_true, Bool.or_false]
  cases hx : (s.ctx v).station with
  | none => simp only [ctxServed, hctx, hx]
  | some n => simp only [ctxServed, hctx, hx]

/-- A context cell has dealt with a candidate: of the contexts only its own differs (R178, R366). -/
structure CtxServed (s t : State) (v : Nat) : Prop where
  rest : t = { s with net := t.net, ctxs := t.ctxs, cells := t.cells, gates := t.gates }
  cells : SameCells s t
  others : ∀ w, w ≠ v → t.ctx w = s.ctx w
  gates : ∀ g ∈ t.gates, g ∈ s.gates

theorem OnlyCtx.ctxServed (h : OnlyCtx s t v) : CtxServed s t v := by
  refine ⟨?_, h.cells, h.others, fun g hg => ?_⟩
  · rw [h.rest]
  · rw [h.rest] at hg
    exact hg

theorem TokenTaken.ctxServed (h : TokenTaken s t) (v : Nat) : CtxServed s t v := by
  refine ⟨?_, h.cells, fun w _ => ctx_congr (by rw [h.rest]) w, h.gates⟩
  rw [h.rest]

theorem CtxServed.trans (h1 : CtxServed s t v) (h2 : CtxServed t u v) : CtxServed s u v := by
  refine ⟨?_, h1.cells.trans h2.cells, fun w hw => (h2.others w hw).trans (h1.others w hw), fun g hg => h1.gates g (h2.gates g hg)⟩
  rw [h2.rest, h1.rest]

theorem onlyCtx_recordCand (s : State) (v : Nat) (c : Cand) : OnlyCtx s (recordCand s v c) v := by
  rcases Nat.lt_or_ge (s.ctx v).cands.length 16 with h | h
  · exact (recordCand_room h).1
  · exact (recordCand_spill h).1

/-- The watch over the request levels changes no context and sends nothing (R462). -/
theorem ctxServed_reqWatchAll {s0 : State} (h0 : s0.parity = []) (h : s.parity = []) : CtxServed s (reqWatchAll s0 s) v := by
  obtain ⟨hrest, hcells⟩ := reqWatchAll_effect h0 h
  refine ⟨?_, hcells, fun w _ => ctx_congr (by rw [hrest]) w, fun g hg => ?_⟩
  · rw [hrest]
  · rw [hrest] at hg
    exact hg

/-- A resident vCPU's candidate goes to the virtual tournament of its station (R178). -/
theorem ctxServed_resident {s0 : State} {cc : Option Nat} (hs : (s.ctx v).station = some n) :
    CtxServed s (ctxServed s0 s v cc c) v ∧ Sent (ctxServed s0 s v cc c) (.candStation n .virt c) ∧ (ctxServed s0 s v cc c).ctx v = s.ctx v := by
  have hsend := onlySent_sendFrom s cc (.candStation n .virt c) none (some (n / 48))
  rw [ctxServed]
  simp only [hs]
  exact ⟨(hsend.onlyCtx v).ctxServed, sent_sendFrom _ _ _ _ _, ctx_congr hsend.ctxs_eq v⟩

/-- A candidate of a vCPU that is not resident is recorded in its context as `recordCand` records it (R366, R369). -/
theorem ctxServed_recorded {s0 : State} {cc : Option Nat} (hs : (s.ctx v).station = none) (h0 : s0.parity = []) (h : s.parity = []) :
    ∃ w, TokenTaken s w ∧ CtxServed s (ctxServed s0 s v cc c) v ∧ (ctxServed s0 s v cc c).ctx v = (recordCand w v c).ctx v ∧
      ∀ m, Sent (recordCand w v c) m → Sent (ctxServed s0 s v cc c) m := by
  rw [ctxServed]
  simp only [hs]
  generalize (if (s.ctx v).counted || (s.ctx v).announced || decide ((s.ctx v).cands.length ≥ 16) then [] else
    (resolve s (s.ctx v).home false).toList.map (· / 48)) = ks
  have hkept := tokenTaken_keepGates s c.evid ks
  have hrecord := onlyCtx_recordCand (keepGates s c.evid ks) v c
  have hparity : (recordCand (keepGates s c.evid ks) v c).parity = [] := by
    rw [hrecord.rest, hkept.rest]
    exact h
  have hwatch := (reqWatchAll_effect h0 hparity).1
  refine ⟨keepGates s c.evid ks, hkept, ((hkept.ctxServed v).trans hrecord.ctxServed).trans (ctxServed_reqWatchAll h0 hparity), ?_, fun m hm => ?_⟩
  · exact ctx_congr (by rw [hwatch]) v
  · rw [Sent, hwatch]
    exact hm

theorem contextCandidateArrival_effect (hn : Next s (.candContext v c)) (hon : onCell s (contextCell s v) = true) (hc : Clean s)
    (hb : (s.ctx v).bound = true) (hp : (s.ctx v).poisoned = false) :
    ∃ t, exec (.contextCandidateArrival v c.evid) s = .next t ∧
      ((s.ctx v).station = none → (s.ctx v).cands.length < 16 → (t.ctx v).cands = (s.ctx v).cands ++ [{ cand := c }] ∧
        (t.ctx v).counted = ((s.ctx v).counted || !(s.ctx v).announced) ∧ (t.ctx v).changed = true) ∧
      ((s.ctx v).station = none → (s.ctx v).cands.length ≥ 16 → (t.ctx v).cands = (s.ctx v).cands ∧ (t.ctx v).spill = true ∧ Sent t (.returned c true 576)) ∧
      (∀ n, (s.ctx v).station = some n → Sent t (.candStation n .virt c) ∧ t.ctx v = s.ctx v) ∧
      ((s.ctx v).station = none → (s.ctx v).cands.length < 16 → (s.ctx v).counted = false → (s.ctx v).announced = false →
        (t.ctx v).dbIn = false ∧ ∀ n, resolve s (s.ctx v).home false = some n → (t.ctx v).dbAt = some n ∧ Sent t (.doorbell v n c)) ∧
      (∀ w, w ≠ v → t.ctx w = s.ctx w) ∧ CountersOnly s t ∧ LinkStarts s t ∧
      t = { s with net := t.net, ctxs := t.ctxs, cells := t.cells, gates := t.gates, outs := t.outs } := by
  obtain ⟨u, hst, hexec⟩ := contextCandidateArrival_eq hn hon hb hp
  have hclean : u.ecc = [] := hst.ecc_eq.trans hn.2.1
  have htaken := (counted_arbitrate hclean (contextCell s v) c.grade).tokenTaken
  have hparity : (arbitrate u (contextCell s v) c.grade).parity = [] := by
    rw [htaken.rest, hst.rest]
    exact hc.2
  generalize arbitrate u (contextCell s v) c.grade = z at *
  have hzctx : ∀ w, z.ctx w = s.ctx w := fun w => (ctx_congr (by rw [htaken.rest]) w).trans (hst.ctx_eq w)
  have hroutes : SameRoutes s z := (routes_served hst).trans htaken.routes
  have hserved : CtxServed z (ctxServed s z v (contextCell s v) c) v := by
    cases hs : (z.ctx v).station with
    | none =>
      obtain ⟨-, -, h, -⟩ := ctxServed_recorded (c := c) (cc := contextCell s v) hs hc.2 hparity
      exact h
    | some n => exact (ctxServed_resident hs).1
  have hrecorded : (s.ctx v).station = none → ∃ w, (∀ x, w.ctx x = s.ctx x) ∧ (∀ n b, resolve w n b = resolve s n b) ∧
      (ctxServed s z v (contextCell s v) c).ctx v = (recordCand w v c).ctx v ∧
      ∀ m, Sent (recordCand w v c) m → Sent (ctxServed s z v (contextCell s v) c) m := fun hs => by
    obtain ⟨w, hw, -, hctx, hsent⟩ := ctxServed_recorded (s := z) (c := c) (cc := contextCell s v) (by rw [hzctx]; exact hs) hc.2 hparity
    exact ⟨w, fun x => (ctx_congr (by rw [hw.rest]) x).trans (hzctx x), (hroutes.trans hw.routes).resolve, hctx, hsent⟩
  refine ⟨_, hexec, fun hs hroom => ?_, fun hs hfull => ?_, fun n hs => ?_, fun hs hroom hcounted hann => ?_,
    fun w hw => (hserved.others w hw).trans (hzctx w), hst.counters.trans (htaken.cells.trans hserved.cells).counters, ?_, ?_⟩
  · obtain ⟨w, hw, -, hctx, -⟩ := hrecorded hs
    rw [hctx, (recordCand_room (by rw [hw]; exact hroom)).2.1, hw]
    exact counting_fields _ _
  · obtain ⟨w, hw, -, hctx, hsent⟩ := hrecorded hs
    obtain ⟨-, hspill, hback⟩ := recordCand_spill (s := w) (c := c) (by rw [hw]; exact hfull)
    rw [hctx, hspill, hw]
    exact ⟨rfl, rfl, hsent _ hback⟩
  · obtain ⟨-, hsent, hctx⟩ := ctxServed_resident (s := z) (s0 := s) (c := c) (cc := contextCell s v) (by rw [hzctx]; exact hs)
    exact ⟨hsent, hctx.trans (hzctx v)⟩
  · obtain ⟨w, hw, hresolve, hctx, hsent⟩ := hrecorded hs
    obtain ⟨-, hcount, hbell⟩ := recordCand_room (s := w) (c := c) (by rw [hw]; exact hroom)
    simp only [hw, hresolve] at hcount hbell
    have hnew : counting w { s.ctx v with cands := (s.ctx v).cands ++ [{ cand := c }], changed := true } = { s.ctx v with
      cands := (s.ctx v).cands ++ [{ cand := c }], changed := true, counted := true, dbAt := resolve s (s.ctx v).home false, dbIn := false } := by
      simp [counting, hcounted, hann, hresolve]
    rw [hctx, hcount, hnew]
    exact ⟨rfl, fun n hn => ⟨hn, hsent _ (hbell n hcounted hann hn)⟩⟩
  · obtain ⟨hlinks, hgates⟩ := hst.links
    refine ⟨fun k => ?_, fun g hg => hgates g (htaken.gates g (hserved.gates g hg))⟩
    rw [hserved.rest, htaken.rest]
    exact hlinks k
  · rw [hserved.rest, htaken.rest, hst.rest]

/-! ## A doorbell event arrives at its station -/

/-- No candidate has a seat or a release seat at the station. -/
def Station.Unseated (x : Station) : Prop := x.norm.seats = [] ∧ x.sec.seats = [] ∧ x.armed = []

/-- The station's stacks hold nothing. -/
def Station.Unstacked (x : Station) : Prop := x.norm.stack = [] ∧ x.sec.stack = []

/-- What of the station was empty still is. -/
def Station.Emptier (x y : Station) : Prop := (x.Unseated → y.Unseated) ∧ (x.Unstacked → y.Unstacked)

/-- Of the stations only `n` differs, where nothing is seated anew, with what this sends; no context differs (R169, R175, R206). -/
structure OnlyStation (s t : State) (n : Nat) : Prop where
  rest : t = { s with net := t.net, stns := t.stns, spreads := t.spreads, cells := t.cells }
  cells : SameCells s t
  others : ∀ m, m ≠ n → t.stn m = s.stn m
  here : (s.stn n).Emptier (t.stn n)

theorem OnlyStation.refl (s : State) (n : Nat) : OnlyStation s s n := ⟨rfl, .refl s, fun _ _ => rfl, id, id⟩

theorem OnlyStation.trans (h1 : OnlyStation s t n) (h2 : OnlyStation t u n) : OnlyStation s u n := by
  refine ⟨?_, h1.cells.trans h2.cells, fun m hm => (h2.others m hm).trans (h1.others m hm), h2.here.1 ∘ h1.here.1, h2.here.2 ∘ h1.here.2⟩
  rw [h2.rest, h1.rest]

theorem OnlyParks.onlyStation (h : OnlyParks s t n) : OnlyStation s t n := by
  refine ⟨h.rest, h.cells, h.others, ?_⟩
  rw [h.flags]
  exact ⟨id, id⟩

theorem onlyStation_freeSeat (s : State) (n : Nat) (f : Seat → Bool) : OnlyStation s (putSeats s n .normal ((s.grp n .normal).seats.filter f)) n := by
  obtain ⟨hput, hputs⟩ := putSeats_others (q := .normal) nofun s n ((s.grp n .normal).seats.filter f)
  refine ⟨?_, .of_cells ?_, hputs, ?_⟩
  · rw [hput]
  · rw [hput]
  · rw [putSeats, State.modGrp, stn_modStn, if_pos rfl]
    refine ⟨fun ⟨hnorm, hsec, harmed⟩ => ⟨?_, hsec, harmed⟩, id⟩
    simp [State.grp, Station.grp, hnorm]

/-- A station's tournaments settle: the seat that the doorbell entry takes parks the hindmost, loads are reported, park flags are looked at
(R166, R169, R175, R206). -/
theorem onlyStation_settleStation (s0 s : State) (n : Nat) : OnlyStation s (settleStation s0 s n) n := by
  have hreport : ∀ (b : Prop) [Decidable b] (x : State) (g : Grp), OnlyStation x (if b then x else reportLoad x n g) n := fun b _ x g => by
    split
    · exact .refl x n
    · exact (onlyParks_reportLoad x n n g).onlyStation
  have hfell : ∀ (b : Prop) [Decidable b] (x : State) (q : Tour), OnlyStation x (if b then checkPark x n q else x) n := fun b _ x q => by
    split
    · exact (onlyParks_checkPark x n q).onlyStation
    · exact .refl x n
  unfold settleStation
  extract_lets xs s1 s2 s3 fell
  have h1 : OnlyStation s s1 n := by
    unfold s1
    split
    · split
      · next last _ =>
        exact (onlyStation_freeSeat s n fun x => decide (x.cand ≠ last)).trans (onlyParks_parkAt _ n .normal last).onlyStation
      · exact .refl s n
    · exact .refl s n
  exact ((((h1.trans (hreport _ s1 .normal)).trans (hreport _ s2 .secure)).trans (hfell _ s3 .normal)).trans (hfell _ (fell s3 .normal) .secure)).trans
    (hfell _ (fell (fell s3 .normal) .secure) .virt)

/-- The doorbell entry of the station that holds a counting context's doorbell event covers the context, and the station settles (R206). -/
theorem reachDoorbell_effect (he : s.ecc = []) (v n : Nat) (c : Cand) :
    reachDoorbell s v n c = { s with
      net := (reachDoorbell s v n c).net, stns := (reachDoorbell s v n c).stns, ctxs := (reachDoorbell s v n c).ctxs,
      spreads := (reachDoorbell s v n c).spreads, cells := (reachDoorbell s v n c).cells } ∧ SameCells s (reachDoorbell s v n c) ∧
      (∀ m, m ≠ n → (reachDoorbell s v n c).stn m = s.stn m) ∧ (∀ w, w ≠ v → (reachDoorbell s v n c).ctx w = s.ctx w) ∧
      ((reachDoorbell s v n c).ctx v).dbIn = ((s.ctx v).dbIn || ((s.ctx v).counted && decide ((s.ctx v).dbAt = some n))) := by
  have htaken := counted_arbitrate he (rankCell s n) c.grade
  unfold reachDoorbell
  generalize arbitrate s (rankCell s n) c.grade = w at *
  have hctx : ∀ x, w.ctx x = s.ctx x := ctx_congr (by rw [htaken.rest])
  have hstn : ∀ x, w.stn x = s.stn x := stn_congr (by rw [htaken.rest])
  simp only [hctx]
  split
  · next h =>
    simp only [Bool.and_eq_true, decide_eq_true_eq, Bool.not_eq_true'] at h
    obtain ⟨⟨hcounted, hat⟩, hin⟩ := h
    have hmod := ctx_modCtx w v
    have hset := onlyStation_settleStation w (w.modCtx v fun y => { y with dbIn := true }) n
    generalize settleStation w (w.modCtx v fun y => { y with dbIn := true }) n = z at *
    have hzctx : ∀ x, z.ctx x = (w.modCtx v fun y => { y with dbIn := true }).ctx x := ctx_congr (by rw [hset.rest])
    refine ⟨?_, htaken.cells.trans hset.cells, fun m hm => (hset.others m hm).trans (hstn m), fun x hx => ?_, ?_⟩
    · rw [hset.rest, htaken.rest]
      rfl
    · rw [hzctx, hmod, if_neg hx, hctx]
    · rw [hzctx, hmod, if_pos rfl, hcounted, hat]
      simp
  · next h =>
    refine ⟨?_, htaken.cells, fun m _ => hstn m, fun x _ => hctx x, ?_⟩
    · rw [htaken.rest]
    · rw [hctx]
      revert h
      cases (s.ctx v).counted <;> cases (s.ctx v).dbIn <;> simp

theorem candidateArrival_doorbell_effect (hn : Next s (.doorbell v n c)) (hrank : rankOn s n = true) (hstn : stnOn s n = true) :
    ∃ t, exec (.candidateArrival n 0) s = .next t ∧
      (t.ctx v).dbIn = ((s.ctx v).dbIn || ((s.ctx v).counted && decide ((s.ctx v).dbAt = some n))) ∧ (∀ w, w ≠ v → t.ctx w = s.ctx w) ∧
      (∀ m, m ≠ n → t.stn m = s.stn m) ∧ SameQueues s t ∧ CountersOnly s t := by
  obtain ⟨p, u, hmsg, hst, harr⟩ := arrive_next hn
  have hexec : exec (.candidateArrival n 0) s = .next (reqWatch n s (reachDoorbell u v n c)) := by
    rw [exec, execCandidateArrival, if_neg (by simp [hrank, hstn]), harr _ (by simp)]
    simp only [hmsg]
  obtain ⟨hrest, hcells, hstns, hctxs, hin⟩ := reachDoorbell_effect (hst.ecc_eq.trans hn.2.1) v n c
  have hwatch := reqWatch_eq n s (reachDoorbell u v n c)
  have hwcells := reqWatch_same n s (reachDoorbell u v n c)
  generalize reachDoorbell u v n c = z at *
  generalize reqWatch n s z = t at *
  have htctx : ∀ x, t.ctx x = z.ctx x := ctx_congr (by rw [hwatch])
  have htstn : ∀ x, t.stn x = z.stn x := stn_congr (by rw [hwatch])
  have huctx : ∀ x, u.ctx x = s.ctx x := hst.ctx_eq
  refine ⟨t, hexec, ?_, fun w hw => ?_, fun m hm => ?_, ?_, hst.counters.trans (hcells.trans hwcells).counters⟩
  · rw [htctx, hin, huctx]
  · rw [htctx, hctxs w hw, huctx]
  · rw [htstn, hstns m hm]
    exact hst.stn_eq m
  · rw [hwatch, hrest, hst.rest]
    exact ⟨rfl, rfl, rfl, rfl, rfl⟩

/-- Settles O24, by what each cell makes of the message that reaches it: a hub rank cell chooses a member, a context cell records or sends on, and
a station's rank cell lets its doorbell entry cover the context. -/
theorem spreadAndContextCandidatesGoOn : Obligations.SpreadAndContextCandidatesGoOn := by
  unfold Obligations.SpreadAndContextCandidatesGoOn
  exact ⟨fun s n c hn hon _ hnew => spreadCandidateArrival_effect hn hon hnew,
    fun s v c hn hon hc hb hp => contextCandidateArrival_effect hn hon hc hb hp,
    fun s v n c hn hrank hstn _ => candidateArrival_doorbell_effect hn hrank hstn⟩

end Sys2Proof.Machine
end

section
/-! SUPPORT. What seats nobody, and unseats nobody (R165, R199, R240). -/

namespace Sys2Proof.Machine
open Sys2Proof

variable {s t u : State}

/-! ## Who is at a station -/

/-- The seats and the release seats of a station, and whether its stacks are empty. -/
def Station.crew (x : Station) : List Seat × List Seat × List Armed × Bool × Bool :=
  (x.norm.seats, x.sec.seats, x.armed, x.norm.stack.isEmpty, x.sec.stack.isEmpty)

/-- The crews of the stations, and the time of the master. -/
def manning (xs : Tab Station) (m : Mer) : (Nat → List Seat × List Seat × List Armed × Bool × Bool) × Stamp := (fun n => (tget {} xs n).crew, m.now)

@[simp] abbrev State.manned (s : State) := manning s.stns s.mer

theorem manned_stn (h : t.manned = s.manned) (n : Nat) : (t.stn n).crew = (s.stn n).crew := congrFun (congrArg Prod.fst h) n

theorem manned_now (h : t.manned = s.manned) : t.mer.now = s.mer.now := congrArg Prod.snd h

theorem manning_map {f : Nat × Station → Nat × Station} (hkey : ∀ e, (f e).1 = e.1) (hcrew : ∀ e, (f e).2.crew = e.2.crew) (xs : Tab Station) (m : Mer) :
    manning (xs.map f) m = manning xs m :=
  congrArg (·, m.now) (funext fun n => tget_map hkey (P := fun x y => y.crew = x.crew) rfl hcrew xs n)

@[simp] theorem manned_ite (c : Prop) [Decidable c] (a b : State) : (if c then a else b).manned = if c then a.manned else b.manned := by split <;> rfl

@[simp] theorem manned_forAll {α : Type} (s : State) (xs : List α) (f : State → α → State) (hf : ∀ t a, (f t a).manned = t.manned) :
    (forAll s xs f).manned = s.manned := forAll_rel (R := fun s t => t.manned = s.manned) (fun _ => rfl) (fun h1 h2 => h2.trans h1) f hf xs s

theorem manned_modStn {n : Nat} {f : Station → Station} (h : (f (s.stn n)).crew = (s.stn n).crew) : (s.modStn n f).manned = s.manned := by
  refine congrArg (·, s.mer.now) (funext fun m => ?_)
  change ((s.modStn n f).stn m).crew = (s.stn m).crew
  rw [stn_modStn]
  split
  · next hm => rw [hm, h]
  · rfl

theorem manning_modGrp {n : Nat} {g : Grp} {f : Group → Group} (m : Mer) (hseats : (f (s.grp n g)).seats = (s.grp n g).seats)
    (hstack : (f (s.grp n g)).stack.isEmpty = (s.grp n g).stack.isEmpty) : manning (s.modGrp n g f).stns m = manning s.stns m := by
  refine congrArg (·, m.now) (congrArg Prod.fst (manned_modStn (s := s) ?_))
  cases g <;> simp only [Station.crew, State.grp, Station.grp] at * <;> rw [hseats, hstack]

/-! ## Messages, faults, stores and placement entries -/

theorem Noticed.manned (h : Noticed s t) : t.manned = s.manned := by rw [h]

theorem OnlySent.manned (h : OnlySent s t) : t.manned = s.manned := by rw [h.rest]

theorem PlacesFreed.manned (h : PlacesFreed s t) : t.manned = s.manned := by rw [h.rest]

theorem Offered.manned {e : Nat} (h : Offered s t e) : t.manned = s.manned := by rw [h.rest]

@[simp] theorem manned_bump (s : State) (c : Option Nat) (k : Nat) : (bump s c k).manned = s.manned := (noticed_bump s c k).manned

@[simp] theorem manned_sendFrom (s : State) (c : Option Nat) (m : Msg) (up down : Option Nat) : (sendFrom s c m up down).manned = s.manned :=
  (onlySent_sendFrom s c m up down).manned

@[simp] theorem manned_sendReOffer (s : State) (u : Nat) (c : Option Nat) (d : Dest) : (sendReOffer s u c d).manned = s.manned := (onlySent_sendReOffer s u c d).manned

@[simp] theorem manned_touch (s : State) (p : Nat) : (touch s p).manned = s.manned := (noticed_touch s p).manned

@[simp] theorem manned_perfAdd (s : State) (p off n : Nat) : (perfAdd s p off n).manned = s.manned := (accounted_perfAdd s p off n).noticed.manned

@[simp] theorem manned_raise (s : State) (code unit : Nat) (sec : Bool) (a0 a1 a2 : Word) (key : Option Nat) :
    (raise s code unit sec a0 a1 a2 key).manned = s.manned := (faultOnly_raise s code unit sec a0 a1 a2 key).noticed.manned

@[simp] theorem manned_faultReason (s : State) (r : BitVec 4) (word a1 : Word) (sec : Bool) : (faultReason s r word a1 sec).manned = s.manned := by
  unfold faultReason
  split <;> simp

@[simp] theorem manned_strike (s : State) (x : Store) (e : Nat) (c : Option Nat) : (strike s x e c).2.manned = s.manned := (noticed_strike s x e c).manned

@[simp] theorem manned_quotaCheck (s : State) (p : Nat) : (quotaCheck s p).manned = s.manned := by simp [quotaCheck]

@[simp] theorem manned_poolFreeSlot (s : State) (n : Nat) : (poolFreeSlot s n).manned = s.manned := by simp [poolFreeSlot]

@[simp] theorem manned_unlinkHead (s : State) (e : Nat) : (unlinkHead s e).manned = s.manned := by simp [unlinkHead]

@[simp] theorem manned_unlinkAll (s : State) (e n : Nat) : (unlinkAll s e n).manned = s.manned := by
  induction n generalizing s with
  | zero => rfl
  | succ n ih => rw [unlinkAll, ih, manned_unlinkHead]

@[simp] theorem manned_placeOffers (s : State) (c : Nat) : (placeOffers s c).manned = s.manned := (placesFreed_placeOffers s c).manned

@[simp] theorem manned_dropPlaces (s : State) (e : Nat) (f : Place → Bool) : (dropPlaces s e f).manned = s.manned := by
  unfold dropPlaces
  split <;> simp

@[simp] theorem manned_freePlace (s : State) (e : Nat) : (freePlace s e).manned = s.manned := by simp [freePlace]

/-! ## Queues -/

@[simp] theorem manned_handOut (s : State) (e : Nat) (st : QState) : (handOut s e st).manned = s.manned := (offered_handOut s e st).manned

@[simp] theorem manned_withdraw (s : State) (e : Nat) : (withdraw s e).manned = s.manned := by simp [withdraw, dropGates]

theorem orphanStack_isEmpty (e : Nat) (xs : List Entry) : (orphanStack e xs).isEmpty = xs.isEmpty := by cases xs <;> rfl

@[simp] theorem manned_orphan (s : State) (e : Nat) : (orphan s e).manned = s.manned := by
  refine manning_map ?_ ?_ s.stns s.mer
  · exact fun _ => rfl
  · exact fun x => by simp only [Station.crew, orphanStack_isEmpty]

@[simp] theorem manned_poison (s : State) (e : Nat) : (poison s e).manned = s.manned := by simp [poison, dropGates, killRecs]

@[simp] theorem manned_descRead (s : State) (e : Nat) : (descRead s e).manned = s.manned := by simp [descRead]

@[simp] theorem manned_offer (s : State) (e : Nat) : (offer s e).manned = s.manned := by
  unfold offer
  simp only
  repeat' split
  all_goals simp

@[simp] theorem manned_offerAgain (s : State) (e : Nat) : (offerAgain s e).manned = s.manned := by simp [offerAgain]

@[simp] theorem manned_settle (s : State) (e : Nat) : (settle s e).manned = s.manned := (offered_settle s e).manned

@[simp] theorem manned_dueCount (s : State) (e : Nat) : (dueCount s e).manned = s.manned := by simp [dueCount, parcelBooked]

@[simp] theorem manned_takeSlot (s : State) (e : Nat) : (takeSlot s e).manned = s.manned := by simp [takeSlot]

@[simp] theorem manned_claimApply (s : State) (e : Nat) (h : Holder) (ovf lost : Bool) : (claimApply s e h ovf lost).manned = s.manned := by
  unfold claimApply
  simp only
  repeat' split
  all_goals simp [dropMsgs]

@[simp] theorem manned_completeApply (s : State) (e : Nat) (h : Holder) : (completeApply s e h).manned = s.manned := by
  unfold completeApply
  simp only
  repeat' split
  all_goals simp

@[simp] theorem manned_takeBack (s : State) (e : Nat) : (takeBack s e).manned = s.manned := by simp [takeBack, unhand, dropGates]

/-! ## Parity -/

@[simp] theorem manned_speedNote (s0 s : State) : (speedNote s0 s).manned = s.manned := by simp [speedNote]

@[simp] theorem manned_revokeWord (s : State) (c w : Nat) : (revokeWord s c w).manned = s.manned := by simp [revokeWord]

/-- A safe value reaches a secure group's stack, mask or PRE_BITS, and empties no stack (R81). -/
@[simp] theorem manned_takeSafe (s : State) (off : Nat) : (takeSafe s off).2.manned = s.manned := by
  unfold takeSafe
  simp only
  repeat' split
  all_goals simp [manning_modGrp, *]

@[simp] theorem manned_parityCheck (s : State) (off : Nat) : (parityCheck s off).manned = s.manned := by simp [parityCheck]

@[simp] theorem manned_parityAll (s : State) (offs : List Nat) : (parityAll s offs).manned = s.manned := by simp [parityAll]

@[simp] theorem manned_rodParityAll (s : State) (cs : List Nat) : (rodParityAll s cs).manned = s.manned := by simp [rodParityAll]

@[simp] theorem manned_rodParity (s : State) (c : Nat) : (rodParity s c).manned = s.manned := by simp [rodParity]

@[simp] theorem manned_speedJudge (s0 s : State) : (speedJudge s0 s).manned = s.manned := by simp [speedJudge]

/-! ## Gangs, contexts and members -/

@[simp] theorem manned_pageReject (s : State) (p : Page) (r : BitVec 4) : (pageReject s p r).manned = s.manned := by
  unfold pageReject
  split
  · split
    · rfl
    · exact manning_modGrp s.mer rfl rfl
  · simp

@[simp] theorem manned_rejectParcel (s : State) (e : Nat) (r : BitVec 4) (bySource : Bool) : (rejectParcel s e r bySource).manned = s.manned := by simp [rejectParcel]

@[simp] theorem manning_alrmRej (xs : Tab Station) (m : Mer) (r : BitVec 4) : manning xs { m with alrmRej := r } = manning xs m := rfl

@[simp] theorem manned_rejectToken (s : State) (c : Option Nat) (k : Token) (r : BitVec 4) (late : Bool) : (rejectToken s c k r late).manned = s.manned := by
  unfold rejectToken
  repeat' split
  all_goals simp [rejectDb, State.modMer]

@[simp] theorem manned_intakeGang (s : State) (c e : Nat) (pl : Payload) (st : Stamp) (risky : Bool) (src : Source) (lock : Lock) (sec : Bool) :
    (intakeGang s c e pl st risky src lock sec).manned = s.manned := by simp [intakeGang]

@[simp] theorem manned_gatherOffers (s0 s : State) : (gatherOffers s0 s).manned = s.manned := (onlySent_gatherOffers s0 s).manned

@[simp] theorem manned_gatherFree (s : State) (r : Gather) (risky post : Bool) : (gatherFree s r risky post).manned = s.manned := by simp [gatherFree]

@[simp] theorem manned_gatherEnd (s : State) (r : Gather) (risky post : Bool) : (gatherEnd s r risky post).manned = s.manned := by simp [gatherEnd, claimWhole]

@[simp] theorem manned_memberClear (s : State) (r : Gather) (n : Nat) (risky : Bool) (post : Bool := true) : (memberClear s r n risky post).manned = s.manned := by
  simp [memberClear]

@[simp] theorem manned_skipMember (s : State) (r : Gather) (n : Nat) : (skipMember s r n).manned = s.manned := by simp [skipMember]

@[simp] theorem manned_moveMember (s : State) (c : Cand) (n : Nat) : (moveMember s c n).manned = s.manned := by
  unfold moveMember
  repeat' split
  all_goals simp

@[simp] theorem manned_countCtx (s : State) (v : Nat) (c : Cand) : (countCtx s v c).manned = s.manned := by
  unfold countCtx
  simp only
  repeat' split
  all_goals simp

/-- A vCPU that leaves takes its own tournament with it, and leaves the station's two as they are (R369). -/
@[simp] theorem manned_vctxLeave (s : State) (n : Nat) : (vctxLeave s n).manned = s.manned := by
  unfold vctxLeave
  split
  · rfl
  · next v _ =>
    have hmod : (s.modStn n fun x => { x with resident := none, virtPark := false }).manned = s.manned := manned_modStn rfl
    generalize s.modStn n (fun x => { x with resident := none, virtPark := false }) = w at *
    simpa [countHeld, giveBack] using hmod

end Sys2Proof.Machine
end

section
/-! SUPPORT. A lost die's stations hold nothing, and its cells are disabled (R187, R482). -/

namespace Sys2Proof.Machine
open Sys2Proof

variable {s t u : State} {k n : Nat}

/-! ## Stations are emptied -/

/-- No station has taken a seat or an entry that had none, and the time of the master is the same. -/
structure Emptier (s t : State) : Prop where
  now : t.mer.now = s.mer.now
  stns : ∀ n, (s.stn n).Emptier (t.stn n)

theorem Emptier.refl (s : State) : Emptier s s := ⟨rfl, fun _ => ⟨id, id⟩⟩

theorem Emptier.trans (h1 : Emptier s t) (h2 : Emptier t u) : Emptier s u :=
  ⟨h2.now.trans h1.now, fun n => ⟨(h2.stns n).1 ∘ (h1.stns n).1, (h2.stns n).2 ∘ (h1.stns n).2⟩⟩

theorem emptier_forAll {α : Type} {f : State → α → State} (hf : ∀ v a, Emptier v (f v a)) (xs : List α) (s : State) : Emptier s (forAll s xs f) :=
  forAll_rel Emptier.refl Emptier.trans f hf xs s

/-- Stations with the same crews are as empty. -/
theorem emptier_of_crew {x y : Station} (h : y.crew = x.crew) : x.Emptier y := by
  simp only [Station.crew, Prod.mk.injEq] at h
  obtain ⟨hnorm, hsec, harmed, hstack, hsecure⟩ := h
  simp only [Station.Emptier, Station.Unseated, Station.Unstacked, ← List.isEmpty_iff, hnorm, hsec, harmed, hstack, hsecure]
  exact ⟨id, id⟩

theorem emptier_of_manned (h : t.manned = s.manned) : Emptier s t := ⟨manned_now h, fun n => emptier_of_crew (manned_stn h n)⟩

theorem OnlyStation.emptier (h : OnlyStation s t n) : Emptier s t := by
  refine ⟨by rw [h.rest], fun m => ?_⟩
  by_cases hm : m = n
  · rw [hm]
    exact h.here
  · rw [h.others m hm]
    exact ⟨id, id⟩

theorem emptier_map {f : Nat × Station → Nat × Station} (hkey : ∀ e, (f e).1 = e.1) (hf : ∀ e : Nat × Station, e.2.Emptier (f e).2) (hrest : t.stns = s.stns.map f)
    (hnow : t.mer.now = s.mer.now) : Emptier s t := by
  refine ⟨hnow, fun n => ?_⟩
  rw [State.stn, State.stn, hrest]
  exact tget_map hkey (P := Station.Emptier) ⟨id, id⟩ hf s.stns n

theorem emptier_modStn {f : Station → Station} (h : (s.stn n).Emptier (f (s.stn n))) : Emptier s (s.modStn n f) := by
  refine ⟨rfl, fun m => ?_⟩
  rw [stn_modStn]
  split
  · next hm =>
    rw [hm]
    exact h
  · exact ⟨id, id⟩

theorem emptier_settleStations (s0 s : State) (ns : List Nat) : Emptier s (settleStations s0 s ns) :=
  emptier_forAll (fun v n => (onlyStation_settleStation s0 v n).emptier) ns s

theorem emptier_moveDoorbells (s : State) : Emptier s (moveDoorbells s) := by
  refine emptier_forAll (fun v w => ?_) _ s
  exact (emptier_of_manned (by simp)).trans (emptier_settleStations v _ _)

/-- Seats are taken from every station (R187). -/
theorem emptier_unseat (f : Seat → Bool) (g : Armed → Bool) (hrest : t.stns = s.stns.map fun x => (x.1, { x.2 with
    norm := { x.2.norm with seats := x.2.norm.seats.filter f }, sec := { x.2.sec with seats := x.2.sec.seats.filter f }, armed := x.2.armed.filter g }))
    (hnow : t.mer.now = s.mer.now) : Emptier s t := by
  refine emptier_map ?_ ?_ hrest hnow
  · exact fun _ => rfl
  · rintro ⟨n, x⟩
    exact ⟨fun ⟨hnorm, hsec, harmed⟩ => ⟨congrArg (List.filter f) hnorm, congrArg (List.filter f) hsec, congrArg (List.filter g) harmed⟩, id⟩

theorem emptier_dropMembers (s : State) (id : Nat) : Emptier s (dropMembers s id) :=
  emptier_unseat (fun x => decide (x.cand.gather ≠ some id)) (fun x => decide (x.cand.gather ≠ some id)) rfl rfl

theorem emptier_resetWired (s : State) (e : Nat) : Emptier s (resetWired s e) := by
  unfold resetWired
  extract_lets q s1 s2 ids keep s3 s4 s5
  have h2 : Emptier s s2 := emptier_of_manned (by simp [s2, s1, dropGates])
  have h3 : Emptier s2 s3 := emptier_unseat (fun y => decide (y.cand.evid ≠ e)) (fun y => decide (y.cand.evid ≠ e)) rfl rfl
  have h4 : Emptier s3 s4 := emptier_of_manned rfl
  have h5 : Emptier s4 s5 := ((emptier_forAll emptier_dropMembers ids s4).trans (emptier_settleStations s _ _)).trans
    (emptier_of_manned (manned_gatherOffers s _))
  exact (((h2.trans h3).trans h4).trans h5).trans (emptier_of_manned (by simp))

/-! ## A station gives up what it holds -/

theorem clearStation_effect (s : State) (n : Nat) : Emptier s (clearStation s n) ∧ ((clearStation s n).stn n).Unseated := by
  unfold clearStation
  extract_lets x cs s1 s2
  have hstn : s1.stn n = { s.stn n with norm := { (s.stn n).norm with seats := [] }, sec := { (s.stn n).sec with seats := [] }, armed := [] } :=
    (stn_modStn s n n _).trans (if_pos rfl)
  have h1 : Emptier s s1 := emptier_modStn ⟨fun _ => ⟨rfl, rfl, rfl⟩, id⟩
  have h2 : Emptier s1 s2 := emptier_of_manned (by simp [s2])
  have hend : Emptier s2 (if dieAway s (n / 48) then s2 else settleStation s s2 n) := by
    split
    · exact .refl s2
    · exact (onlyStation_settleStation s s2 n).emptier
  exact ⟨(h1.trans h2).trans hend, ((h2.trans hend).stns n).1 (by rw [hstn]; exact ⟨rfl, rfl, rfl⟩)⟩

theorem manned_forceEntry (n : Nat) (g : Grp) (k : Nat) (s : State) (x : Entry) : (forceEntry n g k s x).manned = s.manned := by
  unfold forceEntry
  repeat' split
  all_goals simp

theorem forceStation_effect (k : Nat) (s : State) (n : Nat) : Emptier s (forceStation k s n) ∧ ((forceStation k s n).stn n).Unstacked := by
  unfold forceStation
  extract_lets x s1
  have hstn : s1.stn n = { s.stn n with norm := { (s.stn n).norm with stack := [] }, sec := { (s.stn n).sec with stack := [] }, heldW := [] } :=
    (stn_modStn s n n _).trans (if_pos rfl)
  have h1 : Emptier s s1 := emptier_modStn ⟨id, fun _ => ⟨rfl, rfl⟩⟩
  have hend : Emptier s1 (forAll (forAll s1 x.norm.stack (forceEntry n .normal k)) x.sec.stack (forceEntry n .secure k)) :=
    (emptier_of_manned (manned_forAll _ _ _ (manned_forceEntry n .normal k))).trans (emptier_of_manned (manned_forAll _ _ _ (manned_forceEntry n .secure k)))
  exact ⟨h1.trans hend, (hend.stns n).2 (by rw [hstn]; exact ⟨rfl, rfl⟩)⟩

/-! ## The stations of a die -/

theorem mem_dieStations (h : n / 48 = k) : n ∈ dieStations k :=
  List.mem_map.mpr ⟨n % 48, List.mem_range.mpr (Nat.mod_lt n (by decide)), by rw [← h]; exact Nat.div_add_mod n 48⟩

/-- What the settling of a station brings about there, and the settling of the others keeps, stands at each station of the die. -/
theorem forAll_dieStations {P : Station → Prop} {f : State → Nat → State} (hf : ∀ v m, Emptier v (f v m)) (hP : ∀ x y : Station, x.Emptier y → P x → P y)
    (hmark : ∀ v m, P ((f v m).stn m)) (s : State) (hn : n / 48 = k) : P ((forAll s (dieStations k) f).stn n) :=
  forAll_marks (P := fun _ => True) (Q := fun v => P (v.stn n)) (fun _ _ _ _ => trivial) (fun v _ hv m _ => hP _ _ ((hf v m).stns n) hv) (fun v _ => hmark v n)
    trivial (mem_dieStations hn)

theorem giveUpDie_unseated (s : State) (hn : n / 48 = k) : ((giveUpDie s k).stn n).Unseated := by
  have hclear := forAll_dieStations (P := Station.Unseated) (fun v m => (clearStation_effect v m).1) (fun x y h => h.1) (fun v m => (clearStation_effect v m).2)
    (forAll s (dieStations k) vctxLeave) hn
  unfold giveUpDie
  generalize forAll (forAll s (dieStations k) vctxLeave) (dieStations k) clearStation = w at *
  have hflight : (moveParked (clearFlight w k) k).manned = w.manned := by simp [moveParked, clearFlight, dropMsgs]
  exact (((emptier_of_manned hflight).trans (emptier_moveDoorbells _)).stns n).1 hclear

@[simp] theorem manned_settleUp (s : State) (k : Nat) : (settleUp s k).manned = s.manned := by
  unfold settleUp
  refine (manned_forAll _ _ _ fun v p => ?_).trans rfl
  split
  · simp
  · simp
  · simp [send]
  · refine manned_forAll _ _ _ fun w n => ?_
    split <;> simp
  · simp
  · rfl

/-- The stations of a die that is lost hold nothing (R187, R482). -/
theorem declareLost_empties (hp : populated s k = true) (hl : (s.op k).lost = false) (hn : n / 48 = k) :
    ((declareLost s k).stn n).Unseated ∧ ((declareLost s k).stn n).Unstacked := by
  unfold declareLost
  rw [if_neg (by simp [hp, hl])]
  extract_lets s0 o s1 wired lost s2 forced s3
  have h2 : (s2.stn n).Unseated := ((emptier_of_manned (manned_settleUp (giveUpDie s1 k) k)).stns n).1 (giveUpDie_unseated s1 hn)
  have hforced : Emptier s2 (forAll s2 (dieStations k) (forceStation k)) := emptier_forAll (fun v m => (forceStation_effect k v m).1) _ s2
  have hstacks := forAll_dieStations (P := Station.Unstacked) (fun v m => (forceStation_effect k v m).1) (fun x y h => h.2)
    (fun v m => (forceStation_effect k v m).2) s2 hn
  have h3 : Emptier (forAll s2 (dieStations k) (forceStation k)) s3 :=
    (emptier_forAll emptier_resetWired wired _).trans (emptier_of_manned (manned_speedJudge s _))
  have hend : Emptier (forAll s2 (dieStations k) (forceStation k)) (raise s3 0x0D k false (w32 k) 5 (at_ 0 (min forced 0xFFFF) ||| at_ 16 (min lost 0xFFFF)) none) :=
    h3.trans (emptier_of_manned (manned_raise _ _ _ _ _ _ _ _))
  exact ⟨((hforced.trans hend).stns n).1 h2, (hend.stns n).2 hstacks⟩

/-- The cells of a die that is lost are disabled (R187, R482). -/
theorem declareLost_disables (hp : populated s k = true) (hl : (s.op k).lost = false) {c : Nat} (hc : unitOf c = k) : ((declareLost s k).cell c).en = false := by
  have hside := standing_side (standing_declareLost_lost (wp := true) (wd := false) (wm := false) hp hl) c
  rw [(side_enable hside).1]
  have hlost : ∀ xs : Tab Cell, (tget {} (lostCells k xs) c).en = false := fun xs => by
    induction xs with
    | nil => rfl
    | cons e xs ih =>
      simp only [lostCells, List.map_cons, tget] at ih ⊢
      split
      · next he => simp [he, hc]
      · exact ih
  exact hlost s.cells

end Sys2Proof.Machine
end

section
/-! SUPPORT. Retraining of a link, and the return of a lost outpost (R187, R222, R481 to R484). -/

namespace Sys2Proof.Machine
open Sys2Proof

variable {s t : State} {k : Nat}

/-! ## A link is retrained -/

/-- An outpost whose link is up again, with the wire that has been replaced (R222, R483). -/
def retrained (w : Option Bool) (x : Outpost) : Outpost :=
  { x with
    link := .up, fails := 0, align := if x.holdover then .unaligned else .training, good := 0, bad := 0, missed := 0, corr := 0
    spareUp := x.spareUp || decide (w = some true), spareDown := x.spareDown || decide (w = some false) }

theorem exec_retrainDone {w : Option Bool} (hlink : (s.op k).link = .error ∨ (s.op k).link = .training) (hup : w = some true → (s.op k).spareUp = false)
    (hdown : w = some false → (s.op k).spareDown = false) :
    exec (.retrainDone k w) s = .next (send (s.modOp k (retrained w)) (.init k s.mer.now) none (some k)) := by
  have hrow : exec (.retrainDone k w) s = execRetrainDone k w s := rfl
  rw [hrow]
  unfold execRetrainDone
  dsimp only
  rw [if_neg (by rcases hlink with h | h <;> simp [h])]
  match w with
  | none => rfl
  | some true =>
    rw [if_neg (by simp [hup rfl])]
    rfl
  | some false =>
    rw [if_neg (by simp [hdown rfl])]
    rfl

theorem retrainDone_effect {w : Option Bool} (hlink : (s.op k).link = .error ∨ (s.op k).link = .training) (hup : w = some true → (s.op k).spareUp = false)
    (hdown : w = some false → (s.op k).spareDown = false) :
    ∃ t, exec (.retrainDone k w) s = .next t ∧ (t.op k).link = .up ∧
      (t.op k).align = (if (s.op k).holdover then .unaligned else .training) ∧ (t.op k).fails = 0 ∧
      (t.op k).spareUp = ((s.op k).spareUp || decide (w = some true)) ∧ (t.op k).spareDown = ((s.op k).spareDown || decide (w = some false)) ∧
      t.net.map (·.msg) = s.net.map (·.msg) ++ [.init k s.mer.now] ∧ (∀ j, j ≠ k → t.op j = s.op j) ∧ t = { s with net := t.net, outs := t.outs } := by
  have hk : (send (s.modOp k (retrained w)) (.init k s.mer.now) none (some k)).op k = retrained w (s.op k) := op_modOp_same s k (retrained w)
  refine ⟨_, exec_retrainDone hlink hup hdown, congrArg Outpost.link hk, congrArg Outpost.align hk, congrArg Outpost.fails hk, congrArg Outpost.spareUp hk,
    congrArg Outpost.spareDown hk, ?_, fun j hj => op_modOp_other s (retrained w) hj, rfl⟩
  simp [send, State.modOp]

/-! ## An attempt to retrain fails -/

/-- The state in which a failed attempt has been told (R481). -/
def attemptTold (s : State) (k : Nat) : State := raise s 0x0D k false (w32 k) 4 (w32 (s.op k).retrains.toNat) none

theorem op_attemptTold (s : State) (k j : Nat) : (attemptTold s k).op j = s.op j := op_of_outs (outs_raise _ _ _ _ _ _ _ _) j

theorem attemptTold_standing (s : State) (k : Nat) : (attemptTold s k).standing true true true true true = s.standing true true true true true :=
  standing_raise_other _ _ _ _ _ _ _ _ (by decide)

/-- The first failed attempts in a row are followed by another (R481, R482). -/
theorem retrainAttemptTimeout_again (hlink : (s.op k).link = .error) (hfew : (s.op k).fails < 2) :
    ∃ t, exec (.retrainAttemptTimeout k) s = .next t ∧ (t.op k).link = .error ∧ (t.op k).fails = (s.op k).fails + 1 ∧
      (t.op k).retrains = incByte (s.op k).retrains ∧ SameQueues s t ∧ (∀ j, j ≠ k → t.op j = s.op j) := by
  have hexec : exec (.retrainAttemptTimeout k) s =
      .next (startRetrain ((attemptTold s k).modOp k fun o => { o with fails := (s.op k).fails + 1 }) k) := by
    rw [exec, execRetrainAttemptTimeout, if_pos hlink, retrainFail]
    rw [if_neg (by omega)]
    rfl
  have hop : ∀ j, ((attemptTold s k).modOp k fun o => { o with fails := (s.op k).fails + 1 }).op j = _ := fun j => op_modOp _ k j _
  have hqueues : SameQueues s (attemptTold s k) := standing_stores (attemptTold_standing s k)
  simp only [op_attemptTold] at hop
  refine ⟨_, hexec, ?_, ?_, ?_, hqueues, fun j hj => ?_⟩
  · rw [op_startRetrain, if_pos rfl, hop, if_pos rfl]
    exact hlink
  · rw [op_startRetrain, if_pos rfl, hop, if_pos rfl]
  · rw [op_startRetrain, if_pos rfl, hop, if_pos rfl]
  · rw [op_startRetrain, if_neg hj, hop, if_neg hj]

/-- The third failed attempt in a row loses the outpost (R187, R482). -/
theorem retrainAttemptTimeout_loses (hlink : (s.op k).link = .error) (hp : populated s k = true) (hl : (s.op k).lost = false) (hfails : 2 ≤ (s.op k).fails) :
    ∃ t, exec (.retrainAttemptTimeout k) s = .next t ∧ (t.op k).lost = true ∧ (t.op k).link = .lost ∧
      (∀ c, unitOf c = k → (t.cell c).en = false) ∧
      ∀ n, n / 48 = k → (t.stn n).norm.seats = [] ∧ (t.stn n).sec.seats = [] ∧ (t.stn n).norm.stack = [] ∧ (t.stn n).sec.stack = [] ∧ (t.stn n).armed = [] := by
  have hexec : exec (.retrainAttemptTimeout k) s = .next (declareLost (attemptTold s k) k) := by
    rw [exec, execRetrainAttemptTimeout, if_pos hlink, retrainFail]
    rw [if_pos (by omega)]
    rfl
  have hp' : populated (attemptTold s k) k = true := (standing_populated (attemptTold_standing s k) k).trans hp
  have hl' : ((attemptTold s k).op k).lost = false := by rw [op_attemptTold, hl]
  obtain ⟨hlost, hmarked⟩ := declareLost_marks hp' hl'
  refine ⟨_, hexec, hlost, hmarked, fun c hc => declareLost_disables hp' hl' hc, fun n hn => ?_⟩
  obtain ⟨⟨hnorm, hsec, harmed⟩, hstack, hsecure⟩ := declareLost_empties hp' hl' hn
  exact ⟨hnorm, hsec, hstack, hsecure, harmed⟩

/-! ## What a return to service leaves of the outpost -/

theorem outs_sweep (s : State) : (sweep s).outs = s.outs := by
  unfold sweep
  extract_lets s0 s1 v s2 judged w s3
  have h2 : s2.outs = s.outs := (compared_forAll s0 (streamCells s0)).outs.trans (outs_parityAll s s.parity)
  unfold s3
  split
  · refine (outs_raise _ _ _ _ _ _ _ _).trans ((outs_forAll w _ _ ?_).trans h2)
    exact fun _ _ => rfl
  · exact h2

theorem outs_reEnable (s : State) (cs : List Nat) : (reEnable s cs).outs = s.outs := by
  refine outs_forAll _ _ _ fun v c => ?_
  have henable : (enableCell v c).outs = v.outs := standing_dies (standing_enableCell_plain (wm := false) v c)
  split
  · dsimp only
    split
    · exact henable
    · rfl
  · rfl

theorem outs_returnTested (s : State) (k : Nat) (x : Bist) : (returnTested s k x).outs = s.outs :=
  (standing_dies (standing_selfTest (ws := false) (wa := false) _ _ _)).trans
    ((show (resetStations (freshStores s k) k).outs = (freshStores s k).outs from rfl).trans (standing_dies (standing_freshStores (wp := false) (wm := false) s k)))

theorem outs_restoreSlots (s : State) (k : Nat) : (restoreSlots s k).outs = s.outs := standing_dies (standing_restoreSlots (wm := false) s k)

/-! ## The time of the master meanwhile -/

theorem manned_writeRod (s : State) (c : Nat) : (writeRod s c).manned = s.manned := by simp [writeRod, journalPut, parityClear]

theorem manned_substitute (s : State) (c : Nat) : (substitute s c).manned = s.manned := by
  unfold substitute substWith
  dsimp only
  split
  · rw [manned_writeRod, manned_writeRod]
    simp [log, logTake, swapPhys]
  · simp [log, logTake]

theorem manned_selfTest (s : State) (u : Nat) (fails : List Nat) : (selfTest s u fails).manned = s.manned := by
  unfold selfTest
  refine (manned_forAll _ _ _ manned_substitute).trans ((manned_forAll _ _ _ fun v c => ?_).trans (manned_forAll _ _ _ fun v c => ?_))
  · simp
  · simp

theorem manned_writeTune (s : State) (c : Nat) : (writeTune s c).manned = s.manned := by
  unfold writeTune
  refine (manned_forAll _ _ _ fun v i => ?_).trans ?_
  · simp [journalPut]
  · simp

theorem manned_restoreSlots (s : State) (k : Nat) : (restoreSlots s k).manned = s.manned := by
  refine manned_forAll _ _ _ fun v c => ?_
  rw [manned_writeTune, manned_writeRod]
  simp [takeShadow]

theorem now_freshStores (s : State) (k : Nat) : (freshStores s k).mer.now = s.mer.now := by
  unfold freshStores
  extract_lets s1 es
  have h1 : Emptier s s1 := emptier_forAll emptier_resetWired _ s
  refine Eq.trans (manned_now ?_) h1.now
  refine (manned_forAll _ _ _ fun v e => ?_).trans ?_
  · simp
  · simp

theorem now_returnTested (s : State) (k : Nat) (x : Bist) : (restoreSlots (returnTested s k x) k).mer.now = s.mer.now :=
  (manned_now (manned_restoreSlots _ k)).trans ((manned_now (manned_selfTest _ k _)).trans (now_freshStores s k))

/-! ## An attempt to return -/

theorem op_returnFail (s : State) (k : Nat) : (returnFail s k).op k = { s.op k with returns := (s.op k).returns + 1, link := .lost } := by
  rw [returnFail, op_of_outs (outs_raise _ _ _ _ _ _ _ _), op_modOp_same]

/-- A lost outpost that is wanted and powered may return (R484). -/
abbrev MayReturn (s : State) (k : Nat) : Prop :=
  (s.op k).lost = true ∧ wantL s k = true ∧ (s.op k).logic = .on ∧ (s.op k).mem = .on ∧ (s.op k).trav = .on ∧ (s.op k).returns < 8

/-- What an attempt to return comes to: it fails at the self-test, at the training or at the sweep, or the outpost is back in service (R187, R484). -/
theorem exec_returnToService (h : MayReturn s k) (x : Bist) (trained : Bool) : exec (.returnToService k x trained) s =
    if unitUnserved (returnTested s k x) k then .next (returnFail (returnTested s k x) k)
    else if !trained ∨ (s.op k).holdover then .next (returnFail (restoreSlots (returnTested s k x) k) k)
    else
      let kept := ((returnSwept s k x).cells.filter fun e => decide (unitOf e.1 = k) && e.2.enKept).map (·.1)
      if kept.any fun c => decide (((returnSwept s k x).cell c).datum ≠ 1) then .next (returnFail (returnSwept s k x) k)
      else .next (routesReturn ((reEnable (returnSwept s k x) kept).modOp k fun x => { x with lost := false, returns := 0, fails := 0 })) := by
  obtain ⟨hl, hw, hlogic, hmem, htrav, hreturns⟩ := h
  rw [exec, execReturnToService]
  dsimp only
  rw [if_neg (by simp [hl, hw, hlogic, hmem, htrav]; omega)]
  rfl

/-- An attempt that fails is counted, and leaves the outpost lost (R484). -/
theorem returnFail_counts (hl : (s.op k).lost = true) (h : t.outs = s.outs) :
    ((returnFail t k).op k).lost = true ∧ ((returnFail t k).op k).link = .lost ∧ ((returnFail t k).op k).returns = (s.op k).returns + 1 := by
  rw [op_returnFail, op_of_outs h]
  exact ⟨hl, rfl, rfl⟩

theorem returnToService_fails (h : MayReturn s k) (x : Bist) {trained : Bool} (hfail : trained = false ∨ (s.op k).holdover = true) :
    ∃ t, exec (.returnToService k x trained) s = .next t ∧ (t.op k).lost = true ∧ (t.op k).link = .lost ∧ (t.op k).returns = (s.op k).returns + 1 := by
  have htested := outs_returnTested s k x
  have hexec := exec_returnToService h x trained
  cases hu : unitUnserved (returnTested s k x) k with
  | true =>
    rw [if_pos hu] at hexec
    exact ⟨_, hexec, returnFail_counts h.1 htested⟩
  | false =>
    rw [if_neg (by simp [hu]), if_pos (by simpa using hfail)] at hexec
    exact ⟨_, hexec, returnFail_counts h.1 ((outs_restoreSlots _ k).trans htested)⟩

theorem returnToService_returns (h : MayReturn s k) (x : Bist) (hhold : (s.op k).holdover = false) (hserved : unitUnserved (returnTested s k x) k = false)
    (hmatch : ∀ y ∈ (returnSwept s k x).cells, unitOf y.1 = k → y.2.enKept = true → ((returnSwept s k x).cell y.1).datum = 1) :
    ∃ t, exec (.returnToService k x true) s = .next t ∧ (t.op k).lost = false ∧ (t.op k).link = .up ∧ (t.op k).align = .aligned ∧
      (t.op k).copy = s.mer.now ∧ (t.op k).returns = 0 := by
  have hexec := exec_returnToService h x true
  rw [if_neg (by simp [hserved]), if_neg (by simp [hhold])] at hexec
  dsimp only at hexec
  rw [if_neg] at hexec
  · have hswept : (returnSwept s k x).op k = { (restoreSlots (returnTested s k x) k).op k with
        link := .up, copy := s.mer.now, align := .aligned, good := 16, bad := 0, missed := 0, phase := 0, hold := 0, gain := 0, corr := 0 } := by
      rw [returnSwept, ← now_returnTested s k x]
      dsimp only
      rw [op_of_outs (outs_sweep _), op_modOp_same]
    have hop : ∀ cs : List Nat, (routesReturn ((reEnable (returnSwept s k x) cs).modOp k fun x => { x with lost := false, returns := 0, fails := 0 })).op k =
        { (returnSwept s k x).op k with lost := false, returns := 0, fails := 0 } := fun cs => by
      rw [op_of_outs (standing_dies (standing_routesReturn (wp := false) (wm := false) _)), op_modOp_same, op_of_outs (outs_reEnable _ _)]
    refine ⟨_, hexec, ?_⟩
    rw [hop, hswept]
    exact ⟨rfl, rfl, rfl, rfl, rfl⟩
  · simp only [List.any_eq_true, List.mem_map, List.mem_filter, Bool.and_eq_true, decide_eq_true_eq]
    rintro ⟨c, ⟨y, ⟨hy, hunit, hkept⟩, rfl⟩, hbad⟩
    exact hbad (hmatch y hy hunit hkept)

/-- Settles O30: what a retrained link, a failed attempt, the third in a row and an attempt to return each come to. -/
theorem retrainingEndsInServiceOrLoss : Obligations.RetrainingEndsInServiceOrLoss := by
  unfold Obligations.RetrainingEndsInServiceOrLoss
  refine ⟨fun s k w hlink hup hdown => retrainDone_effect hlink hup hdown, fun s k hlink hfew => retrainAttemptTimeout_again hlink hfew,
    fun s k hlink hp hl hfails => retrainAttemptTimeout_loses hlink hp hl hfails, fun s k x trained hl hw hlogic hmem htrav hreturns => ?_⟩
  have h : MayReturn s k := ⟨hl, hw, hlogic, hmem, htrav, hreturns⟩
  refine ⟨returnToService_fails h x, ?_⟩
  rintro rfl hhold hserved hmatch
  exact returnToService_returns h x hhold hserved hmatch

end Sys2Proof.Machine
end
